-- ==== Sys2Proof/Word.lean ====
section
/-!
DEFINITION. Sys2Proof/Word.lean: bytes, 64-bit words, byte strings and tables. Nothing here computes more than a
type: byte order and tables are in Machine/Bits.lean.
-/

namespace Sys2Proof

/-- A byte (R8). -/
abbrev Byte := BitVec 8

/-- A byte string in increasing address order, byte 0 first (R9). -/
abbrev Bytes := List Byte

/-- The 64-bit value of a register or of a KTW word (R8, R275). -/
abbrev Word := BitVec 64

/-- A sparse table: keys strictly rising, no entry equal to the value an absent key reads as. -/
abbrev Tab (α : Type) := List (Nat × α)

end Sys2Proof
end

