-- ==== Sys2Proof/Kinds.lean ====
section
/-!
DEFINITION. Sys2Proof/Kinds.lean: the fixed sets of names that commands carry as operands.
-/

namespace Sys2Proof

/-- The structures a command reads by DMA (R45 check 8, R52). -/
inductive DmaPart where
  | param | inList | outList | approvals | input
  deriving DecidableEq, Repr

/-- How a DMA read fails (R52, Table 2-5 ERROR_CAUSE 1 to 4). -/
inductive DmaError where
  | timeout | unsupported | abort | poisoned
  deriving DecidableEq, Repr

/-- What a DMA read was for: an entry of a queue (domain, queue), or a structure of a placed command
(domain, placement number, structure) (R52). -/
inductive ReadOf where
  | entry (dom queue : Nat)
  | part (dom id : Nat) (part : DmaPart)
  deriving DecidableEq, Repr

/-- How the read-backs of an EMBER update come out (R124): both verify, that of the value in the shadow slot fails, that of the attribute
record in MRAM fails. -/
inductive EmberCheck where
  | verified | shadowFails | recordFails
  deriving DecidableEq, Repr

/-- A request that a completion timer runs for (R454). -/
inductive Request where
  | read (what : ReadOf) (index : Nat)
  | atomic (dom word : Nat)
  | doe
  deriving DecidableEq, Repr

/-- How a CompareAndSwap ends: with the original value, or with an error (R461, R462). -/
inductive CasResult where
  | original (value : Nat)
  | failed (cause : DmaError)
  deriving DecidableEq, Repr

/-- The host's two register spaces and the MSI-X BAR (R30, R32, R451). -/
inductive Page where
  | pitch (n : Nat)
  | operator
  | msix
  deriving DecidableEq, Repr

/-- The triggers of a warm reset (R440 Table 19-1). -/
inductive WarmTrigger where
  | perst | hotReset | linkDown | refclk
  deriving DecidableEq, Repr

/-- What a configuration request does: it sets a control (R453, R492), or reads the 32-bit word at an offset of the configuration space (R445). -/
inductive ConfigField where
  | memorySpace | busMaster | pasidEnable | atomicRequester | msixEnable | functionMask | d3hot | deviceControl2
  | read (offset : Nat)
  deriving DecidableEq, Repr

/-- The burn of a life-cycle field by LC_TRANSITION (R398, R402): the OTP copies that take the attempt bit, the copies whose new field verifies, one
after the other (3: all do), the ones that the next copy's field then holds, and whether that burn ends because main power is lost. -/
structure OtpBurn where
  copies : Nat
  bits : Nat := 0
  cut : Bool := false
  attempt : Nat := 3
  deriving DecidableEq, Repr

/-- Instructions of the TAP (R407, IEEE 1149.1); the last is the vendor debug access. -/
inductive TapInstr where
  | bypass | idcode | sample | preload | extest | debug
  deriving DecidableEq, Repr

/-- What the debug master addresses (R313, R407). -/
inductive DebugTarget where
  | core (block addr : Nat)
  | buffer (region addr : Nat)
  | keyCell (cell : Nat)
  | keyCache (region index : Nat)
  | liuMemory (liu addr : Nat)
  | drbg (dom : Nat)
  | warden (warden addr : Nat)
  | ember (row : Nat)
  | register (page : Page) (offset : Nat)
  | coreReg (block index : Nat)
  | csr (block index : Nat)
  | trace (block : Nat)
  | otp (copy : Nat)
  | mram (addr : Nat)
  deriving DecidableEq, Repr

/-- A command that reaches its commit point, and how the read-backs of its EMBER update come out. -/
structure Committing where
  id : Nat
  check : EmberCheck
  deriving DecidableEq, Repr

/-- The run of a GCM command; `agree` is false where a fault has made one of its two computations of the tag go wrong (R193). -/
structure GcmRun where
  id : Nat
  agree : Bool := true
  deriving DecidableEq, Repr

/-- How the self tests of the units come out: the known-answer tests of each region as SELF_TEST reports them, and the cells, LIUs, hash engines and
blocks that fail theirs (R188, R215, R244, R364, R366); and the OTP copy, if any, whose burns by the boot ROM do not verify (R402). -/
structure UnitTests where
  kats : List Nat := []
  cells : List Nat := []
  lius : List Nat := []
  hashes : List Nat := []
  blocks : List Nat := []
  otp : Option Nat := none
  deriving DecidableEq, Repr

/-- How the self tests of a boot come out: those of the units, the log memories and the Efori images (R395, R421). -/
structure BootTests extends UnitTests where
  sram : Bool := true
  mram : Bool := true
  fw0 : Bool := true
  fw1 : Bool := true
  deriving DecidableEq, Repr

/-- The operands of a reset that boots: the log memories' tests, the Efori images' checks and the units' self tests. -/
def BootTests.of (sram mram : Bool) (fw : Bool × Bool) (units : UnitTests) : BootTests :=
  { toUnitTests := units, sram := sram, mram := mram, fw0 := fw.1, fw1 := fw.2 }

/-- What block error handling hears of a core (R279, R364): it has retired nothing for 20 µs outside an engine wait or overrun a handler, or
a word of its local memory or of the buffer has an error of one bit or of two at a byte address. -/
inductive BlockEvent where
  | overrun
  | memoryError (addr : Nat) (double : Bool)
  deriving DecidableEq, Repr

/-- A report to block error handling, and the core that it is of. -/
structure BlockReport where
  core : Nat
  event : BlockEvent := .overrun
  deriving DecidableEq, Repr

end Sys2Proof
end

