-- ==== Sys2Proof/Syntax.lean ====
section
/-!
DEFINITION. Sys2Proof/Syntax.lean: the commands of the module, one constructor for each row of the table.

Commands of an opcode carry the domain (0 to 255 a pitch, 256 the operator domain) and the placement number of the
command they run. Instructions of the block cores carry the global number of the core and the fields of Table 11-4.
-/

namespace Sys2Proof

/-- The commands of the module, in the order of the table. -/
inductive Instr where
  /-- SQ_TAIL (R39): A host write of a queue's SQ_TAIL doorbell (or OP_DOORBELL tail) makes the entries up to the new tail available for fetch. -/
  | sqTail (dom queue offset size value : Nat)
  /-- BOOT_WORD (R37): An 8-byte write to the doorbell of an ABSENT queue 0, or of one in ERROR with no unfinished command, brings queue 0 up with the given ring base and size. -/
  | bootWord (dom value : Nat)
  /-- CQ_HEAD (R41): A host write of a completion head marks completions as consumed and frees CQ slots. -/
  | cqHead (dom queue offset size value : Nat)
  /-- SEQ_NEXT (R33): A host write of PITCH_SEQ_NEXT or OP_SEQ_NEXT sets the domain's next SEQ, but only while the domain is idle. -/
  | seqNext (dom offset size value : Nat)
  /-- EVENT_ACK (R33): A W1C write of EVENT_ACK clears pitch event bits and deasserts the pitch event source when no bit remains set. -/
  | eventAck (dom offset size value : Nat)
  /-- TRAIL_CURSOR (R417): A write of TRAIL_CURSOR selects the trail entry that the window shows. -/
  | trailCursor (offset size value : Nat)
  /-- PERF_SELECT (R429): A write of PERF_SELECT names the counter that PERF_VALUE accesses. -/
  | perfSelect (offset size value : Nat)
  /-- PERF_VALUE_READ (R429): A read of PERF_VALUE samples the selected counter and, with AUTO_INC, advances INDEX. -/
  | perfValueRead (offset size : Nat)
  /-- PERF_VALUE_WRITE (R434): A write of PERF_VALUE loads a programmable counter, and the write wins over a coincident increment. -/
  | perfValueWrite (offset size value : Nat)
  /-- PERF_CONFIG_SELECT (R429): A write of PERF_CONFIG_SELECT names the counter that PERF_CONFIG configures. -/
  | perfConfigSelect (offset size value : Nat)
  /-- PERF_CONFIG (R430): A write of PERF_CONFIG configures the selected counter's event, filter, enable, interrupt and window. -/
  | perfConfig (offset size value : Nat)
  /-- PERF_CONFIG_READ (R429): A read of PERF_CONFIG returns the configuration and, with AUTO_INC, advances the configuration index. -/
  | perfConfigRead (offset size : Nat)
  /-- REGISTER_WRITE (R30): A write to any other page offset, or one of a bad size or alignment, is applied under its access code or is ignored, counted and logged. -/
  | registerWrite (page : Page) (offset size value : Nat)
  /-- ENTRY_FETCHED (R45): A fetched submission entry arrives, runs admission checks 1-4, and is then placed or made to wait by its SEQ. -/
  | entryFetched (dom queue : Nat) (bytes : Bytes)
  /-- DMA_READ_FAIL (R52): A DMA read ends in a timeout, UR, CA or poison: an entry read puts its queue into ERROR, and any other read fails its command. -/
  | dmaReadFail (what : ReadOf) (cause : DmaError) (index : Nat)
  /-- COMMAND_START (R68): A placed command starts once every earlier conflicting command has committed, or once a fence clears. -/
  | commandStart (dom id region block : Nat)
  /-- COMMIT_POINT (R24): A command whose checked result is complete and whose overlapping predecessors have committed applies its delta and releases its output and completion. -/
  | commitPoint (dom : Nat) (done : Committing)
  /-- CHAIN_LINK (R78): Once the previous link exists, the chain link of a STATE or RESERVE command is computed in SEQ order, and any completion waiting for it is posted. -/
  | chainLink (dom id : Nat)
  /-- SEQ_GAP_EXPIRY (R49): On expiry of the gap timer, every waiting entry completes with E_SEQ_GAP. -/
  | seqGapExpiry (dom : Nat)
  /-- AGG_TIME_EXPIRY (R57): On expiry of AGG_TIME, the queue's MSI-X message is sent for completions that are waiting. -/
  | aggTimeExpiry (dom queue : Nat)
  /-- COMPLETION_TIMEOUT (R454): A DMA read, AtomicOp or DOE exchange whose timer expires ends as a completion timeout. -/
  | completionTimeout (request : Request)
  /-- UNEXPECTED_COMPLETION (R454): A completion that names no outstanding request is ignored, counted, logged and reported through AER. -/
  | unexpectedCompletion (tag : Nat)
  /-- QUEUE_CREATE (R61): Creates data or admin queue 1-15 with its rings, vector and aggregation. -/
  | queueCreate (dom id : Nat)
  /-- QUEUE_DELETE (R62): Makes a queue ABSENT if it is empty at the commit point. -/
  | queueDelete (dom id : Nat)
  /-- QUEUE_STATUS (R61): Returns a queue's pointers, state and the domain's SEQ_NEXT. -/
  | queueStatus (dom id : Nat)
  /-- QUEUE_ROUTE (R62): Changes a queue's vector and aggregation for later completions. -/
  | queueRoute (dom id : Nat)
  /-- QUEUE_RECOVER (R62): Returns a queue in ERROR to ACTIVE and resumes fetching. -/
  | queueRecover (dom id : Nat)
  /-- SEQ_GAP_SET (R61): Sets the domain's SEQ_GAP_TIMEOUT. -/
  | seqGapSet (dom id : Nat)
  /-- PITCH_CREATE (R94): Creates a pitch with its record, DRBG, root, K_DIG and D_0. -/
  | pitchCreate (dom id : Nat)
  /-- PITCH_DESTROY (R95): Once approved, cancels the pitch's commands and destroys its keys, records, queues and resources. -/
  | pitchDestroy (dom id : Nat)
  /-- PITCH_RESET (R107): Stops fetch and placement for a pitch, cancels its uncommitted commands and resets its queues. -/
  | pitchReset (dom id : Nat)
  /-- PITCH_LOCK (R96): Puts a pitch into LOCKED and marks it as locked by command. -/
  | pitchLock (dom id : Nat)
  /-- PITCH_UNLOCK (R96): Clears a pitch's command lock under quorum. -/
  | pitchUnlock (dom id : Nat)
  /-- PITCH_INFO (R116): Returns a pitch's committed record and usage. -/
  | pitchInfo (dom id : Nat)
  /-- DIRTY_LOG_START (R113): Starts dirty-page logging into a bitmap over a cover range. -/
  | dirtyLogStart (dom id : Nat)
  /-- DIRTY_LOG_FLUSH (R113): Completes once every earlier write's bitmap bit is visible. -/
  | dirtyLogFlush (dom id : Nat)
  /-- DIRTY_LOG_STOP (R113): Flushes dirty-page logging and ends it. -/
  | dirtyLogStop (dom id : Nat)
  /-- STAGE_WRITE (R333): Writes whole fields into a staging set image, opening the set. -/
  | stageWrite (dom id : Nat)
  /-- STAGE_CHECK (R335): Checks a staging set and lists every violation. -/
  | stageCheck (dom id : Nat)
  /-- STAGE_COMMIT (R336): Commits a staging set now, or makes it PENDING for a timed instant. -/
  | stageCommit (dom id : Nat)
  /-- STAGE_DISCARD (R339): Returns an OPEN or PENDING set to EMPTY. -/
  | stageDiscard (dom id : Nat)
  /-- STAGE_STATUS (R340): Reports a set's state and its last outcome. -/
  | stageStatus (dom id : Nat)
  /-- STAGED_INSTANT (R337): At a commit instant, placement stops, the due sets are checked and applied in order, and placement resumes. -/
  | stagedInstant (boundary : Nat)
  /-- KEY_GENERATE (R142): Creates a key at HANDLE0 from assigned DRBG output. -/
  | keyGenerate (dom id : Nat)
  /-- KEY_LOAD (R145): Creates a symmetric key from 2-3 officer component envelopes. -/
  | keyLoad (dom id : Nat)
  /-- KEY_PUBLIC_LOAD (R146): Creates a checked kind 01 public key. -/
  | keyPublicLoad (dom id : Nat)
  /-- KEY_REPLACE (R149): Gives a key a new value and raises its GENERATION. -/
  | keyReplace (dom id : Nat)
  /-- KEY_DESTROY (R150): Zeroes a key's record slots and invalidates its cache entries. -/
  | keyDestroy (dom id : Nat)
  /-- KEY_ATTR_RESTRICT (R131): Narrows a key's attributes. -/
  | keyAttrRestrict (dom id : Nat)
  /-- KEY_INFO (R153): Returns a key's attributes, nonce next value, KCV, tier and record sequence. -/
  | keyInfo (dom id : Nat)
  /-- KEY_PUBLIC_READ (R153): Returns an asymmetric key's public half. -/
  | keyPublicRead (dom id : Nat)
  /-- KEY_TRANSPORT_INFO (R143): Returns the signed public halves of the transport key. -/
  | keyTransportInfo (dom id : Nat)
  /-- KEY_GRANT (R127): Grants or revokes an operator key handle to a pitch. -/
  | keyGrant (dom id : Nat)
  /-- KEY_LIST (R153): Lists the handles of a kind from a start index, fenced. -/
  | keyList (dom id : Nat)
  /-- OFFICER_ADD (R156): Adds a checked officer to the domain roster. -/
  | officerAdd (dom id : Nat)
  /-- OFFICER_REMOVE (R157): Removes an officer if no quorum breaks. -/
  | officerRemove (dom id : Nat)
  /-- QUORUM_SET (R157): Sets the M value of each role. -/
  | quorumSet (dom id : Nat)
  /-- ROSTER_SEAL (R158): Closes the roster for good under its POLICY quorum. -/
  | rosterSeal (dom id : Nat)
  /-- ROSTER_READ (R167): Returns the roster, quorum table, incarnation and approval floor. -/
  | rosterRead (dom id : Nat)
  /-- TIME_SET (R331): Schedules the device clock to read SECOND at the next boundary. -/
  | timeSet (dom id : Nat)
  /-- TIME_READ (R332): Returns the clock, its status and the reject counts. -/
  | timeRead (dom id : Nat)
  /-- LOG_ROTATE (R418): Closes the trail chain with a checkpoint and starts a new chain. -/
  | logRotate (dom id : Nat) (sram mram : Bool)
  /-- LOG_EXPORT (R426): Delivers runs of trail entries by DMA. -/
  | logExport (dom id : Nat)
  /-- LOG_CHECKPOINT_READ (R426): Returns a checkpoint entry and its signature. -/
  | logCheckpointRead (dom id : Nat)
  /-- LOG_RATE_SET (R419): Sets one code's rate-limit bucket. -/
  | logRateSet (dom id : Nat)
  /-- LOG_STATUS (R426): Returns the log state and its bounds. -/
  | logStatus (dom id : Nat)
  /-- EVENT_ROUTE (R425): Sets the routes of an event source that the domain owns. -/
  | eventRoute (dom id : Nat)
  /-- EVENT_STATUS (R426): Returns the pending bit of every event source. -/
  | eventStatus (dom id : Nat)
  /-- EVENT_CLEAR (R424): Clears latched event sources. -/
  | eventClear (dom id : Nat)
  /-- PERF_GRANT (R437): Grants or revokes a pitch's CSR counter access. -/
  | perfGrant (dom id : Nat)
  /-- PERF_SAMPLES (R438): Drains a block's PERF sample ring. -/
  | perfSamples (dom id : Nat)
  /-- LC_STATUS (R409): Returns the life-cycle OTP status. -/
  | lcStatus (dom id : Nat)
  /-- LC_TRANSITION (R398): Checks a token, burns an attempt bit and burns a life-cycle transition. -/
  | lcTransition (dom id : Nat) (burn : OtpBurn)
  /-- LC_DIGEST_BURN (R397): Burns the customer digest for transition 6. -/
  | lcDigestBurn (dom id : Nat)
  /-- LC_MODE_SET (R399): Burns the AT_NEXT_RESET mode bit of a transition. -/
  | lcModeSet (dom id : Nat)
  /-- DEBUG_UNLOCK (R408): Checks a debug certificate and sets DEBUG_LEVEL. -/
  | debugUnlock (dom id : Nat)
  /-- DEBUG_LOCK (R408): Ends a debug unlock. -/
  | debugLock (dom id : Nat)
  /-- FW_INSTALL (R409): Writes a signed Efori image into the unused MRAM copy. -/
  | fwInstall (dom id : Nat)
  /-- TAMPER_STATUS (R391): Returns live and sticky tamper state, responses and counts. -/
  | tamperStatus (dom id : Nat)
  /-- TAMPER_CLEAR (R376): Clears sticky tamper flags and may end LOCKED. -/
  | tamperClear (dom id : Nat)
  /-- TWIN_JOIN (R83): Puts an empty pitch into JOINING as a secondary. -/
  | twinJoin (dom id : Nat)
  /-- TWIN_ESTABLISH (R84): Sends keys, roster, K_DIG and a DRBG seed to the secondary and attaches the twin. -/
  | twinEstablish (dom id : Nat)
  /-- TWIN_DETACH (R91): Detaches an ATTACHED twin pitch. -/
  | twinDetach (dom id : Nat)
  /-- TWIN_RESUME (R88): Replays retained records and returns the twin to ATTACHED. -/
  | twinResume (dom id : Nat)
  /-- TWIN_PROMOTE (R90): Makes a DETACHED secondary the primary. -/
  | twinPromote (dom id : Nat)
  /-- TWIN_DEMOTE (R90): Stops primary placement and hands the role over to the secondary. -/
  | twinDemote (dom id : Nat)
  /-- TWIN_STATUS (R92): Returns the twin state, role and lag. -/
  | twinStatus (dom id : Nat)
  /-- DIGEST_READ (R92): Returns the full state digest and its chain SEQ. -/
  | digestRead (dom id : Nat)
  /-- TWIN_DISSOLVE (R91): Returns a DETACHED or DIVERGED twin pitch to NONE. -/
  | twinDissolve (dom id : Nat)
  /-- CF_LOAD (R316): Checks a signed custom-function image and stores it in a slot. -/
  | cfLoad (dom id : Nat)
  /-- CF_ACCEPT (R315): The operator accepts a LOADED image whose digest matches. -/
  | cfAccept (dom id : Nat)
  /-- CF_BIND (R315): Binds an invocation group to an ACCEPTED image. -/
  | cfBind (dom id : Nat)
  /-- CF_UNBIND (R317): Unbinds an invocation group. -/
  | cfUnbind (dom id : Nat)
  /-- CF_DELETE (R317): Empties an unbound image slot. -/
  | cfDelete (dom id : Nat)
  /-- CF_INFO (R315): Returns the slot and group records. -/
  | cfInfo (dom id : Nat)
  /-- CF_INVOKE (R318): Runs the entry point of a bound custom function as a block job. -/
  | cfInvoke (dom id colour : Nat) (areas : List Nat)
  /-- SYM_ECB_ENCRYPT (R194): Performs ECB encryption on cells. -/
  | symEcbEncrypt (dom id : Nat)
  /-- SYM_ECB_DECRYPT (R194): Performs ECB decryption on cells. -/
  | symEcbDecrypt (dom id : Nat)
  /-- SYM_CTR_ENCRYPT (R197): Performs counter-feed encryption from an IV or from reserved nonces. -/
  | symCtrEncrypt (dom id : Nat)
  /-- SYM_CTR_DECRYPT (R194): Performs counter-feed decryption. -/
  | symCtrDecrypt (dom id : Nat)
  /-- XTS_ENCRYPT (R182): Performs XTS-AES encryption of data units. -/
  | xtsEncrypt (dom id : Nat)
  /-- XTS_DECRYPT (R182): Performs XTS-AES decryption of data units. -/
  | xtsDecrypt (dom id : Nat)
  /-- SYM_CBC_ENCRYPT (R194): Performs CBC encryption. -/
  | symCbcEncrypt (dom id : Nat)
  /-- SYM_CBC_DECRYPT (R194): Performs CBC decryption. -/
  | symCbcDecrypt (dom id : Nat)
  /-- GCM_ENCRYPT (R198): Performs GCM encryption with a reserved 96-bit IV. -/
  | gcmEncrypt (dom : Nat) (run : GcmRun)
  /-- GCM_DECRYPT (R198): Performs GCM decryption with a fixed-time tag check. -/
  | gcmDecrypt (dom : Nat) (run : GcmRun)
  /-- MAC_COMPUTE (R254): Computes a MAC. -/
  | macCompute (dom id : Nat)
  /-- MAC_CHECK (R254): Checks a MAC and returns a verdict. -/
  | macCheck (dom id : Nat)
  /-- PIN_BLOCK_TRANSLATE (R259): Re-enciphers a PIN block into another format and key. -/
  | pinBlockTranslate (dom id : Nat)
  /-- PIN_CHECK (R260): Checks a PIN by the offset or verification-value method. -/
  | pinCheck (dom id : Nat)
  /-- DUKPT_PIN_TRANSLATE (R264): Translates a PIN block under a DUKPT working key. -/
  | dukptPinTranslate (dom id : Nat)
  /-- DUKPT_MAC_CHECK (R264): Checks a MAC under a DUKPT working key. -/
  | dukptMacCheck (dom id : Nat)
  /-- DUKPT_DECRYPT (R264): Decrypts CBC data under a DUKPT working key. -/
  | dukptDecrypt (dom id : Nat)
  /-- DUKPT_IK_WRAP (R264): Wraps a DUKPT initial key by KWP. -/
  | dukptIkWrap (dom id : Nat)
  /-- CARD_ARQC_CHECK (R266): Checks an ARQC and optionally returns an ARPC. -/
  | cardArqcCheck (dom id : Nat)
  /-- CARD_ARPC_COMPUTE (R267): Computes an ARPC. -/
  | cardArpcCompute (dom id : Nat)
  /-- HASH_COMPUTE (R269): Hashes the input on one hash engine. -/
  | hashCompute (dom id : Nat)
  /-- PK_SIGN (R220): Signs with a private key and verifies the signature before release. -/
  | pkSign (dom id : Nat)
  /-- PK_VERIFY (R220): Verifies a signature and returns a verdict. -/
  | pkVerify (dom id : Nat)
  /-- KEM_ENCAPSULATE (R224): Performs ML-KEM encapsulation to a target output. -/
  | kemEncapsulate (dom id : Nat)
  /-- KEM_DECAPSULATE (R224): Performs ML-KEM decapsulation to a target output. -/
  | kemDecapsulate (dom id : Nat)
  /-- AGREE_STATIC (R224): Performs static key agreement to a target output. -/
  | agreeStatic (dom id : Nat)
  /-- AGREE_EPHEMERAL (R224): Performs ephemeral key agreement to a target output. -/
  | agreeEphemeral (dom id : Nat)
  /-- HYBRID_ENCAPSULATE (R224): Performs hybrid ML-KEM plus classic encapsulation. -/
  | hybridEncapsulate (dom id : Nat)
  /-- HYBRID_DECAPSULATE (R224): Performs hybrid decapsulation. -/
  | hybridDecapsulate (dom id : Nat)
  /-- RSA_OAEP_ENCRYPT (R224): Performs RSA-OAEP encryption. -/
  | rsaOaepEncrypt (dom id : Nat)
  /-- RSA_OAEP_DECRYPT (R224): Performs RSA-OAEP decryption to plain or wrapped output. -/
  | rsaOaepDecrypt (dom id : Nat)
  /-- RANDOM_GENERATE (R245): Returns pitch DRBG output from the assigned calls. -/
  | randomGenerate (dom id : Nat)
  /-- RAW_ENTROPY (R246): Starts a capture of unconditioned samples from one source. -/
  | rawEntropy (dom id : Nat)
  /-- RAW_CAPTURE_END (R246): The capture completes, and the source returns to STANDBY or ACTIVE. -/
  | rawCaptureEnd (region source : Nat) (samples : List Bool)
  /-- ENTROPY_STATUS (R245): Returns source, pool and DRBG status. -/
  | entropyStatus (dom id : Nat)
  /-- SELF_TEST (R244): Runs the conditioner and expander known-answer tests in the chosen regions. -/
  | selfTest (dom id : Nat) (results : List Nat)
  /-- KEY_WRAP (R271): Wraps an exportable symmetric key by KW or KWP. -/
  | keyWrap (dom id : Nat)
  /-- KEY_UNWRAP (R272): Unwraps a key with its attributes and stores it. -/
  | keyUnwrap (dom id : Nat)
  /-- LI_MOD_EXP (R227): Performs modular exponentiation. -/
  | liModExp (dom id : Nat)
  /-- LI_MOD_MUL (R227): Performs modular multiplication. -/
  | liModMul (dom id : Nat)
  /-- LI_MOD_ADD (R227): Performs modular addition. -/
  | liModAdd (dom id : Nat)
  /-- LI_MOD_SUB (R227): Performs modular subtraction. -/
  | liModSub (dom id : Nat)
  /-- LI_MOD_INV (R227): Performs modular inversion. -/
  | liModInv (dom id : Nat)
  /-- ADD (R287): Adds, checked for INT and wrapping for BITS. -/
  | add (core : Nat) (rd rs1 rs2 : BitVec 5)
  /-- SUB (R287): Subtracts, checked for INT. -/
  | sub (core : Nat) (rd rs1 rs2 : BitVec 5)
  /-- MUL (R287): Returns the low 64 bits of the product. -/
  | mul (core : Nat) (rd rs1 rs2 : BitVec 5)
  /-- MULHU (R286): Returns the high 64 bits of the unsigned product. -/
  | mulhu (core : Nat) (rd rs1 rs2 : BitVec 5)
  /-- DIV (R287): Divides in fixed time. -/
  | div (core : Nat) (rd rs1 rs2 : BitVec 5)
  /-- REM (R287): Returns the remainder in fixed time. -/
  | rem (core : Nat) (rd rs1 rs2 : BitVec 5)
  /-- NEG (R287): Negates. -/
  | neg (core : Nat) (rd rs1 : BitVec 5)
  /-- AND (R286): Performs bitwise AND. -/
  | and (core : Nat) (rd rs1 rs2 : BitVec 5)
  /-- OR (R286): Performs bitwise OR. -/
  | or (core : Nat) (rd rs1 rs2 : BitVec 5)
  /-- XOR (R286): Performs bitwise XOR. -/
  | xor (core : Nat) (rd rs1 rs2 : BitVec 5)
  /-- NOT (R286): Performs bitwise complement. -/
  | not (core : Nat) (rd rs1 : BitVec 5)
  /-- SHL (R288): Shifts left. -/
  | shl (core : Nat) (rd rs1 rs2 : BitVec 5)
  /-- SHR (R288): Shifts right logically. -/
  | shr (core : Nat) (rd rs1 rs2 : BitVec 5)
  /-- SAR (R288): Shifts right arithmetically. -/
  | sar (core : Nat) (rd rs1 rs2 : BitVec 5)
  /-- ADDI (R287): Adds an immediate. -/
  | addi (core : Nat) (rd rs1 : BitVec 5) (imm : BitVec 14)
  /-- ANDI (R286): Performs AND with an immediate. -/
  | andi (core : Nat) (rd rs1 : BitVec 5) (imm : BitVec 14)
  /-- ORI (R286): Performs OR with an immediate. -/
  | ori (core : Nat) (rd rs1 : BitVec 5) (imm : BitVec 14)
  /-- XORI (R286): Performs XOR with an immediate. -/
  | xori (core : Nat) (rd rs1 : BitVec 5) (imm : BitVec 14)
  /-- SHLI (R288): Shifts left by an immediate. -/
  | shli (core : Nat) (rd rs1 : BitVec 5) (imm : BitVec 14)
  /-- SHRI (R288): Shifts right logically by an immediate. -/
  | shri (core : Nat) (rd rs1 : BitVec 5) (imm : BitVec 14)
  /-- SARI (R288): Shifts right arithmetically by an immediate. -/
  | sari (core : Nat) (rd rs1 : BitVec 5) (imm : BitVec 14)
  /-- LI (R286): Loads an INT immediate. -/
  | li (core : Nat) (rd : BitVec 5) (imm : BitVec 19)
  /-- LIB (R286): Loads a BITS immediate. -/
  | lib (core : Nat) (rd : BitVec 5) (imm : BitVec 19)
  /-- LIH (R286): Inserts a halfword into a BITS register. -/
  | lih (core : Nat) (rd : BitVec 5) (k : BitVec 2) (imm : BitVec 16)
  /-- MKERR (R286): Creates an ERR word with a code. -/
  | mkerr (core : Nat) (rd : BitVec 5) (imm : BitVec 19)
  /-- ADDA (R286): Adds an INT to an ADDR, checked. -/
  | adda (core : Nat) (rd rs1 rs2 : BitVec 5)
  /-- ADDAI (R286): Adds an immediate to an ADDR, checked. -/
  | addai (core : Nat) (rd rs1 : BitVec 5) (imm : BitVec 14)
  /-- SUBA (R286): Returns the difference of two ADDRs as an INT. -/
  | suba (core : Nat) (rd rs1 rs2 : BitVec 5)
  /-- TADD (R286): Adds an INT to a TIME. -/
  | tadd (core : Nat) (rd rs1 rs2 : BitVec 5)
  /-- TSUB (R286): Returns the difference of two TIMEs. -/
  | tsub (core : Nat) (rd rs1 rs2 : BitVec 5)
  /-- CEQ (R290): Compares for equality into a BOOL. -/
  | ceq (core : Nat) (rd rs1 rs2 : BitVec 5)
  /-- CNE (R290): Compares for inequality into a BOOL. -/
  | cne (core : Nat) (rd rs1 rs2 : BitVec 5)
  /-- CLT (R290): Compares for signed less-than. -/
  | clt (core : Nat) (rd rs1 rs2 : BitVec 5)
  /-- CLE (R290): Compares for signed less-or-equal. -/
  | cle (core : Nat) (rd rs1 rs2 : BitVec 5)
  /-- CLTU (R290): Compares for unsigned less-than. -/
  | cltu (core : Nat) (rd rs1 rs2 : BitVec 5)
  /-- CLEU (R290): Compares for unsigned less-or-equal. -/
  | cleu (core : Nat) (rd rs1 rs2 : BitVec 5)
  /-- SEL (R290): Selects between two registers on a BOOL. -/
  | sel (core : Nat) (rd rs1 rs2 rs3 : BitVec 5)
  /-- MOV (R286): Copies a register. -/
  | mov (core : Nat) (rd rs1 : BitVec 5)
  /-- RETAG (R291): Converts a word's tag. -/
  | retag (core : Nat) (rd rs1 : BitVec 5) (t : BitVec 4)
  /-- TAGOF (R286): Returns a word's tag number. -/
  | tagof (core : Nat) (rd rs1 : BitVec 5)
  /-- ERRCODE (R286): Returns the code of an ERR word. -/
  | errcode (core : Nat) (rd rs1 : BitVec 5)
  /-- CLMUL (R289): Returns the low half of a carry-less product. -/
  | clmul (core : Nat) (rd rs1 rs2 : BitVec 5)
  /-- CLMULH (R289): Returns the high half of a carry-less product. -/
  | clmulh (core : Nat) (rd rs1 rs2 : BitVec 5)
  /-- LDW (R279): Loads a tagged word. -/
  | ldw (core : Nat) (rd rs1 : BitVec 5) (imm : BitVec 14)
  /-- STW (R279): Stores a tagged word. -/
  | stw (core : Nat) (rd rs1 : BitVec 5) (imm : BitVec 14)
  /-- LDB (R279): Loads a byte. -/
  | ldb (core : Nat) (rd rs1 : BitVec 5) (imm : BitVec 14)
  /-- STB (R279): Stores a byte. -/
  | stb (core : Nat) (rd rs1 : BitVec 5) (imm : BitVec 14)
  /-- BT (R290): Branches if the BOOL is true. -/
  | bt (core : Nat) (rd : BitVec 5) (imm : BitVec 19)
  /-- BF (R290): Branches if the BOOL is false. -/
  | bf (core : Nat) (rd : BitVec 5) (imm : BitVec 19)
  /-- J (R286): Jumps. -/
  | j (core : Nat) (off : BitVec 24)
  /-- JAL (R286): Jumps and links. -/
  | jal (core : Nat) (off : BitVec 24)
  /-- JR (R286): Jumps to a CODE register. -/
  | jr (core : Nat) (rs1 : BitVec 5)
  /-- JALR (R286): Jumps to a CODE register and links. -/
  | jalr (core : Nat) (rs1 : BitVec 5)
  /-- LEAC (R286): Forms a PC-relative CODE word. -/
  | leac (core : Nat) (rd : BitVec 5) (imm : BitVec 19)
  /-- SCOPY (R293): Copies one stream element. -/
  | scopy (core : Nat) (rd rs : BitVec 5) (width e : Bool)
  /-- SFILL (R293): Fills one stream element. -/
  | sfill (core : Nat) (rd rs : BitVec 5) (width e : Bool)
  /-- SCMP (R293): Compares one stream element. -/
  | scmp (core : Nat) (rd rs : BitVec 5) (width e : Bool)
  /-- SFIND (R293): Matches one stream element against a value. -/
  | sfind (core : Nat) (rd rs : BitVec 5) (width e : Bool)
  /-- SXOR (R293): XORs one stream element. -/
  | sxor (core : Nat) (rd rs : BitVec 5) (width e : Bool)
  /-- SEXCH (R293): Exchanges one stream element. -/
  | sexch (core : Nat) (rd rs : BitVec 5) (width e : Bool)
  /-- SPAN (R292): Runs the following stream instruction over CNT elements, resumable and with an optional stop. -/
  | span (core : Nat) (stop : BitVec 2)
  /-- ENQC (R296): Enqueues a cell job and returns a ticket. -/
  | enqc (core : Nat) (rd rs1 : BitVec 5)
  /-- ENQL (R296): Enqueues an LIU job. -/
  | enql (core : Nat) (rd rs1 : BitVec 5)
  /-- ENQH (R299): Enqueues a hash job. -/
  | enqh (core : Nat) (rd rs1 : BitVec 5)
  /-- EWAIT (R297): Waits for a ticket's job and returns its STATUS. -/
  | ewait (core : Nat) (rd rs1 : BitVec 5)
  /-- EWAITA (R297): Waits for any job of the core and returns its ticket. -/
  | ewaita (core : Nat) (rd : BitVec 5)
  /-- CSRR (R301): Reads a CSR. -/
  | csrr (core : Nat) (rd : BitVec 5) (csr : BitVec 14)
  /-- CSRW (R301): Writes a CSR in FIRMWARE mode. -/
  | csrw (core : Nat) (rd : BitVec 5) (csr : BitVec 14)
  /-- RSWAP (R312): Swaps the active and standby rule sets. -/
  | rswap (core : Nat)
  /-- ERET (R300): Returns from a trap. -/
  | eret (core : Nat)
  /-- CANCEL (R74): The cancellation interrupt is taken at a yield point for a reset or a tamper abort. -/
  | cancel (core : Nat)
  /-- WATCHDOG (R364): The job watchdog fires on a core that has stalled, and the block is quarantined; or the ECC of its memory has found
  an error (R279). -/
  | watchdog (report : BlockReport)
  /-- PERF (R433): A block counter overflow raises PERF, and Efori records a sample. -/
  | perfInterrupt (core : Nat)
  /-- TIMER (R301): The timer interrupt is taken when CYCLE reaches TIMECMP. -/
  | timer (core : Nat)
  /-- CELL_RUN_END (R175): A cell finishes a run, clears its key register and becomes free. -/
  | cellRunEnd (cell : Nat)
  /-- CELL_JOB_END (R177): A cell job ends, and the dispatcher writes STATUS word W7. -/
  | cellJobEnd (core slot : Nat)
  /-- CELL_MISMATCH (R186): A block fails its inverse check, and the rest of the run moves to a sibling cell. -/
  | cellMismatch (cell block : Nat)
  /-- CELL_AGE_OUT (R176): A stalled cell is aged out as a mismatch. -/
  | cellAgeOut (cell block : Nat)
  /-- CELL_SELF_TEST (R188): One second after quarantine, a cell runs its self test and returns to IDLE or is RETIRED. -/
  | cellSelfTest (cell : Nat) (pass : Bool)
  /-- LIU_SEGMENT_END (R207): At a segment boundary, the LIU chooses its next short or long job. -/
  | liuSegmentEnd (liu : Nat)
  /-- LIU_JOB_END (R210): An LIU job ends after its result check and writes STATUS. -/
  | liuJobEnd (liu context : Nat)
  /-- LIU_CHECK_FAIL (R214): An LIU result fails its check, and the job is retried on another LIU. -/
  | liuCheckFail (liu : Nat) (ecc : Bool)
  /-- LIU_SCRUB_END (R216): A context scrub is verified and the context is freed. -/
  | liuScrubEnd (liu context : Nat) (ok : Bool)
  /-- LIU_SELF_TEST (R215): A quarantined LIU runs its self test after 1 s. -/
  | liuSelfTest (liu : Nat) (pass : Bool)
  /-- HASH_JOB_END (R299): A hash job ends and writes STATUS. -/
  | hashJobEnd (hash : Nat)
  /-- HASH_LANE_MISMATCH (R366): A hash lane mismatch or a 2 µs stall discards the job and reruns it. -/
  | hashLaneMismatch (hash : Nat)
  /-- BLOCK_SELF_TEST (R364): A quarantined block's 10 ms self test ends, and the block returns or is retired. -/
  | blockSelfTest (block : Nat) (pass : Bool)
  /-- REGION_ISOLATE (R365): A region fault isolates the region, re-executes its jobs elsewhere and resets it. -/
  | regionIsolate (region : Nat)
  /-- REGION_SELF_TEST (R365): An isolated region's self test ends, and the region rejoins. -/
  | regionSelfTest (region : Nat) (pass : Bool)
  /-- REPETITION_COUNT_FAIL (R231): 81 equal samples fail a source and discard its window. -/
  | repetitionCountFail (region source : Nat) (samples : List Bool)
  /-- ADAPTIVE_WINDOW_END (R232): A 1,024-sample window ends and passes to the conditioner, or fails the source. -/
  | adaptiveWindowEnd (region source : Nat) (samples : List Bool)
  /-- SOURCE_STARTUP_TEST (R229): A source's start-up test ends, and the source enters STANDBY or FAILED. -/
  | sourceStartupTest (region source : Nat) (samples : List Bool)
  /-- SOURCE_RETEST (R229): A FAILED source repeats its start-up test after 1 s. -/
  | sourceRetest (region source : Nat) (samples : List Bool)
  /-- SEED_CONDITIONED (R233): A 384-bit seed enters the pool and serves waiting reseeds or secrets. -/
  | seedConditioned (region : Nat)
  /-- SEED_BORROW (R234): A region with no seed borrows one from the next region. -/
  | seedBorrow (region : Nat)
  /-- ENTROPY_WAIT_EXPIRY (R239): A waiting drawing command completes with E_ENTROPY. -/
  | entropyWaitExpiry (dom id : Nat)
  /-- RANDOM_READY (R242): The random start-up window ends with the DRBGs instantiated. -/
  | randomReady
  /-- TICK_IN_PULSE (R326): A TICK_IN pulse is judged, accepted or rejected, and moves the clock state. -/
  | tickInPulse (wait high : Nat)
  /-- TICK_TIMEOUT (R327): 1.5 s without an accepted edge resets the ACQUIRING count or enters HOLDOVER. -/
  | tickTimeout
  /-- HOLDOVER_LIMIT (R327): HOLDOVER_S reaches its limit, the clock becomes TIME_UNTRUSTED, and pending timed commits fail. -/
  | holdoverLimit
  /-- SECOND_BOUNDARY (R328): A second boundary drives TICK_OUT and applies a pending TIME_SET. -/
  | secondBoundary
  /-- KEY_VALIDITY_EDGE (R132): A key window edge passes and sets KEY_VALIDITY. -/
  | keyValidityEdge (time : Nat)
  /-- GOVERNOR_DECISION (R344): An idle region chooses its power state. -/
  | governorDecision (region : Nat)
  /-- REGION_EXIT_START (R344): A region begins to wake ahead of a known event. -/
  | regionExitStart (region : Nat)
  /-- BIVVY_ENTER (R345): The module enters BIVVY. -/
  | bivvyEnter
  /-- WAKE (R346): An unknown event or a ready job wakes a region or the module. -/
  | wake (region : Nat)
  /-- THERMAL_HOLD (R482): A die at T_H, or low flow for 1 s, forces every region into REST. -/
  | thermalHold (die : Int) (flow : Nat)
  /-- THERMAL_RELEASE (R482): Thermal hold ends after cooling and 10 s of good flow. -/
  | thermalRelease (die : Int) (flow : Nat)
  /-- WARDEN_HEARTBEAT (R350): A warden sends a beat on both paths every 2 µs. -/
  | wardenHeartbeat (warden loop : Nat) (wire fabric : Bool)
  /-- HEARTBEAT_MISS (R351): A path misses a period, which may give a path fault or a takeover request. -/
  | heartbeatMiss (warden : Nat) (fabric tap : Bool)
  /-- LOCKSTEP_FAULT (R348): A warden comparator asserts FAULT. -/
  | lockstepFault (warden : Nat)
  /-- WARDEN_PERIODIC_SELF_TEST (R351): A warden's 1 s periodic self test fails or passes. -/
  | wardenPeriodicSelfTest (warden : Nat) (pass : Bool)
  /-- SWITCH_OVER (R355): The arbiter moves the grant, and the new warden replays, reconstructs and releases held outputs. -/
  | switchOver (gap : Nat)
  /-- JOURNAL_ENTRY (R354): The standby applies a journal entry and acknowledges commit records. -/
  | journalEntry (intact : Bool)
  /-- JOURNAL_CHECKPOINT (R354): The standby compares running digests every 4,096 entries. -/
  | journalCheckpoint
  /-- WARDEN_SELF_TEST_END (R360): A reset warden's start-up self test ends, into SYNCING or FAILED. -/
  | wardenSelfTestEnd (warden : Nat) (pass : Bool)
  /-- WARDEN_SYNCED (R354): A syncing warden reaches the journal head and becomes MIRRORED. -/
  | wardenSynced (warden : Nat)
  /-- TAKEBACK_HOLDOFF (R361): The hold-off expires and warden B prepares a takeback. -/
  | takebackHoldoff
  /-- TAKEBACK (R361): At a quiet point, the grant moves back to warden A. -/
  | takeback (gap : Nat)
  /-- TAKEBACK_ABANDON (R361): No quiet point within 100 ms abandons the takeback. -/
  | takebackAbandon
  /-- TAMPER_ALARM (R372): A tamper source enters alarm and its response is taken. -/
  | tamperAlarm (source detector : Nat)
  /-- STRIKE_RESET (R377): Once stage 3 and the aborted completions are done, the STRIKE reset reboots into LOCKED. -/
  | strikeReset (sram mram : Bool) (fw : Bool × Bool) (units : UnitTests)
  /-- SHED_END (R372): 10 s after the last SHED alarm, clocks return to nominal. -/
  | shedEnd
  /-- EMBER_MASK_REFRESH (R123): Every 10 ms, EMBER rows are re-masked under a fresh seed. -/
  | emberMaskRefresh
  /-- EMBER_SOURCE_CHANGE (R479): The EMBER domain changes supply source. -/
  | emberSourceChange (external : Bool)
  /-- CELL_CUTOFF (R479): The cell reaches cutoff and is disconnected. -/
  | cellCutoff
  /-- TRAIL_FLUSH (R414): Entries are flushed from the SRAM ring to the MRAM ring. -/
  | trailFlush
  /-- CHECKPOINT_SIGN (R416): A checkpoint entry is signed within 2 ms. -/
  | checkpointSign (seq : Nat)
  /-- LOG_MEMORY_FAIL (R421): A log memory fails, and the log becomes LOG_DEGRADED or LOG_LOST. -/
  | logMemoryFail (sram : Bool) (address : Nat)
  /-- COLD_RESET (R444): Main power applied runs the boot sequence. -/
  | coldReset (sram mram : Bool) (fw : Bool × Bool) (units : UnitTests)
  /-- BOOT_END (R446): The boot ends in HALTED, LOCKED, RECOVERY or READY. -/
  | bootEnd (wardenA wardenB : Bool)
  /-- WARM_RESET (R442): PERST_N, a hot reset or link down resets host-facing state and cancels commands. -/
  | warmReset (trigger : WarmTrigger)
  /-- PERST_N_RELEASE (R445): PERST_N is released and link training starts. -/
  | perstNRelease
  /-- DEVICE_RESET (R442): A function level reset acts as a warm reset with the link kept trained. -/
  | deviceReset
  /-- LIFE_CYCLE_RESET (R399): A self-reset follows an IMMEDIATE transition. -/
  | lifeCycleReset (sram mram : Bool) (fw : Bool × Bool) (units : UnitTests)
  /-- P12V_EXCURSION (R477): A P12V excursion is counted, alarms, or is loss of main power. -/
  | p12vExcursion (millivolt duration : Nat)
  /-- P3V3_AUX_LOSS (R478): P3V3_AUX leaves its window, and is counted or becomes absent. -/
  | p3v3AuxLoss (duration : Nat)
  /-- PCIE_CONFIG_REQUEST (R453): A configuration request sets the enables, power state or device control. -/
  | pcieConfigRequest (field : ConfigField) (value : Nat)
  /-- MSIX_UNMASK (R456): Unmasking a vector sends its pending message. -/
  | msixUnmask (vector : Nat)
  /-- DIRTY_BITMAP_CAS (R461): A bitmap CompareAndSwap completes and updates the known value, or retries. -/
  | dirtyBitmapCas (dom word : Nat) (result : CasResult)
  /-- GET_VERSION (R458): Answers an SPDM GET_VERSION request. -/
  | getVersion (object : Bytes)
  /-- GET_CAPABILITIES (R458): Answers an SPDM GET_CAPABILITIES request. -/
  | getCapabilities (object : Bytes)
  /-- NEGOTIATE_ALGORITHMS (R458): Answers an SPDM NEGOTIATE_ALGORITHMS request. -/
  | negotiateAlgorithms (object : Bytes)
  /-- GET_DIGESTS (R458): Answers an SPDM GET_DIGESTS request. -/
  | getDigests (object : Bytes)
  /-- GET_CERTIFICATE (R458): Returns the slot 0 chain. -/
  | getCertificate (object : Bytes)
  /-- CHALLENGE (R458): Answers an SPDM challenge. -/
  | challenge (object : Bytes)
  /-- GET_MEASUREMENTS (R459): Returns the signed measurement blocks. -/
  | getMeasurements (object : Bytes)
  /-- KEY_EXCHANGE (R458): Starts a secured SPDM session. -/
  | keyExchange (object : Bytes)
  /-- FINISH (R458): Completes SPDM session establishment. -/
  | finish (object : Bytes)
  /-- SPDM_HEARTBEAT (R458): Answers an SPDM session heartbeat. -/
  | spdmHeartbeat (object : Bytes)
  /-- KEY_UPDATE (R458): Updates SPDM session keys. -/
  | keyUpdate (object : Bytes)
  /-- END_SESSION (R458): Ends an SPDM session. -/
  | endSession (object : Bytes)
  /-- DOE_ABORT (R458): Discards the DOE exchange in progress. -/
  | doeAbort
  /-- IDE_KM (R460): Installs IDE stream keys over a secured session. -/
  | ideKm (object : Bytes)
  /-- IDE_INTEGRITY_FAIL (R460): A TLP that fails IDE integrity is discarded and its stream becomes Insecure. -/
  | ideIntegrityFail (stream : Nat)
  /-- LINK_TRAINED (R463): The twin link reaches UP and a session begins. -/
  | linkTrained (half : Bool)
  /-- LANE_FAIL (R463): A lane failure retrains the twin link at half width. -/
  | laneFail
  /-- FRAME_TIMEOUT (R463): Loss of FEC alignment, or 1 ms without a valid frame, returns the link to TRAINING. -/
  | frameTimeout (fec : Bool)
  /-- HELLO (R465): A HELLO frame with the peer serial, state and chain is received. -/
  | hello (bytes : Bytes)
  /-- KEY_SETUP (R465): A KEY_SETUP frame with ephemeral keys is received and answered. -/
  | keySetup (bytes : Bytes)
  /-- KEY_CONFIRM (R465): A KEY_CONFIRM signature is verified and the session becomes SECURE, or is refused. -/
  | keyConfirm (bytes : Bytes)
  /-- RECORD (R85): A twin record is applied or executed on the secondary and its digest compared. -/
  | record (bytes : Bytes)
  /-- ACK (R86): An acknowledgement releases held SYNC completions and lag. -/
  | ack (bytes : Bytes)
  /-- HEARTBEAT (R467): A twin heartbeat frame updates the peers' SEQ_NEXT and timeouts. -/
  | heartbeat (bytes : Bytes)
  /-- HEARTBEAT_SEND (R467): Every 20 µs, a twin heartbeat frame is sent. -/
  | heartbeatSend
  /-- REKEY (R466): A new hybrid exchange starts the next key epoch. -/
  | rekey (bytes : Bytes)
  /-- CLOSE (R466): The twin session is ended and the link retrained. -/
  | close (bytes : Bytes)
  /-- TWIN_RESEND (R467): After 20 µs without acknowledgement, frames are resent. -/
  | twinResend
  /-- TWIN_TIMEOUT (R88): No heartbeat or acknowledgement within TIMEOUT puts both sides into DETACHED. -/
  | twinTimeout (dom : Nat)
  /-- TWIN_LAG_TIME (R86): The oldest unacknowledged record passes LAG_TIME, and placement pauses. -/
  | twinLagTime (dom : Nat)
  /-- SET_ENDPOINT_ID (R469): Answers the MCTP Set Endpoint ID control message. -/
  | setEndpointId (packet : Bytes)
  /-- GET_ENDPOINT_ID (R469): Answers the MCTP Get Endpoint ID control message. -/
  | getEndpointId (packet : Bytes)
  /-- GET_ENDPOINT_UUID (R469): Answers the MCTP Get Endpoint UUID control message. -/
  | getEndpointUuid (packet : Bytes)
  /-- GET_MCTP_VERSION_SUPPORT (R469): Answers the MCTP Get MCTP Version Support control message. -/
  | getMctpVersionSupport (packet : Bytes)
  /-- GET_MESSAGE_TYPE_SUPPORT (R469): Answers the MCTP Get Message Type Support control message. -/
  | getMessageTypeSupport (packet : Bytes)
  /-- GET_TID (R469): Answers the PLDM GetTID command. -/
  | getTid (packet : Bytes)
  /-- GET_PLDM_VERSION (R469): Answers the PLDM GetPLDMVersion command. -/
  | getPldmVersion (packet : Bytes)
  /-- GET_PLDM_TYPES (R469): Answers the PLDM GetPLDMTypes command. -/
  | getPldmTypes (packet : Bytes)
  /-- GET_PLDM_COMMANDS (R469): Answers the PLDM GetPLDMCommands command. -/
  | getPldmCommands (packet : Bytes)
  /-- GET_SENSOR_READING (R470): Returns a numeric sensor reading. -/
  | getSensorReading (packet : Bytes) (reading : Int)
  /-- GET_STATE_SENSOR_READINGS (R470): Returns state sensor readings. -/
  | getStateSensorReadings (packet : Bytes)
  /-- GET_PDR_REPOSITORY_INFO (R469): Answers the PLDM GetPDRRepositoryInfo command. -/
  | getPdrRepositoryInfo (packet : Bytes)
  /-- GET_PDR (R470): Returns a PDR with its thresholds. -/
  | getPdr (packet : Bytes)
  /-- SMBUS_ARP (R468): The bus owner assigns the SMBus address. -/
  | smbusArp (packet : Bytes)
  /-- SMB_CLK_TIMEOUT (R468): SMB_CLK low for 25 ms releases the bus and resets the interface. -/
  | smbClkTimeout
  /-- TAP_INSTRUCTION (R407): A TAP instruction is executed, or acts as BYPASS when locked. -/
  | tapInstruction (ir : TapInstr) (data : Bytes) (trst : Bool)
  /-- DEBUG_ACCESS (R313): A debug-master access is served or refused, which may raise DEBUG_PROBE. -/
  | debugAccess (target : DebugTarget) (write : Option Bytes)
  /-- DMA_READ_DONE (R45): A DMA read of a parameter block, scatter list, approvals list or input completes successfully, letting admission checks 8-9 and execution proceed. -/
  | dmaReadDone (dom id : Nat) (part : DmaPart) (bytes : Bytes)
  /-- POWER_STATE_EXIT (R343): A region's exit from DOZE, NAP or REST, or the module's exit from BIVVY, completes after its exit latency, and the region runs again, restarting its entropy sources and blinding DRBG. -/
  | powerStateExit (region : Nat) (failed : List Nat)
  /-- TAMPER_ALARM_END (R370): A tamper source's alarm condition ceases, clearing its TAMPER_LIVE bit and starting the 10 s SHED hold or enabling TAMPER_CLEAR. -/
  | tamperAlarmEnd (source detector : Nat)
  /-- EMBER_COLLAPSE (R386): The hold-up capacitor falls below the EMBER collapse level, and all EMBER masks, seeds, flags and the response table are lost. -/
  | emberCollapse
  /-- HASH_SELF_TEST (R366): One second after quarantine, a hash engine runs its 1 ms self test and returns to service or is retired. -/
  | hashSelfTest (hash : Nat) (pass : Bool)
  /-- PORT_WINDOW_END (R432): A port bandwidth window of 2^k µs ends, and its counter latches the payload bytes of that window. -/
  | portWindowEnd (link outbound : Bool) (bytes : Nat)
  /-- REFCLK_RESTORED (R483): REFCLK has stayed in its window for 1 ms and is used again, so that the host link can train. -/
  | refclkRestored
  /-- ILLEGAL_INSN (R282): The core fetches a word that is not a valid instruction, or is not tagged BITS, and traps ILLEGAL_INSN. -/
  | illegalInsn (core : Nat) (word : BitVec 32)
  /-- ALERT_RESPONSE_ADDRESS (R468): The bus owner reads the SMBus Alert Response Address while SMB_ALERT_N is asserted, and the module replies with its address. -/
  | alertResponseAddress
  /-- SMB_DAT_TIMEOUT (R483): SMB_DAT stays low for 25 ms while SMB_CLK is high, and the interface releases the bus. -/
  | smbDatTimeout
  /-- TRST_N_ASSERT (R483): TRST_N is driven low and holds the TAP in Test-Logic-Reset. -/
  | trstNAssert
  /-- WARDEN_REBUILD (R359): After a double warden failure, the new active warden finishes rebuilding chip state from MRAM, aborts uncommitted management commands and releases held completions. -/
  | wardenRebuild
  deriving DecidableEq, Repr

end Sys2Proof
end

