-- ==== Sys2Proof/Config.lean ====
section
/-!
DEFINITION. Sys2Proof/Config.lean: what Shocor fixes in a module before it ships, and the free values. Every constant
here is without a body: a claim about it holds for every value.
-/

namespace Sys2Proof

/-- The 16 ASCII characters of the module's serial (R491). -/
opaque Config.serial : Bytes

/-- A fresh value of `n` bytes where the spec leaves a value open; the counter makes each one new. -/
opaque Config.free (count n : Nat) : Bytes

/-- The mask of an EMBER row under a mask seed (R123); the spec does not give the function. -/
opaque Config.emberMask (seed : Bytes) (row : Nat) : Bytes

/-- A permutation of the 4,096 row addresses of the EMBER array, with its inverse. -/
structure RowPermutation where
  ahead : Fin 4096 → Fin 4096 := id
  back : Fin 4096 → Fin 4096 := id
  left : ∀ i, back (ahead i) = i := by exact fun _ => rfl
  right : ∀ i, ahead (back i) = i := by exact fun _ => rfl
  deriving Inhabited

/-- The permutation of EMBER row addresses under a scramble seed (R123); the spec does not give the function. -/
opaque Config.rowPermutation (seed : Bytes) : RowPermutation

/-- The token digests that Shocor burned at manufacture, by transition (R397). -/
opaque Config.tokenDigest (transition : Nat) : Bytes

/-- The public half of Shocor's debug-authorisation key, ML-DSA-65, in the boot ROM (R408). -/
opaque Config.debugKey : Bytes

/-- Whether an Efori image carries Shocor's firmware signature (R409); the spec does not give its form. -/
opaque Config.firmwareSigned (image : Bytes) : Bool

/-- The module's certificate chain of a kind for an attestation public key (R457). -/
opaque Config.chain (kind : Nat) (pub : Bytes) : Bytes

/-- Whether a peer's chain verifies under the digest of Shocor's root certificate in the boot ROM, or as self-signed (R457, R465). -/
opaque Config.chainValid (chain : Bytes) : Bool

/-- Whether a valid chain is self-signed (R457, R465). -/
opaque Config.chainSelfSigned (chain : Bytes) : Bool

/-- The attestation public key that a chain certifies (R457). -/
opaque Config.chainKey (chain : Bytes) : Bytes

/-- SHA-384 digest of the boot ROM, and of the Efori image that a module is made with (R459). -/
opaque Config.romDigest : Bytes

opaque Config.imageDigest : Bytes

/-- The largest SPDM message the DOE mailbox takes, and the heartbeat period it offers (R458). -/
opaque Config.spdmMessage : Nat

opaque Config.spdmHeartbeat : Nat

/-- Identifiers of the management bus: the SMBus UDID, the MCTP UUID, the fields of a PDR that the spec does not give, by sensor
(R468 to R470). -/
opaque Config.udid : Bytes

opaque Config.uuid : Bytes

opaque Config.pdrHead (sensor : Nat) : Bytes

/-- Which of the ML-DSA parameter sets that fit an ENQL descriptor's VERIFY an LIU takes for its inline key, by IN_LEN (R203, R204; log entry 47). -/
opaque Config.inlineSet (bytes : Nat) : Nat

/-- The code that IDCODE shifts out (R407). -/
opaque Config.idcode : Bytes

end Sys2Proof
end

