-- ==== Sys2Proof/Machine/Bits.lean ====
section
/-!
DEFINITION. Sys2Proof/Machine/Bits.lean: byte order (R8, R9), bit fields, byte strings and the sparse tables.
-/

namespace Sys2Proof.Machine

/-- The `n` low bytes of `v`, least significant first (R8). -/
def leBytes : Nat → Nat → Bytes
  | 0, _ => []
  | n + 1, v => BitVec.ofNat 8 v :: leBytes n (v / 256)

/-- The little-endian value of a byte string (R8). -/
def leNat : Bytes → Nat
  | [] => 0
  | b :: bs => b.toNat + 256 * leNat bs

/-- The `n` low bytes of `v`, most significant first (R9). -/
def beBytes (n v : Nat) : Bytes := (leBytes n v).reverse

/-- The big-endian value of a byte string (R9). -/
def beNat (bs : Bytes) : Nat := bs.foldl (fun a b => 256 * a + b.toNat) 0

/-- `n` bytes from offset `o`; bytes beyond the end read as zero. -/
def slice (bs : Bytes) (o n : Nat) : Bytes :=
  let t := (bs.drop o).take n
  t ++ List.replicate (n - t.length) 0

/-- The little-endian field of `n` bytes at offset `o` (R8). -/
def field (bs : Bytes) (o n : Nat) : Nat := leNat (slice bs o n)

/-- One byte, as a number. -/
def byteAt (bs : Bytes) (o : Nat) : Nat := field bs o 1

/-- Bits hi to lo of a number (R7). -/
def bits (v hi lo : Nat) : Nat := v / 2 ^ lo % 2 ^ (hi + 1 - lo)

/-- One bit of a number. -/
def bit (v i : Nat) : Bool := v.testBit i

/-- A Bool as a number. -/
def b2n (b : Bool) : Nat := if b then 1 else 0

/-- `v` with its bytes `o` to `o + n - 1` replaced by the low bytes of `x`. -/
def setBytes (v o n x : Nat) : Nat :=
  let m := 256 ^ o
  let w := 256 ^ n
  v % m + (x % w) * m + v / (m * w) * (m * w)

/-- A zero byte string. -/
def zeros (n : Nat) : Bytes := List.replicate n 0

/-- ASCII text as bytes. -/
def ascii (t : String) : Bytes := t.toList.map fun c => BitVec.ofNat 8 c.toNat

/-- Bitwise exclusive or of two byte strings, to the shorter length. -/
def xorBytes (a b : Bytes) : Bytes := List.zipWith (· ^^^ ·) a b

/-- A byte string with the bytes from offset `o` replaced by `x`; its length is kept. -/
def overlay (bs : Bytes) (o : Nat) (x : Bytes) : Bytes :=
  (bs.take o ++ x ++ bs.drop (o + x.length)).take bs.length

/-- Whether every byte is zero. -/
def allZero (bs : Bytes) : Bool := bs.all (· == 0)

/-- The offset of the first non-zero byte among the listed spans (offset, length), in the order listed (R13). -/
def firstNonZero (bs : Bytes) : List (Nat × Nat) → Option Nat
  | [] => none
  | (o, n) :: rest =>
    match (slice bs o n).findIdx? (· != 0) with
    | some i => some (o + i)
    | none => firstNonZero bs rest

/-- CRC-32 of IEEE 802.3, bit by bit. -/
def crc32 (m : Bytes) : Nat :=
  let step := fun (c : BitVec 32) => if c.getLsbD 0 then (c >>> 1) ^^^ 0xEDB88320#32 else c >>> 1
  let byte := fun (c : BitVec 32) (b : Byte) => (List.range 8).foldl (fun c _ => step c) (c ^^^ b.setWidth 32)
  (~~~ (m.foldl byte 0xFFFFFFFF#32)).toNat

/-- Rounding up to a multiple. -/
def roundUp (v m : Nat) : Nat := (v + m - 1) / m * m

/-- Division rounding up. -/
def ceilDiv (v m : Nat) : Nat := (v + m - 1) / m

/-- A byte string cut into pieces of `n` bytes, the last one shorter; `fuel` bounds their number. -/
def chunksFuel (n : Nat) : Nat → Bytes → List Bytes
  | 0, _ => []
  | _, [] => []
  | f + 1, bs => bs.take n :: chunksFuel n f (bs.drop n)

/-- A byte string cut into pieces of `n` bytes, the last one shorter. -/
def chunks (n : Nat) (bs : Bytes) : List Bytes := chunksFuel n bs.length bs

/-- The value a table holds for a key. -/
def Tab.find {α : Type} : Tab α → Nat → Option α
  | [], _ => none
  | (k, v) :: t, i => if k = i then some v else Tab.find t i

/-- The value a table holds for a key, or the value an absent key reads as. -/
def Tab.get {α : Type} (t : Tab α) (d : α) (i : Nat) : α := (Tab.find t i).getD d

/-- The table without a key. -/
def Tab.erase {α : Type} : Tab α → Nat → Tab α
  | [], _ => []
  | (k, v) :: t, i => if k = i then Tab.erase t i else (k, v) :: Tab.erase t i

/-- The table with a key's entry put at its place. -/
def Tab.insert {α : Type} : Tab α → Nat → α → Tab α
  | [], i, x => [(i, x)]
  | (k, v) :: t, i, x =>
    if i < k then (i, x) :: (k, v) :: t
    else if i = k then (i, x) :: t
    else (k, v) :: Tab.insert t i x

/-- The table with `x` at key `i`; `d` is what an absent key reads as, and is never listed. -/
def Tab.put {α : Type} [DecidableEq α] (t : Tab α) (d : α) (i : Nat) (x : α) : Tab α :=
  if x = d then Tab.erase t i else Tab.insert t i x

/-- The one form of a table: its keys rise strictly, and no entry is equal to what an absent key reads as. -/
def Tab.wf {α : Type} [DecidableEq α] (d : α) : Tab α → Bool
  | [] => true
  | (k, v) :: t => v != d && t.all (fun (p : Nat × α) => k < p.1) && Tab.wf d t

/-- A number put into a strictly rising list. -/
def insertNat : List Nat → Nat → List Nat
  | [], x => [x]
  | y :: ys, x => if x < y then x :: y :: ys else if x = y then y :: ys else y :: insertNat ys x

/-- A number removed from a list. -/
def removeNat (l : List Nat) (x : Nat) : List Nat := l.filter (· != x)

end Sys2Proof.Machine
end

