-- ==== Sys2Proof/Machine/Sha.lean ====
section
/-!
DEFINITION. Sys2Proof/Machine/Sha.lean: the hash engines' functions (R269): SHA-2, SHA-3, SHAKE, and HMAC over
them. PRESUMED from FIPS 180-4, FIPS 202 and FIPS 198-1, which the spec names (log entry 6).
-/

namespace Sys2Proof.Machine

/-- Round constants of SHA-256, least significant first. -/
def shaK32 : Nat :=
  0xc67178f2bef9a3f7a4506ceb90befffa8cc7020884c8781478a5636f748f82ee682e6ff35b9cca4f4ed8aa4a391c0cb334b0bcb52748774c1e376c0819a4c116106aa070f40e3585d6990624d192e819c76c51a3c24b8b70a81a664ba2bfe8a192722c8581c2c92e766a0abb650a735453380d134d2c6dfc2e1b213827b70a851429296706ca6351d5a79147c6e00bf3bf597fc7b00327c8a831c66d983e515276f988da5cb0a9dc4a7484aa2de92c6f240ca1cc0fc19dc6efbe4786e49b69c1c19bf1749bdc06a780deb1fe72be5d74550c7dc3243185be12835b01d807aa98ab1c5ed5923f82a459f111f13956c25be9b5dba5b5c0fbcf71374491428a2f98

/-- Round constants of SHA-512, least significant first. -/
def shaK64 : Nat :=
  0x6c44198c4a4758175fcb6fab3ad6faec597f299cfc657e2a4cc5d4becb3e42b6431d67c49c100d4c3c9ebe0a15c9bebc32caab7b40c7249328db77f523047d841b710b35131c471b113f9804bef90dae0a637dc5a2c898a606f067aa72176fbaf57d4f7fee6ed178eada7dd6cde0eb1ed186b8c721c0c207ca273eceea26619cc67178f2e372532bbef9a3f7b2c67915a4506cebde82bde990befffa23631e288cc702081a6439ec84c87814a1f0ab7278a5636f43172f60748f82ee5defb2fc682e6ff3d6b2b8a35b9cca4f7763e3734ed8aa4ae3418acb391c0cb3c5c95a6334b0bcb5e19b48a82748774cdf8eeb991e376c085141ab5319a4c116b8d2d0c8106aa07032bbd1b8f40e35855771202ad69906245565a910d192e819d6ef5218c76c51a30654be30c24b8b70d0f89791a81a664bbc423001a2bfe8a14cf1036492722c851482353b81c2c92e47edaee6766a0abb3c77b2a8650a73548baf63de53380d139d95b3df4d2c6dfc5ac42aed2e1b21385c26c92627b70a8546d22ffc142929670a0e6e7006ca6351e003826fd5a79147930aa725c6e00bf33da88fc2bf597fc7beef0ee4b00327c898fb213fa831c66d2db43210983e5152ee66dfab76f988da831153b55cb0a9dcbd41fbd44a7484aa6ea6e4832de92c6f592b0275240ca1cc77ac9c650fc19dc68b8cd5b5efbe4786384f25e3e49b69c19ef14ad2c19bf174cf6926949bdc06a725c7123580deb1fe3b1696b172be5d74f27b896f550c7dc3d5ffb4e2243185be4ee4b28c12835b0145706fbed807aa98a3030242ab1c5ed5da6d8118923f82a4af194f9b59f111f1b605d0193956c25bf348b538e9b5dba58189dbbcb5c0fbcfec4d3b2f7137449123ef65cd428a2f98d728ae22

/-- One of a row of constants of `n` bits. -/
def constAt (table n i : Nat) : BitVec n := BitVec.ofNat n (table >>> (n * i))

/-- The sizes that set SHA-2 at 32 bits apart from SHA-2 at 64 bits (FIPS 180-4). -/
structure ShaForm where
  rounds : Nat
  block : Nat
  table : Nat
  big0 : Nat × Nat × Nat
  big1 : Nat × Nat × Nat
  small0 : Nat × Nat × Nat
  small1 : Nat × Nat × Nat

/-- SHA-224 and SHA-256. -/
def sha32 : ShaForm := ⟨64, 64, shaK32, (2, 13, 22), (6, 11, 25), (7, 18, 3), (17, 19, 10)⟩

/-- SHA-384 and SHA-512. -/
def sha64 : ShaForm := ⟨80, 128, shaK64, (28, 34, 39), (14, 18, 41), (1, 8, 7), (19, 61, 6)⟩

/-- Three rotations. -/
def bigSigma {n : Nat} (r : Nat × Nat × Nat) (x : BitVec n) : BitVec n :=
  x.rotateRight r.1 ^^^ x.rotateRight r.2.1 ^^^ x.rotateRight r.2.2

/-- Two rotations and a shift. -/
def smallSigma {n : Nat} (r : Nat × Nat × Nat) (x : BitVec n) : BitVec n :=
  x.rotateRight r.1 ^^^ x.rotateRight r.2.1 ^^^ x >>> r.2.2

/-- The words of the message schedule, the last one first, extended by `k` words. -/
def shaSchedule (f : ShaForm) (n : Nat) : Nat → List (BitVec n) → List (BitVec n)
  | 0, w => w
  | k + 1, w =>
    let g := fun i => w.getD i 0
    shaSchedule f n k ((smallSigma f.small1 (g 1) + g 6 + smallSigma f.small0 (g 14) + g 15) :: w)

/-- One round on the eight working words. -/
def shaRound (f : ShaForm) (n : Nat) (v : List (BitVec n)) (kw : BitVec n) : List (BitVec n) :=
  match v with
  | [a, b, c, d, e, g, h, i] =>
    let t1 := i + bigSigma f.big1 e + ((e &&& g) ^^^ (~~~e &&& h)) + kw
    let t2 := bigSigma f.big0 a + ((a &&& b) ^^^ (a &&& c) ^^^ (b &&& c))
    [t1 + t2, a, b, c, d + t1, e, g, h]
  | _ => v

/-- Big-endian words of a block. -/
def beWords (n : Nat) (bs : Bytes) : List (BitVec n) := (chunks (n / 8) bs).map fun c => BitVec.ofNat n (beNat c)

/-- One block into the chaining words. -/
def shaBlock (f : ShaForm) (n : Nat) (h : List (BitVec n)) (block : Bytes) : List (BitVec n) :=
  let w := (shaSchedule f n (f.rounds - 16) (beWords n block).reverse).reverse
  let kw := w.zipIdx.map fun p => p.1 + constAt f.table n p.2
  List.zipWith (· + ·) h (kw.foldl (shaRound f n) h)

/-- The padded message (FIPS 180-4 section 5.1). -/
def shaPad (block : Nat) (m : Bytes) : Bytes :=
  let lenBytes := block / 8
  let z := (2 * block - (m.length + 1 + lenBytes) % block) % block
  m ++ [0x80] ++ zeros z ++ beBytes lenBytes (8 * m.length)

/-- A SHA-2 digest of `out` bytes from the given chaining words. -/
def sha2 (f : ShaForm) (n iv out : Nat) (m : Bytes) : Bytes :=
  let h0 := (List.range 8).map (constAt iv n)
  let h := (chunks f.block (shaPad f.block m)).foldl (shaBlock f n) h0
  (h.flatMap fun w => beBytes (n / 8) w.toNat).take out

def sha224 : Bytes → Bytes := sha2 sha32 32 0xbefa4fa464f98fa768581511ffc00b31f70e59393070dd17367cd507c1059ed8 28

def sha256 : Bytes → Bytes := sha2 sha32 32 0x5be0cd191f83d9ab9b05688c510e527fa54ff53a3c6ef372bb67ae856a09e667 32

def sha384 : Bytes → Bytes := sha2 sha64 64
  0x47b5481dbefa4fa4db0c2e0d64f98fa78eb44a876858151167332667ffc00b31152fecd8f70e59399159015a3070dd17629a292a367cd507cbbb9d5dc1059ed8 48

def sha512 : Bytes → Bytes := sha2 sha64 64
  0x5be0cd19137e21791f83d9abfb41bd6b9b05688c2b3e6c1f510e527fade682d1a54ff53a5f1d36f13c6ef372fe94f82bbb67ae8584caa73b6a09e667f3bcc908 64

/-- Round constants of Keccak-f[1600]. -/
def keccakRc : Nat :=
  0x8000000080008008000000008000000180000000000080808000000080008081800000008000000a000000000000800a8000000000000080800000000000800280000000000080038000000000008089800000000000008b000000008000808b000000008000000a00000000800080090000000000000088000000000000008a800000000000800980000000800080810000000080000001000000000000808b8000000080008000800000000000808a00000000000080820000000000000001

/-- Rotation counts of the lanes, lane x + 5 y at byte x + 5 y. -/
def keccakRot : Nat := 0xe383d021208150f2d2927192b0a031437062c241b1c3e0100

/-- One round on the 25 lanes, lane x + 5 y at index x + 5 y. -/
def keccakRound (a : List (BitVec 64)) (rc : BitVec 64) : List (BitVec 64) :=
  let g := fun i => a.getD i 0
  let c := (List.range 5).map fun x => g x ^^^ g (x + 5) ^^^ g (x + 10) ^^^ g (x + 15) ^^^ g (x + 20)
  let d := (List.range 5).map fun x => c.getD ((x + 4) % 5) 0 ^^^ (c.getD ((x + 1) % 5) 0).rotateLeft 1
  let r := (List.range 25).map fun i =>
    (g i ^^^ d.getD (i % 5) 0).rotateLeft (keccakRot >>> (8 * i) % 256)
  -- lane (x, y) of the permuted state is lane (x + 3 y, x) of the old one
  let b := (List.range 25).map fun i => r.getD ((i % 5 + 3 * (i / 5)) % 5 + 5 * (i % 5)) 0
  let o := (List.range 25).map fun i =>
    b.getD i 0 ^^^ (~~~ b.getD ((i % 5 + 1) % 5 + 5 * (i / 5)) 0 &&& b.getD ((i % 5 + 2) % 5 + 5 * (i / 5)) 0)
  match o with
  | x :: xs => (x ^^^ rc) :: xs
  | [] => []

def keccakF (a : List (BitVec 64)) : List (BitVec 64) :=
  (List.range 24).foldl (fun s i => keccakRound s (constAt keccakRc 64 i)) a

/-- A block absorbed into the state. -/
def keccakAbsorb (a : List (BitVec 64)) (block : Bytes) : List (BitVec 64) :=
  let ls := (chunks 8 block).map fun c => BitVec.ofNat 64 (leNat c)
  keccakF (a.zipIdx.map fun p => p.1 ^^^ ls.getD p.2 0)

/-- `k` blocks squeezed from the state. -/
def keccakSqueeze (rate : Nat) : Nat → List (BitVec 64) → Bytes
  | 0, _ => []
  | k + 1, a => (a.flatMap fun w => leBytes 8 w.toNat).take rate ++ keccakSqueeze rate k (keccakF a)

/-- The sponge with a rate in bytes, a domain byte and an output length (FIPS 202). -/
def keccak (rate : Nat) (domain : Byte) (out : Nat) (m : Bytes) : Bytes :=
  let z := rate - m.length % rate
  let p := if z = 1 then m ++ [domain ^^^ 0x80] else m ++ [domain] ++ zeros (z - 2) ++ [0x80]
  (keccakSqueeze rate (ceilDiv out rate) ((chunks rate p).foldl keccakAbsorb (List.replicate 25 0))).take out

def sha3 (out : Nat) (m : Bytes) : Bytes := keccak (200 - 2 * out) 0x06 out m

def shake128 (m : Bytes) (out : Nat) : Bytes := keccak 168 0x1f out m

def shake256 (m : Bytes) (out : Nat) : Bytes := keccak 136 0x1f out m

/-- HMAC over a hash with a block length (FIPS 198-1). -/
def hmac (hash : Bytes → Bytes) (block : Nat) (key m : Bytes) : Bytes :=
  let k0 := let k := if key.length > block then hash key else key; k ++ zeros (block - k.length)
  hash (k0.map (· ^^^ 0x5c) ++ hash (k0.map (· ^^^ 0x36) ++ m))

def hmacSha256 : Bytes → Bytes → Bytes := hmac sha256 64

def hmacSha384 : Bytes → Bytes → Bytes := hmac sha384 128

def hmacSha512 : Bytes → Bytes → Bytes := hmac sha512 128

end Sys2Proof.Machine
end

