-- ==== Sys2Proof/Machine/State.lean ====
section
/-!
DEFINITION. Sys2Proof/Machine/State.lean: the state of the module as plain data, every field with the rule that
names it, the state after a cold reset, and the reasons a step can stop.
-/

namespace Sys2Proof.Machine

/-- PITCH_STATUS.STATE (R33 Table 2-3): the states of a pitch (R94). -/
inductive PitchMode where
  | absent | active | resetting | locked
  deriving DecidableEq, Repr

/-- STATE of a queue (R33 Table 2-5). -/
inductive QState where
  | absent | active | error
  deriving DecidableEq, Repr

/-- Replication classes (R77 Table 3-3). -/
inductive RepClass where
  | stateful | reserve | stateless | localOnly
  deriving DecidableEq, Repr

/-- Twin states (R81 Table 3-6). -/
inductive TwinMode where
  | none | joining | attached | detached | diverged
  deriving DecidableEq, Repr

/-- Twin roles (R81). -/
inductive TwinRole where
  | none | primary | secondary
  deriving DecidableEq, Repr

/-- A queue: its submission ring and its completion ring (R33, R35, R37, R57). -/
structure Queue where
  /-- STATE; 2 bits (02 R33 Table 2-5). -/
  state : QState := .absent
  /-- ADMIN: an admin queue; 1 bit (02 R33 Table 2-5 and R36). -/
  admin : Bool := false
  /-- SIZE_LOG2; 0 while ABSENT; 5 bits (02 R33 Table 2-5 and R35). -/
  sizeLog2 : Nat := 0
  /-- ERROR_CAUSE, valid in ERROR; 4 bits (02 R33 Table 2-5). -/
  errorCause : Nat := 0
  /-- SQ_HEAD: the next entry the module fetches; 16 bits (02 R33 Table 2-5 and R40). -/
  sqHead : Nat := 0
  /-- SQ_TAIL: the host's tail; 16 bits (02 R33 Table 2-5 and R39). -/
  sqTail : Nat := 0
  /-- CQ_HEAD: the first slot the host has not consumed; 16 bits (02 R33 Table 2-6). -/
  cqHead : Nat := 0
  /-- CQ_TAIL: the next slot the module writes; 16 bits (02 R33 Table 2-6). -/
  cqTail : Nat := 0
  /-- PHASE: the pass bit being written; 1 bit (02 R33 Table 2-6 and R41). -/
  phase : Bool := true
  /-- base of the submission ring; 64 bits (02 R35, R61 Table 2-16). -/
  sqAddr : Nat := 0
  /-- base of the completion ring; 64 bits (02 R35, R61 Table 2-16). -/
  cqAddr : Nat := 0
  /-- VECTOR: MSI-X vector, 0xFFFF for none; 16 bits (02 R57, R61 Table 2-16). -/
  vector : Nat := 0xFFFF
  /-- AGG_COUNT: completions per message, minus 1; 8 bits (02 R57, R61 Table 2-16). -/
  aggCount : Nat := 0
  /-- AGG_TIME in microseconds; 16 bits (02 R57, R61 Table 2-16). -/
  aggTime : Nat := 0
  /-- completions without NO_IRQ written since the last message; counter (02 R57). -/
  aggWaiting : Nat := 0
  /-- when the first such completion was written; timer (02 R57). -/
  aggSince : Option Nat := none
  /-- messages owed by their AGG_TIME for completions written before a QUEUE_ROUTE, oldest first: vector and instant; timers (02 R62). -/
  owed : List (Nat × Nat) := []
  deriving DecidableEq, Repr

/-- A submission entry, parsed from its 64 bytes (R43 Table 2-9). -/
structure Entry where
  /-- OPCODE; 16 bits (02 R43 Table 2-9). -/
  opcode : Nat := 0
  /-- FLAGS: QUEUE, SEQ_AUTO, NO_IRQ, FENCE; 16 bits (02 R43 Table 2-9). -/
  flags : Nat := 0
  /-- ACCESS: HANDLE_WRITE, HANDLE_VALID; 8 bits (02 R43 Table 2-9). -/
  access : Nat := 0
  /-- byte 5: PARAM_LEN16 or APPROVAL_LEN256; 8 bits (02 R43 Table 2-9). -/
  len5 : Nat := 0
  /-- RESERVE: RESERVE_SLOT, RESERVE_COUNT; 16 bits (02 R43 Table 2-9). -/
  reserve : Nat := 0
  /-- SEQ; 64 bits (02 R43 Table 2-9). -/
  seq : Nat := 0
  /-- HANDLE0; 32 bits (02 R43 Table 2-9). -/
  handle0 : Nat := 0
  /-- HANDLE1; 32 bits (02 R43 Table 2-9). -/
  handle1 : Nat := 0
  /-- HANDLE2; 32 bits (02 R43 Table 2-9). -/
  handle2 : Nat := 0
  /-- HANDLE3; 32 bits (02 R43 Table 2-9). -/
  handle3 : Nat := 0
  /-- IN_ADDR, or PARAM_ADDR of a management command; 64 bits (02 R43 Table 2-9). -/
  addr32 : Nat := 0
  /-- IN_LEN, or PARAM_LEN of a management command; 32 bits (02 R43 Table 2-9). -/
  len40 : Nat := 0
  /-- OUT_LEN; 32 bits (02 R43 Table 2-9). -/
  outLen : Nat := 0
  /-- OUT_ADDR; 64 bits (02 R43 Table 2-9). -/
  outAddr : Nat := 0
  /-- PARAM_ADDR of an operational command, or APPROVAL_ADDR; 64 bits (02 R43 Table 2-9). -/
  addr56 : Nat := 0
  deriving DecidableEq, Repr

/-- A fetched entry that waits above SEQ_NEXT (R46). -/
structure Waiting where
  /-- the queue it was fetched from; 4 bits (02 R46). -/
  queue : Nat := 0
  /-- the entry's bytes; 64 bytes (02 R43). -/
  raw : Bytes := []
  /-- the entry, parsed; 64 bytes (02 R43). -/
  entry : Entry := {}
  /-- its slot in the submission ring; 16 bits (02 R40). -/
  slot : Nat := 0
  /-- it is to be fetched again, because its warden failed; 1 bit (14 R357). -/
  again : Bool := false
  deriving DecidableEq, Repr

/-- What a command takes as inputs from its placement instant (R66, R73, R106). -/
structure Conditions where
  /-- the admission timestamp, TAI ns; 64 bits (03 R65, 13 R329). -/
  stamp : Nat := 0
  /-- the device clock was trusted; 1 bit (03 R66). -/
  trusted : Bool := false
  /-- the module or the pitch was LOCKED; 1 bit (03 R66, 04 R96). -/
  locked : Bool := false
  /-- the life-cycle state; 3 bits (03 R66). -/
  lifeCycle : Nat := 0
  /-- AUDIT_STRICT held and no persistent log existed; 1 bit (03 R66, 17 R422). -/
  logGone : Bool := false
  /-- the permitted host windows; 8 x 128 bits (04 R99, R106, R115). -/
  windows : List (Nat × Nat) := []
  /-- the PASID of its DMA; none for the operator; 20 bits (04 R99, R106). -/
  pasid : Option Nat := none
  /-- REGION_MASK; 8 bits (04 R106). -/
  regionMask : Nat := 0
  /-- ENTROPY_WAIT in ms; 32 bits (04 R97, 09 R239). -/
  entropyWait : Nat := 0
  /-- slots whose operator handle was granted to the pitch; 4 bits (03 R73, 05 R127). -/
  grants : List Nat := []
  /-- the bound custom-function image it was placed under; image (03 R79, 12 R317). -/
  cfImage : Option Bytes := none
  /-- slot, DRAW_CALLS and BUDGET of that binding; 48 bits (12 R315, R317). -/
  cfGroup : Option (Nat × Nat × Nat) := none
  /-- the module was READY; 1 bit (03 R66). -/
  ready : Bool := false
  /-- the random start-up window had ended; 1 bit (09 R243). -/
  started : Bool := false
  deriving DecidableEq, Repr

/-- Where a placed command stands (R22 Table 1-4): its structures are read, it waits for its random calls or its start, it runs, its result is computed, it has committed and waits for its chain link, or its link waits for the twin. -/
inductive Phase where
  | reading | ready | running | computed | linking | held
  deriving DecidableEq, Repr

/-- The pitch configuration record (R97 Table 4-1). -/
structure PitchConf where
  /-- PASID; 20 bits (04 R97 Table 4-1). -/
  pasid : Nat := 0
  /-- VECTOR_BASE; 16 bits (04 R97 Table 4-1). -/
  vectorBase : Nat := 0
  /-- VECTOR_COUNT; 16 bits (04 R97 Table 4-1). -/
  vectorCount : Nat := 0
  /-- REGION_MASK; 8 bits (04 R97 Table 4-1). -/
  regionMask : Nat := 0
  /-- QUEUE_QUOTA; 8 bits (04 R97 Table 4-1). -/
  queueQuota : Nat := 0
  /-- ADMIT_DEPTH; 16 bits (04 R97 Table 4-1). -/
  admitDepth : Nat := 0
  /-- LATENCY_BUDGET; 32 bits (04 R97 Table 4-1). -/
  latencyBudget : Nat := 0
  /-- WEIGHT; 8 x 16 bits (04 R97 Table 4-1). -/
  weights : List Nat := []
  /-- CAP_BLOCKS; 8 bits (04 R97 Table 4-1). -/
  capBlocks : Nat := 0
  /-- CAP_LIUS; 8 bits (04 R97 Table 4-1). -/
  capLius : Nat := 0
  /-- CAP_HASH; 8 bits (04 R97 Table 4-1). -/
  capHash : Nat := 0
  /-- CACHE_QUOTA; 32 bits (04 R97 Table 4-1). -/
  cacheQuota : Nat := 0
  /-- MRAM_QUOTA; 32 bits (04 R97 Table 4-1). -/
  mramQuota : Nat := 0
  /-- ENTROPY_WAIT; 32 bits (04 R97 Table 4-1). -/
  entropyWait : Nat := 0
  /-- WINDOW0 to WINDOW7; 8 x 128 bits (04 R97 Table 4-1). -/
  windows : List (Nat × Nat) := []
  deriving DecidableEq, Repr

/-- State of a staging set (R333). -/
inductive SetState where
  | empty | opened | pending
  deriving DecidableEq, Repr

/-- A staging set (R333, R336, R340). -/
structure StageSet where
  /-- STATE; 2 bits (13 R333). -/
  state : SetState := .empty
  /-- image; 160, 96 or 176 bytes (13 R333). -/
  image : Bytes := []
  /-- it holds an operator-owned write; 1 bit (04 R104). -/
  opWrite : Bool := false
  /-- WHEN; 8 bits (13 R340 Table 13-6). -/
  when_ : Nat := 0
  /-- SECOND; 64 bits (13 R340 Table 13-6). -/
  second : Nat := 0
  /-- TAI second whose boundary is the instant; 64 bits (13 R336). -/
  boundary : Nat := 0
  /-- LAST_STATUS; 16 bits (13 R340 Table 13-6). -/
  lastStatus : Nat := 0
  /-- LAST_DETAIL; 16 bits (13 R340 Table 13-6). -/
  lastDetail : Nat := 0
  /-- LAST_INSTANT; 64 bits (13 R340 Table 13-6). -/
  lastInstant : Nat := 0
  deriving DecidableEq, Repr

/-- The attribute record of a key (R128 Table 5-4). -/
structure Attr where
  /-- HANDLE; 32 bits (05 R128 Table 5-4). -/
  handle : Nat := 0
  /-- GENERATION; 32 bits (05 R128 Table 5-4). -/
  generation : Nat := 0
  /-- USAGE; 8 bits (05 R128 Table 5-4). -/
  usage : Nat := 0
  /-- ALGORITHM; 8 bits (05 R128 Table 5-4). -/
  alg : Nat := 0
  /-- LENGTH; 16 bits (05 R128 Table 5-4). -/
  length : Nat := 0
  /-- FLAGS; 16 bits (05 R128 Table 5-4). -/
  flags : Nat := 0
  /-- DERIVE_TO; 16 bits (05 R128 Table 5-4). -/
  deriveTo : Nat := 0
  /-- NOT_BEFORE; 64 bits (05 R128 Table 5-4). -/
  notBefore : Nat := 0
  /-- NOT_AFTER; 64 bits (05 R128 Table 5-4). -/
  notAfter : Nat := 0
  /-- DEPTH; 8 bits (05 R128 Table 5-4). -/
  depth : Nat := 0
  /-- NONCE_LIMIT; 96 bits (05 R128 Table 5-4). -/
  nonceLimit : Nat := 0
  /-- TAG; 8 bytes (05 R128 Table 5-4). -/
  tag : Bytes := []
  deriving DecidableEq, Repr

/-- An officer record (R156 Table 6-2). -/
structure Officer where
  /-- ROLE; 8 bits (06 R155 Table 6-1). -/
  role : Nat := 0
  /-- ALGORITHM; 8 bits (06 R156). -/
  alg : Nat := 0
  /-- LABEL; 16 bytes (06 R156). -/
  label : Bytes := []
  /-- PUBLIC_KEY; 97 or 1,952 bytes (06 R156). -/
  pub : Bytes := []
  deriving DecidableEq, Repr

/-- A slot of a value that MRAM keeps under the two-slot scheme (R135, R147, R164): zeros until it is first written. -/
structure StoredSlot where
  /-- write sequence; 64 bits (05 R147). -/
  seq : Nat := 0
  /-- the value; 96 bits (05 R135). -/
  value : Nat := 0
  /-- CRC-32 over the sequence and the value; 32 bits (05 R147). -/
  crc : Nat := 0
  deriving DecidableEq, Repr

/-- A value kept in two MRAM slots (R147). -/
structure Stored where
  /-- first slot; record (05 R147). -/
  a : StoredSlot := {}
  /-- second slot; record (05 R147). -/
  b : StoredSlot := {}
  deriving DecidableEq, Repr

/-- The roster of a domain with its quorum table, seal and floor (R155 to R159, R164). -/
structure Roster where
  /-- officers by index; 16 records (06 R155). -/
  officers : Tab Officer := []
  /-- M of each role; 6 x 8 bits (06 R157). -/
  quorum : Tab Nat := []
  /-- the roster is sealed; 1 bit (06 R158). -/
  isSealed : Bool := false
  /-- approval floor, in two MRAM slots; 64 bits (06 R164). -/
  floors : Stored := {}
  /-- INCARNATION; never erased; 32 bits (06 R159). -/
  incarnation : Nat := 0
  deriving DecidableEq, Repr

/-- The route of an event source (R424, R425). -/
structure Route where
  /-- MSI-X vector, 0xFFFF for none; 16 bits (17 R425 Table 17-6). -/
  vector : Nat := 0xFFFF
  /-- ALERT_N; 1 bit (17 R425). -/
  alert : Bool := false
  /-- SMB_ALERT_N; 1 bit (17 R425). -/
  smbAlert : Bool := false
  /-- trail; 1 bit (17 R425). -/
  trail : Bool := false
  deriving DecidableEq, Repr

/-- A record retained or awaiting acknowledgement on a twinned primary (R85, R88). -/
structure TwinRec where
  /-- record number on the link; counter (20 R467). -/
  index : Nat := 0
  /-- SEQ of the command; 64 bits (03 R85). -/
  seq : Nat := 0
  /-- STATE, RESERVE, reseed, instantiation or handover; 8 bits (03 R85). -/
  kind : Nat := 0
  /-- its canonical inputs; record (03 R85). -/
  body : Bytes := []
  /-- its chain link digest; 48 bytes (03 R85). -/
  digest : Bytes := []
  /-- when it was forwarded; time (03 R86). -/
  since : Nat := 0
  deriving DecidableEq, Repr

/-- The twin state of a pitch (R81 to R92). -/
structure Twin where
  /-- STATE; 8 bits (03 R92 Table 3-9). -/
  mode : TwinMode := .none
  /-- ROLE; 8 bits (03 R92 Table 3-9). -/
  role : TwinRole := .none
  /-- MODE: 0 SYNC, 1 ASYNC; 8 bits (03 R92 Table 3-8). -/
  async : Bool := false
  /-- PEER_PITCH; 8 bits (03 R92 Table 3-8). -/
  peer : Nat := 0
  /-- LAG_MAX; 32 bits (03 R92 Table 3-8). -/
  lagMax : Nat := 0
  /-- LAG_TIME; 32 bits (03 R92 Table 3-8). -/
  lagTime : Nat := 0
  /-- TIMEOUT; 32 bits (03 R92 Table 3-8). -/
  timeout : Nat := 0
  /-- records not yet acknowledged; up to 65,536 records (03 R86, R88). -/
  unacked : List TwinRec := []
  /-- LAST_ACKED_SEQ: last acknowledged, or last applied; 64 bits (03 R92 Table 3-9). -/
  acked : Nat := 0
  /-- DIVERGED_SEQ; 64 bits (03 R92 Table 3-9). -/
  divergedSeq : Nat := 0
  /-- when a heartbeat or acknowledgement last arrived; time (03 R88). -/
  lastHeard : Nat := 0
  /-- placement is paused for lag; 1 bit (03 R86). -/
  lagPaused : Bool := false
  /-- the primary's SEQ_NEXT in the latest heartbeat; 64 bits (03 R87). -/
  peerNext : Nat := 0
  /-- seed and nonce of an instantiation that the next drawing record carries; 64 bytes (09 R241). -/
  instSeed : Bytes := []
  /-- the personalisation string of the DRBG that this side shares with its primary; empty once a reset or a STRIKE has taken it; 33 bytes (09 R236, R241). -/
  peerPers : Bytes := []
  /-- highest SEQ no longer retained; 64 bits (03 R88). -/
  lostFrom : Option Nat := none
  /-- SEQ of the TWIN_ESTABLISH awaiting its acknowledgement; 64 bits (03 R84). -/
  establishing : Option Nat := none
  deriving DecidableEq, Repr

/-- State of a custom-function image slot (R315). -/
inductive CfState where
  | empty | loaded | accepted
  deriving DecidableEq, Repr

/-- A custom-function image slot (R314, R315). -/
structure CfImage where
  /-- STATE; 2 bits (12 R315). -/
  state : CfState := .empty
  /-- the stored image; image (12 R314 Table 12-2). -/
  image : Bytes := []
  /-- IMAGE_DIGEST; 48 bytes (12 R315). -/
  digest : Bytes := []
  deriving DecidableEq, Repr

/-- A bound invocation group (R315 Table 12-3). -/
structure CfGroup where
  /-- SLOT; 8 bits (12 R315 Table 12-3). -/
  slot : Nat := 0xFF
  /-- DRAW_CALLS; 8 bits (12 R315 Table 12-3). -/
  drawCalls : Nat := 0
  /-- BUDGET; 32 bits (12 R315 Table 12-3). -/
  budget : Nat := 0
  deriving DecidableEq, Repr

/-- A change of the life-cycle group (R397 to R409): a field burned into all three copies, the token digest of transition 6, a mode bit, the
debug level with its pitch, an Efori image in an MRAM copy. -/
inductive LcChange where
  | burn (field : Nat) (immediate : Bool)
  | digest (bytes : Bytes)
  | mode (transition : Nat)
  | debug (level pitch : Nat)
  | firmware (copy : Nat) (image : Bytes)
  deriving DecidableEq, Repr

/-- A state change that a command's commit point applies (R24, R75): the delta it holds until then. -/
inductive Effect where
  /-- QUEUE_CREATE, QUEUE_DELETE, QUEUE_ROUTE, QUEUE_RECOVER, SEQ_GAP_SET on the submitting domain (R61, R62). -/
  | queueCreate (queue : Nat) (q : Queue)
  | queueDelete (queue : Nat)
  | queueRoute (queue vector count time : Nat)
  | queueRecover (queue : Nat)
  | gapTimeout (ns : Nat)
  /-- PITCH_CREATE with the seed its DRBG is instantiated from, PITCH_DESTROY, the end of a PITCH_RESET,
  PITCH_LOCK, PITCH_UNLOCK (R94 to R96, R110). -/
  | pitchCreate (pitch : Nat) (conf : PitchConf)
  | pitchDestroy (pitch : Nat)
  | pitchResetEnd (pitch : Nat)
  | pitchLock (pitch : Nat)
  | pitchUnlock (pitch : Nat)
  /-- DIRTY_LOG_START and DIRTY_LOG_STOP (R113). -/
  | dirtyStart (pitch bitmap base pages : Nat)
  | dirtyStop (pitch : Nat)
  /-- A write to a staging set, a timed commit of it, a commit NOW, its discard (R333, R336, R339). -/
  | setWrite (key offset : Nat) (data : Bytes)
  | setPend (key when_ second : Nat)
  | setNow (key : Nat)
  | setDrop (key : Nat)
  /-- TIME_SET (R331). -/
  | timeSet (second : Nat)
  /-- A key created or replaced with its attributes and value, restricted, or destroyed (R142 to R150). -/
  | keyPut (dom handle : Nat) (attr : Attr) (value : Bytes) (fresh : Bool)
  | keyAttr (dom handle : Nat) (attr : Attr)
  | keyDrop (dom handle : Nat)
  /-- KEY_GRANT (R127). -/
  | grant (pitch index : Nat) (on : Bool)
  /-- The officer commands (R156 to R158). -/
  | roster (r : Roster)
  /-- LOG_ROTATE, LOG_RATE_SET, EVENT_ROUTE, EVENT_CLEAR (R418, R419, R424, R425). -/
  | logRotate (sram mram : Bool)
  | rate (code rate burst : Nat)
  | route (source : Nat) (r : Route)
  | eventClear (sources : List Nat)
  /-- PERF_GRANT and PERF_SAMPLES (R437, R438). -/
  | perfGrant (pitch : Nat) (on : Bool)
  | samplesTaken (block count : Nat)
  /-- The life-cycle group (R397 to R409). -/
  | lifeCycle (change : LcChange)
  /-- TAMPER_CLEAR (R376). -/
  | tamperClear (mask : Nat)
  /-- The twin commands (R81 to R92). -/
  | twin (t : Twin)
  | twinDissolve
  | twinHandover
  /-- The custom-function group (R315 to R317). -/
  | cfImage (pitch slot : Nat) (image : CfImage)
  | cfAccept (pitch slot : Nat) (digest : Bytes)
  | cfGroup (pitch group : Nat) (g : CfGroup)
  /-- A trail entry and an event that the change records (R412, R424). -/
  | trail (code origin severity : Nat) (data : Bytes)
  | event (source : Nat)
  deriving DecidableEq, Repr

/-- The admission record of a placed command (R66, R71, R72, R75, R77). -/
structure Cmd where
  /-- its number among the commands placed in its domain; counter (02 R46, the model's own field). -/
  id : Nat := 0
  /-- SEQ as placed; 64 bits (02 R46). -/
  seq : Nat := 0
  /-- the queue it came from; 4 bits (02 R43). -/
  queue : Nat := 0
  /-- the entry's bytes; 64 bytes (02 R43). -/
  raw : Bytes := []
  /-- the entry; 64 bytes (02 R43). -/
  entry : Entry := {}
  /-- its stage; stage (01 R22 Table 1-4). -/
  phase : Phase := .reading
  /-- replication class, chosen at placement; class (03 R77). -/
  cls : RepClass := .localOnly
  /-- the sampled conditions; record (03 R66). -/
  cond : Conditions := {}
  /-- structures not yet read; set (02 R45). -/
  toRead : List DmaPart := []
  /-- parameter block as read; up to 4 MiB (02 R43). -/
  param : Bytes := []
  /-- approvals list as read; up to 65,280 bytes (06 R162). -/
  approvals : Bytes := []
  /-- input scatter list as read; up to 4 KiB (02 R44). -/
  inList : Bytes := []
  /-- output scatter list as read; up to 4 KiB (02 R44). -/
  outList : Bytes := []
  /-- input bytes as read; up to 4 MiB (02 R54). -/
  input : Bytes := []
  /-- first reserved nonce value; 96 bits (03 R71). -/
  reserveStart : Option Nat := none
  /-- byte count of each assigned DRBG call; per call (03 R72). -/
  draws : List Nat := []
  /-- first assigned call number, 0 for none; 64 bits (03 R72). -/
  firstCall : Nat := 0
  /-- prediction resistance; 1 bit (09 R238). -/
  predict : Bool := false
  /-- the assigned DRBG output, once generated; per call (03 R72, R75). -/
  drawn : Option Bytes := none
  /-- seed of the reseed that applies before its calls; 384 bits (09 R237). -/
  reseed : Option Bytes := none
  /-- reseeds since instantiation, once its calls are generated; 64 bits (03 R80). -/
  reseeds : Nat := 0
  /-- its placement instant; time (09 R238, R239). -/
  placedAt : Nat := 0
  /-- when its entropy wait began; timer (09 R239). -/
  waitFrom : Option Nat := none
  /-- it completes with E_ENTROPY; 1 bit (09 R239). -/
  entropyFail : Bool := false
  /-- it has been started, in a block or on the active warden; 1 bit (03 R75). -/
  ran : Bool := false
  /-- it is past its commit point and is executed again for the outputs that an isolation took; 1 bit (01 R26, 03 R76). -/
  redo : Bool := false
  /-- STATUS, delta records and output as its commit point found them; record (03 R76). -/
  commitRec : Option (Nat × Bytes × Bytes) := none
  /-- the declared keys as they stood before its commit point, or, on a TWIN_ESTABLISH, keys that a later command has changed before the
  pitch was sent: owner, handle, attributes and value; keys (01 R26, 03 R84). -/
  preKeys : List (Nat × Nat × Option (Attr × Bytes)) := []
  /-- region the arbiter chose; 3 bits (04 R100). -/
  region : Nat := 0
  /-- block the arbiter chose; 4 bits (04 R100). -/
  block : Nat := 0
  /-- STATUS of its result; 16 bits (02 R59). -/
  status : Nat := 0
  /-- DETAIL of its result; 16 bits (02 R56). -/
  detail : Nat := 0
  /-- output in the region buffer; up to 4 MiB (02 R56). -/
  output : Bytes := []
  /-- RESULT_LEN; 24 bits (02 R56). -/
  resultLen : Nat := 0
  /-- its chain link, once computed; 48 bytes (03 R78). -/
  digest : Option Bytes := none
  /-- its delta records; records (03 R80). -/
  delta : Bytes := []
  /-- its state changes, which its commit point applies; state changes (01 R24). -/
  effects : List Effect := []
  /-- its own approval-floor write stands; 1 bit (06 R164, 14 R357). -/
  floored : Bool := false
  /-- an engine call of the command named a handle that it did not declare; 1 bit (03 R69). -/
  undeclared : Bool := false
  /-- cancelled or aborted: links as RESERVE with STATUS 0xFFFF; 1 bit (01 R27, 04 R108). -/
  aborted : Bool := false
  /-- its completion is not posted; 1 bit (04 R108). -/
  noPost : Bool := false
  /-- its completion has been posted; 1 bit (01 R27). -/
  posted : Bool := false
  /-- progress of a management command that waits for events; counter (04 R108, R113). -/
  stage : Nat := 0
  /-- it has passed every admission check; 1 bit (02 R45). -/
  admitted : Bool := false
  /-- its placement has ended with the assignment of its calls; 1 bit (03 R72). -/
  assigned : Bool := false
  /-- entropy input of the reseed that its calls took, for the twin record; 384 bits (03 R85, 09 R237). -/
  seedUsed : Option Bytes := none
  /-- chain link digest of the primary, on a command applied from a record; 48 bytes (03 R85, R86). -/
  twinDigest : Option Bytes := none
  /-- the primary's STATUS, on such a command; 16 bits (03 R85). -/
  twinStatus : Nat := 0
  /-- on a command applied from a twin record, the output length that the primary's descriptor allowed; 32 bits (12 R319, the model's own field). -/
  twinSpace : Option Nat := none
  /-- when it became ready to start; timer (13 R346). -/
  readySince : Option Nat := none
  /-- block, by its global number, that the command is not to take when it is executed again; 7 bits (07 R187, 14 R364). -/
  rerunBlock : Option Nat := none
  /-- region in which it is to be executed again; 3 bits (14 R364). -/
  rerunIn : Option Nat := none
  /-- region in which it is not to be executed again; 3 bits (14 R364). -/
  rerunOut : Option Nat := none
  /-- region of its override; 3 bits (14 R365). -/
  override : Option Nat := none
  /-- key value that the record carries; up to 64 bytes (03 R85). -/
  twinKey : Option Bytes := none
  /-- on a DIGEST_READ that a later link has overtaken, the digest and the CHAIN_SEQ that its own SEQ sees; 56 bytes (01 R21, 03 R92). -/
  chainSeen : Option (Bytes × Nat) := none
  deriving DecidableEq, Repr

/-- A CTR_DRBG with AES-256 and its counts (R235 Table 9-3, R236, R237). -/
structure Drbg where
  /-- instantiated; 1 bit (09 R245 Table 9-9). -/
  inst : Bool := false
  /-- Key; 256 bits (09 R235). -/
  key : Bytes := []
  /-- V; 128 bits (09 R235). -/
  v : Bytes := []
  /-- CALLS_SINCE_RESEED; 64 bits (09 R237, Table 9-9). -/
  sinceReseed : Nat := 0
  /-- number of the last generate call; 64 bits (03 R72, R80). -/
  lastCall : Nat := 0
  /-- RESEEDS; 64 bits (09 Table 9-9). -/
  reseeds : Nat := 0
  /-- a reseed was due and no seed was ready; 1 bit (09 R237). -/
  stretched : Bool := false
  deriving DecidableEq, Repr

/-- State of a dirty-page log (R116 Table 4-5). -/
inductive DirtyMode where
  | off | running | failed
  deriving DecidableEq, Repr

/-- Dirty-page logging of a pitch (R112 to R114, R461). -/
structure Dirty where
  /-- dirty log state; 2 bits (04 R116 Table 4-5). -/
  mode : DirtyMode := .off
  /-- BITMAP_ADDR; 64 bits (04 R116 Table 4-5). -/
  bitmap : Nat := 0
  /-- COVER_BASE; 64 bits (04 R116 Table 4-5). -/
  coverBase : Nat := 0
  /-- COVER_PAGES; 32 bits (04 R116 Table 4-5). -/
  coverPages : Nat := 0
  /-- the value the module last knew each bitmap word to hold; 64 bits per word (20 R461). -/
  known : Tab Nat := []
  /-- bits still to be set, by bitmap word; 64 bits per word (20 R461). -/
  wanted : Tab Nat := []
  /-- compare value and mask of the CAS outstanding for a word; 2 x 64 bits per word (20 R461). -/
  sent : Tab (Nat × Nat) := []
  /-- bits that a DIRTY_LOG_FLUSH or DIRTY_LOG_STOP in progress waits for; 64 bits per word (04 R113, 20 R462). -/
  flush : Tab Nat := []
  /-- CAS attempts in a row that did not swap; counter per word (20 R462). -/
  fails : Tab Nat := []
  deriving DecidableEq, Repr

/-- A nonce counter and its stored ceiling (R133 to R136). -/
structure Nonce where
  /-- next value; 96 bits (87 for kind 10) (05 R133, R134). -/
  next : Nat := 0
  /-- ceiling, in two MRAM slots; 96 bits (05 R135, R147). -/
  stored : Stored := {}
  deriving DecidableEq, Repr

/-- An MRAM key record slot (R147 Table 5-10). -/
structure Slot where
  /-- RECORD_SEQ; 64 bits (05 R147 Table 5-10). -/
  recordSeq : Nat := 0
  /-- SIDE; 8 bits (05 R147 Table 5-10). -/
  side : Nat := 0
  /-- ATTR; 64 bytes (05 R147 Table 5-10). -/
  attr : Attr := {}
  /-- IV; 12 bytes (05 R147 Table 5-10). -/
  iv : Bytes := []
  /-- VALUE: AES-256-GCM ciphertext; VALUE_LEN bytes (05 R147 Table 5-10). -/
  value : Bytes := []
  /-- TAG; 16 bytes (05 R147 Table 5-10). -/
  tag : Bytes := []
  deriving DecidableEq, Repr

/-- The two MRAM slots of a key (R147). -/
structure KeyRec where
  /-- first slot; Table 5-10 (05 R147). -/
  slotA : Slot := {}
  /-- second slot; Table 5-10 (05 R147). -/
  slotB : Slot := {}
  deriving DecidableEq, Repr

/-- A pitch or the operator domain (R94, R115): queues, order, keys, officers, generator, digest chain. -/
structure Dom where
  /-- STATE; 4 bits (02 R33 Table 2-3, 04 R94). -/
  mode : PitchMode := .absent
  /-- marked as locked by PITCH_LOCK; 1 bit (04 R96). -/
  lockedByCommand : Bool := false
  /-- state a PITCH_RESET returns to; 4 bits (04 R110). -/
  resetFrom : PitchMode := .active
  /-- queues by number; 16 queues (02 R31, R35). -/
  queues : Tab Queue := []
  /-- commands placed so far; counter (02 R46, the model's own field). -/
  placed : Nat := 0
  /-- queue fetched last, for the round-robin; 4 bits (02 R40). -/
  lastFetched : Nat := 15
  /-- SEQ_NEXT; 64 bits (02 R33 Table 2-4). -/
  seqNext : Nat := 0
  /-- BUSY of its admin queues for its own count of management commands; 1 bit (02 R33 Table 2-5, R42). -/
  mgmtBusy : Bool := false
  /-- EVENT_ACK (pitches); 8 bits (02 R33 Table 2-7). -/
  eventAck : Nat := 0
  /-- SEQ_GAP_TIMEOUT in ns; 64 bits (02 R49). -/
  gapTimeout : Nat := 10000000
  /-- when the gap timer started; timer (02 R49). -/
  gapSince : Option Nat := none
  /-- fetched entries above SEQ_NEXT, in fetch order; up to ADMIT_DEPTH and R50 (02 R46). -/
  waiting : List Waiting := []
  /-- placed commands in SEQ order until their completion; up to ADMIT_DEPTH (02 R50, 03 R75). -/
  cmds : List Cmd := []
  /-- configuration record (pitches); 176 bytes (04 R97). -/
  conf : PitchConf := {}
  /-- configuration records that staged commits have replaced while commands placed before them are unfinished, newest first, each with the
  instant: what those commands still see; records (04 R106, 13 R337). -/
  confPast : List (Nat × PitchConf) := []
  /-- MRAM key records by canonical handle; MRAM (05 R118). -/
  keys : Tab KeyRec := []
  /-- kind 00 counters by canonical handle; MRAM (05 R133). -/
  nonces : Tab Nonce := []
  /-- this domain's counters on operator handles; MRAM (05 R134). -/
  opNonces : Tab Nonce := []
  /-- indices of operator keys granted to the pitch, rising; MRAM (05 R127). -/
  grants : List Nat := []
  /-- roster; MRAM (06 R155). -/
  roster : Roster := {}
  /-- the pitch or operator DRBG; chip fabric (09 R235). -/
  drbg : Drbg := {}
  /-- K_DIG; 256 bits (03 R80). -/
  kDig : Bytes := []
  /-- D, the last chain link; 48 bytes (03 R78). -/
  digest : Bytes := []
  /-- CHAIN_SEQ: SEQ of the last chain link; 64 bits (03 R92 Table 3-10). -/
  chainSeq : Nat := 0
  /-- twin state (pitches); record (03 R81). -/
  twin : Twin := {}
  /-- dirty-page log (pitches); record (04 R112). -/
  dirty : Dirty := {}
  /-- deficit counter for block time, by region; per region (04 R100). -/
  blockDeficit : Tab Nat := []
  /-- deficit counter for LIU time, by region; per region (04 R100). -/
  liuDeficit : Tab Nat := []
  /-- custom-function image slots; MRAM (12 R315). -/
  cfImages : Tab CfImage := []
  /-- custom-function invocation groups; MRAM (12 R315). -/
  cfGroups : Tab CfGroup := []
  deriving DecidableEq, Repr

/-- Entropy source states (R229 Table 9-1). -/
inductive SourceState where
  | off | starting | standby | active | failed | retired
  deriving DecidableEq, Repr

/-- An entropy source (R229 to R232). -/
structure Source where
  /-- state; 3 bits (09 R229 Table 9-1). -/
  state : SourceState := .off
  /-- entries into FAILED within 24 h; times (09 R229). -/
  fails : List Nat := []
  /-- entry into FAILED; time (09 R229). -/
  failedAt : Nat := 0
  /-- start of the window in progress; time (09 R232, R238). -/
  windowFrom : Nat := 0
  /-- the last sample; 1 bit (09 R231). -/
  last : Bool := false
  /-- consecutive equal samples; counter (09 R231). -/
  run : Nat := 0
  /-- the window in progress follows samples of a window discarded when the source became ACTIVE; 1 bit (09 R230, R231). -/
  broken : Bool := false
  /-- domain and number of the RAW_ENTROPY that captures it; command (09 R246). -/
  capture : Option (Nat × Nat) := none
  /-- it was ACTIVE when its capture began; 1 bit (09 R246). -/
  wasActive : Bool := false
  /-- STATE_AT_START of the capture, once it has begun; 3 bits (09 R246 Table 9-8). -/
  startState : Option Nat := none
  /-- RCT_FAILS of the capture; 32 bits (09 R246 Table 9-8). -/
  rctFails : Nat := 0
  /-- APT_FAILS of the capture; 32 bits (09 R246 Table 9-8). -/
  aptFails : Nat := 0
  /-- beginning of the capture; time (09 R246). -/
  captureFrom : Nat := 0
  deriving DecidableEq, Repr

/-- A conditioned seed (R233, R238). -/
structure Seed where
  /-- the seed; 384 bits (09 R233). -/
  bytes : Bytes := []
  /-- start of the window it came from; time (09 R238). -/
  windowFrom : Nat := 0
  deriving DecidableEq, Repr

/-- The entropy hardware of a region (R229 to R234, R244). -/
structure EntropyRegion where
  /-- sources 0 to 2; 3 sources (09 R229). -/
  sources : Tab Source := []
  /-- seed pool, oldest first; up to 16 x 384 bits (09 R233). -/
  pool : List Seed := []
  /-- a passed window not yet conditioned, with its start; 1,024 bits (09 R232). -/
  window : Option (List Bool × Nat) := none
  /-- the region borrows; 1 bit (09 R234 Table 9-9). -/
  borrowing : Bool := false
  /-- conditioner out of use; 1 bit (09 R244 Table 9-9). -/
  conditionerOut : Bool := false
  /-- the blinding DRBG; region fabric (09 R235, R240). -/
  blinding : Drbg := {}
  /-- the first of the two seeds of its instantiation, while the second is awaited; 384 bits (09 R234, R236). -/
  blindSeed : Option Bytes := none
  deriving DecidableEq, Repr

/-- The tags of KTW words (R275 Table 11-1); reserved stands for 8 to 14. -/
inductive Tag where
  | bits | int | bool | addr | handle | time | err | code | reserved (n : Fin 7) | empty
  deriving DecidableEq, Repr

/-- A KTW word: a 64-bit value with its tag (R275); EMPTY after a core reset (R277). -/
structure KWord where
  tag : Tag := .empty
  val : BitVec 64 := 0
  deriving DecidableEq, Repr

/-- One rule of a rule set (R309 Table 12-1). -/
structure Rule where
  /-- COLOUR; 4 bits (12 R309 Table 12-1). -/
  colour : Nat := 0
  /-- X; 1 bit (12 R309 Table 12-1). -/
  x : Bool := false
  /-- W; 1 bit (12 R309 Table 12-1). -/
  w : Bool := false
  /-- R; 1 bit (12 R309 Table 12-1). -/
  r : Bool := false
  /-- END_G; 32 bits (12 R309 Table 12-1). -/
  endG : Nat := 0
  /-- START_G; 32 bits (12 R309 Table 12-1). -/
  startG : Nat := 0
  deriving DecidableEq, Repr

/-- The three engines (R296). -/
inductive EngineKind where
  | cell | liu | hash
  deriving DecidableEq, Repr

/-- An engine job of a core (R296, R297, R177, R204, R299). -/
structure Job where
  /-- engine; 2 bits (11 R296). -/
  kind : EngineKind := .cell
  /-- job slot of the ticket; 5 bits (11 R296). -/
  slot : Nat := 0
  /-- generation of the slot; 8 bits (11 R296). -/
  gen : Nat := 0
  /-- descriptor address; 64 bits (11 R296). -/
  desc : Nat := 0
  /-- input words W0 to W6 read at issue; 7 x 68 bits (11 R296). -/
  words : List KWord := []
  /-- issued in FUNCTION mode; 1 bit (12 R311). -/
  function : Bool := false
  /-- when it ended, in order of ending; order (11 R297). -/
  ended : Option Nat := none
  /-- its STATUS word; 64 bits (11 R297). -/
  status : BitVec 64 := 0
  /-- the input as it stood at the call (cell jobs); up to 4 MiB (07 R177). -/
  input : Bytes := []
  /-- issued by Efori for an operational command of its own block; 1 bit (07 R194, 08 R220). -/
  firmware : Bool := false
  /-- each run follows from the one before it; 1 bit (07, Chaining modes in software). -/
  serial : Bool := false
  /-- bytes of each random value that its private-key computation draws; byte counts (08 R209 Table 8-4). -/
  blinds : List Nat := []
  /-- runs not yet ended; counter (07 R175). -/
  runs : Nat := 0
  /-- sibling retries; 16 bits (07 R177). -/
  retries : Nat := 0
  /-- LIU, hash engine or cell used last; unit (08 R206). -/
  lastUnit : Nat := 0
  /-- LIU context; 2 bits (08 R206). -/
  context : Nat := 0
  /-- its estimate; ns (08 R206, R219). -/
  cost : Nat := 0
  /-- dispatch, or end of its last segment; time (08 R207). -/
  since : Nat := 0
  /-- run (0 for an LIU or hash job) and unit of each failed check; runs and units (07 R187, 08 R214). -/
  tried : List (Nat × Nat) := []
  /-- runs or rests of runs not yet handed to a cell: number, first block, blocks; runs (07 R175, 07 R186). -/
  waiting : List (Nat × Nat × Nat) := []
  /-- an LIU or a hash engine holds it; 1 bit (08 R206, 04 R100). -/
  started : Bool := false
  /-- blocks of a cell job; counter (07 R177). -/
  blocks : Nat := 0
  /-- domain of its command; 9 bits (04 R100). -/
  dom : Nat := 0
  /-- placement number of its command; counter (11 R296). -/
  id : Option Nat := none
  deriving DecidableEq, Repr

/-- A custom-function invocation on a core (R318 to R321). -/
structure Invocation where
  /-- pitch; 8 bits (12 R318). -/
  pitch : Nat := 0
  /-- SEQ of the command; 64 bits (12 R318). -/
  seq : Nat := 0
  /-- its colour; 4 bits (12 R307). -/
  colour : Nat := 0
  /-- base of the code area; 64 bits (12 R319). -/
  code : Nat := 0
  /-- length of the code; the return stub follows it; 32 bits (12 R319). -/
  codeLen : Nat := 0
  /-- base of the output area; 64 bits (12 R319). -/
  output : Nat := 0
  /-- OUT_LEN; 32 bits (12 R319). -/
  outLen : Nat := 0
  /-- base and length of each area prepared for it; areas (12 R308, R319). -/
  areas : List (Nat × Nat) := []
  /-- placement number of its command; counter (12 R318). -/
  id : Nat := 0
  /-- BUDGET; 32 bits (12 R320). -/
  budget : Nat := 0
  /-- retired instructions since entry; 64 bits (12 R320). -/
  retired : Nat := 0
  deriving DecidableEq, Repr

/-- A block core with its local memory, rule sets, CSRs and jobs (R277, R278, R301, R307, R309). -/
structure Core where
  /-- W1 to W31; 31 x 68 bits (11 R277). -/
  regs : Tab KWord := []
  /-- address of the next instruction; 64 bits (11 R300). -/
  pc : BitVec 64 := 0
  /-- TSTATUS; 64 bits (11 R301 Table 11-11). -/
  tstatus : BitVec 64 := 0
  /-- TPC; 64 bits (11 R301 Table 11-11). -/
  tpc : BitVec 64 := 0
  /-- TCAUSE; 64 bits (11 R301 Table 11-11). -/
  tcause : BitVec 64 := 0
  /-- TVAL; 64 bits (11 R301 Table 11-11). -/
  tval : BitVec 64 := 0
  /-- TVEC; 64 bits (11 R301 Table 11-11). -/
  tvec : BitVec 64 := 0
  /-- IEN; 64 bits (11 R301 Table 11-11). -/
  ien : BitVec 64 := 3
  /-- IPEND; 64 bits (11 R301 Table 11-11). -/
  ipend : BitVec 64 := 0
  /-- TIMECMP; 64 bits (11 R301 Table 11-11). -/
  timecmp : BitVec 64 := 0xFFFFFFFFFFFFFFFF
  /-- CYCLE, less the cycles counted in its region; 64 bits (11 R301 Table 11-11). -/
  cycle : BitVec 64 := 0
  /-- INSTRET; 64 bits (11 R301 Table 11-11). -/
  instret : BitVec 64 := 0
  /-- halted by a double trap; 1 bit (11 R300). -/
  halted : Bool := false
  /-- STOP of a SPAN prefix whose stream instruction comes next; 2 bits (11 R292). -/
  span : Option Nat := none
  /-- local memory, by word number; 512 KiB of 68-bit words (11 R278, R279). -/
  mem : Tab KWord := []
  /-- colours of the granules of local memory; 4 bits per granule (12 R307). -/
  colours : Tab Nat := []
  /-- active rule set; 16 x 128 bits (12 R309). -/
  active : Tab Rule := []
  /-- standby rule set; 16 x 128 bits (12 R309). -/
  standby : Tab Rule := []
  /-- jobs whose tickets have not been returned; 32 slots (11 R297). -/
  jobs : List Job := []
  /-- generation of each job slot; 8 bits per slot (11 R296). -/
  gens : Tab Nat := []
  /-- jobs ended so far, for their order; counter (11 R297). -/
  endings : Nat := 0
  /-- custom-function invocations, the running one first; up to 14 (12 R307). -/
  invocations : List Invocation := []
  /-- counter number of the pending PERF interrupt; 16 bits (11 R302). -/
  perfNumber : Nat := 0
  /-- instructions and elements retired since PERF became pending; 4 bits (11 R304). -/
  perfSkid : Nat := 0
  /-- single-bit errors of the local memory that were corrected; counter (11 R279). -/
  corrected : Nat := 0
  deriving DecidableEq, Repr

/-- Cell states (R175 Table 7-2); LOADING and CLEARING are left when their fixed cycle count has passed. -/
inductive CellState where
  | idle | loading | running | clearing | quarantined | retired
  deriving DecidableEq, Repr

/-- A cipher cell (R169, R172, R175, R188). -/
structure Cell where
  /-- state; 3 bits (07 R175 Table 7-2). -/
  state : CellState := .idle
  /-- key register; up to 512 bits (07 R172). -/
  key : Bytes := []
  /-- core whose job it runs; 7 bits (07 R175). -/
  core : Nat := 0
  /-- job slot whose run it works on; 5 bits (07 R175). -/
  job : Nat := 0
  /-- number of the run within the job; counter (07 R175). -/
  run : Nat := 0
  /-- first block of the run, or of its rest after a retry; block index (07 R186). -/
  from_ : Nat := 0
  /-- blocks of the run still to do; counter (07 R175). -/
  blocks : Nat := 0
  /-- mismatches within 1 s; times (07 R188). -/
  misses : List Nat := []
  /-- age-outs within 1 s; times (07 R188). -/
  ages : List Nat := []
  /-- quarantines since the last cold reset; counter (07 R188). -/
  quarantines : Nat := 0
  /-- entry into quarantine; time (07 R188). -/
  since : Nat := 0
  /-- when the fixed cycle count of LOADING or CLEARING has passed; time (07 R170, R175 Table 7-2). -/
  until_ : Nat := 0
  deriving DecidableEq, Repr

/-- Service states of an LIU, a hash engine, a block or a region (R215, R364, R365, R366). -/
inductive UnitState where
  | service | quarantined | retired
  deriving DecidableEq, Repr

/-- A long-integer unit (R200, R206, R207, R215). -/
structure Liu where
  /-- state; 2 bits (08 R215). -/
  state : UnitState := .service
  /-- what each context is doing: 0 free, 1 holds a job, 2 is being scrubbed; 4 x 2 bits (08 R206). -/
  contexts : Tab Nat := []
  /-- operand memory, by context; an unlisted context is all zero; 4 x 16 KiB (08 R200, R216). -/
  memory : Tab Bytes := []
  /-- core and job slot of each context; 4 entries (08 R206). -/
  owners : Tab (Nat × Nat) := []
  /-- context the array serves; 2 bits (08 R207). -/
  running : Option Nat := none
  /-- short jobs run since the last long-job segment; counter (08 R207). -/
  shorts : Nat := 0
  /-- check failures within 1 s; times (08 R215). -/
  fails : List Nat := []
  /-- quarantines since the last cold reset; counter (08 R215). -/
  quarantines : Nat := 0
  /-- entry into quarantine; time (08 R215). -/
  since : Nat := 0
  deriving DecidableEq, Repr

/-- A hash engine (R366). -/
structure HashEngine where
  /-- state; 2 bits (14 R366). -/
  state : UnitState := .service
  /-- core and job slot it works on; job (11 R299). -/
  busy : Option (Nat × Nat) := none
  /-- faults within 1 s; times (14 R366). -/
  fails : List Nat := []
  /-- quarantines since the last cold reset; counter (14 R366). -/
  quarantines : Nat := 0
  /-- entry into quarantine; time (14 R366). -/
  since : Nat := 0
  deriving DecidableEq, Repr

/-- STATE of TIME_STATUS (R325 Table 13-2). -/
inductive ClockState where
  | unsynchronised | acquiring | locked | holdover | untrusted
  deriving DecidableEq, Repr

/-- The device clock and its discipline (R324 to R331). -/
structure Clock where
  /-- TAI_NS, TIME_NOW; 64 bits (13 R324 Table 13-1). -/
  tai : Nat := 0
  /-- nanoseconds since the cold reset, for the timers; it never moves but forward; 64 bits, ns (13 R324, the model's own field). -/
  mono : Nat := 0
  /-- ns a backward move still has to catch up, while TIME_NOW holds its value; ns (13 R328). -/
  frac : Nat := 0
  /-- TAI nanoseconds that pass in 10^9 ns of the reference: the steered rate; rate (13 R328). -/
  speed : Nat := 1000000000
  /-- part of a TAI nanosecond that has passed, in thousand-millionths; fraction (13 R328, the model's own field). -/
  part : Nat := 0
  /-- STATE; 4 bits (13 R325 Table 13-2). -/
  state : ClockState := .unsynchronised
  /-- SET; 1 bit (13 R325 Table 13-2). -/
  set : Bool := false
  /-- IN_WINDOW; 8 bits (13 R325 Table 13-2). -/
  inWindow : Nat := 0
  /-- LAST_REJECT; 8 bits (13 R325 Table 13-2). -/
  lastReject : Nat := 0
  /-- the last accepted edge, in mono time; 64 bits (13 R326, R332). -/
  lastEdge : Option Nat := none
  /-- LAST_EDGE; 64 bits (13 R332 Table 13-4). -/
  lastEdgeTai : Nat := 0
  /-- when the 1.5 s timeout last restarted; time (13 R327). -/
  lastAccept : Nat := 0
  /-- SHORT rejects; 32 bits (13 R332 Table 13-4). -/
  shorts : Nat := 0
  /-- LONG rejects; 32 bits (13 R332 Table 13-4). -/
  longs : Nat := 0
  /-- EARLY rejects; 32 bits (13 R332 Table 13-4). -/
  earlies : Nat := 0
  /-- LATE rejects; 32 bits (13 R332 Table 13-4). -/
  lates : Nat := 0
  /-- SEQ of a committed TIME_SET that waits for its boundary, and its SECOND; 64 bits (13 R331). -/
  timeSet : Option (Nat × Nat) := none
  /-- when the TICK_OUT pulse began; pin level (13 R330). -/
  tickOut : Option Nat := none
  deriving DecidableEq, Repr

/-- The committed CHIP set (R334 Table 13-5), held in MRAM. -/
structure ChipConf where
  /-- HOLDOVER_LIMIT; 32 bits (13 R334 Table 13-5). -/
  holdoverLimit : Nat := 3600
  /-- PERIOD_WINDOW; 32 bits (13 R334 Table 13-5). -/
  periodWindow : Nat := 100000
  /-- UTC_OFFSET; 16 bits (13 R334 Table 13-5). -/
  utcOffset : Nat := 0
  /-- AUDIT_POLICY; 8 bits (13 R334 Table 13-5). -/
  auditPolicy : Nat := 0
  /-- DEEPEST_STATE; 8 bits (13 R334 Table 13-5). -/
  deepest : Nat := 4
  /-- OP_LATENCY_BUDGET; 32 bits (13 R334 Table 13-5). -/
  opBudget : Nat := 10000000
  /-- TAKEBACK_HOLDOFF; 32 bits (13 R334 Table 13-5). -/
  takeback : Nat := 20
  /-- OP_WINDOW0 to OP_WINDOW7; 8 x 128 bits (13 R334 Table 13-5, 04 R115). -/
  windows : List (Nat × Nat) := [(0, 0xFFFFFFFFFFFFFFFF), (1, 0), (1, 0), (1, 0), (1, 0), (1, 0), (1, 0), (1, 0)]
  deriving DecidableEq, Repr

/-- Power states of a region (R343 Table 13-9); OFF before the regions start. -/
inductive PowerState where
  | active | doze | nap | rest
  deriving DecidableEq, Repr

/-- An entry of a region key cache (R119, R120, R141). -/
structure CacheEntry where
  /-- owner domain; 9 bits (05 R119). -/
  owner : Nat := 0
  /-- canonical handle of the key or of the parent; 32 bits (05 R119). -/
  handle : Nat := 0
  /-- GENERATION; 32 bits (05 R119). -/
  generation : Nat := 0
  /-- SHA-384 of the path structure; empty for the key itself; 48 bytes (05 R141). -/
  path : Bytes := []
  /-- the value XOR-masked under the cache mask register; up to 64 bytes or more (05 R120). -/
  masked : Bytes := []
  /-- the core whose command alone a job-scoped entry serves; 7 bits (08 R205, 14 R365). -/
  scope : Option Nat := none
  /-- attributes of a job-scoped key other than a secret result; 80 bytes (07 R177, 10 R251). -/
  attr : Option Attr := none
  /-- domain and placement number of the command that a job-scoped entry serves; 9 bits and counter (08 R205). -/
  job : Nat × Nat := (0, 0)
  deriving DecidableEq, Repr

/-- A region: power, service, cache, buffer (R118, R120, R343, R365). -/
structure Region where
  /-- power state; 2 bits (13 R343). -/
  power : PowerState := .active
  /-- start of the exit from its power state that is in progress; time (13 R344, R346). -/
  exiting : Option Nat := none
  /-- service state: quarantined stands for isolated; 2 bits (14 R365). -/
  service : UnitState := .service
  /-- isolations since the last cold reset; counter (14 R365). -/
  isolations : Nat := 0
  /-- its last isolation; time (14 R365). -/
  since : Nat := 0
  /-- cache mask register, all zero while it is cleared; 256 bits (05 R120). -/
  cacheMask : Bytes := List.replicate 32 0
  /-- cache entries, least recently used first; 2 MiB (05 R118, R119). -/
  cache : List CacheEntry := []
  /-- region buffer, by byte address; 8 MiB of bytes (11 R278). -/
  buffer : List Host.Cell := []
  /-- colour and block of the buffer granules; per granule (12 R307). -/
  granules : Tab (Nat × Nat) := []
  /-- entropy sources, conditioner, pool; record (09 R229). -/
  entropy : EntropyRegion := {}
  /-- domain served last for block time; 9 bits (04 R100). -/
  lastBlockDom : Nat := 256
  /-- domain served last for LIU time; 9 bits (04 R100). -/
  lastLiuDom : Nat := 256
  /-- core cycles of its islands before they were last clocked; counter (11 R301, 18 R428). -/
  cycleBase : Nat := 0
  /-- since when its islands have been clocked without a stop; time (18 R428). -/
  cycleSince : Nat := 0
  /-- domain served last on the hash engines; 9 bits (04 R100). -/
  lastHashDom : Nat := 256
  deriving DecidableEq, Repr

/-- A block: service state and its escalation record (R364). -/
structure Block where
  /-- service state; 2 bits (14 R364). -/
  state : UnitState := .service
  /-- jobs ended ESCALATED within 1 s; times (14 R364). -/
  escalated : List Nat := []
  /-- quarantines since the last cold reset; counter (14 R364). -/
  quarantines : Nat := 0
  /-- entry into quarantine; time (14 R364). -/
  since : Nat := 0
  /-- fewer than 6 cells in service; 1 bit (07 R189). -/
  degraded : Bool := false
  /-- cell used last by the dispatcher; 5 bits (07 R175). -/
  lastCell : Nat := 23
  /-- ILLEGAL_TAG traps reported to block error handling; counter (11 R276). -/
  tagFaults : Nat := 0
  deriving DecidableEq, Repr

/-- States of a warden (R348 Table 14-1). -/
inductive WardenState where
  | offline | selfTest | syncing | mirrored | active | failed
  deriving DecidableEq, Repr

/-- A warden (R348, R350, R351, R354, R360). -/
structure Warden where
  /-- state; 4 bits (14 R349 Table 14-2). -/
  state : WardenState := .offline
  /-- when the scheduler loop last completed; time (14 R350). -/
  progress : Nat := 0
  /-- last beat on the wire path; time (14 R351). -/
  wireLast : Nat := 0
  /-- last beat on the fabric path; time (14 R351). -/
  fabricLast : Nat := 0
  /-- consecutive missed periods of the wire path; counter (14 R351). -/
  wireMisses : Nat := 0
  /-- consecutive missed periods of the fabric path; counter (14 R351). -/
  fabricMisses : Nat := 0
  /-- consecutive beats of the wire path; counter (14 R351). -/
  wireGood : Nat := 0
  /-- consecutive beats of the fabric path; counter (14 R351). -/
  fabricGood : Nat := 0
  /-- level of its wire line; 1 bit (14 R350). -/
  wireLevel : Bool := false
  /-- its fabric heartbeat counter; 64 bits (14 R350). -/
  beats : Nat := 0
  /-- its FAULT line; 1 bit (14 R348). -/
  fault : Bool := false
  /-- it has resigned after a failed self test; 1 bit (14 R353). -/
  resigned : Bool := false
  /-- failures within 24 h; times (14 R360). -/
  failures : List Nat := []
  /-- since when it has been MIRRORED without interruption; time (14 R361). -/
  mirroredSince : Nat := 0
  /-- running SHA-384 over the journal entries it applied; 48 bytes (14 R354). -/
  digest : Bytes := []
  /-- journal entries it has applied; counter (14 R354). -/
  applied : Nat := 0
  /-- its wire path has a path fault; 1 bit (14 R351). -/
  wireFault : Bool := false
  /-- its fabric path has a path fault; 1 bit (14 R351). -/
  fabricFault : Bool := false
  /-- start of its start-up self test; time (14 R348, R360). -/
  testFrom : Nat := 0
  /-- it has installed the snapshot; 1 bit (14 R354, R360). -/
  snapshot : Bool := false
  deriving DecidableEq, Repr

/-- What a journal entry records (R354). -/
inductive JournalKind where
  | placement | inputs | floorWrite | commitRecord | staging | queueState | timer | cursor
  deriving DecidableEq, Repr

/-- A journal entry (R354). -/
structure JournalEntry where
  /-- kind; kind (14 R354). -/
  kind : JournalKind := .placement
  /-- domain; 9 bits (14 R354). -/
  dom : Nat := 0
  /-- SEQ; 64 bits (14 R354). -/
  seq : Nat := 0
  /-- what is recorded; bytes (14 R354). -/
  data : Bytes := []
  deriving DecidableEq, Repr

/-- What the module puts on its ports: the model's own record of the posted-write path (R25) and of the
other ports. -/
inductive HostOut where
  /-- A DMA read of a domain: its PASID, none for the operator domain, address and length (R51). -/
  | read (dom : Nat) (pasid : Option Nat) (addr len : Nat)
  /-- An output write of a domain to a host address, with its PASID (R25, R51, R106). -/
  | output (dom : Nat) (pasid : Option Nat) (addr : Nat) (bytes : Bytes)
  /-- A completion write: domain, PASID, queue, address of its slot, its 32 bytes (R51, R56). -/
  | completion (dom : Nat) (pasid : Option Nat) (queue addr : Nat) (bytes : Bytes)
  /-- An MSI-X message: vector, address, data (R456). -/
  | message (vector addr data : Nat)
  /-- A CompareAndSwap on a bitmap word: domain, address, compare and swap values (R461). -/
  | cas (dom addr compare swap : Nat)
  /-- A DOE response object (R458). -/
  | doe (bytes : Bytes)
  /-- An SMBus or MCTP response (R468, R469). -/
  | smbus (bytes : Bytes)
  /-- A twin link frame (R464). -/
  | frame (bytes : Bytes)
  /-- A read completion of the host: a register value (R30). -/
  | value (bits : Nat)
  /-- A completion of a configuration request: the word read, 0 for a write (R445). -/
  | configuration (word : Nat)
  /-- A value shifted out on the TAP, or a debug reply (R407). -/
  | tap (bytes : Bytes)
  deriving DecidableEq, Repr

/-- The GUYLINE arbiter, the journal and takeback (R352 to R362). -/
structure Guyline where
  /-- arbiter state code; 16 bits (15 R387 Table 15-7). -/
  code : BitVec 16 := 0x9696
  /-- FAILOVERS; 16 bits (14 R349 Table 14-2). -/
  failovers : Nat := 0
  /-- AWAY_FROM_A; 8 bits (14 R349 Table 14-2). -/
  awayFromA : Nat := 0
  /-- LAST_CAUSE; 8 bits (14 R349 Table 14-2). -/
  lastCause : Nat := 0
  /-- PATH_FAULT_WIRE; 1 bit (14 R349 Table 14-2). -/
  pathWire : Bool := false
  /-- PATH_FAULT_FABRIC; 1 bit (14 R349 Table 14-2). -/
  pathFabric : Bool := false
  /-- TAKEBACK_OFF; 1 bit (14 R349 Table 14-2). -/
  takebackOff : Bool := false
  /-- SATURATED; 1 bit (14 R349 Table 14-2). -/
  saturated : Bool := false
  /-- when a saturation entry was last written; time (14 R363). -/
  lastSaturated : Option Nat := none
  /-- entries the standby has not applied, oldest first; up to 1,024 entries (14 R354). -/
  journal : List JournalEntry := []
  /-- journal entries written; counter (14 R354). -/
  written : Nat := 0
  /-- the active warden's running digest; 48 bytes (14 R354). -/
  headDigest : Bytes := []
  /-- digest of the last checkpoint; 48 bytes (14 R354). -/
  checkpoint : Option Bytes := none
  /-- entries written at the last checkpoint; counter (14 R354). -/
  checkpointAt : Nat := 0
  /-- the fault for which a gap stands; time (14 R355). -/
  faultAt : Nat := 0
  /-- when a takeback was prepared; time (14 R361). -/
  preparing : Option Nat := none
  /-- outputs are held during a gap; 1 bit (14 R356, R359). -/
  holding : Bool := false
  /-- held completions and messages in their order; queue (14 R356). -/
  held : List HostOut := []
  /-- when a takeback was abandoned; time (14 R361). -/
  abandonedAt : Nat := 0
  /-- level of HEALTH during a gap; 1 bit (14 R356). -/
  heldHealth : Bool := false
  /-- level of ALERT_N during a gap; 1 bit (14 R356). -/
  heldAlert : Bool := false
  /-- a double failure is being rebuilt; 1 bit (14 R359). -/
  rebuilding : Bool := false
  /-- the boundary of an instant that fell in the gap, while placement waits for its sets; TAI second (14 R358). -/
  due : Option Nat := none
  /-- fenced writes dropped; counter (14 R352). -/
  fenced : Nat := 0
  deriving DecidableEq, Repr

/-- Tamper response classes (R372 Table 15-2). -/
inductive Response where
  | none | note | shed | lock | strike | strikeHalt
  deriving DecidableEq, Repr

/-- The tamper logic in the EMBER domain (R369 to R391). -/
structure Tamper where
  /-- tamper response machine; 16 bits (15 R387 Table 15-7). -/
  machine : BitVec 16 := 0xAAAA
  /-- STRIKE sequencer; 16 bits (15 R387 Table 15-7). -/
  sequencer : BitVec 16 := 0x5A5A
  /-- ALARM_COUNT; 16 bits (15 R385 Table 15-5). -/
  alarmCount : Nat := 0
  /-- FIRST_SOURCE; 8 bits (15 R385 Table 15-5). -/
  firstSource : Nat := 0xFF
  /-- HIGHEST; 8 bits (15 R385 Table 15-5). -/
  highest : Response := .none
  /-- bits 15 to 0 of TAMPER_STICKY; 16 bits (15 R385 Table 15-5). -/
  flags : BitVec 16 := 0
  /-- ALARM of TAMPER_LIVE; 10 bits (15 R385 Table 15-6). -/
  alarm : BitVec 10 := 0
  /-- detectors A in alarm; 10 bits (15 R369, R370). -/
  detectorA : BitVec 10 := 0
  /-- detectors B in alarm; 10 bits (15 R369, R370). -/
  detectorB : BitVec 10 := 0
  /-- IN_FORCE; 3 bits (15 R385 Table 15-6). -/
  inForce : Response := .none
  /-- source whose response is in force; 8 bits (15 R374). -/
  source : Nat := 0xFF
  /-- response table in force, held in EMBER registers; 10 x 3 bits (15 R373 Table 15-3, R388). -/
  responses : List Response := [.strike, .strike, .lock, .strike, .lock, .strike, .strike, .lock, .strike, .lock]
  /-- upper temperature trip; 16 bits (15 R388 Table 15-8). -/
  upperTrip : Int := 115
  /-- lower temperature trip; 16 bits (15 R388 Table 15-8). -/
  lowerTrip : Int := -25
  /-- STORM_COUNT; 32 bits (15 R388 Table 15-8). -/
  stormCount : Nat := 64
  /-- MRAM copy of the committed table; record (15 R371, R386). -/
  mramCopy : Option (List Response × Int × Int × Nat) := none
  /-- COUNT of alarms per source; 10 x 32 bits (15 R391 Table 15-9). -/
  counts : Tab Nat := []
  /-- duplicate-mismatch reports: time and region; times (15 R369). -/
  reports : List (Nat × Nat) := []
  /-- when the last SHED alarm ceased; time (15 R372). -/
  shedSince : Option Nat := none
  /-- clocks run at half their nominal rate; 1 bit (15 R372). -/
  shed : Bool := false
  /-- stages 1 to 3 are done and stage 4 is still to come; 1 bit (15 R377). -/
  striking : Bool := false
  /-- the first boot after a STRIKE is still to rebuild the key store; 1 bit (05 R151). -/
  strikePending : Bool := false
  /-- STRIKE_OUT; pin level (15 R377). -/
  strikeOut : Bool := false
  /-- an alarm of response LOCK or above arose on EMBER power alone; 1 bit (15 R384). -/
  emberLock : Bool := false
  /-- sources whose chip event waits for the trail to run; 10 bits (15 R372, R381). -/
  owedEvents : BitVec 10 := 0
  /-- pairs that source 9 reports, each twice its source plus the detector in alarm; per pair (15 R370). -/
  pairs : List Nat := []
  /-- detector and first time of each source in alarm; 8 and 64 bits (17 R412 Table 17-2). -/
  since : Tab (Nat × Nat) := []
  /-- detector and first time of the source whose STRIKE ran; 8 and 64 bits (17 R412 Table 17-2). -/
  struckBy : Nat × Nat := (0, 0)
  /-- the EMBER rail stands; 1 bit (15 R386). -/
  emberMachine : Bool := true
  deriving DecidableEq, Repr

/-- The EMBER key store (R121 to R124). -/
structure Ember where
  /-- rows as stored, masked, by their address in the array; a row not listed has not been written since the array was overwritten; 4,096 rows
  of 64 bytes (05 R121, R123). -/
  rows : Tab Bytes := []
  /-- rows whose epoch bit is 1, rising; 4,096 bits (05 R123). -/
  epochs : List Nat := []
  /-- mask seed register named by epoch 0, all zero while it is cleared; 384 bits (05 R123). -/
  seedA : Bytes := List.replicate 48 0
  /-- mask seed register named by epoch 1, all zero while it is cleared; 384 bits (05 R123). -/
  seedB : Bytes := List.replicate 48 0
  /-- a mask refresh waits for a seed; 1 bit (05 R123, 09 R235). -/
  refreshDue : Bool := false
  /-- scramble seed register, all zero while it is cleared; 384 bits (05 R123). -/
  scramble : Bytes := List.replicate 48 0
  /-- the transport key pairs are to be generated; 1 bit (05 R143). -/
  transportDue : Bool := true
  /-- the three pointer copies of each pair; 2,048 x 3 x 8 bits (05 R122). -/
  pointers : Tab (Nat × Nat × Nat) := []
  deriving DecidableEq, Repr

/-- Life-cycle states (R393 Table 16-1). -/
inductive LifeCycle where
  | blank | vendorTest | provisioned | development | field | returned | scrapped
  deriving DecidableEq, Repr

/-- Life cycle, OTP and debug (R393 to R408). -/
structure LifeCycleReg where
  /-- OTP copy 0; 256 bits (16 R401 Table 16-4, 00 R5). -/
  copy0 : BitVec 256 := 0x5A5AA5A55A5AA5A5
  /-- OTP copy 1; 256 bits (16 R401, 00 R5). -/
  copy1 : BitVec 256 := 0x5A5AA5A55A5AA5A5
  /-- OTP copy 2; 256 bits (16 R401, 00 R5). -/
  copy2 : BitVec 256 := 0x5A5AA5A55A5AA5A5
  /-- STATE, set at boot; 4 bits (16 R396 Table 16-2, 00 R5). -/
  state : LifeCycle := .provisioned
  /-- life-cycle vote logic; 16 bits (15 R387 Table 15-7). -/
  vote : BitVec 16 := 0x3333
  /-- OTP copy 0 of the attempt bits of transitions 1 to 7; 7 x 64 bits (16 R398). -/
  attempts : List (BitVec 64) := [0, 0, 0, 0, 0, 0, 0]
  /-- OTP copy 1 of the attempt bits; 7 x 64 bits (16 R398). -/
  attempts1 : List (BitVec 64) := [0, 0, 0, 0, 0, 0, 0]
  /-- OTP copy 2 of the attempt bits; 7 x 64 bits (16 R398). -/
  attempts2 : List (BitVec 64) := [0, 0, 0, 0, 0, 0, 0]
  /-- token digests burned in service, by transition; 7 x 48 bytes (16 R397). -/
  digests : Tab Bytes := []
  /-- mode bits, bit t - 1 for transition t; 8 bits (16 R399). -/
  modes : BitVec 8 := 0
  /-- wrong tokens since the last boot; 8 bits (16 R398, R409). -/
  wrong : Nat := 0
  /-- DEBUG_LEVEL; 8 bits (16 R396 Table 16-2). -/
  debugLevel : Nat := 0
  /-- pitch of a TRACE certificate; 8 bits (16 R407). -/
  debugPitch : Nat := 0
  /-- RECOVERY; 1 bit (16 R396 Table 16-2). -/
  recovery : Bool := false
  /-- an IMMEDIATE transition is to perform its life-cycle reset; 1 bit (16 R399). -/
  pendingReset : Bool := false
  /-- target of an AT_NEXT_RESET transition completed since the boot; 4 bits (16 R399, R400). -/
  awaiting : Option LifeCycle := none
  /-- fuse-off fields that read as written; 10 bits (15 R388, R390, 00 R5). -/
  fuseOff : BitVec 10 := 0
  /-- fuse-off fields that a loss of power has left partial, by source; 32 bits each (15 R390). -/
  fusePart : Tab (BitVec 32) := []
  /-- fuse-off burns, by source, with the instant at which each begins; times (15 R390). -/
  fuseBurns : Tab Nat := []
  /-- MRAM copy of the Efori image in use; 1 bit (16 R395, R409). -/
  fwActive : Nat := 0
  /-- Efori images installed in the two MRAM copies; images (16 R395, R409). -/
  fwCopies : Tab Bytes := []
  /-- an installed image takes effect at the next boot; 1 bit (16 R409). -/
  fwNew : Bool := false
  /-- refused debug accesses within one second; times (12 R313). -/
  refusals : List Nat := []
  /-- EXTEST is selected; 1 bit (16 R407). -/
  extest : Bool := false
  deriving DecidableEq, Repr

/-- A trail entry (R411 Table 17-1). -/
structure LogEntry where
  /-- SEQ; 64 bits (17 R411). -/
  seq : Nat := 0
  /-- TIME; 64 bits (17 R411). -/
  time : Nat := 0
  /-- CODE; 16 bits (17 R411). -/
  code : Nat := 0
  /-- ORIGIN; 16 bits (17 R411). -/
  origin : Nat := 0
  /-- FLAGS; 8 bits (17 R411). -/
  flags : Nat := 0
  /-- SUPPRESSED; 24 bits (17 R411). -/
  suppressed : Nat := 0
  /-- DATA; 24 bytes (17 R411). -/
  data : Bytes := []
  /-- CHAIN; 16 bytes (17 R411). -/
  chain : Bytes := []
  deriving DecidableEq, Repr

/-- The token bucket of a non-exempt trail code (R419). -/
structure Bucket where
  /-- entries per second; 20 bits (17 R419). -/
  rate : Nat := 1000
  /-- burst; 16 bits (17 R419). -/
  burst : Nat := 64
  /-- tokens, in thousand-millionths; 16 bits with fraction (17 R419). -/
  tokens : Nat := 64000000000
  /-- when the tokens were last counted; time (17 R419). -/
  at_ : Nat := 0
  deriving DecidableEq, Repr

/-- The trail log (R411 to R422). -/
structure Trail where
  /-- entries of the SRAM ring, oldest first; 262,144 entries (17 R414). -/
  sram : List LogEntry := []
  /-- how many of its newest entries are not yet in MRAM; 18 bits (17 R414, R415). -/
  unflushed : Nat := 0
  /-- entries of the MRAM ring, oldest first; 1,048,576 entries (17 R414). -/
  mram : List LogEntry := []
  /-- SEQ of the next entry; 64 bits (17 R413). -/
  nextSeq : Nat := 1
  /-- SEQ values reserved in MRAM end here; 64 bits (17 R415). -/
  reserved : Nat := 1
  /-- CHAIN of the last entry; 16 bytes (17 R413). -/
  chain : Option Bytes := none
  /-- SEQ of the chain's first entry; 64 bits (17 R416). -/
  chainFirst : Nat := 1
  /-- chain number; 32 bits (17 R416). -/
  chainNumber : Nat := 0
  /-- signature state (0 signed, 1 pending, 2 unsigned) and signature of each checkpoint; 96 bytes each (17 R416). -/
  signatures : Tab (Nat × Bytes) := []
  /-- LOG_STATE; 2 bits (17 R421 Table 17-4). -/
  state : Nat := 0
  /-- the SRAM ring has failed; 1 bit (17 R421). -/
  sramFailed : Bool := false
  /-- the MRAM log area has failed; 1 bit (17 R421). -/
  mramFailed : Bool := false
  /-- lost counter in EMBER; 32 bits (17 R421). -/
  lost : Nat := 0
  /-- last-gasp registers in EMBER: what the log could not take, oldest first; 16 registers (15 R381, R384, 17 R421). -/
  gasp : List LogEntry := []
  /-- buckets that are not full or not at default, by code; per code (17 R419). -/
  buckets : Tab Bucket := []
  /-- suppressed occurrences by code and origin; per pair (17 R420). -/
  suppressed : Tab Nat := []
  /-- TRAIL_CURSOR; 64 bits (17 R417 Table 17-3). -/
  cursor : Nat := 0
  /-- instant at which the writer will have written every entry of its input queue of 4,096; ns (17 R414). -/
  writerFree : Nat := 0
  /-- ignored writes counted; counter (02 R30, R34). -/
  ignored : Nat := 0
  /-- doorbell writes ignored during the boot; counter (19 R445). -/
  bootIgnored : Nat := 0
  deriving DecidableEq, Repr

/-- Event sources (R423 to R425). -/
structure Events where
  /-- latched sources 0x100 to 0x1FF, rising; 512 bits (17 R424). -/
  latched : List Nat := []
  /-- routes that differ from Table 17-6; 512 routes (17 R425). -/
  routes : Tab Route := []
  deriving DecidableEq, Repr

/-- Configuration of a counter (R430 Table 18-4). -/
structure PerfConf where
  /-- PITCH; 8 bits (18 R430). -/
  pitch : Nat := 0
  /-- FILTER; 2 bits (18 R430). -/
  filter : Nat := 0
  /-- ENABLE; 1 bit (18 R430). -/
  enable : Bool := false
  /-- OVF_IRQ; 1 bit (18 R430). -/
  ovfIrq : Bool := false
  /-- OVF; 1 bit (18 R430). -/
  ovf : Bool := false
  /-- WINDOW_LOG2; 5 bits (18 R430). -/
  windowLog2 : Nat := 0
  /-- EVENT; 8 bits (18 R430). -/
  event : Nat := 0
  deriving DecidableEq, Repr

/-- A PERF sample (R438 Table 18-6). -/
structure Sample where
  /-- PC; 64 bits (18 R438). -/
  pc : BitVec 64 := 0
  /-- PITCH; 8 bits (18 R438). -/
  pitch : Nat := 0xFF
  /-- MODE; 8 bits (18 R438). -/
  mode : Nat := 0
  /-- INDEX; 8 bits (18 R438). -/
  index : Nat := 0
  /-- CYCLE[31:0]; 32 bits (18 R438). -/
  cycle : Nat := 0
  deriving DecidableEq, Repr

/-- The performance counters (R428 to R438). -/
structure Perf where
  /-- PERF_SELECT; 64 bits (18 R429 Table 18-2). -/
  select : Nat := 0
  /-- PERF_CONFIG_SELECT; 64 bits (18 R429). -/
  configSelect : Nat := 0
  /-- programmable and port counters, by kind, unit and index; 48 bits each (18 R428, R436). -/
  values : Tab Nat := []
  /-- configurations that differ from their reset; Table 18-4 each (18 R430, R436). -/
  configs : Tab PerfConf := []
  /-- 1 once a whole window has begun since the last change; 1 bit (18 R432). -/
  portFull : Tab Nat := []
  /-- items of the port list at the start of a port counter's window; position (18 R432). -/
  portMark : Tab Nat := []
  /-- samples that have left each block's ring; counter (18 R433, R438). -/
  left : Tab Nat := []
  /-- sample rings by block; 256 entries per block (18 R433). -/
  samples : Tab (List Sample) := []
  /-- LOST by block; 32 bits (18 R433, R438). -/
  lost : Tab Nat := []
  /-- pitches granted CSR counter access, rising; 256 bits (18 R437). -/
  grants : List Nat := []
  deriving DecidableEq, Repr

/-- An MSI-X table entry with its pending bit (R456, R492). -/
structure Vector where
  /-- message address; 64 bits (20 R492). -/
  addr : Nat := 0
  /-- message data; 32 bits (20 R492). -/
  data : Nat := 0
  /-- Mask bit; 1 bit (20 R492). -/
  masked : Bool := true
  /-- pending bit; 1 bit (20 R492). -/
  pending : Bool := false
  deriving DecidableEq, Repr

/-- How far an SPDM connection has come (R458). -/
inductive SpdmStage where
  | none | versioned | capable | negotiated
  deriving DecidableEq, Repr

/-- How far a secured SPDM session has come (R458). -/
inductive SessionStage where
  | none | handshake | established
  deriving DecidableEq, Repr

/-- The SPDM responder of the DOE mailbox (R457 to R459). -/
structure Spdm where
  /-- connection stage; stage (20 R458). -/
  stage : SpdmStage := .none
  /-- DOE Busy: an exchange is in progress; 1 bit (20 R458). -/
  busy : Bool := false
  /-- request of the exchange in progress; up to 65,536 bytes (20 R458). -/
  exchange : Bytes := []
  /-- transcript of the version, capability and algorithm exchanges; bytes (20 R458). -/
  vca : Bytes := []
  /-- transcript of the digest and certificate exchanges; bytes (20 R458). -/
  challenged : Bytes := []
  /-- transcript of the measurement exchanges; bytes (20 R458). -/
  measured : Bytes := []
  /-- secured session; stage (20 R458). -/
  session : SessionStage := .none
  /-- session number; 32 bits (20 R458). -/
  sessionId : Nat := 0
  /-- transcript of the key exchange; bytes (20 R458). -/
  transcript : Bytes := []
  /-- handshake secret; 384 bits (20 R458). -/
  handshake : Bytes := []
  /-- requester direction secret; 384 bits (20 R458). -/
  reqSecret : Bytes := []
  /-- responder direction secret; 384 bits (20 R458). -/
  rspSecret : Bytes := []
  /-- requester record number; 64 bits (20 R458). -/
  reqSeq : Nat := 0
  /-- responder record number; 64 bits (20 R458). -/
  rspSeq : Nat := 0
  /-- malformed objects answered with an error; counter (20 R458). -/
  malformed : Nat := 0
  deriving DecidableEq, Repr

/-- An IDE stream (R460): stream 0 is the link stream, 1 to 4 are the selective streams. -/
structure IdeStream where
  /-- Secure; a stream that is not is Insecure; 1 bit (20 R460). -/
  secure : Bool := false
  /-- the two key sets; 2 x 256 bits per direction and sub-stream (20 R460). -/
  sets : Tab Bytes := []
  /-- key set in use; 1 bit (20 R460). -/
  current : Nat := 0
  deriving DecidableEq, Repr

/-- The PCIe endpoint (R450 to R462, R492). -/
structure HostPort where
  /-- Memory Space Enable; 1 bit (20 R492). -/
  memSpace : Bool := false
  /-- Bus Master Enable; 1 bit (20 R492). -/
  busMaster : Bool := false
  /-- PASID Enable; 1 bit (20 R492). -/
  pasidEnable : Bool := false
  /-- AtomicOp Requester Enable; 1 bit (20 R492). -/
  atomicReq : Bool := false
  /-- MSI-X Enable; 1 bit (20 R492). -/
  msixEnable : Bool := false
  /-- Function Mask; 1 bit (20 R492). -/
  functionMask : Bool := false
  /-- power state of the function; 1 bit (20 R450, R453). -/
  d3hot : Bool := false
  /-- Device Control 2 [3:0]; 4 bits (20 R492). -/
  devCtl2 : Nat := 0
  /-- the host link is trained; 1 bit (20 R450, R453). -/
  linkUp : Bool := false
  /-- PERST_N is asserted; pin level (19 R441, 21 R483). -/
  perst : Bool := false
  /-- MSI-X table and pending-bit array; 2,048 entries (20 R456, R492). -/
  vectors : Tab Vector := []
  /-- unexpected completions counted; counter (20 R454). -/
  unexpected : Nat := 0
  /-- errors reported through AER: bit 0 Unexpected Completion, bit 1 IDE Check Failed, bit 2 Completion Timeout; bits (20 R450, R454, R460). -/
  aer : Nat := 0
  /-- SPDM responder; record (20 R458). -/
  spdm : Spdm := {}
  /-- IDE streams; 5 streams (20 R460). -/
  ide : Tab IdeStream := []
  /-- a new attestation key (EMBER pair 259) waits for a seed; 1 bit (20 R457, 09 R235). -/
  attestDue : Bool := false
  /-- chain kind (measurement block 6); 8 bits (20 R459 Table 20-4). -/
  chainKind : Nat := 0
  /-- posted writes that wait for the host's enables or a closed gap, oldest first; queue (20 R453). -/
  waiting : List HostOut := []
  /-- everything the module has put on its ports, oldest first; the model's own record (01 R25). -/
  sent : List HostOut := []
  deriving DecidableEq, Repr

/-- States of the twin link (R463). -/
inductive LinkMode where
  | down | training | up | secure
  deriving DecidableEq, Repr

/-- The twin link and its session (R463 to R467). -/
structure TwinLink where
  /-- state; 2 bits (20 R463). -/
  mode : LinkMode := .down
  /-- trained on two lanes at half the rate; 1 bit (20 R463). -/
  half : Bool := false
  /-- earliest time of the next training after a refused session; time (20 R465). -/
  retryAt : Nat := 0
  /-- this module's serial is the lower one; 1 bit (20 R465). -/
  initiator : Bool := false
  /-- the peer's serial; 16 bytes (20 R465). -/
  peerSerial : Bytes := []
  /-- the peer's life-cycle state; 8 bits (20 R465). -/
  peerState : Nat := 0
  /-- the peer's attestation chain; bytes (20 R465). -/
  peerChain : Bytes := []
  /-- the peer's HELLO has arrived; 1 bit (20 R465). -/
  helloIn : Bool := false
  /-- this side has sent its KEY_CONFIRM; 1 bit (20 R465). -/
  confirmOut : Bool := false
  /-- frames of the key exchange so far; bytes (20 R465). -/
  transcript : Bytes := []
  /-- the initiator's ephemeral secrets; secret (20 R465). -/
  kemKey : Bytes := []
  /-- current key epoch; 32 bits (20 R464). -/
  epoch : Nat := 0
  /-- session keys of the current epoch; 4 x 256 bits (20 R465). -/
  keys : List Bytes := []
  /-- session keys of the epoch before, while they are accepted; 4 x 256 bits (20 R466). -/
  oldKeys : List Bytes := []
  /-- FRAME_NO of the next frame sent; 64 bits (20 R464). -/
  txNo : Nat := 1
  /-- FRAME_NO of the next frame accepted; 64 bits (20 R464, R467). -/
  rxNo : Nat := 1
  /-- when the epoch began; time (20 R466). -/
  epochSince : Nat := 0
  /-- frames sent and not acknowledged, by FRAME_NO; up to 4 MiB (20 R467). -/
  unacked : List (Nat × Bytes) := []
  /-- pieces of a record received so far; up to one record (20 R467, 03 R85). -/
  rxPart : Bytes := []
  /-- payloads held while the buffer is full or no session stands; queue (20 R467). -/
  queued : List Bytes := []
  /-- tag failures within 1 s; times (20 R466). -/
  tagFails : List Nat := []
  /-- frames dropped; counter (20 R466). -/
  dropped : Nat := 0
  /-- when the last valid frame arrived; time (20 R463). -/
  lastFrame : Nat := 0
  /-- when frames were last sent or acknowledged; time (20 R467). -/
  lastSent : Nat := 0
  deriving DecidableEq, Repr

/-- The SMBus interface with its MCTP endpoint (R468 to R470). -/
structure Smb where
  /-- address; 7 bits (20 R468). -/
  address : Nat := 0x62
  /-- EID; 8 bits (20 R469). -/
  eid : Nat := 0
  /-- packets with a bad PEC; counter (20 R468). -/
  badPec : Nat := 0
  /-- PLDM terminus ID; 8 bits (20 R469). -/
  tid : Nat := 0
  /-- pieces of a message received so far; one message (20 R468, R469). -/
  incoming : Bytes := []
  /-- state each sensor reported last; 8 bits per sensor (20 R470). -/
  levels : Tab Nat := []
  deriving DecidableEq, Repr

/-- The IEEE 1149.1 port (R407, R483). -/
structure Tap where
  /-- instruction; instruction (16 R407). -/
  ir : TapInstr := .idcode
  /-- what PRELOAD put into the boundary register; boundary register (16 R407). -/
  boundary : Bytes := []
  /-- Test-Logic-Reset; 1 bit (21 R483 Table 21-8). -/
  inReset : Bool := true
  /-- TRST_N is low; pin level (21 R483 Table 21-8). -/
  trst : Bool := false
  deriving DecidableEq, Repr

/-- Sources of EMBER power in their order (R479). -/
inductive EmberSource where
  | aux | external | cell | holdup
  deriving DecidableEq, Repr

/-- Supplies, inputs and thermal hold (R477 to R485). -/
structure Supplies where
  /-- P12V stands; 1 bit (21 R477). -/
  p12v : Bool := true
  /-- since when P12V has stood; time (15 R369 Table 15-1). -/
  p12vFrom : Nat := 0
  /-- P3V3_AUX stands; 1 bit (21 R478). -/
  p3v3 : Bool := true
  /-- VEMB_EXT lies in its window; 1 bit (21 R479). -/
  vemb : Bool := false
  /-- the cell is connected; 1 bit (21 R479, R480). -/
  cell : Bool := true
  /-- source of the EMBER domain; 2 bits (21 R479). -/
  emberSource : EmberSource := .aux
  /-- excursions by input index; counters (21 R477, R478, R483 Table 21-8). -/
  excursions : Tab Nat := []
  /-- REFCLK is used; 1 bit (21 R483 Table 21-8). -/
  refclk : Bool := true
  /-- thermal hold; 1 bit (21 R482). -/
  thermalHold : Bool := false
  deriving DecidableEq, Repr

/-- DEVICE_STATE of DEVICE_STATUS (R33 Table 2-2). -/
inductive DeviceState where
  | booting | ready | locked | recovery | halted
  deriving DecidableEq, Repr

/-- The reset kinds that reach host-facing state (R440). -/
inductive ResetKind where
  | cold | warm | device | lifeCycle | strike
  deriving DecidableEq, Repr

/-- The boot (R440 to R446). -/
structure Boot where
  /-- DEVICE_STATE; 4 bits (02 R33 Table 2-2, 19 R444). -/
  state : DeviceState := .booting
  /-- boot step reached; counter (19 R444 Table 19-2). -/
  step : Nat := 0
  /-- the reset the boot follows; kind (19 R440). -/
  kind : ResetKind := .cold
  /-- time 0 of the boot; time (19 R444). -/
  at_ : Nat := 0
  /-- RANDOM_READY; 1 bit (09 R242). -/
  randomReady : Bool := false
  /-- the scramble seed of this boot waits for a seed; 1 bit (05 R123, 09 R235). -/
  scrambleDue : Bool := true
  /-- EMBER_LOST was set at step 1; 1 bit (15 R386). -/
  emberLost : Bool := false
  /-- an alarm of LOCK or above arose during the boot or on EMBER power alone; 1 bit (19 R446). -/
  alarmed : Bool := false
  /-- the main domain is held in reset (STRIKE_HALT or HALTED); 1 bit (19 R446). -/
  held : Bool := false
  /-- the main domain runs; 1 bit (21 R477). -/
  powered : Bool := true
  /-- the module is in BIVVY; 1 bit (13 R343 Table 13-9). -/
  bivvy : Bool := false
  /-- start of the exit from BIVVY that is in progress; time (13 R346). -/
  waking : Option Nat := none
  deriving DecidableEq, Repr

/-- The module, with the commands that wait. -/
structure State where
  /-- commands waiting, first in first out; queue (the model's own queue). -/
  pending : List Instr := []
  /-- free values taken so far; counter (the model's own field). -/
  free : Nat := 0
  /-- boot; record (19 R444). -/
  boot : Boot := {}
  /-- host port; record (20 R450). -/
  host : HostPort := {}
  /-- twin link; record (20 R463). -/
  link : TwinLink := {}
  /-- SMBus; record (20 R468). -/
  smb : Smb := {}
  /-- TAP; record (16 R407). -/
  tap : Tap := {}
  /-- supplies and inputs; record (21 R477). -/
  supplies : Supplies := {}
  /-- device clock; record (13 R324). -/
  clock : Clock := {}
  /-- committed CHIP set; record (13 R334). -/
  chip : ChipConf := {}
  /-- staging sets: 0 to 255 PITCH, 256 CHIP, 257 TAMPER; 258 sets (13 R333). -/
  sets : Tab StageSet := []
  /-- domains: 0 to 255 pitches, 256 the operator domain; 257 domains (04 R94, R115). -/
  doms : Tab Dom := []
  /-- regions; 8 regions (01 R15, 00 R14). -/
  regions : Tab Region := []
  /-- blocks by global number; 96 blocks (01 R15, 14 R364). -/
  blocks : Tab Block := []
  /-- block cores by global block number; 96 cores (11 R277). -/
  cores : Tab Core := []
  /-- cipher cells by global number; 2,304 cells (07 R169, 00 R14). -/
  cells : Tab Cell := []
  /-- LIUs by global number; 32 LIUs (08 R200, 00 R14). -/
  lius : Tab Liu := []
  /-- hash engines: region times 4 plus engine; 32 engines (01 R15, 11 R299). -/
  hashes : Tab HashEngine := []
  /-- wardens A (0) and B (1); 2 wardens (14 R348). -/
  wardens : Tab Warden := []
  /-- GUYLINE and journal; record (14 R352). -/
  guy : Guyline := {}
  /-- tamper logic; record (15 R369). -/
  tamper : Tamper := {}
  /-- EMBER key store; record (05 R121). -/
  ember : Ember := {}
  /-- life cycle and debug; record (16 R393). -/
  life : LifeCycleReg := {}
  /-- trail log; record (17 R411). -/
  trail : Trail := {}
  /-- event sources; record (17 R423). -/
  events : Events := {}
  /-- performance counters; record (18 R428). -/
  perf : Perf := {}
  /-- write sequence of MRAM records; 64 bits (05 R147). -/
  recordSeq : Nat := 0
  /-- BUSY of every admin queue for the total of management commands; 1 bit (02 R42). -/
  allBusy : Bool := false
  /-- IV counter of MRAM records; 96 bits (05 R147). -/
  recordIv : Nat := 0
  /-- its ceiling, in two MRAM slots; 96 bits (05 R135, R147). -/
  ivStored : Stored := {}
  deriving DecidableEq, Repr

/-- The reasons the module stops: none. Every command of the table has an effect in the spec. -/
inductive Fault where
  deriving DecidableEq, Repr

/-- The reasons the model gives no meaning. -/
inductive Refusal where
  /-- Raised by an arm of `exec` whose command has no meaning in the model; safe: nothing is claimed of it. -/
  | notModelled (mnemonic : String)
  deriving DecidableEq, Repr

/-- The module right after a cold reset: every field at the value the spec gives it, or at the value that the
assumption log names (R33, R94, R348, R444, R492). -/
def State.reset : State := {}

end Sys2Proof.Machine
end

