-- ==== Sys2Proof/Machine/Ops.lean ====
section
/-!
DEFINITION. Sys2Proof/Machine/Ops.lean: the operations every meaning shares: the parts of the state by their numbers,
the clock, the trail log, event sources, MSI-X messages and the posted-write path.
-/

namespace Sys2Proof.Machine

/-- What a command answers. -/
abbrev Answer := Host.Outcome State Fault Refusal

/-- The number of the operator domain among the domains. -/
def operator : Nat := 256

/-- The number of the CHIP set and of the TAMPER set among the staging sets (R333). -/
def chipSet : Nat := 256

def tamperSet : Nat := 257

def State.dom (s : State) (d : Nat) : Dom := Tab.get s.doms {} d

def State.setDom (s : State) (d : Nat) (f : Dom → Dom) : State :=
  { s with doms := Tab.put s.doms {} d (f (s.dom d)) }

def Dom.queue (D : Dom) (q : Nat) : Queue := Tab.get D.queues {} q

def Dom.setQueue (D : Dom) (q : Nat) (f : Queue → Queue) : Dom :=
  { D with queues := Tab.put D.queues {} q (f (D.queue q)) }

def State.region (s : State) (r : Nat) : Region := Tab.get s.regions {} r

def State.setRegion (s : State) (r : Nat) (f : Region → Region) : State :=
  { s with regions := Tab.put s.regions {} r (f (s.region r)) }

def State.block (s : State) (b : Nat) : Block := Tab.get s.blocks {} b

def State.setBlock (s : State) (b : Nat) (f : Block → Block) : State :=
  { s with blocks := Tab.put s.blocks {} b (f (s.block b)) }

def State.core (s : State) (c : Nat) : Core := Tab.get s.cores {} c

def State.setCore (s : State) (c : Nat) (f : Core → Core) : State :=
  { s with cores := Tab.put s.cores {} c (f (s.core c)) }

def State.cell (s : State) (c : Nat) : Cell := Tab.get s.cells {} c

def State.setCell (s : State) (c : Nat) (f : Cell → Cell) : State :=
  { s with cells := Tab.put s.cells {} c (f (s.cell c)) }

def State.liu (s : State) (l : Nat) : Liu := Tab.get s.lius {} l

def State.setLiu (s : State) (l : Nat) (f : Liu → Liu) : State :=
  { s with lius := Tab.put s.lius {} l (f (s.liu l)) }

def State.hash (s : State) (h : Nat) : HashEngine := Tab.get s.hashes {} h

def State.setHash (s : State) (h : Nat) (f : HashEngine → HashEngine) : State :=
  { s with hashes := Tab.put s.hashes {} h (f (s.hash h)) }

def State.warden (s : State) (w : Nat) : Warden := Tab.get s.wardens {} w

def State.setWarden (s : State) (w : Nat) (f : Warden → Warden) : State :=
  { s with wardens := Tab.put s.wardens {} w (f (s.warden w)) }

def State.stage (s : State) (k : Nat) : StageSet := Tab.get s.sets {} k

def State.setStage (s : State) (k : Nat) (x : StageSet) : State := { s with sets := Tab.put s.sets {} k x }

/-! ### Values kept in two MRAM slots (R135, R147, R164) -/

/-- The check of a slot. -/
def storedSum (seq value : Nat) : Nat := crc32 (leBytes 8 seq ++ leBytes 12 value)

/-- A slot that has been written and whose check holds. -/
def StoredSlot.ok (x : StoredSlot) : Bool := x.seq != 0 && x.crc = storedSum x.seq x.value

/-- The current slot, with its side (false the first): of those whose check holds the one of the highest sequence. -/
def Stored.current (x : Stored) : Option (Bool × StoredSlot) :=
  if x.a.ok && (!x.b.ok || x.b.seq ≤ x.a.seq) then some (false, x.a) else if x.b.ok then some (true, x.b) else none

/-- The value kept; 0 before the first write. -/
def Stored.value (x : Stored) : Nat := match x.current with | some p => p.2.value | none => 0

/-- A write goes to the slot that is not current, with the next sequence. -/
def Stored.put (x : Stored) (v : Nat) : Stored :=
  let n := (match x.current with | some p => p.2.seq | none => 0) + 1
  let slot : StoredSlot := { seq := n, value := v, crc := storedSum n v }
  match x.current with
  | some (false, _) => { x with b := slot }
  | _ => { x with a := slot }

/-- A ceiling raised by a step of 2^16 where the values handed out end above it (R135). -/
def Stored.ahead (x : Stored) (next : Nat) : Stored := if next > x.value then x.put (x.value + 65536) else x

/-- The stored ceiling of a counter (R135). -/
def Nonce.ceiling (n : Nonce) : Nat := n.stored.value

/-- The approval floor of a domain (R164). -/
def Roster.floor (r : Roster) : Nat := r.floors.value

/-- The command of a domain with a placement number. -/
def Dom.cmd (D : Dom) (id : Nat) : Option Cmd := D.cmds.find? fun c => c.id == id

def State.cmd (s : State) (d id : Nat) : Option Cmd := (s.dom d).cmd id

def Dom.setCmd (D : Dom) (id : Nat) (f : Cmd → Cmd) : Dom :=
  { D with cmds := D.cmds.map fun c => if c.id = id then f c else c }

def State.setCmd (s : State) (d id : Nat) (f : Cmd → Cmd) : State := s.setDom d fun D => D.setCmd id f

/-- The life-cycle state's code (R393 Table 16-1). -/
def LifeCycle.code : LifeCycle → Nat
  | .blank => 0 | .vendorTest => 1 | .provisioned => 2 | .development => 3 | .field => 4 | .returned => 5 | .scrapped => 6

/-- The 256 pitches and the operator domain, in number order (R14). -/
def allDoms : List Nat := List.range 257

def State.foldDoms (s : State) (l : List Nat) (f : State → Nat → State) : State := l.foldl f s

/-! ### The device clock (R324) -/

/-- Nanoseconds since the cold reset. -/
def State.now (s : State) : Nat := s.clock.mono

/-- The clock after `dt` nanoseconds of the reference, at its steered rate. While a backward move is being caught up, TIME_NOW holds its
value (R328). -/
def Clock.pass (c : Clock) (dt : Nat) : Clock :=
  let n := (dt * c.speed + c.part) / 1000000000
  { c with mono := c.mono + dt, part := (dt * c.speed + c.part) % 1000000000, frac := c.frac - n, tai := c.tai + (n - c.frac) }

/-- `dt` nanoseconds pass. -/
def State.pass (s : State) (dt : Nat) : State := { s with clock := s.clock.pass dt }

/-- Nanoseconds of the reference until TIME_NOW reaches a value, rounded up. -/
def Clock.until (c : Clock) (t : Nat) : Nat := ((t - c.tai + c.frac) * 1000000000 - c.part + (c.speed - 1)) / c.speed

/-- Time passes up to an instant, unless it is past already. -/
def State.passTo (s : State) (t : Nat) : State := s.pass (t - s.now)

/-- The clock is trusted while LOCKED or HOLDOVER with SET 1 (R329). -/
def Clock.trusted (c : Clock) : Bool := (c.state = .locked || c.state = .holdover) && c.set

/-- Core cycles counted in a region since its cores were reset: 2 a nanosecond while its islands are clocked, 1 under SHED (R343, R372, R428;
log entry 29). -/
def State.regionCycles (s : State) (r : Nat) : Nat :=
  let R := s.region r
  R.cycleBase + (if R.power = .active && !s.boot.bivvy then (if s.tamper.shed then 1 else 2) * (s.now - R.cycleSince) else 0)

/-- CYCLE of a core (R301). -/
def State.cycleOf (s : State) (k : Nat) : BitVec 64 := (s.core k).cycle + BitVec.ofNat 64 (s.regionCycles (k / 12))

/-- A free value: `n` bytes that nothing constrains. -/
def State.fresh (s : State) (n : Nat) : Bytes × State := (Config.free s.free n, { s with free := s.free + 1 })

/-! ### The trail log (R411 to R422) -/

/-- Severities (R411). -/
def info : Nat := 0

def notice : Nat := 1

def warning : Nat := 2

def errorSeverity : Nat := 3

def security : Nat := 4

def critical : Nat := 5

/-- ORIGIN (R411): 0 chip, 1 pitch, 2 operator domain, 3 region, 4 block, 5 cell, 6 LIU, 7 hash engine, 8 entropy
source, 9 warden, 10 contact. -/
def originOf (kind number : Nat) : Nat := kind * 4096 + number % 4096

def domOrigin (d : Nat) : Nat := if d < 256 then originOf 1 d else originOf 2 0

/-- The codes of the warden category that are rate limited: path faults and WARDEN_SATURATED (R412, R363). The spec
gives them no number (log entry 21). -/
def codePathFault : Nat := 0x1110

def codeSaturated : Nat := 0x1111

/-- Numbers that the model gives to entry codes the spec names without a number (log entry 22). -/
def codeDirty : Nat := 0x1704

/-- Codes that bypass rate limiting (R412, R420). -/
def exempt (code : Nat) : Bool :=
  code < 0x100 || (0x900 ≤ code && code ≤ 0xAFF) || (0x1000 ≤ code && code ≤ 0x10FF) ||
    (0x1100 ≤ code && code ≤ 0x11FF && code != codePathFault && code != codeSaturated) ||
    (0x1200 ≤ code && code ≤ 0x12FF)

/-- Bytes 0 to 47 of an entry (R411). -/
def LogEntry.head (e : LogEntry) : Bytes :=
  leBytes 8 e.seq ++ leBytes 8 e.time ++ leBytes 2 e.code ++ leBytes 2 e.origin ++ leBytes 1 e.flags ++
    leBytes 3 e.suppressed ++ slice e.data 0 24

/-- The 64 bytes of an entry. -/
def LogEntry.bytes (e : LogEntry) : Bytes := e.head ++ slice e.chain 0 16

/-- The previous CHAIN of a genesis entry (R413). -/
def genesisChain (seq : Nat) : Bytes := (sha384 (ascii "KALLAN-TRAIL-V01" ++ Config.serial ++ leBytes 8 seq)).take 16

/-- The entry with its CHAIN, after a previous one. -/
def LogEntry.chained (e : LogEntry) (prev : Option Bytes) : LogEntry :=
  { e with chain := (sha384 (prev.getD (genesisChain e.seq) ++ e.head)).take 16 }

/-- Entries kept by a ring of `n`, oldest dropped. -/
def ringKeep (n : Nat) (l : List LogEntry) : List LogEntry := l.drop (l.length - n)

/-- Entries of the SRAM ring that are not yet in MRAM. -/
def Trail.fresh (t : Trail) : List LogEntry := ringKeep t.unflushed t.sram

/-- Every entry of the SRAM ring reaches the MRAM ring (R414). -/
def Trail.flush (t : Trail) : Trail :=
  if t.mramFailed then t else { t with mram := ringKeep 1048576 (t.mram ++ t.fresh), unflushed := 0 }

/-- An entry whose SEQ, CHAIN and time are set, put into the log as its state allows (R414, R415, R421). -/
def Trail.append (t : Trail) (e : LogEntry) (tai : Nat) (trusted : Bool) (toMram : Bool) : Trail :=
  let e := { e with seq := t.nextSeq, time := if bit e.flags 6 then e.time else tai
                    flags := e.flags + (if t.state = 1 then 32 else 0) + (if trusted then 0 else 16) }
  let first := t.chain.isNone
  let e := e.chained t.chain
  let t := { t with nextSeq := t.nextSeq + 1, chain := some e.chain
                    chainFirst := if first then e.seq else t.chainFirst
                    reserved := if t.reserved ≤ t.nextSeq then t.reserved + 4096 else t.reserved }
  if t.state = 1 then { t with mram := ringKeep 1048576 (t.mram ++ [e]) }
  else
    let t := { t with sram := ringKeep 262144 (t.sram ++ [e]), unflushed := min 262144 (t.unflushed + 1) }
    if toMram then t.flush else t

/-- The checkpoint entry due at a SEQ that is a multiple of 4,096, or out of turn (R416); one that was held keeps its time (R421). -/
def Trail.checkpoint (t : Trail) (tai : Nat) (trusted key : Bool) (held : Option Nat := none) : Trail :=
  let e : LogEntry := { code := 2, flags := 128 + security + 64 * b2n held.isSome, time := held.getD 0
                        data := leBytes 8 t.chainFirst ++ leBytes 4 t.chainNumber ++ leBytes 4 t.lost ++ leBytes 1 t.state }
  let seq := t.nextSeq
  let t := { t with lost := 0 }
  let t := t.append e tai trusted true
  { t with signatures := Tab.insert t.signatures seq (if key then 1 else 2, []) }

/-- The bucket of a code as of an instant (R419); WARDEN_SATURATED has a default of its own (R363). -/
def Trail.bucketAt (t : Trail) (code now : Nat) : Bucket :=
  let def0 : Bucket := if code = codeSaturated then { rate := 10, burst := 1, tokens := 1000000000 } else {}
  let b := Tab.get t.buckets def0 code
  { b with tokens := min (b.burst * 1000000000) (b.tokens + b.rate * (now - b.at_)), at_ := now }

/-- Nanoseconds the writer takes for an entry: 2,000,000 entries a second, or 200,000 in direct mode (R414, R421). -/
def Trail.pace (t : Trail) : Nat := if t.state = 1 then 5000 else 500

/-- Entries in the writer's input queue at an instant (R414). -/
def Trail.queued (t : Trail) (now : Nat) : Nat := (t.writerFree - now + (t.pace - 1)) / t.pace

/-- Whether an attestation key exists to sign checkpoints (R416, R457). -/
def State.attested (s : State) : Bool := !s.tamper.strikePending && !s.host.attestDue

/-- An entry put into the last-gasp registers; one that leaves them is counted with the lost (R421). -/
def Trail.hold (t : Trail) (e : LogEntry) : Trail :=
  let n := t.gasp.length + 1 - 16
  { t with gasp := (t.gasp ++ [e]).drop n, lost := min 0xFFFFFFFF (t.lost + n) }

/-- LOG_ROTATED, the genesis of a new chain, after the closing checkpoint (R418). -/
def Trail.rotated (t : Trail) (tai : Nat) (trusted : Bool) (held : Option Nat := none) : Trail :=
  let e : LogEntry := { code := 3, flags := security + 64 * b2n held.isSome, time := held.getD 0, data := t.chain.getD [] ++ leBytes 8 (t.nextSeq - 1) }
  ({ t with chain := none, chainNumber := t.chainNumber + 1 }).append e tai trusted true

/-- A held entry written, with RECOVERED and its original time (R421). What a closing checkpoint and LOG_ROTATED say of the chain is known only
here.
DEDUCED (log entry 22). -/
def Trail.recover (t : Trail) (e : LogEntry) (tai : Nat) (trusted key : Bool) : Trail :=
  if e.code = 2 then t.checkpoint tai trusted key (some e.time)
  else
    let t := if t.nextSeq % 4096 = 0 then t.checkpoint tai trusted key else t
    if e.code = 3 then t.rotated tai trusted (some e.time) else t.append { e with flags := e.flags + 64 } tai trusted true

/-- An entry written to the trail: lost, suppressed or appended, after any checkpoint that falls due (R414 to
R421). While the log is lost an entry that leaves the 16 registers is counted with the rest. Entries of severity SECURITY or above, and those marked, reach MRAM at once. -/
def State.trailAs (s : State) (code origin severity flags : Nat) (data : Bytes) (toMram : Bool) (time : Nat) : State :=
  let t := s.trail
  let key := code * 65536 + origin
  if t.state = 2 then
    if severity ≥ 4 then
      let e : LogEntry := { code := code, origin := origin, flags := flags + severity, data := data, time := s.clock.tai }
      { s with trail := t.hold e }
    else { s with trail := { t with lost := min 0xFFFFFFFF (t.lost + 1) } }
  else
    let b := t.bucketAt code s.now
    let ex := exempt code
    if !ex && (b.tokens < 1000000000 || t.queued s.now ≥ 3840) then
      { s with trail := { t with buckets := Tab.insert t.buckets code b
                                 suppressed := Tab.put t.suppressed 0 key (min 0xFFFFFF (Tab.get t.suppressed 0 key + 1)) } }
    else
      let t := if ex then t else { t with buckets := Tab.insert t.buckets code { b with tokens := b.tokens - 1000000000 } }
      let sup := if ex then 0 else Tab.get t.suppressed 0 key
      let t := { t with suppressed := Tab.put t.suppressed 0 key 0, writerFree := max t.writerFree s.now + t.pace }
      let t := if t.nextSeq % 4096 = 0 then t.checkpoint s.clock.tai s.clock.trusted s.attested else t
      let e : LogEntry := { code := code, origin := origin, flags := flags + severity, suppressed := sup, data := data, time := time }
      { s with trail := t.append e s.clock.tai s.clock.trusted (toMram || severity ≥ 4) }

/-- An occurrence of a code that writes no entry is counted with those its bucket suppresses (R420). -/
def State.suppress (s : State) (code origin : Nat) : State :=
  let key := code * 65536 + origin
  { s with trail := { s.trail with suppressed := Tab.put s.trail.suppressed 0 key (min 0xFFFFFF (Tab.get s.trail.suppressed 0 key + 1)) } }

/-- An ordinary entry. -/
def State.log (s : State) (code origin severity : Nat) (data : Bytes) : State :=
  s.trailAs code origin severity 0 data false 0

/-- A write to a page that is ignored, counted and logged (R30, R34, R412). -/
def State.ignore (s : State) (origin offset value : Nat) : State :=
  let s := { s with trail := { s.trail with ignored := s.trail.ignored + 1 } }
  s.log 0x1700 origin errorSeverity (leBytes 8 offset ++ leBytes 8 value)

/-! ### The posted-write path (R25, R453, R456) -/

/-- The domain whose DMA an item is; messages and bitmap requests are the operator's. -/
def HostOut.owner : HostOut → Option Nat
  | .read d _ _ _ => some d
  | .output d _ _ _ => some d
  | .completion d _ _ _ _ => some d
  | .cas _ _ _ _ => some operator
  | .message _ _ _ => none
  | _ => none

/-- Whether an item is DMA or a message, which Bus Master Enable and D0 gate. -/
def HostOut.gated : HostOut → Bool
  | .output _ _ _ _ | .completion _ _ _ _ _ | .cas _ _ _ _ | .message _ _ _ => true
  | _ => false

/-- Whether the host's controls hold a domain's DMA back (R453): Bus Master Enable and D3hot for every domain, PASID
Enable for pitches; nothing leaves while the link is down. -/
def HostPort.blocks (h : HostPort) (d : Nat) : Bool :=
  !h.linkUp || !h.busMaster || h.d3hot || (d < 256 && !h.pasidEnable)

def HostOut.blocked (o : HostOut) (h : HostPort) : Bool :=
  o.gated && h.blocks (o.owner.getD operator)

/-- An item on its port. -/
def State.putRaw (s : State) (o : HostOut) : State := { s with host := { s.host with sent := s.host.sent ++ [o] } }

/-- Whether an item waits: behind the host's controls (R453), or behind an earlier waiting item of its domain; a message
waits behind anything. -/
def HostOut.waits (o : HostOut) (h : HostPort) (ahead : List HostOut) : Bool :=
  o.blocked h || (o.gated && ahead.any fun w => w.owner == o.owner || o.owner.isNone)

/-- The record of a pitch as a command placed at an instant sees it: the one before the first commit after that instant (R106, R337). -/
def State.confSeen (s : State) (p placed : Nat) : PitchConf :=
  (((s.dom p).confPast.filter fun x => placed < x.1).getLast?.map (·.2)).getD (s.dom p).conf

/-- The PASID of a domain's DMA as its configuration now stands; the operator domain's carries none (R51, R99, R106). -/
def State.pasidOf (s : State) (d : Nat) : Option Nat := if d < 256 then some (s.dom d).conf.pasid else none

def State.wait (s : State) (o : HostOut) : State := { s with host := { s.host with waiting := s.host.waiting ++ [o] } }

/-- Outputs that a warden gap holds: completions, messages, and SMBus replies, for which the clock is stretched (R356). -/
def HostOut.held : HostOut → Bool
  | .completion _ _ _ _ _ | .message _ _ _ | .smbus _ => true
  | _ => false

def State.hold (s : State) (o : HostOut) : State := { s with guy := { s.guy with held := s.guy.held ++ [o] } }

def HostPort.vector (h : HostPort) (v : Nat) : Vector := Tab.get h.vectors {} v

def State.setVector (s : State) (v : Nat) (f : Vector → Vector) : State :=
  { s with host := { s.host with vectors := Tab.put s.host.vectors {} v (f (s.host.vector v)) } }

/-- An MSI-X message on a vector (R456): lost while MSI-X Enable is 0; pending while masked; 0xFFFF names none. A warden gap holds it
(R356), but not the message of a tamper source (`now`, R424). -/
def State.message (s : State) (v : Nat) (now : Bool := false) : State :=
  if v ≥ 2048 || !s.host.msixEnable then s
  else
    let e := s.host.vector v
    if e.masked || s.host.functionMask then s.setVector v fun e => { e with pending := true }
    else
      let o : HostOut := .message v e.addr e.data
      if s.guy.holding && !now then s.hold o else if o.waits s.host s.host.waiting then s.wait o else s.putRaw o

/-! ### Event sources (R423 to R425) -/

/-- The default routes of Table 17-6. -/
def defaultRoute (source : Nat) : Route :=
  if 0x180 ≤ source && source ≤ 0x18D then { vector := 1, alert := true, smbAlert := true }
  else if (0x190 ≤ source && source ≤ 0x199) || source = 0x19D then { vector := 1, alert := true }
  else if 0x19A ≤ source && source ≤ 0x19C then { vector := 0 }
  else {}

def Events.route (e : Events) (source : Nat) : Route := Tab.get e.routes (defaultRoute source) source

/-- Whether a source is pending (R424). -/
def State.eventPending (s : State) (source : Nat) : Bool :=
  if source < 256 then (s.dom source).eventAck != 0 else s.events.latched.contains source

/-- What a source does when it goes from not pending to pending (R424). -/
def State.eventEdge (s : State) (source : Nat) : State :=
  let r := s.events.route source
  let s := if r.trail then s.log 8 (originOf 0 0) notice (leBytes 2 source) else s
  s.message r.vector (0x180 ≤ source && source ≤ 0x189)

/-- A source other than a pitch's occurs: it latches pending (R424). -/
def State.raise (s : State) (source : Nat) : State :=
  if s.events.latched.contains source then s
  else ({ s with events := { s.events with latched := insertNat s.events.latched source } }).eventEdge source

/-- A bit of a pitch's EVENT_ACK is set (R33 Table 2-7); the operator's queue events have sources of their own
(R423). -/
def State.pitchEvent (s : State) (d b : Nat) : State :=
  if d < 256 then
    let old := (s.dom d).eventAck
    let s := s.setDom d fun D => { D with eventAck := D.eventAck ||| 2 ^ b }
    if old = 0 then s.eventEdge d else s
  else if b = 0 then s.raise 0x19A
  else if b = 1 then s.raise 0x19C
  else if b = 2 then s.raise 0x19B
  else s

/-- Bits of EVENT_ACK (R33 Table 2-7). -/
def evQueueError : Nat := 0

def evAdminReady : Nat := 1

def evSeqGap : Nat := 2

def evStageApplied : Nat := 3

def evTwin : Nat := 4

def evDirty : Nat := 5

def evValidity : Nat := 6

def evLocked : Nat := 7

/-! ### The dirty-page log (R112, R461, R462) -/

/-- Logging enters FAILED (R114, R462). -/
def State.dirtyFail (s : State) (d : Nat) : State :=
  let s := s.setDom d fun D => { D with dirty := { D.dirty with mode := .failed, known := [], wanted := [], sent := [], flush := [] } }
  (s.log codeDirty (originOf 1 d) errorSeverity (leBytes 8 (s.dom d).dirty.bitmap)).pitchEvent d evDirty

/-- The CAS of a bitmap word, where one is due and none is outstanding (R461). -/
def State.dirtyIssue (s : State) (d w : Nat) : State :=
  let y := (s.dom d).dirty
  let m := Tab.get y.wanted 0 w
  if y.mode != .running || m = 0 || (Tab.find y.sent w).isSome then s
  else if !s.host.atomicReq then s.dirtyFail d
  else
    let k := Tab.get y.known 0 w
    let s := s.setDom d fun D => { D with dirty := { D.dirty with wanted := Tab.erase y.wanted w, sent := Tab.insert y.sent w (k, m) } }
    let o : HostOut := .cas d (y.bitmap + 8 * w) k (k ||| m)
    if o.waits s.host s.host.waiting then s.wait o else s.putRaw o

/-- The pages of the cover that a write touches. -/
def Dirty.pages (y : Dirty) (addr len : Nat) : List Nat :=
  let lo := max addr y.coverBase
  let hi := min (addr + len) (y.coverBase + 4096 * y.coverPages)
  if lo < hi then (List.range ((hi - 1 - y.coverBase) / 4096 + 1 - (lo - y.coverBase) / 4096)).map (· + (lo - y.coverBase) / 4096) else []

/-- A write of a pitch is logged: the bits of its pages join the masks of their words. -/
def State.dirtyMark (s : State) (d addr len : Nat) : State :=
  if d ≥ 256 || (s.dom d).dirty.mode != .running then s
  else
    let ps := (s.dom d).dirty.pages addr len
    let s := s.setDom d fun D => { D with dirty := { D.dirty with
      wanted := ps.foldl (fun t p => Tab.put t 0 (p / 64) (Tab.get t 0 (p / 64) ||| 2 ^ (p % 64))) D.dirty.wanted } }
    ((ps.map (· / 64)).eraseDups).foldl (fun s w => s.dirtyIssue d w) s

/-! ### Putting items on the host port (R25, R356, R453) -/

/-- An item on its port, logged where it is a pitch's write. -/
def State.put (s : State) (o : HostOut) : State :=
  let s := s.putRaw o
  match o with
  | .output d _ a b => s.dirtyMark d a b.length
  | .completion d _ _ a b => s.dirtyMark d a b.length
  | _ => s

/-- An item put on its port at once, unless the host's controls hold it back. -/
def State.emitNow (s : State) (o : HostOut) : State :=
  if o.waits s.host s.host.waiting then s.wait o else s.put o

/-- An item put on its port, or held during a warden gap. -/
def State.emit (s : State) (o : HostOut) : State :=
  if s.guy.holding && o.held then s.hold o else s.emitNow o

/-- The waiting items put on their ports in order, as far as the host's controls let them. -/
def State.releaseList (s : State) : List HostOut → State
  | [] => s
  | o :: os => (if o.waits s.host s.host.waiting then s.wait o else s.put o).releaseList os

def State.release (s : State) : State :=
  let l := s.host.waiting
  ({ s with host := { s.host with waiting := [] } }).releaseList l

/-- The outputs of a gap released in their order (R356). -/
def State.releaseHeld (s : State) : State :=
  let l := s.guy.held
  l.foldl State.emitNow { s with guy := { s.guy with holding := false, held := [] } }

/-! ### The wardens (R348, R352, R387) -/

def WardenState.code : WardenState → Nat
  | .offline => 0 | .selfTest => 1 | .syncing => 2 | .mirrored => 3 | .active => 4 | .failed => 5

def grantA : BitVec 16 := 0x9696

def grantB : BitVec 16 := 0x9966

/-- The arbiter's codes while the grant moves, until the gap of the move ends. -/
def movingToA : BitVec 16 := 0xA55A

def movingToB : BitVec 16 := 0xC33C

/-- The warden that holds the grant, or takes it, A (0) or B (1). -/
def State.activeWarden (s : State) : Nat := b2n (s.guy.code = grantB || s.guy.code = movingToB)

/-- The other warden. -/
def State.standby (s : State) : Nat := 1 - s.activeWarden

/-! ### Pins -/

/-- ALERT_N is driven low while a source routed to it is pending (R424, R485). -/
def State.alertNow (s : State) : Bool := (List.range 512).any fun x => s.eventPending x && (s.events.route x).alert

/-- SMB_ALERT_N likewise. -/
def State.smbAlertLow (s : State) : Bool := (List.range 512).any fun x => s.eventPending x && (s.events.route x).smbAlert

/-- HEALTH is driven low only in READY, and never in SCRAPPED (R446, R485). -/
def State.healthNow (s : State) : Bool :=
  s.boot.powered && s.boot.state = .ready && s.life.state != .scrapped

/-- A tamper source drives ALERT_N low; its outputs are never held (R424). -/
def State.tamperAlert (s : State) : Bool := (List.range 10).any fun n => s.eventPending (0x180 + n) && (s.events.route (0x180 + n)).alert

/-- The levels of the two pins; a warden gap holds them (R356). -/
def State.alertLow (s : State) : Bool := if s.guy.holding then s.guy.heldAlert || s.tamperAlert else s.alertNow

def State.healthLow (s : State) : Bool := if s.guy.holding then s.guy.heldHealth else s.healthNow

/-- A gap begins: outputs are held at their last values (R356). -/
def State.holdOutputs (s : State) : State :=
  if s.guy.holding then s
  else { s with guy := { s.guy with holding := true, heldAlert := s.alertNow, heldHealth := s.healthNow } }

/-- An unknown event that needs the main domain wakes the module from BIVVY (R346). -/
def State.wakeModule (s : State) : State :=
  if s.boot.bivvy && s.boot.waking.isNone then { s with boot := { s.boot with waking := some s.now } } else s

/-- A response of the tamper logic drives HEALTH at once, in a gap too (R356). -/
def State.driveHealth (s : State) : State := if s.guy.holding then { s with guy := { s.guy with heldHealth := s.healthNow } } else s

/-! ### State changes of the wardens (R360, R412) -/

/-- Codes of the warden category (log entry 22). -/
def codeWarden : Nat := 0x1100

def codeSwitchOver : Nat := 0x1101

def codeTakeback : Nat := 0x1102

def codeGrantRefused : Nat := 0x1103

def codeDoubleFailure : Nat := 0x1104

/-- What a warden entry carries: a cause as LAST_CAUSE has it, the two states, the gap in ns. -/
def State.wardenData (s : State) (cause gap : Nat) : Bytes :=
  leBytes 1 cause ++ leBytes 1 (s.warden 0).state.code ++ leBytes 1 (s.warden 1).state.code ++ leBytes 4 gap

/-- A warden enters a state: a trail entry and the WARDEN_FAILOVER chip event. -/
def State.wardenTo (s : State) (w : Nat) (new : WardenState) : State :=
  if (s.warden w).state = new then s
  else
    let s := s.setWarden w fun x => { x with state := new }
    (s.log codeWarden (originOf 9 w) warning (s.wardenData s.guy.lastCause 0)).raise 0x190

/-! ### The wardens' journal (R354) -/

def JournalKind.code : JournalKind → Nat
  | .placement => 0 | .inputs => 1 | .floorWrite => 2 | .commitRecord => 3 | .staging => 4 | .queueState => 5 | .timer => 6 | .cursor => 7

/-- An entry as the running digests take it; its form is the model's (log entry 15). -/
def JournalEntry.bytes (e : JournalEntry) : Bytes := leBytes 1 e.kind.code ++ leBytes 2 e.dom ++ leBytes 8 e.seq ++ e.data

/-- The standby takes journal entries: it is SYNCING with its snapshot, or MIRRORED. -/
def State.journals (s : State) : Bool :=
  let w := s.warden s.standby
  w.state = .mirrored || (w.state = .syncing && w.snapshot)

/-- A warden applies the oldest entry, as it received it, and both running digests go on. -/
def State.applyEntry (s : State) (w : Nat) (received : JournalEntry → Bytes) : State :=
  match s.guy.journal with
  | [] => s
  | e :: es =>
    let s := s.setWarden w fun x => { x with digest := sha384 (x.digest ++ received e), applied := x.applied + 1 }
    { s with guy := { s.guy with journal := es, headDigest := sha384 (s.guy.headDigest ++ e.bytes) } }

/-- A checkpoint: a standby whose running digest differs is FAILED. -/
def State.checkpoint (s : State) : State :=
  let s := { s with guy := { s.guy with checkpoint := some s.guy.headDigest, checkpointAt := s.guy.written } }
  if (s.warden s.standby).digest = s.guy.headDigest then s
  else ({ s with guy := { s.guy with journal := [], preparing := none } }).wardenTo s.standby .failed

/-- The checkpoint that is due after 4,096 entries. -/
def State.checkpointDue (s : State) : State := if s.guy.checkpointAt + 4096 ≤ s.guy.written && s.journals then s.checkpoint else s

/-- The standby applies the oldest entry. -/
def State.applyJournal (s : State) (received : JournalEntry → Bytes) : State := s.applyEntry s.standby received

/-- A MIRRORED standby acknowledges every entry so far. -/
def State.ackJournal (s : State) : State :=
  if (s.warden s.standby).state = .mirrored then (s.guy.journal.foldl (fun s _ => s.applyJournal JournalEntry.bytes) s).checkpointDue else s

/-- An entry of the journal; no more than 1,024 stand unapplied. -/
def State.journal (s : State) (kind : JournalKind) (d seq : Nat) (data : Bytes) : State :=
  if !s.journals then { s with guy := { s.guy with written := s.guy.written + 1 } }
  else
    let s := if s.guy.journal.length ≥ 1024 then s.applyJournal JournalEntry.bytes else s
    { s with guy := { s.guy with journal := s.guy.journal ++ [{ kind := kind, dom := d, seq := seq, data := data }]
                                 written := s.guy.written + 1 } }

/-- A timer that feeds a known event of a domain, or of the chip, starts at an instant (Table 13-8). -/
def State.journalTimer (s : State) (d t : Nat) : State := s.journal .timer d 0 (leBytes 8 t)

end Sys2Proof.Machine
end

