-- ==== Sys2Proof/Machine/Operands.lean ====
section
/-!
DEFINITION. Sys2Proof/Machine/Operands.lean: the words of a block core, its registers, its traps as values, and the checks of operand
tags that precede every instruction (R275 to R277, R283 to R285).
-/

namespace Sys2Proof.Machine

/-! ### Tags and words (R275, R285) -/

/-- Numbers of the tags (Table 11-1). -/
def Tag.number : Tag → Nat
  | .bits => 0 | .int => 1 | .bool => 2 | .addr => 3 | .handle => 4 | .time => 5 | .err => 6 | .code => 7 | .reserved n => 8 + n.val | .empty => 15

/-- Tags 8 to 14, which are never created (R275, R276). -/
def Tag.illegal : Tag → Bool
  | .reserved _ => true
  | _ => false

def kBits (v : BitVec 64) : KWord := { tag := .bits, val := v }

def kInt (v : BitVec 64) : KWord := { tag := .int, val := v }

def kBool (b : Bool) : KWord := { tag := .bool, val := BitVec.ofNat 64 (b2n b) }

def kAddr (v : BitVec 64) : KWord := { tag := .addr, val := v }

def kTime (v : BitVec 64) : KWord := { tag := .time, val := v }

def kCode (v : BitVec 64) : KWord := { tag := .code, val := v }

def kHandle (v : Nat) : KWord := { tag := .handle, val := BitVec.ofNat 64 v }

/-- ERR codes (Table 11-5). -/
def errOvf : Nat := 1

def errDivz : Nat := 2

def errRange : Nat := 3

/-- An ERR word with its code and the address of the instruction that produced it (R285). -/
def kErr (code : Nat) (pc : BitVec 64) : KWord :=
  { tag := .err, val := BitVec.ofNat 64 (code % 65536 * 2 ^ 32 + pc.toNat % 2 ^ 32) }

def KWord.errCode (w : KWord) : Nat := bits w.val.toNat 47 32

def KWord.errWhere (w : KWord) : Nat := bits w.val.toNat 31 0

/-! ### Registers (R277) -/

/-- W0 reads as INT 0. -/
def Core.reg (K : Core) (r : BitVec 5) : KWord := if r = 0 then kInt 0 else Tab.get K.regs {} r.toNat

/-- A result written to W0 is discarded. -/
def Core.set (K : Core) (r : BitVec 5) (w : KWord) : Core :=
  if r = 0 then K else { K with regs := Tab.put K.regs {} r.toNat w }

/-- The fixed roles (Table 11-2). -/
def wCnt : BitVec 5 := 27

def wSrc : BitVec 5 := 28

def wDst : BitVec 5 := 29

def wLnk : BitVec 5 := 30

/-- Mode, interrupt enable and trap marks of TSTATUS (Table 11-11). -/
def Core.function (K : Core) : Bool := K.tstatus.getLsbD 3

def Core.inTrap (K : Core) : Bool := K.tstatus.getLsbD 2

def Core.enabled (K : Core) : Bool := K.tstatus.getLsbD 0

def Core.advance (K : Core) : Core := { K with pc := K.pc + 4 }

/-! ### Traps as values (R302 Table 11-12) -/

/-- A trap: its cause, TVAL, and the tag and error code of the offending operand. -/
structure Trap where
  cause : Nat
  tval : BitVec 64 := 0
  tag : Nat := 0
  errCode : Nat := 0
  deriving DecidableEq, Repr

/-- Why an instruction does not complete: it traps, or it waits. -/
inductive Stop where
  | trap (t : Trap)
  | stall
  deriving DecidableEq, Repr

def illegalInsn : Nat := 0x01

def illegalTag : Nat := 0x02

def uninit : Nat := 0x03

def tagCause : Nat := 0x04

def errConsumed : Nat := 0x05

def illegalSpan : Nat := 0x06

def alignCause : Nat := 0x07

def accessCause : Nat := 0x08

def privCause : Nat := 0x09

def spanCount : Nat := 0x0A

def engineFull : Nat := 0x0B

def engineTicket : Nat := 0x0C

/-- A trap that names an operand position and its tag. -/
def tagTrap (cause position : Nat) (w : KWord) : Stop :=
  .trap { cause := cause, tval := BitVec.ofNat 64 position, tag := w.tag.number }

def uninitTrap (v : Nat) : Stop := .trap { cause := uninit, tval := BitVec.ofNat 64 v, tag := 15 }

def errTrap (w : KWord) : Stop :=
  .trap { cause := errConsumed, tval := BitVec.ofNat 64 w.errWhere, tag := 6, errCode := w.errCode }

def wordTrap (cause word : Nat) : Stop := .trap { cause := cause, tval := BitVec.ofNat 64 word }

def addrTrap (cause a : Nat) : Stop := .trap { cause := cause, tval := BitVec.ofNat 64 a }

/-! ### The checks of R283 -/

/-- An operand: its position (1 to 3 registers, 4 memory), the register number or memory address it names, its word. -/
structure Operand where
  position : Nat
  name : Nat
  word : KWord
  deriving DecidableEq, Repr

/-- Operands held by registers, in the order given. -/
def Core.operands (K : Core) (rs : List (BitVec 5)) : List Operand :=
  rs.zipIdx.map fun (r, i) => { position := i + 1, name := r.toNat, word := K.reg r }

/-- Checks 1 and 2: a reserved tag, then EMPTY. -/
def checkHeld (l : List Operand) : Except Stop Unit :=
  match l.find? fun o => o.word.tag.illegal with
  | some o => .error (tagTrap illegalTag o.position o.word)
  | none =>
    match l.find? fun o => o.word.tag = .empty with
    | some o => .error (uninitTrap o.name)
    | none => .ok ()

/-- The first ERR operand. -/
def firstErr (l : List Operand) : Option KWord := (l.find? fun o => o.word.tag = .err).map Operand.word

/-- Check 3 of an instruction that consumes ERR words (R284). -/
def checkErr (l : List Operand) : Except Stop Unit :=
  match firstErr l with
  | some w => .error (errTrap w)
  | none => .ok ()

/-- Check 4: the tags of the operands, in order, must be the beginning of some tuple that the rule allows; the first operand with
which none agrees is the offending one. -/
def checkTags : List (List Tag) → List Operand → Except Stop Unit
  | _, [] => .ok ()
  | rule, o :: os =>
    match (rule.filter fun t => t.head? == some o.word.tag).map List.tail with
    | [] => .error (tagTrap tagCause o.position o.word)
    | rule => checkTags rule os

/-- The words that the instructions `rd, rs…` of a rule see, or the ERR word they pass on; `.error` where they trap. -/
def propagate (l : List Operand) (rule : List (List Tag)) (f : List KWord → KWord) : Except Stop KWord :=
  match checkHeld l with
  | .error e => .error e
  | .ok _ =>
    match firstErr l with
    | some w => .ok w
    | none =>
      match checkTags rule l with
      | .error e => .error e
      | .ok _ => .ok (f (l.map Operand.word))

/-- The same for an instruction that consumes its operands. -/
def consume (l : List Operand) (rule : List (List Tag)) : Except Stop (List KWord) :=
  match checkHeld l with
  | .error e => .error e
  | .ok _ =>
    match checkErr l with
    | .error e => .error e
    | .ok _ =>
      match checkTags rule l with
      | .error e => .error e
      | .ok _ => .ok (l.map Operand.word)

end Sys2Proof.Machine
end

