-- ==== Sys2Proof/Machine/CoreMemory.lean ====
section
/-!
DEFINITION. Sys2Proof/Machine/CoreMemory.lean: what a block core addresses: its local memory and its window onto the region buffer,
the colours and rules that guard them, and the stall behind an engine job (R278, R279, R298, R307 to R311).
-/

namespace Sys2Proof.Machine

/-! ### The address map (R278) -/

def windowBase : Nat := 0x100000000

def inLocal (a n : Nat) : Bool := a + n ≤ 0x80000

def inWindow (a n : Nat) : Bool := windowBase ≤ a && a + n ≤ windowBase + 0x800000

/-! ### Colours and rules (R307 to R310) -/

/-- Kinds of access. -/
inductive AccessKind where
  | read | write | fetch
  deriving DecidableEq, Repr

/-- Granules that a range touches, by byte address ÷ 16. -/
def granulesOf (a n : Nat) : List Nat := (List.range ((a + n - 1) / 16 + 1 - a / 16)).map (· + a / 16)

/-- The colour of a granule, and the block it is granted to: a local granule is the core's own. -/
def State.granule (s : State) (k g : Nat) : Nat × Nat :=
  if g < 0x8000 then (Tab.get (s.core k).colours 0 g, k)
  else Tab.get (s.region (k / 12)).granules (0, 0) (g - windowBase / 16)

/-- A rule's range lies within one area of the map. -/
def Rule.inOneArea (x : Rule) : Bool :=
  x.startG ≤ x.endG && (inLocal (16 * x.startG) (16 * (x.endG + 1 - x.startG)) || inWindow (16 * x.startG) (16 * (x.endG + 1 - x.startG)))

def Rule.grants (x : Rule) : AccessKind → Bool
  | .read => x.r | .write => x.w | .fetch => x.x

/-- A rule of a colour from 1 to 14 covers every byte of an access, grants it, and every granule carries its colour (R309, R310). -/
def State.ruleAllows (s : State) (k : Nat) (kind : AccessKind) (a n : Nat) (x : Rule) : Bool :=
  1 ≤ x.colour && x.colour ≤ 14 && x.inOneArea && x.startG ≤ a / 16 && (a + n - 1) / 16 ≤ x.endG && x.grants kind &&
    (granulesOf a n).all fun g => s.granule k g = (x.colour, k)

/-- Whether an access of a core is allowed (R278, R310). -/
def State.allows (s : State) (k : Nat) (kind : AccessKind) (a n : Nat) : Bool :=
  (inLocal a n || inWindow a n) &&
    (if (s.core k).function then (s.core k).active.any fun p => s.ruleAllows k kind a n p.2
     else (granulesOf a n).all fun g =>
       let c := (s.granule k g).1
       c ≤ 14 && (kind != .write || c ≥ 1))

/-! ### Words and bytes (R279) -/

/-- The word at an address that is a multiple of 8. -/
def State.word (s : State) (k a : Nat) : KWord :=
  if a < 0x80000 then Tab.get (s.core k).mem {} (a / 8)
  else kBits (BitVec.ofNat 64 (leNat ((List.range 8).map fun i => Tab.get (s.region (k / 12)).buffer 0 (a - windowBase + i))))

def putBytes (t : List Host.Cell) (o : Nat) : Bytes → List Host.Cell
  | [] => t
  | b :: bs => putBytes (Tab.put t 0 o b) (o + 1) bs

def State.setWord (s : State) (k a : Nat) (w : KWord) : State :=
  if a < 0x80000 then s.setCore k fun K => { K with mem := Tab.put K.mem {} (a / 8) w }
  else s.setRegion (k / 12) fun R => { R with buffer := putBytes R.buffer (a - windowBase) (leBytes 8 w.val.toNat) }

/-- The byte at an address. -/
def State.byte (s : State) (k a : Nat) : Byte := BitVec.ofNat 8 (byteAt (leBytes 8 (s.word k (a / 8 * 8)).val.toNat) (a % 8))

/-- A byte put into its word, which becomes BITS where it was EMPTY. -/
def State.setByte (s : State) (k a : Nat) (b : Byte) : State :=
  let w := s.word k (a / 8 * 8)
  let v := if w.tag = .empty then 0 else w.val.toNat
  s.setWord k (a / 8 * 8) (kBits (BitVec.ofNat 64 (setBytes v (a % 8) 1 b.toNat)))

/-- Bytes of a range. -/
def State.bytesAt (s : State) (k a n : Nat) : Bytes := (List.range n).map fun i => s.byte k (a + i)

/-- Bytes put one after another. -/
def State.putBytesAt (s : State) (k a : Nat) (bs : Bytes) : State := bs.zipIdx.foldl (fun s p => s.setByte k (a + p.2) p.1) s

/-! ### The form of the memories -/

/-- The form of a byte memory: an unlisted byte reads as zero. -/
def Memory.wf (m : List Host.Cell) : Bool := Tab.wf 0 m

/-- The form of every local memory, whose unlisted words are EMPTY, and of every region buffer. -/
def State.memoryWf (s : State) : Bool :=
  (s.cores.all fun (p : Nat × Core) => Tab.wf {} p.2.mem) && s.regions.all fun (p : Nat × Region) => Memory.wf p.2.buffer

/-! ### The stall behind a job (R298) -/

/-- Tag and value of a word of a descriptor. -/
def tagAt (w : List KWord) (i : Nat) : Tag := (w.getD i {}).tag

def valAt (w : List KWord) (i : Nat) : Nat := (w.getD i {}).val.toNat

/-- A range that a word of a descriptor names: none where the word is no ADDR. -/
def rangeAt (w : List KWord) (i n : Nat) (kind : AccessKind) : List (Nat × Nat × AccessKind) :=
  if tagAt w i = .addr && n != 0 then [(valAt w i, n, kind)] else []

/-- SRC and DST of a descriptor, each with the access it is (R311; Tables 7-3, 8-2, 11-10). -/
def descRanges (kind : EngineKind) (w : List KWord) : List (Nat × Nat × AccessKind) :=
  match kind with
  | .cell => rangeAt w 2 (bits (valAt w 4) 22 0) .read ++ rangeAt w 3 (bits (valAt w 4) 22 0) .write
  | .liu => rangeAt w 3 (bits (valAt w 5) 31 0) .read ++ rangeAt w 4 (bits (valAt w 5) 63 32) .write
  | .hash =>
    rangeAt w 2 (bits (valAt w 4) 31 0) .read ++
      rangeAt w 3 (bits (valAt w 4) 63 32) (if bits (valAt w 0) 15 8 = 2 then .read else .write)

/-- The ranges of a job: its descriptor, its SRC and its DST. -/
def Job.ranges (j : Job) : List (Nat × Nat) := (j.desc, 64) :: (descRanges j.kind j.words).map fun x => (x.1, x.2.1)

def rangesMeet (a n b m : Nat) : Bool := 0 < n && 0 < m && a < b + m && b < a + n

/-- A job of the core that has not ended touches the range. -/
def Core.stalls (K : Core) (a n : Nat) : Bool := K.jobs.any fun j => j.ended.isNone && j.ranges.any fun r => rangesMeet a n r.1 r.2

/-! ### Loads and stores of one word or byte (R279, R283) -/

/-- An access judged: alignment, the guard, the stall. -/
def State.reach (s : State) (k : Nat) (kind : AccessKind) (a n : Nat) : Except Stop Unit :=
  if a % n != 0 then .error (addrTrap alignCause a)
  else if !s.allows k kind a n then .error (addrTrap accessCause a)
  else if (s.core k).stalls a n then .error .stall
  else .ok ()

/-- The word at an address as a memory operand. -/
def State.memOperand (s : State) (k a : Nat) : Operand := { position := 4, name := a, word := s.word k (a / 8 * 8) }

/-- A word loaded with its tag. -/
def State.loadWord (s : State) (k a : Nat) : Except Stop KWord :=
  match s.reach k .read a 8 with
  | .error e => .error e
  | .ok _ =>
    match checkHeld [s.memOperand k a] with
    | .error e => .error e
    | .ok _ => .ok (s.word k a)

/-- A byte loaded from a BITS word. -/
def State.loadByte (s : State) (k a : Nat) : Except Stop Byte :=
  match s.reach k .read a 1 with
  | .error e => .error e
  | .ok _ =>
    match checkHeld [s.memOperand k a] with
    | .error e => .error e
    | .ok _ =>
      match checkTags [[.bits]] [s.memOperand k a] with
      | .error e => .error e
      | .ok _ => .ok (s.byte k a)

/-- Whether a word may be stored at an address: the window takes BITS alone (Table 11-3); `position` names the data operand. -/
def State.mayStore (s : State) (k a position : Nat) (w : KWord) : Except Stop Unit :=
  match s.reach k .write a 8 with
  | .error e => .error e
  | .ok _ => if a ≥ 0x80000 && w.tag != .bits then .error (tagTrap tagCause position w) else .ok ()

/-- Whether a byte may be stored: its word is BITS or EMPTY. -/
def State.mayStoreByte (s : State) (k a : Nat) : Except Stop Unit :=
  match s.reach k .write a 1 with
  | .error e => .error e
  | .ok _ =>
    match (s.word k (a / 8 * 8)).tag with
    | .bits | .empty => .ok ()
    | .reserved _ => .error (tagTrap illegalTag 4 (s.word k (a / 8 * 8)))
    | _ => .error (tagTrap tagCause 4 (s.word k (a / 8 * 8)))

/-! ### Areas (R308) -/

/-- An area prepared to a colour, by whole granules: local words EMPTY, buffer bytes zero. -/
def State.prepare (s : State) (k : Nat) (colour a n : Nat) : State :=
  if n = 0 then s
  else if a < 0x80000 then
    s.setCore k fun K => { K with mem := K.mem.filter fun (p : Nat × KWord) => p.1 < a / 16 * 2 || (a + n - 1) / 16 * 2 + 1 < p.1
                                  colours := (granulesOf a n).foldl (fun t g => Tab.put t 0 g colour) K.colours }
  else
    s.setRegion (k / 12) fun R =>
      { R with buffer := R.buffer.filter fun (p : Host.Cell) => p.1 < (a - windowBase) / 16 * 16 || ((a - windowBase + n - 1) / 16 + 1) * 16 ≤ p.1
               granules := (granulesOf (a - windowBase) n).foldl (fun t g => Tab.put t (0, 0) g (if colour = 0 then (0, 0) else (colour, k))) R.granules }

/-- Words of BITS loaded into local memory from bytes, the last one filled up with zeros. -/
def State.loadBits (s : State) (k a : Nat) (bs : Bytes) : State :=
  (chunks 8 bs).zipIdx.foldl (fun s p => s.setWord k (a + 8 * p.2) (kBits (BitVec.ofNat 64 (leNat p.1)))) s

end Sys2Proof.Machine
end

