-- ==== Sys2Proof/Machine/Status.lean ====
section
/-!
DEFINITION. Sys2Proof/Machine/Status.lean: the statuses of R59, with the chapter that defines each.
-/

namespace Sys2Proof.Machine

/-- `S_OK` (02_mailboxes.md). -/
def sOk : Nat := 0x0000

/-- `E_RESERVED` (02_mailboxes.md). -/
def eReserved : Nat := 0x1001

/-- `E_LENGTH_LIMIT` (02_mailboxes.md). -/
def eLengthLimit : Nat := 0x1002

/-- `E_PARAM_LENGTH` (02_mailboxes.md). -/
def eParamLength : Nat := 0x1003

/-- `E_OUTPUT_SPACE` (02_mailboxes.md). -/
def eOutputSpace : Nat := 0x1004

/-- `E_DESCRIPTOR_FORM` (02_mailboxes.md). -/
def eDescriptorForm : Nat := 0x1005

/-- `E_HANDLE_FOREIGN` (02_mailboxes.md). -/
def eHandleForeign : Nat := 0x2008

/-- `E_LIFECYCLE_STATE` (02_mailboxes.md). -/
def eLifecycleState : Nat := 0x500C

/-- `E_LOG_UNAVAILABLE` (02_mailboxes.md). -/
def eLogUnavailable : Nat := 0x500D

/-- `E_TIME_UNTRUSTED` (02_mailboxes.md). -/
def eTimeUntrusted : Nat := 0x500E

/-- `E_ENTROPY` (02_mailboxes.md). -/
def eEntropy : Nat := 0x500F

/-- `E_NOT_READY` (02_mailboxes.md). -/
def eNotReady : Nat := 0x5010

/-- `E_MODULE_LOCKED` (02_mailboxes.md). -/
def eModuleLocked : Nat := 0x5011

/-- `E_ABORTED_TAMPER` (02_mailboxes.md). -/
def eAbortedTamper : Nat := 0x6018

/-- `E_QUEUE_MISMATCH` (02_mailboxes.md). -/
def eQueueMismatch : Nat := 0x7020

/-- `E_QUEUE_KIND` (02_mailboxes.md). -/
def eQueueKind : Nat := 0x7021

/-- `E_OPCODE_UNDEFINED` (02_mailboxes.md). -/
def eOpcodeUndefined : Nat := 0x7022

/-- `E_SEQ_STALE` (02_mailboxes.md). -/
def eSeqStale : Nat := 0x7023

/-- `E_SEQ_DUPLICATE` (02_mailboxes.md). -/
def eSeqDuplicate : Nat := 0x7024

/-- `E_SEQ_WINDOW` (02_mailboxes.md). -/
def eSeqWindow : Nat := 0x7025

/-- `E_SEQ_GAP` (02_mailboxes.md). -/
def eSeqGap : Nat := 0x7026

/-- `E_UNDECLARED_ACCESS` (02_mailboxes.md). -/
def eUndeclaredAccess : Nat := 0x7027

/-- `E_ADDRESS_WINDOW` (02_mailboxes.md). -/
def eAddressWindow : Nat := 0x7028

/-- `E_DMA_READ` (02_mailboxes.md). -/
def eDmaRead : Nat := 0x7029

/-- `E_QUEUE_SIZE` (02_mailboxes.md). -/
def eQueueSize : Nat := 0x1044

/-- `E_GAP_TIMEOUT_RANGE` (02_mailboxes.md). -/
def eGapTimeoutRange : Nat := 0x1046

/-- `E_QUEUE_PARAM` (02_mailboxes.md). -/
def eQueueParam : Nat := 0x1049

/-- `E_VECTOR` (02_mailboxes.md). -/
def eVector : Nat := 0x2045

/-- `E_QUEUE_QUOTA` (02_mailboxes.md). -/
def eQueueQuota : Nat := 0x4047

/-- `E_QUEUE_EXISTS` (02_mailboxes.md). -/
def eQueueExists : Nat := 0x7040

/-- `E_QUEUE_ABSENT` (02_mailboxes.md). -/
def eQueueAbsent : Nat := 0x7041

/-- `E_QUEUE_NOT_EMPTY` (02_mailboxes.md). -/
def eQueueNotEmpty : Nat := 0x7042

/-- `E_QUEUE_ZERO` (02_mailboxes.md). -/
def eQueueZero : Nat := 0x7043

/-- `E_QUEUE_SELF` (02_mailboxes.md). -/
def eQueueSelf : Nat := 0x7048

/-- `E_TWIN_PARAM` (03_serial_equivalence.md). -/
def eTwinParam : Nat := 0x12C7

/-- `E_TWIN_INELIGIBLE` (03_serial_equivalence.md). -/
def eTwinIneligible : Nat := 0x22C3

/-- `E_TWIN_RESUME_RANGE` (03_serial_equivalence.md). -/
def eTwinResumeRange : Nat := 0x42C5

/-- `E_TWIN_STATE` (03_serial_equivalence.md). -/
def eTwinState : Nat := 0x52C0

/-- `E_TWIN_SECONDARY` (03_serial_equivalence.md). -/
def eTwinSecondary : Nat := 0x52C1

/-- `E_TWIN_LINK` (03_serial_equivalence.md). -/
def eTwinLink : Nat := 0x52C4

/-- `E_TWIN_SEQ` (03_serial_equivalence.md). -/
def eTwinSeq : Nat := 0x72C2

/-- `E_PITCH_PARAM` (04_pitches.md). -/
def ePitchParam : Nat := 0x1080

/-- `E_WINDOW_FORM` (04_pitches.md). -/
def eWindowForm : Nat := 0x1081

/-- `E_DIRTY_RANGE` (04_pitches.md). -/
def eDirtyRange : Nat := 0x1088

/-- `E_PITCH_FIELD_OWNER` (04_pitches.md). -/
def ePitchFieldOwner : Nat := 0x2082

/-- `E_POOL_EXCEEDED` (04_pitches.md). -/
def ePoolExceeded : Nat := 0x4083

/-- `E_QUOTA_BELOW_USE` (04_pitches.md). -/
def eQuotaBelowUse : Nat := 0x4084

/-- `E_PITCH_STATE` (04_pitches.md). -/
def ePitchState : Nat := 0x5085

/-- `E_WINDOW_IN_USE` (04_pitches.md). -/
def eWindowInUse : Nat := 0x5086

/-- `E_DIRTY_LOG_STATE` (04_pitches.md). -/
def eDirtyLogState : Nat := 0x5087

/-- `E_KEY_ALGORITHM` (05_key_store.md). -/
def eKeyAlgorithm : Nat := 0x1100

/-- `E_KEY_ATTR` (05_key_store.md). -/
def eKeyAttr : Nat := 0x1101

/-- `E_KEY_HANDLE` (05_key_store.md). -/
def eKeyHandle : Nat := 0x1102

/-- `E_COMPONENT` (05_key_store.md). -/
def eComponent : Nat := 0x1103

/-- `E_DERIVE_PATH` (05_key_store.md). -/
def eDerivePath : Nat := 0x1104

/-- `E_KEY_CHECK` (05_key_store.md). -/
def eKeyCheck : Nat := 0x1105

/-- `E_KEY_PARAM` (05_key_store.md). -/
def eKeyParam : Nat := 0x1112

/-- `E_KEY_USAGE` (05_key_store.md). -/
def eKeyUsage : Nat := 0x2106

/-- `E_KEY_ABSENT` (05_key_store.md). -/
def eKeyAbsent : Nat := 0x2107

/-- `E_KEY_EXISTS` (05_key_store.md). -/
def eKeyExists : Nat := 0x2108

/-- `E_KEY_NOT_YET` (05_key_store.md). -/
def eKeyNotYet : Nat := 0x2109

/-- `E_KEY_EXPIRED` (05_key_store.md). -/
def eKeyExpired : Nat := 0x210A

/-- `E_DERIVE_PARENT` (05_key_store.md). -/
def eDeriveParent : Nat := 0x210B

/-- `E_NONCE_EXHAUSTED` (05_key_store.md). -/
def eNonceExhausted : Nat := 0x210C

/-- `E_KEY_NOT_GRANTED` (05_key_store.md). -/
def eKeyNotGranted : Nat := 0x210D

/-- `E_ATTR_WIDEN` (05_key_store.md). -/
def eAttrWiden : Nat := 0x210E

/-- `E_KEY_NOT_EXPORTABLE` (05_key_store.md). -/
def eKeyNotExportable : Nat := 0x210F

/-- `E_KEY_SPACE` (05_key_store.md). -/
def eKeySpace : Nat := 0x4110

/-- `E_KEY_CORRUPT` (05_key_store.md). -/
def eKeyCorrupt : Nat := 0x5111

/-- `E_APPROVAL_FORM` (06_dual_control.md). -/
def eApprovalForm : Nat := 0x1140

/-- `E_OFFICER_PARAM` (06_dual_control.md). -/
def eOfficerParam : Nat := 0x1141

/-- `E_QUORUM_BREAK` (06_dual_control.md). -/
def eQuorumBreak : Nat := 0x2142

/-- `E_OFFICER_DUPLICATE` (06_dual_control.md). -/
def eOfficerDuplicate : Nat := 0x2143

/-- `E_APPROVAL_OFFICER` (06_dual_control.md). -/
def eApprovalOfficer : Nat := 0x3144

/-- `E_APPROVAL_DUPLICATE` (06_dual_control.md). -/
def eApprovalDuplicate : Nat := 0x3145

/-- `E_APPROVAL_TIME` (06_dual_control.md). -/
def eApprovalTime : Nat := 0x3146

/-- `E_APPROVAL_REPLAY` (06_dual_control.md). -/
def eApprovalReplay : Nat := 0x3147

/-- `E_APPROVAL_SIGNATURE` (06_dual_control.md). -/
def eApprovalSignature : Nat := 0x3148

/-- `E_QUORUM_SHORT` (06_dual_control.md). -/
def eQuorumShort : Nat := 0x3149

/-- `E_ROSTER_FULL` (06_dual_control.md). -/
def eRosterFull : Nat := 0x414A

/-- `E_ROSTER_OPEN` (06_dual_control.md). -/
def eRosterOpen : Nat := 0x514B

/-- `E_ROSTER_SEALED` (06_dual_control.md). -/
def eRosterSealed : Nat := 0x514C

/-- `E_SYM_PARAM` (07_cipher_cells.md). -/
def eSymParam : Nat := 0x1400

/-- `E_DATA_LENGTH` (07_cipher_cells.md). -/
def eDataLength : Nat := 0x1401

/-- `E_COUNTER_WRAP` (07_cipher_cells.md). -/
def eCounterWrap : Nat := 0x1402

/-- `E_XTS_UNIT` (07_cipher_cells.md). -/
def eXtsUnit : Nat := 0x1403

/-- `E_XTS_SECTOR_WRAP` (07_cipher_cells.md). -/
def eXtsSectorWrap : Nat := 0x1404

/-- `E_CTR_MODE` (07_cipher_cells.md). -/
def eCtrMode : Nat := 0x1405

/-- `E_TAG_MISMATCH` (07_cipher_cells.md). -/
def eTagMismatch : Nat := 0x1406

/-- `E_RESERVE_FORM` (07_cipher_cells.md). -/
def eReserveForm : Nat := 0x1407

/-- `E_XTS_KEY_EQUAL` (07_cipher_cells.md). -/
def eXtsKeyEqual : Nat := 0x2408

/-- `E_INPUT_TRIVIAL` (08_long_integer_units.md). -/
def eInputTrivial : Nat := 0x1580

/-- `E_INPUT_RANGE` (08_long_integer_units.md). -/
def eInputRange : Nat := 0x1581

/-- `E_INVALID_POINT` (08_long_integer_units.md). -/
def eInvalidPoint : Nat := 0x1582

/-- `E_INVALID_KEY` (08_long_integer_units.md). -/
def eInvalidKey : Nat := 0x1583

/-- `E_PK_PARAM` (08_long_integer_units.md). -/
def ePkParam : Nat := 0x1584

/-- `E_PK_LENGTH` (08_long_integer_units.md). -/
def ePkLength : Nat := 0x1585

/-- `E_SHARED_ZERO` (08_long_integer_units.md). -/
def eSharedZero : Nat := 0x15C0

/-- `E_NOT_INVERTIBLE` (08_long_integer_units.md). -/
def eNotInvertible : Nat := 0x1680

/-- `E_MODULUS` (08_long_integer_units.md). -/
def eModulus : Nat := 0x1681

/-- `E_RANDOM_PARAM` (09_entropy_drbg.md). -/
def eRandomParam : Nat := 0x1600

/-- `E_RAW_PRIVILEGE` (09_entropy_drbg.md). -/
def eRawPrivilege : Nat := 0x3601

/-- `E_SOURCE_UNAVAILABLE` (09_entropy_drbg.md). -/
def eSourceUnavailable : Nat := 0x5602

/-- `E_SELFTEST_PARAM` (09_entropy_drbg.md). -/
def eSelftestParam : Nat := 0x17C0

/-- `E_MAC_PARAM` (10_operation_catalogue.md). -/
def eMacParam : Nat := 0x1440

/-- `E_MAC_DATA_LENGTH` (10_operation_catalogue.md). -/
def eMacDataLength : Nat := 0x1441

/-- `E_PIN_PARAM` (10_operation_catalogue.md). -/
def ePinParam : Nat := 0x1480

/-- `E_PIN_BLOCK` (10_operation_catalogue.md). -/
def ePinBlock : Nat := 0x1481

/-- `E_PIN_FORMAT` (10_operation_catalogue.md). -/
def ePinFormat : Nat := 0x2482

/-- `E_DUKPT_PARAM` (10_operation_catalogue.md). -/
def eDukptParam : Nat := 0x14C0

/-- `E_KSN` (10_operation_catalogue.md). -/
def eKsn : Nat := 0x14C1

/-- `E_DUKPT_DATA_LENGTH` (10_operation_catalogue.md). -/
def eDukptDataLength : Nat := 0x14C2

/-- `E_CARD_PARAM` (10_operation_catalogue.md). -/
def eCardParam : Nat := 0x1500

/-- `E_CARD_DATA_LENGTH` (10_operation_catalogue.md). -/
def eCardDataLength : Nat := 0x1501

/-- `E_HASH_PARAM` (10_operation_catalogue.md). -/
def eHashParam : Nat := 0x1540

/-- `E_WRAP_PARAM` (10_operation_catalogue.md). -/
def eWrapParam : Nat := 0x1640

/-- `E_UNWRAP_INTEGRITY` (10_operation_catalogue.md). -/
def eUnwrapIntegrity : Nat := 0x1641

/-- `E_UNWRAP_LENGTH` (10_operation_catalogue.md). -/
def eUnwrapLength : Nat := 0x1642

/-- `E_UNWRAP_ATTR` (10_operation_catalogue.md). -/
def eUnwrapAttr : Nat := 0x2643

/-- `E_WRAP_STRENGTH` (10_operation_catalogue.md). -/
def eWrapStrength : Nat := 0x2644

/-- `E_WRAP_TARGET` (10_operation_catalogue.md). -/
def eWrapTarget : Nat := 0x2645

/-- `E_CF_PARAM` (12_protection_and_custom_functions.md). -/
def eCfParam : Nat := 0x1300

/-- `E_CF_IMAGE` (12_protection_and_custom_functions.md). -/
def eCfImage : Nat := 0x1301

/-- `E_CF_DIGEST` (12_protection_and_custom_functions.md). -/
def eCfDigest : Nat := 0x1302

/-- `E_CF_DECLARE` (12_protection_and_custom_functions.md). -/
def eCfDeclare : Nat := 0x1303

/-- `E_CF_SIGNATURE` (12_protection_and_custom_functions.md). -/
def eCfSignature : Nat := 0x3304

/-- `E_CF_BOUND` (12_protection_and_custom_functions.md). -/
def eCfBound : Nat := 0x2305

/-- `E_CF_SPACE` (12_protection_and_custom_functions.md). -/
def eCfSpace : Nat := 0x4306

/-- `E_CF_STATE` (12_protection_and_custom_functions.md). -/
def eCfState : Nat := 0x5307

/-- `E_CF_TRAP` (12_protection_and_custom_functions.md). -/
def eCfTrap : Nat := 0x6308

/-- `E_CF_BUDGET` (12_protection_and_custom_functions.md). -/
def eCfBudget : Nat := 0x6309

/-- `E_CF_RETURN` (12_protection_and_custom_functions.md). -/
def eCfReturn : Nat := 0x630A

/-- `E_STAGE_PARAM` (13_timeline.md). -/
def eStageParam : Nat := 0x10C0

/-- `E_STAGE_RANGE` (13_timeline.md). -/
def eStageRange : Nat := 0x10C1

/-- `E_STAGE_WHEN` (13_timeline.md). -/
def eStageWhen : Nat := 0x10C2

/-- `E_STAGE_INVALID` (13_timeline.md). -/
def eStageInvalid : Nat := 0x20C3

/-- `E_STAGE_OWNER` (13_timeline.md). -/
def eStageOwner : Nat := 0x30C4

/-- `E_STAGE_STATE` (13_timeline.md). -/
def eStageState : Nat := 0x50C5

/-- `E_TIME_PARAM` (13_timeline.md). -/
def eTimeParam : Nat := 0x1180

/-- `E_TIME_BACKWARD` (13_timeline.md). -/
def eTimeBackward : Nat := 0x2181

/-- `E_TIME_NOT_LOCKED` (13_timeline.md). -/
def eTimeNotLocked : Nat := 0x5182

/-- `E_TAMPER_PARAM` (15_tamper_strike.md). -/
def eTamperParam : Nat := 0x1280

/-- `E_TAMPER_FLOOR` (15_tamper_strike.md). -/
def eTamperFloor : Nat := 0x2281

/-- `E_TAMPER_FUSE` (15_tamper_strike.md). -/
def eTamperFuse : Nat := 0x2282

/-- `E_TAMPER_ACTIVE` (15_tamper_strike.md). -/
def eTamperActive : Nat := 0x5283

/-- `E_LC_PARAM` (16_life_cycle_debug.md). -/
def eLcParam : Nat := 0x1240

/-- `E_FW_IMAGE` (16_life_cycle_debug.md). -/
def eFwImage : Nat := 0x1241

/-- `E_LC_TOKEN` (16_life_cycle_debug.md). -/
def eLcToken : Nat := 0x3242

/-- `E_LC_BOOT_LIMIT` (16_life_cycle_debug.md). -/
def eLcBootLimit : Nat := 0x3243

/-- `E_DEBUG_CERT` (16_life_cycle_debug.md). -/
def eDebugCert : Nat := 0x3244

/-- `E_LC_EXHAUSTED` (16_life_cycle_debug.md). -/
def eLcExhausted : Nat := 0x5245

/-- `E_LC_NO_DIGEST` (16_life_cycle_debug.md). -/
def eLcNoDigest : Nat := 0x5246

/-- `E_LC_PENDING` (16_life_cycle_debug.md). -/
def eLcPending : Nat := 0x5247

/-- `E_LC_TAMPER_STICKY` (16_life_cycle_debug.md). -/
def eLcTamperSticky : Nat := 0x5248

/-- `E_LC_OTP` (16_life_cycle_debug.md). -/
def eLcOtp : Nat := 0x5249

/-- `E_LOG_PARAM` (17_trail_log_events.md). -/
def eLogParam : Nat := 0x11C0

/-- `E_EVENT_VECTOR` (17_trail_log_events.md). -/
def eEventVector : Nat := 0x21C1

/-- `E_LOG_STALE` (17_trail_log_events.md). -/
def eLogStale : Nat := 0x51C2

/-- `E_LOG_MEMORY` (17_trail_log_events.md). -/
def eLogMemory : Nat := 0x51C3

/-- `E_PERF_PARAM` (18_performance_counters.md). -/
def ePerfParam : Nat := 0x1200

end Sys2Proof.Machine
end

