-- ==== Sys2Proof/Machine/Catalogue.lean ====
section
/-!
DEFINITION. Sys2Proof/Machine/Catalogue.lean: the opcodes of each group with who may submit them, the length of their
parameter block and its reserved bytes (R13, R45, R58), and what admission reads from a block's contents.
-/

namespace Sys2Proof.Machine

/-- Who may submit an opcode; any other domain is refused with E_OPCODE_UNDEFINED (R58). -/
inductive Who where
  | both | pitch | oper
  deriving DecidableEq, Repr

/-- A reserved span: offset, length, and the bits reserved in each of its bytes. -/
abbrev Resv := Nat × Nat × Nat

/-- What admission knows of an opcode: the length of its block or of its fixed part, whether the contents set the
length, and the reserved spans of the fixed part. -/
structure OpInfo where
  who : Who := .both
  fixed : Nat := 16
  varies : Bool := false
  reserved : List Resv := []
  deriving DecidableEq, Repr

/-- A span reserved whole. -/
def whole (o n : Nat) : Resv := (o, n, 0xFF)

/-- A block of 16 reserved bytes. -/
def blank (who : Who) : Option OpInfo := some { who := who, reserved := [whole 0 16] }

/-- A block that carries only its first `n` bytes of 16. -/
def short (who : Who) (n : Nat) : Option OpInfo := some { who := who, reserved := [whole n (16 - n)] }

/-- Reserved spans of an attribute record at an offset (R128). -/
def attrResv (o : Nat) : List Resv := [(o + 12, 1, 0xF0), whole (o + 13) 1, (o + 15, 1, 0xE0), whole (o + 33) 7, whole (o + 52) 4]

/-- Reserved spans of a pitch record at an offset (R97). -/
def pitchResv (o : Nat) : List Resv := [(o + 2, 1, 0xF0), whole (o + 3) 1, whole (o + 35) 1]

/-- Reserved spans of the CHIP and TAMPER images (R334, R388). -/
def chipResv : List Resv := [whole 20 12]

def tamperResv : List Resv := ((List.range 10).map fun n => whole (8 * n + 1) 3) ++ [whole 82 14]

/-- The management opcodes (Tables 2-15, 4-5, 13-6, 5-13, 6-7, 13-4, 17-7, 18-7, 16-7, 15-9, 3-7, 12-4). -/
def mgmtInfo (code : Nat) : Option OpInfo :=
  match code with
  | 0x0101 => some { fixed := 32, reserved := [whole 3 1, whole 7 1, whole 10 6] }
  | 0x0102 => short .both 1
  | 0x0103 => short .both 1
  | 0x0104 => some { reserved := [whole 3 1, whole 7 1, whole 10 6] }
  | 0x0105 => short .both 1
  | 0x0106 => short .both 8
  | 0x0201 => some { who := .oper, fixed := 192, reserved := whole 1 15 :: pitchResv 16 }
  | 0x0202 | 0x0203 | 0x0204 | 0x0205 | 0x0209 | 0x020A => short .oper 1
  | 0x0206 => short .both 1
  | 0x0208 => some { who := .oper, fixed := 32, reserved := [whole 1 7, whole 28 4] }
  | 0x0301 => some { varies := true, reserved := [whole 2 2, whole 12 4] }
  | 0x0302 | 0x0304 | 0x0305 => short .both 2
  | 0x0303 => some { reserved := [whole 3 5] }
  | 0x0401 => some { fixed := 64, reserved := attrResv 0 }
  | 0x0402 => some { fixed := 80, varies := true, reserved := attrResv 0 ++ [whole 68 12] }
  | 0x0403 => some { fixed := 80, varies := true, reserved := attrResv 0 ++ [whole 68 12] }
  | 0x0404 => some { varies := true, reserved := [whole 2 2, whole 7 9] }
  | 0x0405 | 0x0407 | 0x0408 | 0x0409 => blank .both
  | 0x0406 => some { fixed := 64, reserved := attrResv 0 }
  | 0x040A => short .oper 2
  | 0x040B => some { reserved := [whole 1 3, whole 12 4] }
  | 0x0501 => some { fixed := 32, varies := true, reserved := [whole 3 1, whole 6 10] }
  | 0x0502 => short .both 1
  | 0x0503 => some { reserved := [whole 0 1, whole 7 9] }
  | 0x0504 | 0x0505 => blank .both
  | 0x0601 => short .oper 8
  | 0x0602 => blank .oper
  | 0x0701 | 0x0705 | 0x0707 => blank .oper
  | 0x0702 => some { who := .oper, reserved := [whole 12 4] }
  | 0x0703 => short .oper 8
  | 0x0704 => some { who := .oper, reserved := [whole 2 2, whole 10 6] }
  | 0x0706 => some { reserved := [whole 3 1, whole 6 10] }
  | 0x0708 => some { who := .oper, fixed := 64 }
  | 0x0801 => short .oper 2
  | 0x0802 => short .oper 1
  | 0x0901 | 0x0906 => blank .oper
  | 0x0902 => some { who := .oper, fixed := 48, reserved := [whole 1 15] }
  | 0x0903 => some { who := .oper, fixed := 64, reserved := [whole 0 16] }
  | 0x0904 => short .oper 1
  | 0x0905 => some { who := .oper, fixed := 3376, reserved := [whole 0 16, whole 26 6, whole 56 8, whole 3373 3] }
  | 0x0907 => some { who := .oper, fixed := 64, varies := true, reserved := [whole 0 16] }
  | 0x0A01 => blank .oper
  | 0x0A02 => short .oper 2
  | 0x0B01 => short .pitch 1
  | 0x0B02 => some { who := .pitch, reserved := [whole 2 2] }
  | 0x0B03 | 0x0B04 | 0x0B05 | 0x0B06 | 0x0B07 | 0x0B08 | 0x0B09 => blank .pitch
  | 0x0C01 => some { who := .pitch, fixed := 64, varies := true, reserved := [whole 1 15] }
  | 0x0C02 => some { who := .oper, fixed := 64, reserved := [whole 2 14] }
  | 0x0C03 => some { who := .pitch, fixed := 64, reserved := [whole 3 1, whole 8 8] }
  | 0x0C04 | 0x0C05 => short .pitch 1
  | 0x0C06 => short .both 1
  | _ => none

/-- The group of an opcode (R58). -/
def groupOf (code : Nat) : Nat := code / 256

def isMgmt (code : Nat) : Bool := 1 ≤ groupOf code && groupOf code ≤ 0x0C

def isOperational (code : Nat) : Bool :=
  (0x10 ≤ groupOf code && groupOf code ≤ 0x1A) || groupOf code = 0x1F || (0x40 ≤ groupOf code && groupOf code ≤ 0x7F)

def isCustom (code : Nat) : Bool := 0x40 ≤ groupOf code && groupOf code ≤ 0x7F

/-- The offset of the first byte with a reserved bit set, over spans taken together; none where all are clear. -/
def firstReserved (bs : Bytes) (spans : List Resv) : Option Nat :=
  let hits := spans.filterMap fun (o, n, m) =>
    ((slice bs o n).findIdx? fun b => b &&& BitVec.ofNat 8 m != 0).map (o + ·)
  hits.foldl (fun a x => some (match a with | none => x | some y => min x y)) none

/-- The length a management block's contents require, where a length-setting field is in range (R45 check 9). -/
def mgmtRequired (code : Nat) (p : Bytes) : Option Nat :=
  match code with
  | 0x0301 => let n := field p 8 4; if 1 ≤ n && n ≤ 512 then some (16 + roundUp n 16) else none
  | 0x0402 => let n := byteAt p 67; if n = 2 || n = 3 then some (80 + 1696 * n) else none
  | 0x0403 => some (80 + field p 64 4)
  | 0x0404 =>
    if byteAt p 0 = 0 then some 16
    else if byteAt p 0 = 1 && (byteAt p 1 = 2 || byteAt p 1 = 3) then some (16 + 1696 * byteAt p 1)
    else none
  | 0x0501 =>
    let n := field p 4 2
    if (byteAt p 2 = 0x21 && n = 97) || (byteAt p 2 = 0x31 && n = 1952) then some (32 + roundUp n 16) else none
  | _ => none

/-- Reserved spans that a management block's contents place: envelopes, the image bytes staging data covers, and a custom-function image
(Table 12-2). -/
def mgmtMore (code : Nat) (p : Bytes) : List Resv :=
  match code with
  | 0x0301 =>
    let o := field p 4 4
    let n := field p 8 4
    let image := match byteAt p 0 with | 0 => chipResv | 1 => pitchResv 0 | 2 => tamperResv | _ => []
    image.filterMap fun (x, k, m) =>
      let lo := max x o
      let hi := min (x + k) (o + n)
      if lo < hi then some (16 + lo - o, hi - lo, m) else none
  | 0x0402 => ((List.range (byteAt p 67)).take 3).flatMap fun k => [whole (80 + 1696 * k + 3) 1, whole (80 + 1696 * k + 6) 10]
  | 0x0404 =>
    if byteAt p 0 = 1 then ((List.range (byteAt p 1)).take 3).flatMap fun k => [whole (16 + 1696 * k + 3) 1, whole (16 + 1696 * k + 6) 10]
    else []
  | 0x0C01 => [whole (64 + 31) 1, whole (64 + 64) 64]
  | _ => []

/-- Commands a LOCKED pitch's host may still run (R96), and those that run while the module is LOCKED (R375). -/
def pitchLockedAllows (code : Nat) : Bool :=
  groupOf code = 1 || [0x0206, 0x0505, 0x0B07, 0x0B08, 0x0305].contains code

/-- Management commands that run under AUDIT_STRICT with no persistent log (R422). -/
def auditAllows (code : Nat) : Bool :=
  groupOf code = 1 || groupOf code = 7 ||
    [0x0206, 0x0407, 0x0408, 0x0409, 0x040B, 0x0505, 0x0302, 0x0305, 0x0602, 0x0B07, 0x0B08, 0x0A01, 0x0901, 0x0C06].contains code

/-- Management commands that change state, whose trail entries reach MRAM first (R414). -/
def changesState (code : Nat) : Bool :=
  isMgmt code && !(auditAllows code && !([0x0101, 0x0102, 0x0104, 0x0105, 0x0106, 0x0701, 0x0704, 0x0706, 0x0708].contains code))

/-- Commands that take or free MRAM under MRAM_QUOTA (R102, R147, R316). -/
def takesRoom (code : Nat) : Bool := [0x0401, 0x0402, 0x0403, 0x0405, 0x0C01, 0x0C05, 0x1902].contains code

/-- A command that runs with FENCE, or as if FENCE were 1: KEY_LIST (R48, R153). -/
def fences (code : Nat) (fence : Bool) : Bool := fence || code = 0x040B

/-- The generate calls of a management command (R142, R149). -/
def mgmtDraws (code : Nat) (p : Bytes) : List Nat :=
  if code = 0x0401 || (code = 0x0404 && byteAt p 0 = 0) then [48] else []

def mgmtMayDraw (code : Nat) : Bool := code = 0x0401 || code = 0x0404

end Sys2Proof.Machine
end

