-- ==== Sys2Proof/Machine/Cipher.lean ====
section
/-!
DEFINITION. Sys2Proof/Machine/Cipher.lean: the block ciphers of the cells (R169, R170): AES and TDEA, and the modes
the spec builds on them. PRESUMED from FIPS 197, SP 800-67 and the SP 800-38 series, which the spec names (log
entry 6).
-/

namespace Sys2Proof.Machine

/-- The AES substitution box, entry i at byte i. -/
def aesBox : Nat :=
  0x16bb54b00f2d99416842e6bf0d89a18cdf2855cee9871e9b948ed9691198f8e19e1dc186b95735610ef6034866b53e708a8bbd4b1f74dde8c6b4a61c2e2578ba08ae7a65eaf4566ca94ed58d6d37c8e779e4959162acd3c25c2406490a3a32e0db0b5ede14b8ee4688902a22dc4f816073195d643d7ea7c41744975fec130ccdd2f3ff1021dab6bcf5389d928f40a351a89f3c507f02f94585334d43fbaaefd0cf584c4a39becb6a5bb1fc20ed00d153842fe329b3d63b52a05a6e1b1a2c830975b227ebe28012079a059618c323c7041531d871f1e5a534ccf73f362693fdb7c072a49cafa2d4adf04759fa7dc982ca76abd7fe2b670130c56f6bf27b777c63

/-- Its inverse. -/
def aesBoxInv : Nat :=
  0x7d0c2155631469e126d677ba7e042b17619953833cbbebc8b0f52aae4d3be0a0ef9cc9939f7ae52d0d4ab519a97f51605fec8027591012b131c7078833a8dd1ff45acd78fec0db9a2079d2c64b3e56fc1bbe18aa0e62b76f89c5291d711af1476edf751ce837f9e28535ade72274ac9673e6b4f0cecff297eadc674f4111913a6b8a130103bdafc1020f3fca8f1e2cd00645b3b80558e4f70ad3bc8c00abd890849d8da75746155edab9edfd5048706c92b6655dcc5ca4d41698688664f6f87225d18b6d49a25b76b224d92866a12e084ec3fa420b954cee3d23c2a632947b54cbe9dec444438e3487ff2f9b8239e37cfbd7f3819ea340bf38a53630d56a0952

/-- A byte of a packed table. -/
def boxAt (t : Nat) (b : Byte) : Byte := BitVec.ofNat 8 (t >>> (8 * b.toNat))

/-- Multiplication by x in the field of AES. -/
def xtime (b : Byte) : Byte := b <<< 1 ^^^ (if b.msb then 0x1b else 0)

/-- Words of the key schedule, the last first, extended by `k` words; `i` is the number of the next word. -/
def aesExpand (nk : Nat) : Nat → Nat → Byte → List Bytes → List Bytes
  | 0, _, _, w => w
  | k + 1, i, rc, w =>
    let last := w.getD 0 []
    let back := w.getD (nk - 1) []
    let sub := fun (t : Bytes) => t.map (boxAt aesBox)
    if i % nk = 0 then
      let t := xorBytes (sub (last.drop 1 ++ last.take 1)) [rc, 0, 0, 0]
      aesExpand nk k (i + 1) (xtime rc) (xorBytes back t :: w)
    else
      let t := if nk > 6 && i % nk = 4 then sub last else last
      aesExpand nk k (i + 1) rc (xorBytes back t :: w)

/-- The round keys of a key of 16, 24 or 32 bytes. -/
def aesKeys (key : Bytes) : List Bytes :=
  let nk := key.length / 4
  let w := aesExpand nk (4 * (nk + 7) - nk) nk 1 (chunks 4 key).reverse
  chunks 16 (w.reverse.flatMap id)

/-- The state's bytes taken in the given order. -/
def permute (p : List Nat) (st : Bytes) : Bytes := p.map fun i => st.getD i 0

def shiftRows : Bytes → Bytes := permute [0, 5, 10, 15, 4, 9, 14, 3, 8, 13, 2, 7, 12, 1, 6, 11]

def shiftRowsInv : Bytes → Bytes := permute [0, 13, 10, 7, 4, 1, 14, 11, 8, 5, 2, 15, 12, 9, 6, 3]

def mixColumn (c : Bytes) : Bytes :=
  match c with
  | [a, b, d, e] =>
    let t := a ^^^ b ^^^ d ^^^ e
    [a ^^^ t ^^^ xtime (a ^^^ b), b ^^^ t ^^^ xtime (b ^^^ d), d ^^^ t ^^^ xtime (d ^^^ e), e ^^^ t ^^^ xtime (e ^^^ a)]
  | _ => c

def mixColumnInv (c : Bytes) : Bytes :=
  match c with
  | [a, b, d, e] =>
    let u := xtime (xtime (a ^^^ d))
    let v := xtime (xtime (b ^^^ e))
    mixColumn [a ^^^ u, b ^^^ v, d ^^^ u, e ^^^ v]
  | _ => c

def mixColumns (st : Bytes) : Bytes := (chunks 4 st).flatMap mixColumn

def mixColumnsInv (st : Bytes) : Bytes := (chunks 4 st).flatMap mixColumnInv

/-- AES on one block under round keys. -/
def aesEnc (keys : List Bytes) (block : Bytes) : Bytes :=
  let last := keys.getLastD []
  let st := xorBytes block (keys.headD [])
  let mid := (keys.drop 1).dropLast
  let st := mid.foldl (fun s k => xorBytes (mixColumns (shiftRows (s.map (boxAt aesBox)))) k) st
  xorBytes (shiftRows (st.map (boxAt aesBox))) last

/-- The inverse cipher on one block. -/
def aesDec (keys : List Bytes) (block : Bytes) : Bytes :=
  let last := keys.getLastD []
  let st := xorBytes block last
  let mid := (keys.drop 1).dropLast.reverse
  let st := mid.foldl (fun s k => mixColumnsInv (xorBytes ((shiftRowsInv s).map (boxAt aesBoxInv)) k)) st
  xorBytes ((shiftRowsInv st).map (boxAt aesBoxInv)) (keys.headD [])

/-- Initial and final permutations, expansion, and the key permutations of DES, bits numbered from 1. -/
def desIp : List Nat :=
  [58, 50, 42, 34, 26, 18, 10, 2, 60, 52, 44, 36, 28, 20, 12, 4] ++
  [62, 54, 46, 38, 30, 22, 14, 6, 64, 56, 48, 40, 32, 24, 16, 8] ++
  [57, 49, 41, 33, 25, 17, 9, 1, 59, 51, 43, 35, 27, 19, 11, 3] ++
  [61, 53, 45, 37, 29, 21, 13, 5, 63, 55, 47, 39, 31, 23, 15, 7]

def desFp : List Nat :=
  [40, 8, 48, 16, 56, 24, 64, 32, 39, 7, 47, 15, 55, 23, 63, 31] ++
  [38, 6, 46, 14, 54, 22, 62, 30, 37, 5, 45, 13, 53, 21, 61, 29] ++
  [36, 4, 44, 12, 52, 20, 60, 28, 35, 3, 43, 11, 51, 19, 59, 27] ++
  [34, 2, 42, 10, 50, 18, 58, 26, 33, 1, 41, 9, 49, 17, 57, 25]

def desE : List Nat :=
  [32, 1, 2, 3, 4, 5, 4, 5, 6, 7, 8, 9, 8, 9, 10, 11] ++
  [12, 13, 12, 13, 14, 15, 16, 17, 16, 17, 18, 19, 20, 21, 20, 21] ++
  [22, 23, 24, 25, 24, 25, 26, 27, 28, 29, 28, 29, 30, 31, 32, 1]

def desP : List Nat :=
  [16, 7, 20, 21, 29, 12, 28, 17, 1, 15, 23, 26, 5, 18, 31, 10] ++
  [2, 8, 24, 14, 32, 27, 3, 9, 19, 13, 30, 6, 22, 11, 4, 25]

def desPc1 : List Nat :=
  [57, 49, 41, 33, 25, 17, 9, 1, 58, 50, 42, 34, 26, 18, 10, 2] ++
  [59, 51, 43, 35, 27, 19, 11, 3, 60, 52, 44, 36, 63, 55, 47, 39] ++
  [31, 23, 15, 7, 62, 54, 46, 38, 30, 22, 14, 6, 61, 53, 45, 37] ++
  [29, 21, 13, 5, 28, 20, 12, 4]

def desPc2 : List Nat :=
  [14, 17, 11, 24, 1, 5, 3, 28, 15, 6, 21, 10, 23, 19, 12, 4] ++
  [26, 8, 16, 7, 27, 20, 13, 2, 41, 52, 31, 37, 47, 55, 30, 40] ++
  [51, 45, 33, 48, 44, 49, 39, 56, 34, 53, 46, 42, 50, 36, 29, 32]

/-- The eight substitution boxes, entry i of a box at nibble i. -/
def desBoxes : List Nat :=
  [0xd60ae3b5719428cf05a379cfb26d8e148359bc6a1d2e47f07095c6a38bf21d4e,
   0x9e50c76b24f31a8df2396c851d4ab7e05b96a10ce82f74d3a50cd27943b6e81f,
   0xc25b3ef478960da17ea5c21b03f8946d1fbce582a643907d824b7cd15f36e90a,
   0xe27cb5498d1a60f34825e31fd7bc096a9ea1c27430f65b8df4cb5821a9603ed7,
   0x354a90f6d2e17c8be0365c9f87dab1246893af051d74c2be9e0df3586ba714c2,
   0xd80671ebaf59c2346bd1a4073c825fe983b0ed1659c724fab57e43d08629fa1c,
   0xc32ef0597a418db6295086fae73cdb4168f2c53ea1947b0d16a579c3d80fe2b4,
   0xb65309cfd8a47e12853fda602ec914b729e0b65c473a8df17c05e39a1bf6482d]

/-- Bits of a byte string, the most significant of the first byte first. -/
def toBits (bs : Bytes) : List Bool := bs.flatMap fun b => (List.range 8).map fun i => b.getLsbD (7 - i)

/-- A number from bits, the most significant first. -/
def ofBits (l : List Bool) : Nat := l.foldl (fun a b => 2 * a + b2n b) 0

/-- Bits taken in the order of a table numbered from 1. -/
def pick (p : List Nat) (l : List Bool) : List Bool := p.map fun i => l.getD (i - 1) false

/-- The list cut into pieces; `fuel` bounds their number. -/
def pieces {α : Type} (n : Nat) : Nat → List α → List (List α)
  | 0, _ => []
  | _, [] => []
  | f + 1, l => l.take n :: pieces n f (l.drop n)

/-- The sixteen round keys of an 8-byte key. -/
def desKeys (key : Bytes) : List (List Bool) :=
  let k := pick desPc1 (toBits key)
  let rot := fun (n : Nat) (l : List Bool) => l.drop n ++ l.take n
  let sh := [1, 2, 4, 6, 8, 10, 12, 14, 15, 17, 19, 21, 23, 25, 27, 28]
  sh.map fun n => pick desPc2 (rot n (k.take 28) ++ rot n (k.drop 28))

/-- The round function of DES. -/
def desF (r k : List Bool) : List Bool :=
  let x := List.zipWith Bool.xor (pick desE r) k
  let s := List.zipWith (fun box six =>
    let i := ofBits [six.getD 0 false, six.getD 5 false] * 16 + ofBits ((six.drop 1).take 4)
    (List.range 4).map fun j => (box >>> (4 * i)).testBit (3 - j)) desBoxes (pieces 6 8 x)
  pick desP (s.flatMap id)

/-- DES on one block under round keys in the order of their use. -/
def desRun (keys : List (List Bool)) (block : Bytes) : Bytes :=
  let b := pick desIp (toBits block)
  let p := keys.foldl (fun (p : List Bool × List Bool) k => (p.2, List.zipWith Bool.xor p.1 (desF p.2 k)))
    (b.take 32, b.drop 32)
  (pieces 8 8 (pick desFp (p.2 ++ p.1))).map fun l => BitVec.ofNat 8 (ofBits l)

def desEnc (key block : Bytes) : Bytes := desRun (desKeys key) block

def desDec (key block : Bytes) : Bytes := desRun (desKeys key).reverse block

/-- TDEA with a key of 16 or 24 bytes (SP 800-67): encrypt, decrypt, encrypt. -/
def tdeaEnc (key block : Bytes) : Bytes :=
  let k3 := if key.length = 24 then slice key 16 8 else slice key 0 8
  desEnc k3 (desDec (slice key 8 8) (desEnc (slice key 0 8) block))

def tdeaDec (key block : Bytes) : Bytes :=
  let k3 := if key.length = 24 then slice key 16 8 else slice key 0 8
  desDec (slice key 0 8) (desEnc (slice key 8 8) (desDec k3 block))

/-- A keyed block cipher: block length, encryption, decryption. -/
structure Block1 where
  size : Nat
  enc : Bytes → Bytes
  dec : Bytes → Bytes

def aes (key : Bytes) : Block1 :=
  let ks := aesKeys key
  ⟨16, aesEnc ks, aesDec ks⟩

def tdea (key : Bytes) : Block1 := ⟨8, tdeaEnc key, tdeaDec key⟩

def ecbEnc (c : Block1) (m : Bytes) : Bytes := (chunks c.size m).flatMap c.enc

def ecbDec (c : Block1) (m : Bytes) : Bytes := (chunks c.size m).flatMap c.dec

/-- CBC encryption of whole blocks; answers the ciphertext. -/
def cbcEnc (c : Block1) (iv m : Bytes) : Bytes :=
  ((chunks c.size m).foldl (fun (p : Bytes × Bytes) b => let y := c.enc (xorBytes p.1 b); (y, p.2 ++ y)) (iv, [])).2

def cbcDec (c : Block1) (iv m : Bytes) : Bytes :=
  ((chunks c.size m).foldl (fun (p : Bytes × Bytes) b => (b, p.2 ++ xorBytes p.1 (c.dec b))) (iv, [])).2

/-- A counter block plus one, big-endian over its low `n` bytes. -/
def ctrAdd (n : Nat) (block : Bytes) (k : Nat) : Bytes :=
  let h := block.take (block.length - n)
  h ++ beBytes n (beNat (block.drop (block.length - n)) + k)

/-- Counter feed from a first counter block whose low `n` bytes count (SP 800-38A). -/
def ctrMode (c : Block1) (n : Nat) (first m : Bytes) : Bytes :=
  (chunks c.size m).zipIdx.flatMap fun p => xorBytes p.1 (c.enc (ctrAdd n first p.2))

/-- Doubling in the field of CMAC (SP 800-38B). -/
def cmacDouble (b : Bytes) : Bytes :=
  let n := b.length
  let v := beNat b
  beBytes n ((2 * v) ^^^ (if v.testBit (8 * n - 1) then (if n = 16 then 0x87 else 0x1b) else 0))

/-- CMAC, whole (SP 800-38B). -/
def cmac (c : Block1) (m : Bytes) : Bytes :=
  let k1 := cmacDouble (c.enc (zeros c.size))
  let n := if m = [] then 0 else (m.length - 1) / c.size * c.size
  let last := m.drop n
  let tail := if last.length = c.size then xorBytes last k1
    else xorBytes (last ++ [0x80] ++ zeros (c.size - 1 - last.length)) (cmacDouble k1)
  c.enc (xorBytes ((chunks c.size (m.take n)).foldl (fun x b => c.enc (xorBytes x b)) (zeros c.size)) tail)

/-- Multiplication by alpha in the field of XTS (IEEE 1619). -/
def xtsAlpha (t : Bytes) : Bytes :=
  let v := leNat t
  leBytes 16 ((2 * v) ^^^ (if v.testBit 127 then 0x87 else 0))

/-- The tweaks of `k` blocks from the first. -/
def xtsTweaks : Nat → Bytes → List Bytes
  | 0, _ => []
  | k + 1, t => t :: xtsTweaks k (xtsAlpha t)

/-- One block of XTS under a tweak. -/
def xtsBlock (f : Bytes → Bytes) (t b : Bytes) : Bytes := xorBytes t (f (xorBytes t b))

/-- XTS over data units of `ub` blocks from a block of the first one (IEEE 1619, R182); `fuel` bounds the units. -/
def xtsRun (f : Bytes → Bytes) (k2 : Block1) (ub : Nat) : Nat → Nat → Nat → Bytes → Bytes
  | 0, _, _, _ => []
  | fuel + 1, start, sector, m =>
    if m = [] then []
    else
      let part := m.take (16 * (ub - start))
      let n := part.length / 16
      let ts := (xtsTweaks (start + n) (k2.enc (leBytes 16 sector))).drop start
      (List.zipWith (xtsBlock f) ts (chunks 16 part)).flatMap id ++
        xtsRun f k2 ub fuel 0 (sector + 1) (m.drop (16 * (ub - start)))

/-- Multiplication in the field of GHASH, bit 0 the most significant (SP 800-38D). -/
def ghashMul (x y : Nat) : Nat :=
  ((List.range 128).foldl (fun (p : Nat × Nat) i =>
    (if x.testBit (127 - i) then p.1 ^^^ p.2 else p.1,
     if p.2.testBit 0 then p.2 / 2 ^^^ 0xe1000000000000000000000000000000 else p.2 / 2)) (0, y)).1

/-- GHASH over whole blocks, continued from a value. -/
def ghash (h : Nat) (y : Nat) (m : Bytes) : Nat := (chunks 16 m).foldl (fun y b => ghashMul (y ^^^ beNat b) h) y

def padTo (n : Nat) (m : Bytes) : Bytes := m ++ zeros (roundUp m.length n - m.length)

/-- The tag of GCM with a 96-bit IV. -/
def gcmTag (c : Block1) (iv aad ct : Bytes) : Bytes :=
  let h := beNat (c.enc (zeros 16))
  let y := ghash h 0 (padTo 16 aad ++ padTo 16 ct ++ beBytes 8 (8 * aad.length) ++ beBytes 8 (8 * ct.length))
  xorBytes (beBytes 16 y) (c.enc (iv ++ [0, 0, 0, 1]))

/-- A group of blocks under aggregated powers: the value joins the first block, and block i of k meets H to the power k - i. -/
def ghashGroup (h y : Nat) (g : Bytes) : Nat :=
  let l := chunks 16 g
  let powers := (List.range l.length).foldl (fun (p : List Nat) _ => (match p with | x :: _ => ghashMul x h | [] => h) :: p) []
  (l.zipIdx.zip powers).foldl (fun a x => a ^^^ ghashMul (beNat x.1.1 ^^^ (if x.1.2 = 0 then y else 0)) x.2) 0

/-- GHASH over whole blocks by aggregated powers of H over 4-block groups (R193). -/
def ghashGrouped (h : Nat) (m : Bytes) : Nat := (chunks 64 m).foldl (ghashGroup h) 0

/-- The tag of GCM by the second of the firmware's two computations (R193). -/
def gcmTagGrouped (c : Block1) (iv aad ct : Bytes) : Bytes :=
  let h := beNat (c.enc (zeros 16))
  let y := ghashGrouped h (padTo 16 aad ++ padTo 16 ct ++ beBytes 8 (8 * aad.length) ++ beBytes 8 (8 * ct.length))
  xorBytes (beBytes 16 y) (c.enc (iv ++ [0, 0, 0, 1]))

/-- The counter feed of GCM with a 96-bit IV. -/
def gcmCtr (c : Block1) (iv m : Bytes) : Bytes := ctrMode c 4 (iv ++ [0, 0, 0, 2]) m

/-- GCM encryption: ciphertext and 16-byte tag. -/
def gcmSeal (c : Block1) (iv aad m : Bytes) : Bytes × Bytes :=
  let ct := gcmCtr c iv m
  (ct, gcmTag c iv aad ct)

/-- GCM decryption under a whole tag. -/
def gcmOpen (c : Block1) (iv aad ct tag : Bytes) : Option Bytes :=
  if gcmTag c iv aad ct = tag then some (gcmCtr c iv ct) else none

/-- One step of the wrapping function (SP 800-38F). -/
def wrapStep (enc : Bytes → Bytes) (p : Bytes × List Bytes) (t : Nat) : Bytes × List Bytes :=
  match p.2 with
  | r :: rs =>
    let b := enc (p.1 ++ r)
    (xorBytes (b.take 8) (beBytes 8 t), rs ++ [b.drop 8])
  | [] => p

def unwrapStep (dec : Bytes → Bytes) (p : Bytes × List Bytes) (t : Nat) : Bytes × List Bytes :=
  let r := p.2.getLastD []
  let b := dec (xorBytes p.1 (beBytes 8 t) ++ r)
  (b.take 8, b.drop 8 :: p.2.dropLast)

/-- The wrapping function W on an 8-byte register and semiblocks. -/
def wrapW (c : Block1) (a : Bytes) (m : Bytes) : Bytes :=
  let rs := chunks 8 m
  let p := (List.range (6 * rs.length)).foldl (fun p t => wrapStep c.enc p (t + 1)) (a, rs)
  p.1 ++ p.2.flatMap id

def unwrapW (c : Block1) (m : Bytes) : Bytes × Bytes :=
  let rs := chunks 8 (m.drop 8)
  let p := ((List.range (6 * rs.length)).reverse).foldl (fun p t => unwrapStep c.dec p (t + 1)) (m.take 8, rs)
  (p.1, p.2.flatMap id)

/-- KW (SP 800-38F). -/
def kwWrap (c : Block1) (m : Bytes) : Bytes := wrapW c (List.replicate 8 0xa6) m

def kwUnwrap (c : Block1) (m : Bytes) : Option Bytes :=
  let (a, p) := unwrapW c m
  if a = List.replicate 8 0xa6 && m.length % 8 = 0 && m.length ≥ 24 then some p else none

/-- KWP (SP 800-38F). -/
def kwpWrap (c : Block1) (m : Bytes) : Bytes :=
  let a : Bytes := [0xa6, 0x59, 0x59, 0xa6] ++ beBytes 4 m.length
  let p := padTo 8 m
  if p.length = 8 then c.enc (a ++ p) else wrapW c a p

def kwpUnwrap (c : Block1) (m : Bytes) : Option Bytes :=
  if m.length < 16 || m.length % 8 != 0 then none else
  let (a, p) := if m.length = 16 then let b := c.dec m; (b.take 8, b.drop 8) else unwrapW c m
  let n := beNat (a.drop 4)
  if a.take 4 = [0xa6, 0x59, 0x59, 0xa6] && roundUp n 8 = p.length && 0 < n && allZero (p.drop n)
  then some (p.take n) else none

end Sys2Proof.Machine
end

