-- ==== Sys2Proof/Machine/KeyStore.lean ====
section
/-!
DEFINITION. Sys2Proof/Machine/KeyStore.lean: the EMBER store, key records, nonce counters, derivation and the checks
on every key use (R118 to R152).
-/

namespace Sys2Proof.Machine

/-! ### Handles (R125, R126) -/

def handlePitch (h : Nat) : Nat := bits h 31 24

def handleKind (h : Nat) : Nat := bits h 23 22

def handleIndex (h : Nat) : Nat := h % 0x400000

/-- A handle with its pitch byte zeroed. -/
def canonical (h : Nat) : Nat := h % 0x1000000

/-- Whether a handle is valid for a domain (R126). -/
def handleValid (d h : Nat) : Bool :=
  let i := handleIndex h
  match handleKind h with
  | 0 => d < 256 && 1 ≤ i
  | 1 => d < 256
  | 2 => i ≤ 0x6EF || 0x1000 ≤ i
  | _ => false

/-- The domain that owns the key a handle names. -/
def ownerOf (d h : Nat) : Nat := if handleKind h = 2 then operator else d

/-- The handle names the submitting domain: the pitch byte, 0 for the operator (R45 check 5, R125). -/
def handleOwn (d h : Nat) : Bool := handlePitch h = (if d < 256 then d else 0)

/-- The k-th handle slot of an entry, and its declarations (R43, R67). -/
def Entry.handle (e : Entry) (k : Nat) : Nat :=
  match k with | 0 => e.handle0 | 1 => e.handle1 | 2 => e.handle2 | _ => e.handle3

def Entry.valid (e : Entry) (k : Nat) : Bool := k < 4 && bit e.access k

def Entry.writes (e : Entry) (k : Nat) : Bool := k < 4 && bit e.access (4 + k)

/-! ### The EMBER store (R121 to R124) -/

/-- The side that two of the three pointer copies select (R122): some false is A, some true is B. -/
def Ember.side (e : Ember) (pair : Nat) : Option Bool :=
  let (a, b, c) := Tab.get e.pointers (0x0F, 0x0F, 0x0F) pair
  let n := fun v => (if a = v then 1 else 0) + (if b = v then 1 else 0) + (if c = v then 1 else 0)
  if n 0x0F ≥ 2 then some false else if n 0xF0 ≥ 2 then some true else none

/-- The address in the array of row `row` under a scramble seed (R123). -/
def scrambled (seed : Bytes) (row : Nat) : Nat := if h : row < 4096 then (Config.rowPermutation seed).ahead ⟨row, h⟩ else row

/-- The row that stands at an address of the array. -/
def unscrambled (seed : Bytes) (at_ : Nat) : Nat := if h : at_ < 4096 then (Config.rowPermutation seed).back ⟨at_, h⟩ else at_

/-- The seed register that the epoch bit at an address names; none while it is cleared. -/
def Ember.seedOf (e : Ember) (at_ : Nat) : Option Bytes :=
  let x := if e.epochs.contains at_ then e.seedB else e.seedA
  if allZero x then none else some x

/-- Bytes masked or unmasked for an address under a seed. -/
def maskRow (seed : Bytes) (at_ : Nat) (v : Bytes) : Bytes := xorBytes (slice v 0 64) (slice (Config.emberMask seed at_) 0 64)

/-- A row unmasked; none where its seed is cleared, and where nothing has been written since the array was overwritten (R123). -/
def Ember.readRow (e : Ember) (row : Nat) : Option Bytes :=
  let a := scrambled e.scramble row
  (e.seedOf a).bind fun seed => (Tab.find e.rows a).map fun v => maskRow seed a v

/-- A row written masked under the seed its epoch bit names. -/
def Ember.writeRow (e : Ember) (row : Nat) (v : Bytes) : Ember :=
  let a := scrambled e.scramble row
  match e.seedOf a with
  | some seed => { e with rows := Tab.insert e.rows a (maskRow seed a v) }
  | none => e

def rowOf (pair : Nat) (b : Bool) : Nat := 2 * pair + b2n b

/-- The value of a pair (R122). -/
def Ember.read (e : Ember) (pair : Nat) : Option Bytes := (e.side pair).bind fun b => e.readRow (rowOf pair b)

/-- The shadow slot of a pair, which its pointer does not select (R124). -/
def Ember.shadow (e : Ember) (pair : Nat) : Bool := match e.side pair with | some b => !b | none => false

/-- Step 1 of an EMBER update: the shadow slot takes the value (R124). -/
def Ember.writeShadow (e : Ember) (pair : Nat) (v : Bytes) : Ember := e.writeRow (rowOf pair (e.shadow pair)) v

/-- Step 3: the three pointer copies flipped in one write (R122, R124). -/
def Ember.flip (e : Ember) (pair : Nat) (b : Bool) : Ember :=
  let p := if b then 0xF0 else 0x0F
  { e with pointers := Tab.put e.pointers (0x0F, 0x0F, 0x0F) pair (p, p, p) }

/-- An EMBER update that needs no attribute record: the shadow slot, then the pointer flip (R124). -/
def Ember.write (e : Ember) (pair : Nat) (v : Bytes) : Ember := (e.writeShadow pair v).flip pair (e.shadow pair)

/-- Both slots of a pair zeroed (R150). -/
def Ember.zero (e : Ember) (pair : Nat) : Ember := (e.writeRow (2 * pair) (zeros 64)).writeRow (2 * pair + 1) (zeros 64)

/-- The pair of an owner's root (R121). -/
def rootPair (d : Nat) : Nat := if d < 256 then d else 256

def State.root (s : State) (d : Nat) : Option Bytes := (s.ember.read (rootPair d)).map (·.take 32)

/-! ### Key derivation (R139) -/

/-- The counter-mode KDF of SP 800-108 with a PRF of `h` bits, for `l` bits. -/
def kdfCtr (prf : Bytes → Bytes) (h : Nat) (label context : Bytes) (l : Nat) : Bytes :=
  ((List.range (ceilDiv l h)).flatMap fun i =>
    prf (beBytes 4 (i + 1) ++ label ++ [0] ++ context ++ beBytes 4 l)).take (ceilDiv l 8)

def kdfCmac (key label context : Bytes) (l : Nat) : Bytes := kdfCtr (cmac (aes key)) 128 label context l

def kdfHmac (key label context : Bytes) (l : Nat) : Bytes := kdfCtr (hmacSha384 key) 384 label context l

/-- The record key of an owner (R147). -/
def recordKey (root : Bytes) (d : Nat) : Bytes :=
  kdfCmac root (ascii "KALLAN-RECORD") (leBytes 1 (if d < 256 then d else 0xFF)) 256

/-! ### Key records (R128, R147) -/

/-- The attribute block, bytes 8 to 39 of the record. -/
def Attr.block (a : Attr) : Bytes :=
  leBytes 1 a.usage ++ leBytes 1 a.alg ++ leBytes 2 a.length ++ leBytes 2 a.flags ++ leBytes 2 a.deriveTo ++
    leBytes 8 a.notBefore ++ leBytes 8 a.notAfter ++ leBytes 1 a.depth ++ zeros 7

/-- The 64 bytes of an attribute record (Table 5-4). -/
def Attr.bytes (a : Attr) : Bytes :=
  leBytes 4 a.handle ++ leBytes 4 a.generation ++ a.block ++ leBytes 12 a.nonceLimit ++ zeros 4 ++ slice a.tag 0 8

/-- The attribute record held at an offset of a block. -/
def attrAt (p : Bytes) (o : Nat) : Attr where
  handle := field p o 4
  generation := field p (o + 4) 4
  usage := byteAt p (o + 8)
  alg := byteAt p (o + 9)
  length := field p (o + 10) 2
  flags := field p (o + 12) 2
  deriveTo := field p (o + 14) 2
  notBefore := field p (o + 16) 8
  notAfter := field p (o + 24) 8
  depth := byteAt p (o + 32)
  nonceLimit := field p (o + 40) 12
  tag := slice p (o + 56) 8

/-- The values of LENGTH that form a row of Table 5-5 with an algorithm. -/
def lengthsOf (alg : Nat) : List Nat :=
  match alg with
  | 1 | 4 => [128] | 2 | 5 => [192] | 3 => [256]
  | 6 => [256] | 7 => [384] | 8 => [512]
  | 0x0A => [256] | 0x0B => [512]
  | 0x10 => [2048, 3072, 4096, 6144, 8192]
  | 0x20 => [256] | 0x21 => [384] | 0x22 => [521]
  | 0x23 | 0x25 => [255] | 0x24 | 0x26 => [448]
  | 0x30 => [512, 768, 1024]
  | 0x31 => [44, 65, 87]
  | _ => []

/-- Whether a key has a validity window (R128). -/
def Attr.windowed (a : Attr) : Bool := !(a.notBefore = 0 && a.notAfter = 0xFFFFFFFFFFFFFFFF)

/-- The key lives in EMBER: an operator key of index 0 to 0x6EF (R121). -/
def inEmber (h : Nat) : Bool := handleKind h = 2 && handleIndex h ≤ 0x6EF

def emberPair (h : Nat) : Nat := 272 + handleIndex h

/-- Bytes 0 to 95 of a slot, the additional data of its value (Table 5-10). -/
def Slot.aad (x : Slot) (len : Nat) : Bytes :=
  leBytes 8 x.recordSeq ++ leBytes 1 x.side ++ zeros 3 ++ leBytes 4 len ++ x.attr.bytes ++ slice x.iv 0 12 ++ zeros 4

/-- The value of a slot where it authenticates under the record key. -/
def Slot.open (x : Slot) (key : Bytes) : Option Bytes :=
  if x.recordSeq = 0 then none else gcmOpen (aes key) (slice x.iv 0 12) (x.aad x.value.length) x.value x.tag

/-- A slot sealed under the record key. -/
def sealSlot (key : Bytes) (recordSeq side : Nat) (attr : Attr) (iv value : Bytes) : Slot :=
  let x : Slot := { recordSeq := recordSeq, side := side, attr := attr, iv := iv }
  let (c, t) := gcmSeal (aes key) iv (x.aad value.length) value
  { x with value := c, tag := t }

/-- What a handle holds: nothing, an unreadable key, or its current slot's attributes, record sequence and value. -/
inductive KeyLook where
  | absent
  | corrupt
  | found (attr : Attr) (recordSeq : Nat) (value : Bytes)

/-- SIDE of a record that goes with a slot of an EMBER pair (Table 5-10). -/
def sideCode (b : Bool) : Nat := if b then 2 else 1

/-- The current slot of a record, with its place (false the first) and value: of the slots that authenticate the one of the highest
RECORD_SEQ; for an EMBER-resident key one whose SIDE is the pointer's choice (R147). -/
def KeyRec.current (r : KeyRec) (key : Bytes) (side : Option Nat) : Option (Bool × Slot × Bytes) :=
  let take := fun (b : Bool) (x : Slot) =>
    if side.all (· = x.side) then (x.open key).map fun v => (b, x, v) else none
  match take false r.slotA, take true r.slotB with
  | some x, some y => if y.2.1.recordSeq > x.2.1.recordSeq then some y else some x
  | some x, none => some x
  | none, y => y

/-- The SIDE that a handle's current record has: none for a key that is not EMBER-resident, `some none` where no two pointer copies
agree (R122, R147). -/
def Ember.sideOf (e : Ember) (h : Nat) : Option (Option Nat) :=
  if inEmber h then some ((e.side (emberPair h)).map sideCode) else none

/-- The key of an owner at a canonical handle (R147). -/
def State.lookKey (s : State) (owner h : Nat) : KeyLook :=
  match Tab.find (s.dom owner).keys (canonical h) with
  | none => .absent
  | some r =>
    match s.root owner with
    | none => .corrupt
    | some root =>
      match s.ember.sideOf h with
      | none =>
        match r.current (recordKey root owner) none with
        | some (_, x, v) => .found x.attr x.recordSeq v
        | none => .corrupt
      | some none => .corrupt
      | some (some side) =>
        match r.current (recordKey root owner) (some side), s.ember.read (emberPair h) with
        | some (_, x, _), some v => .found x.attr x.recordSeq (v.take (x.attr.length / 8))
        | _, _ => .corrupt

def State.keyPresent (s : State) (owner h : Nat) : Bool := (Tab.find (s.dom owner).keys (canonical h)).isSome

/-- Bytes of MRAM one slot takes, and a key's use of it (R147). -/
def slotBytes (valueLen : Nat) : Nat := 128 + roundUp valueLen 64

/-- MRAM a domain uses, in bytes: two slots for each key, and its custom-function images (R147, R317). -/
def Dom.mramUsed (D : Dom) : Nat :=
  (D.keys.map fun p => 2 * slotBytes (max p.2.slotA.value.length p.2.slotB.value.length)).sum +
    (D.cfImages.map fun p => roundUp p.2.image.length 4096).sum

/-- The cache entries of a key and of the children of a parent, removed in every region (R148, R150). -/
def State.dropCached (s : State) (owner h : Nat) : State :=
  { s with regions := s.regions.map fun p =>
      (p.1, { p.2 with cache := p.2.cache.filter fun e => !(e.owner = owner && e.handle = canonical h) }) }

/-- The next IV of a record, its ceiling raised ahead of use (R135, R147). -/
def State.nextIv (s : State) : State :=
  { s with recordIv := s.recordIv + 1, ivStored := s.ivStored.ahead (s.recordIv + 1) }

/-- A record written to the slot that is not current, with the next RECORD_SEQ and IV (R147). -/
def State.writeRecord (s : State) (owner h side : Nat) (attr : Attr) (value : Bytes) : State :=
  match s.root owner with
  | none => s
  | some root =>
    let k := recordKey root owner
    let r := Tab.get (s.dom owner).keys {} (canonical h)
    let cur := r.current k ((s.ember.sideOf h).map fun x => x.getD 0)
    let n := (match cur with | some (_, x, _) => x.recordSeq | none => 0) + 1
    let x := sealSlot k n side attr (beBytes 12 s.recordIv) value
    let r := match cur with | some (false, _) => { r with slotB := x } | _ => { r with slotA := x }
    s.nextIv.setDom owner fun D => { D with keys := Tab.insert D.keys (canonical h) r }

/-- A key's value and attributes written: an EMBER-resident value to the shadow slot, then its record, then the pointer flip; the cache
entries of the old GENERATION go (R124, R147, R148). -/
def State.writeKey (s : State) (owner h : Nat) (attr : Attr) (value : Bytes) : State :=
  let s :=
    if inEmber h then
      let b := s.ember.shadow (emberPair h)
      let s := { s with ember := s.ember.writeShadow (emberPair h) value }
      let s := s.writeRecord owner h (sideCode b) attr []
      { s with ember := s.ember.flip (emberPair h) b }
    else s.writeRecord owner h 0 attr value
  s.dropCached owner h

/-- An update of a pair that its verification abandons (R124): the shadow slot does not hold what was written to it (step 1), so that what it
holds is a free value, or it does and the record in MRAM is the one that fails (step 2). The pointer is unchanged, and with it the key. -/
def State.abandonWrite (s : State) (pair : Nat) (check : EmberCheck) (value : Bytes) : State :=
  let (v, s) := s.fresh 64
  { s with ember := s.ember.writeShadow pair (if check = .recordFails then value else v) }

/-- A key ended: both slots and an EMBER pair zeroed; its nonce counter stays (R150). -/
def State.dropKey (s : State) (owner h : Nat) : State :=
  let s := s.setDom owner fun D => { D with keys := Tab.erase D.keys (canonical h) }
  let s := if inEmber h then { s with ember := s.ember.zero (emberPair h) } else s
  s.dropCached owner h

/-! ### Nonce counters (R71, R133 to R136) -/

/-- A counter after a reservation of `c` values with its ceiling raised ahead of use; none past the hard limit. -/
def Nonce.reserve (n : Nonce) (limit c : Nat) : Option Nonce :=
  if n.next + c - 1 > limit then none
  else some { n with next := n.next + c, stored := n.stored.ahead (n.next + c) }

/-- A twinned secondary's counter after a record's reservation [v, v + c): it takes the start from the record, and its own ceiling goes up
in steps of 2^16 until it covers the values (R135, R136). -/
def Nonce.follow (n : Nonce) (v c : Nat) : Nonce :=
  let next := max n.next (v + c)
  { n with next := next
           stored := if next > n.ceiling then n.stored.put (n.ceiling + 65536 * ceilDiv (next - n.ceiling) 65536) else n.stored }

/-- The counter a domain reserves on for a handle. -/
def Dom.nonce (D : Dom) (h : Nat) : Nonce :=
  if handleKind h = 2 then Tab.get D.opNonces {} (canonical h) else Tab.get D.nonces {} (canonical h)

def Dom.setNonce (D : Dom) (h : Nat) (n : Nonce) : Dom :=
  if handleKind h = 2 then { D with opNonces := Tab.put D.opNonces {} (canonical h) n }
  else { D with nonces := Tab.put D.nonces {} (canonical h) n }

/-- The hard limit of a counter, and what its values carry above the count (R133, R134). -/
def nonceLimitOf (h : Nat) : Nat := if handleKind h = 2 then 2 ^ 87 - 1 else 2 ^ 96 - 1

def nonceBase (d h : Nat) : Nat := if handleKind h = 2 then d * 2 ^ 87 else 0

/-- A reservation of `c` values for a domain: the first value, and the domain after it. -/
def Dom.reserve (D : Dom) (d h c : Nat) : Option (Nat × Dom) :=
  let n := D.nonce h
  (n.reserve (nonceLimitOf h) c).map fun n' => (nonceBase d h + n.next, D.setNonce h n')

/-! ### Derivation paths and key use (R137 to R141, R152) -/

/-- A derivation parent and its PRF (R138). -/
def isParent (a : Attr) : Bool := a.usage = 5 && (a.alg = 3 || a.alg = 7)

/-- One node of a path (R139). -/
def deriveNode (alg : Nat) (ki label context : Bytes) (l : Nat) : Bytes :=
  if alg = 7 then kdfHmac ki label context l else kdfCmac ki label context l

/-- The label of level j of a path structure at an offset. -/
def pathLabel (p : Bytes) (o j : Nat) : Bytes := slice p (o + 48 + 80 * j) (byteAt p (o + 32 + 80 * j))

/-- The node at the end of a path of `k` labels (R139). -/
def derivePath (parent : Attr) (value p : Bytes) (o k : Nat) : Bytes :=
  let child := slice p o 32
  let cAttr := attrAt (zeros 8 ++ child ++ zeros 24) 0
  (List.range k).foldl (fun ki j =>
    if j + 1 = k then deriveNode parent.alg ki (pathLabel p o j) child cAttr.length
    else
      let mid := { cAttr with usage := 5, alg := parent.alg, length := parent.length, depth := j + 1, deriveTo := parent.deriveTo }
      deriveNode parent.alg ki (pathLabel p o j) mid.block parent.length) value

/-- A key reference of Table 5-6 at an offset of a parameter block. -/
structure KeyRef where
  at_ : Nat
  slot : Nat
  pathLen : Nat
  pathOffset : Nat

def keyRefAt (p : Bytes) (o : Nat) : KeyRef := ⟨o, byteAt p o, byteAt p (o + 1), field p (o + 4) 4⟩

/-- Whether admission judges a reference's path (R45 check 9). -/
def KeyRef.walks (r : KeyRef) (fixed : Nat) : Bool :=
  1 ≤ r.pathLen && r.pathLen ≤ 4 && r.pathOffset % 16 = 0 && r.pathOffset ≥ fixed

/-- The reserved spans of a reference and of the path it names (R140). -/
def KeyRef.reserved (r : KeyRef) (fixed : Nat) : List Resv :=
  [whole (r.at_ + 2) 2, whole (r.at_ + 8) 8] ++
    (if r.walks fixed then
      [(r.pathOffset + 4, 1, 0xF0), whole (r.pathOffset + 5) 1, (r.pathOffset + 7, 1, 0xE0), whole (r.pathOffset + 25) 7] ++
        ((List.range r.pathLen).map fun j => whole (r.pathOffset + 33 + 80 * j) 15)
     else [])

/-- A failure of a command: STATUS and DETAIL. -/
abbrev Fail := Nat × Nat

/-- The first failing check of a list, in order. -/
def firstFail : List (Option Fail) → Option Fail
  | [] => none
  | some f :: _ => some f
  | none :: r => firstFail r

/-- A check: fails with a status and a detail unless the condition holds. -/
def need (c : Bool) (status detail : Nat) : Option Fail := if c then none else some (status, detail)

/-- The first condition of Table 5-8 that a path fails, in the table's order; of the path structure's bytes the first bad one. -/
def pathFail (parent : Attr) (r : KeyRef) (p : Bytes) (fixed : Nat) : Option Fail :=
  let o := r.pathOffset
  let k := r.pathLen
  if k > 4 then some (eDerivePath, r.at_ + 1)
  else if k = 0 then need (o = 0) eDerivePath (r.at_ + 4)
  else if o % 16 != 0 || o < fixed then some (eDerivePath, r.at_ + 4)
  else
    let c := attrAt (zeros 8 ++ slice p o 32 ++ zeros 24) 0
    let labels := (List.range k).map fun j =>
      let n := byteAt p (o + 32 + 80 * j)
      if n = 0 || n > 64 then some (eDerivePath, o + 32 + 80 * j)
      else (firstNonZero p [(o + 48 + 80 * j + n, 64 - n)]).map fun x => (eDerivePath, x)
    firstFail (need (c.depth = k) eDerivePath (o + 24) :: labels ++ [
      need (isParent parent) eDeriveParent 1,
      need (1 ≤ c.alg && c.alg ≤ 0x0B) eDeriveParent 2,
      need (1 ≤ c.usage && c.usage ≤ 13 && bit parent.deriveTo (c.usage - 1) && (k < 2 || bit parent.deriveTo 4)) eDeriveParent 3,
      need (c.deriveTo &&& parent.deriveTo = c.deriveTo) eDeriveParent 4,
      need ((!bit c.flags 0 || bit parent.flags 0) && bit c.flags 1 == bit parent.flags 1 && bits c.flags 3 2 = 0) eDeriveParent 5,
      need (parent.notBefore ≤ c.notBefore && c.notAfter ≤ parent.notAfter) eDeriveParent 6])

/-- A key ready for use: its attributes and value. -/
structure KeyUse where
  attr : Attr
  value : Bytes

/-- Checks 1 to 5 of Table 5-12 on a key reference: the attributes and the value of the key, or of the child that its path derives. -/
def State.findKey (s : State) (d : Nat) (c : Cmd) (r : KeyRef) (fixed : Nat) : Except Fail (Attr × Bytes) :=
  let e := c.entry
  let slot := r.slot
  if !e.valid slot then .error (eUndeclaredAccess, 0xFFFF)
  else
    let h := e.handle slot
    if !handleValid d h then .error (eKeyHandle, slot)
    else if handleKind h = 2 && d < 256 && !c.cond.grants.contains slot then .error (eKeyNotGranted, slot)
    else
      match s.lookKey (ownerOf d h) h with
      | .absent => .error (eKeyAbsent, slot)
      | .corrupt => .error (eKeyCorrupt, slot)
      | .found parent _ value =>
        match pathFail parent r c.param fixed with
        | some f => .error f
        | none =>
          if r.pathLen = 0 then .ok (parent, value)
          else
            let child := attrAt (zeros 8 ++ slice c.param r.pathOffset 32 ++ zeros 24) 0
            .ok ({ child with handle := parent.handle, nonceLimit := 0 }, derivePath parent value c.param r.pathOffset r.pathLen)

/-- Checks 6 to 9 of Table 5-12 on a key's attributes. `usages` and `serves` are what the operation needs; check 9 is of a reservation that the
command holds (R133, R249). DETAIL of E_TIME_UNTRUSTED is the
slot, as in Table 5-12, where Table 2-14 says 0.
DESIGN CHOICE (log entry 66). -/
def useFail (c : Cmd) (slot : Nat) (a : Attr) (usages : List Nat) (serves : Attr → Bool) : Option Fail :=
  let e := c.entry
  let reservedHere := c.reserveStart.isSome && bits e.reserve 13 0 > 0 && bits e.reserve 15 14 = slot
  let first := c.reserveStart.getD 0 % (if handleKind (e.handle slot) = 2 then 2 ^ 87 else 2 ^ 96)
  firstFail [
    need (usages.contains a.usage) eKeyUsage slot,
    need (serves a && (lengthsOf a.alg).contains a.length) eKeyAlgorithm slot,
    need (!a.windowed || c.cond.trusted) eTimeUntrusted slot,
    need (!a.windowed || a.notBefore ≤ c.cond.stamp) eKeyNotYet slot,
    need (!a.windowed || c.cond.stamp ≤ a.notAfter) eKeyExpired slot,
    need (!reservedHere || (a.nonceLimit != 0 && first + bits e.reserve 13 0 - 1 < a.nonceLimit)) eNonceExhausted slot]

/-- The checks of Table 5-12 on a key reference, then its value (R152); `fixed` is the end of the command's fixed block. -/
def State.useKey (s : State) (d : Nat) (c : Cmd) (r : KeyRef) (fixed : Nat) (usages : List Nat) (serves : Attr → Bool) :
    Except Fail KeyUse :=
  match s.findKey d c r fixed with
  | .error f => .error f
  | .ok x =>
    match useFail c r.slot x.1 usages serves with
    | some f => .error f
    | none => .ok ⟨x.1, x.2⟩

/-- A key whose algorithm is one of those that serve an operation (Table 5-12, check 7). -/
def serveAlg (algs : List Nat) (a : Attr) : Bool := algs.contains a.alg

end Sys2Proof.Machine
end

