-- ==== Sys2Proof/Machine/Operations.lean ====
section
/-!
DEFINITION. Sys2Proof/Machine/Operations.lean: what admission knows of the operational opcodes: who submits them, their
class, their fixed block and its reserved bytes, their key references, the random calls they draw and what the arbiter
takes as their cost (Tables 7-7, 8-8, 8-10, 9-5, 10-11 and R248 to R272).
-/

namespace Sys2Proof.Machine

/-- What admission knows of an operational opcode. -/
structure OpFacts where
  who : Who := .both
  fixed : Nat := 16
  cls : RepClass := .stateless
  varies : Bool := false
  reserved : List Resv := []

def opFacts (code : Nat) : Option OpFacts :=
  match code with
  | 0x1001 | 0x1002 | 0x1003 | 0x1004 | 0x1005 | 0x1006 | 0x1007 | 0x1008 | 0x100A =>
    some { fixed := 64, varies := true, reserved := [whole 52 12] }
  | 0x1009 => some { fixed := 64, cls := .reserve, varies := true, reserved := [whole 52 12] }
  | 0x1101 | 0x1102 => some { fixed := 64, varies := true, reserved := [whole 19 45] }
  | 0x1201 => some { who := .pitch, fixed := 64, varies := true, reserved := [whole 37 3] }
  | 0x1202 => some { who := .pitch, fixed := 112, varies := true, reserved := [whole 37 3, whole 100 12] }
  | 0x1301 | 0x1302 | 0x1303 | 0x1304 => some { who := .pitch, fixed := 96, varies := true, reserved := [whole 52 4] }
  | 0x1401 | 0x1402 =>
    some { who := .pitch, fixed := 96, varies := true, reserved := [whole 16 16, whole 75 1, whole 88 8] }
  | 0x1501 => some { reserved := [whole 1 3, whole 8 8] }
  | 0x1601 | 0x1602 =>
    some { fixed := 64, varies := true, reserved := [(19, 1, 0xFC), whole 22 2, whole 25 1, whole 32 32] }
  | 0x1701 | 0x1704 | 0x1705 | 0x1707 => some { fixed := 160, cls := .stateful, varies := true, reserved := pk }
  | 0x1702 | 0x1703 | 0x1706 | 0x1708 => some { fixed := 160, varies := true, reserved := pk }
  | 0x1801 => some { cls := .stateful, reserved := [(4, 1, 0xFE), whole 5 3, whole 10 6] }
  | 0x1802 => some { reserved := [whole 2 2, whole 8 8] }
  | 0x1803 => some { reserved := [whole 0 16] }
  | 0x1901 => some { fixed := 48, varies := true, reserved := [whole 34 14] }
  | 0x1902 => some { fixed := 96, cls := .stateful, varies := true, reserved := whole 19 13 :: attrResv 32 }
  | 0x1A01 | 0x1A02 | 0x1A03 | 0x1A04 | 0x1A05 => some { reserved := [whole 4 12] }
  | 0x1F01 => some { reserved := [(0, 1, 0xFC), whole 2 14] }
  | _ => none
where
  /-- Reserved bytes of Table 8-11, with those of the attribute block it carries. -/
  pk : List Resv := [(36, 1, 0xF0), whole 37 1, (39, 1, 0xE0), whole 57 7, (67, 1, 0xFC), whole 69 3, whole 81 1, whole 85 1, whole 88 8]

/-- The offsets of the key references a block carries; none where the key is inline. -/
def opRefs (code : Nat) (p : Bytes) : List Nat :=
  match groupOf code with
  | 0x10 | 0x11 | 0x14 => [0]
  | 0x12 | 0x19 => if code = 0x1902 then [0] else [0, 16]
  | 0x13 => if code = 0x1301 || code = 0x1304 then [0, 16] else [0]
  | 0x16 => if code = 0x1602 && bit (byteAt p 19) 1 then [] else [0]
  | 0x17 =>
    (if bit (byteAt p 67) 0 then [] else [0]) ++
      (if [0x1703, 0x1705, 0x1706].contains code && !bit (byteAt p 67) 1 then [16] else [])
  | _ => []

/-- The generate calls of an operational command, from its block as read (R72, R223, R224, R245). -/
def opDraws (code : Nat) (p : Bytes) : List Nat :=
  match code with
  | 0x1601 => if bit (byteAt p 19) 0 then [48] else []
  | 0x1701 | 0x1704 | 0x1705 | 0x1707 => [48]
  | 0x1801 =>
    let n := field p 0 4
    if n = 0 || n > 4194304 then []
    else List.replicate (n / 65536) 65536 ++ (if n % 65536 = 0 then [] else [n % 65536])
  | _ => []

def opMayDraw (code : Nat) : Bool := [0x1601, 0x1701, 0x1704, 0x1705, 0x1707, 0x1801].contains code

/-- PREDICTION_RESISTANCE (R238). -/
def opPredicts (code : Nat) (p : Bytes) : Bool := code = 0x1801 && bit (byteAt p 4) 0

/-- The core time of Table 10-11 for an operation, in ns; 2,000 for one that the table does not have. -/
def coreTime (c : Cmd) : Nat :=
  let p := fun o => byteAt c.param o
  match c.entry.opcode with
  | 0x1201 => if p 32 != 4 && p 33 != 4 then 3200 else 4000
  | 0x1202 => 4800
  | 0x1301 | 0x1302 | 0x1303 | 0x1304 => if p 32 = 1 then 9600 else 12000
  | 0x1401 => if p 34 = 0 then 6000 else 7500
  | 0x1402 => 4000
  | 0x1101 | 0x1102 => match p 16 with | 3 => 3200 | 4 => 2000 | _ => 2400
  | 0x1501 => if c.input.length ≤ 64 then 1200 else 2000
  | 0x1901 => 8000
  | 0x1902 => 10000
  | 0x1601 | 0x1602 => 600
  | 0x1701 | 0x1702 | 0x1703 | 0x1704 | 0x1705 | 0x1706 | 0x1707 | 0x1708 => 800
  | _ => 2000

end Sys2Proof.Machine
end

