-- ==== Sys2Proof/Machine/Random.lean ====
section
/-!
DEFINITION. Sys2Proof/Machine/Random.lean: the CTR_DRBG of SP 800-90A, the seed pools and the random calls of placed
commands (R72, R233 to R243).
-/

namespace Sys2Proof.Machine

/-! ### CTR_DRBG with AES-256 and the derivation function (R235) -/

/-- The chaining step of the derivation function. -/
def drbgBcc (c : Block1) (m : Bytes) : Bytes := (chunks 16 m).foldl (fun v b => c.enc (xorBytes v b)) (zeros 16)

/-- Block_Cipher_df for 48 bytes. -/
def drbgDf (m : Bytes) : Bytes :=
  let x := beBytes 4 m.length ++ beBytes 4 48 ++ m ++ [0x80]
  let x := padTo 16 x
  let k := aes ((List.range 32).map fun i => BitVec.ofNat 8 i)
  let t := (List.range 3).flatMap fun i => drbgBcc k (beBytes 4 i ++ zeros 12 ++ x)
  let k := aes (t.take 32)
  let a := k.enc (t.drop 32)
  let b := k.enc a
  a ++ b ++ k.enc b

def drbgInc (v : Bytes) (n : Nat) : Bytes := beBytes 16 ((beNat v + n) % 2 ^ 128)

def Drbg.update (g : Drbg) (x : Bytes) : Drbg :=
  let k := aes g.key
  let t := xorBytes ((List.range 3).flatMap fun i => k.enc (drbgInc g.v (i + 1))) x
  { g with key := t.take 32, v := t.drop 32 }

/-- Instantiation from a seed, a nonce and a personalisation string (R236): call numbers start again at 1. -/
def drbgStart (seed nonce pers : Bytes) : Drbg :=
  ({ inst := true, key := zeros 32, v := zeros 16 } : Drbg).update (drbgDf (seed ++ nonce ++ pers))

def Drbg.reseed (g : Drbg) (seed : Bytes) : Drbg :=
  { g.update (drbgDf seed) with sinceReseed := 0, reseeds := g.reseeds + 1, stretched := false }

/-- One generate call of `n` bytes with additional input. -/
def Drbg.generate (g : Drbg) (n : Nat) (add : Bytes) : Bytes × Drbg :=
  let a := if add = [] then zeros 48 else drbgDf add
  let g := if add = [] then g else g.update a
  let k := aes g.key
  let m := ceilDiv n 16
  let out := ((List.range m).flatMap fun i => k.enc (drbgInc g.v (i + 1))).take n
  (out, { ({ g with v := drbgInc g.v m }).update a with sinceReseed := g.sinceReseed + 1 })

/-- Several calls in a row. -/
def Drbg.calls (g : Drbg) (add : Bytes) : List Nat → Bytes × Drbg
  | [] => ([], g)
  | n :: ns =>
    let (a, g) := g.generate n add
    let (b, g) := g.calls add ns
    (a ++ b, g)

/-- The personalisation string of an owner (R236). -/
def drbgPers (owner incarnation : Nat) : Bytes :=
  ascii "KALLAN-DRBG" ++ slice Config.serial 0 16 ++ leBytes 2 owner ++ leBytes 4 incarnation

/-! ### Seed pools (R233 to R235) -/

/-- The regions a domain's DRBG takes seeds from, in order: those of its mask ascending, then the others (Table 9-3). -/
def seedOrder (mask : Nat) : List Nat :=
  (List.range 8).filter (fun r => bit mask r) ++ (List.range 8).filter fun r => !bit mask r

def State.seedOrderOf (s : State) (d : Nat) : List Nat :=
  if d < 256 then seedOrder (s.dom d).conf.regionMask else List.range 8

def State.pool (s : State) (r : Nat) : List Seed := (s.region r).entropy.pool

def State.setEntropy (s : State) (r : Nat) (f : EntropyRegion → EntropyRegion) : State :=
  s.setRegion r fun R => { R with entropy := f R.entropy }

/-- The oldest seed of a region whose window began after an instant, taken and erased. -/
def State.takeSeedOf (s : State) (r : Nat) (after : Option Nat) : Option (Bytes × State) :=
  let ok := fun (x : Seed) => match after with | some t => decide (t < x.windowFrom) | none => true
  ((s.pool r).find? ok).map fun x =>
    (x.bytes, s.setEntropy r fun e => { e with pool := e.pool.erase x })

/-- The first seed over regions in an order. -/
def State.takeSeed (s : State) (after : Option Nat) : List Nat → Option (Bytes × State)
  | [] => none
  | r :: rs =>
    match s.takeSeedOf r after with
    | some x => some x
    | none => s.takeSeed after rs

/-- Two seeds for an instantiation (R236). -/
def State.takeTwo (s : State) (order : List Nat) : Option (Bytes × Bytes × State) :=
  (s.takeSeed none order).bind fun p => (p.2.takeSeed none order).map fun q => (p.1, q.1, q.2)

/-! ### Module-internal secrets (R120, R123, R235, R457) -/

/-- A secret from the lowest region with a seed ready. -/
def State.secret (s : State) : Option (Bytes × State) := s.takeSeed none (List.range 8)

/-! ### The calls of placed commands (R72, R237 to R239) -/

def Dom.setCmds (D : Dom) (l : List Cmd) : Dom := { D with cmds := l }

/-- Calls served or assigned since the last reseed that is done or already due. -/
def Dom.served (D : Dom) : Nat :=
  D.cmds.foldl (fun n c =>
    if c.draws = [] || c.drawn.isSome || c.entropyFail then n
    else if c.predict || c.reseed.isSome then c.draws.length else n + c.draws.length) D.drbg.sinceReseed

/-- Calls of the current instantiation that are taken: a pitch whose root and K_DIG are to be made again takes calls 1 and 2 for them when
its DRBG starts (R72, R94, R151). -/
def Dom.callsTaken (D : Dom) (d : Nat) : Nat := if d < 256 && D.kDig = [] && !D.drbg.inst then max 2 D.drbg.lastCall else D.drbg.lastCall

/-- The next calls assigned to a command, as the last step of its placement, with the reseed that applies before them
if one is due and a seed is ready (R72, R237). -/
def State.assign (s : State) (d id : Nat) (draws : List Nat) (predict : Bool) : State :=
  if draws = [] then s
  else
    let D := s.dom d
    let due := D.drbg.inst && !predict && D.served ≥ 65536
    let (seed, s) := if due then
        match s.takeSeed none (s.seedOrderOf d) with
        | some (x, s) => (some x, s)
        | none => (none, s.setDom d fun D => { D with drbg := { D.drbg with stretched := true } })
      else (none, s)
    let last := (s.dom d).callsTaken d
    let first := last + 1
    let s := s.setDom d fun D => { D with drbg := { D.drbg with lastCall := last + draws.length } }
    (s.setCmd d id fun c => { c with draws := draws, firstCall := first, predict := predict, reseed := seed
                                     waitFrom := some s.now }).journalTimer d s.now

/-- A command whose calls wait to be generated; those of an aborted command stay consumed (R27, R108). -/
def Cmd.awaits (c : Cmd) : Bool := c.draws != [] && c.drawn.isNone && !c.entropyFail

/-- Bytes of a parameter block, each an offset and a length, written with zeros. -/
def zeroFields (p : Bytes) (fs : List (Nat × Nat)) : Bytes := fs.foldl (fun p f => overlay p f.1 (zeros f.2)) p

/-- The host-address fields of a command's parameter block: those of QUEUE_CREATE (R56) and DIRTY_LOG_START (R112).
DEDUCED: no chapter marks them by that word (log entry 5). -/
def addressFields (code : Nat) : List (Nat × Nat) :=
  if code = 0x0101 then [(16, 8), (24, 8)] else if code = 0x0208 then [(8, 8)] else []

/-- The additional input of a command's calls: the input of RANDOM_GENERATE (R245). -/
def Cmd.additional (c : Cmd) : Bytes := if c.entry.opcode = 0x1801 then c.input else []

/-- One command's calls, where its DRBG, its seed and its additional input are there (R237, R238). -/
def State.drawOne (s : State) (d : Nat) (c : Cmd) : Option State :=
  let g := (s.dom d).drbg
  if !g.inst || (c.entry.opcode = 0x1801 && c.toRead.contains .input && !c.aborted) then none
  else
    let ready : Option (Option Bytes × State) :=
      if c.predict then (s.takeSeed (some c.placedAt) (s.seedOrderOf d)).map fun p => (some p.1, p.2)
      else if c.reseed.isSome then some (c.reseed, s)
      else if g.sinceReseed + c.draws.length > 2 ^ 32 && c.twinDigest.isNone then (s.takeSeed none (s.seedOrderOf d)).map fun p => (some p.1, p.2)
      else some (none, s)
    ready.map fun (seed, s) =>
      let g := match seed with | some x => g.reseed x | none => g
      let (out, g) := g.calls c.additional c.draws
      let s := s.setDom d fun D => { D with drbg := { g with lastCall := D.drbg.lastCall } }
      s.setCmd d c.id fun c => { c with drawn := some out, reseed := none, seedUsed := seed, reseeds := g.reseeds, waitFrom := none }

/-- Calls are generated in the order they were assigned; one that waits holds the later ones (R237). -/
def State.drawAll (s : State) (d : Nat) : List Cmd → State
  | [] => s
  | c :: cs =>
    if c.awaits then
      match s.drawOne d c with
      | some s => s.drawAll d cs
      | none => s
    else s.drawAll d cs

def State.draw (s : State) (d : Nat) : State := s.drawAll d (s.dom d).cmds

/-- The limit of a wait for entropy, in ns (R239). -/
def Cmd.waitLimit (c : Cmd) (d : Nat) : Nat := if d < 256 then c.cond.entropyWait * 1000000 else 50000000

/-! ### Trail entries and events of the sources (R230, R412) -/

/-- Numbers the model gives to the codes of a category that the spec leaves unnumbered (log entry 22). -/
def codeSource : Nat := 0x1400

def codeBorrow : Nat := 0x1401

def codeTestFail : Nat := 0x1402

def SourceState.code : SourceState → Nat
  | .off => 0 | .starting => 1 | .standby => 2 | .active => 3 | .failed => 4 | .retired => 5

def EntropyRegion.source (e : EntropyRegion) (i : Nat) : Source := Tab.get e.sources {} i

def EntropyRegion.setSource (e : EntropyRegion) (i : Nat) (f : Source → Source) : EntropyRegion :=
  { e with sources := Tab.put e.sources {} i (f (e.source i)) }

def State.source (s : State) (r i : Nat) : Source := (s.region r).entropy.source i

/-- A region event (R423). -/
def State.regionEvent (s : State) (r kind : Nat) : State := s.raise (0x100 + 16 * r + kind)

/-- A source enters a state: a trail entry and the region event (R230). -/
def State.setSource (s : State) (r i : Nat) (new : SourceState) : State :=
  let old := (s.source r i).state
  let s := s.setEntropy r fun e => e.setSource i fun x => { x with state := new }
  if old = new then s
  else
    let s := s.log codeSource (originOf 8 (3 * r + i)) warning (leBytes 1 old.code ++ leBytes 1 new.code ++ leBytes 1 r ++ leBytes 1 i)
    s.regionEvent r 8

/-- A source starts: its oscillator settles, and its tests begin anew with its first sample (R229, R231). -/
def State.startSource (s : State) (r i : Nat) : State :=
  let s := s.setSource r i .starting
  s.setEntropy r fun e => e.setSource i fun x => { x with windowFrom := s.now, last := false, run := 0, broken := false }

/-- A source becomes ACTIVE with a new window; samples of the window it discards are still to be fed to the repetition count (R230, R231). -/
def State.activate (s : State) (r i : Nat) : State :=
  let s := s.setSource r i .active
  s.setEntropy r fun e => e.setSource i fun x => { x with windowFrom := s.now, broken := true }

/-- The source of a region that is ACTIVE. -/
def EntropyRegion.active (e : EntropyRegion) : Option Nat := (List.range 3).find? fun i => (e.source i).state = .active

/-- A placed command whose result is decided. -/
def Cmd.failWith (c : Cmd) (f : Nat × Nat) : Cmd :=
  { c with phase := .computed, status := f.1, detail := f.2, output := [], resultLen := 0, effects := [], delta := []
           toRead := [], assigned := true }

/-- The command whose capture waits for a source, or runs on it, fails with the state the source has (R246). -/
def State.endCapture (s : State) (r i : Nat) : State :=
  let x := s.source r i
  let s := s.setEntropy r fun e => e.setSource i fun x => { x with capture := none, startState := none, wasActive := false }
  match x.capture with
  | some (d, id) => s.setCmd d id fun c => if c.phase = .running && c.entry.opcode = 0x1802 then c.failWith (eSourceUnavailable, x.state.code) else c
  | none => s

/-- The next STANDBY source in a circular order becomes ACTIVE (R230); one under capture does not (R246). -/
def State.succeed (s : State) (r i : Nat) : State :=
  match ([(i + 1) % 3, (i + 2) % 3]).find? fun j => (s.source r j).state = .standby && (s.source r j).capture.isNone with
  | some j => s.activate r j
  | none => s

/-- As a region starts, the lowest-numbered source to reach STANDBY becomes ACTIVE: one that has reached it waits for the test of a
lower-numbered one, which ends at the same instant (R230, Table 9-4). -/
def State.chooseFirst (s : State) (r : Nat) : State :=
  let src := fun (i : Nat) => s.source r i
  if (s.region r).entropy.active.isSome then s
  else
    match (List.range 3).find? fun i => (src i).state = .standby && (src i).capture.isNone &&
        !((List.range i).any fun j => (src j).state = .starting) with
    | some i => s.activate r i
    | none => s

/-- A source that reached STANDBY becomes ACTIVE where its region has no ACTIVE source (R230). -/
def State.stood (s : State) (r i : Nat) : State :=
  let s := s.setSource r i .standby
  if (s.region r).entropy.active.isNone && (s.source r i).capture.isNone then s.activate r i else s

/-- A source enters FAILED, or RETIRED at the third entry within 24 h (R229). -/
def State.failSource (s : State) (r i : Nat) : State :=
  let x := s.source r i
  let fails := (x.fails.filter fun t => s.now < t + 86400000000000) ++ [s.now]
  let was := x.state
  let s := s.setSource r i (if fails.length ≥ 3 then .retired else .failed)
  let s := s.setEntropy r fun e => e.setSource i fun x => { x with fails := fails, failedAt := s.now, windowFrom := s.now, broken := false }
  let s := (s.journalTimer operator s.now).log codeTestFail (originOf 8 (3 * r + i)) security (leBytes 1 (s.source r i).state.code ++ leBytes 1 r ++ leBytes 1 i)
  if was = .active then s.succeed r i else s

/-! ### Instantiation of the generators (R236, R242) -/

/-- A domain's DRBG instantiated from two seeds. Calls that placement has assigned since the generator was lost are numbered within this
instantiation, and keep their numbers (R72, R243). -/
def State.startDrbg (s : State) (d : Nat) : Option State :=
  (s.takeTwo (s.seedOrderOf d)).map fun (a, b, s) =>
    s.setDom d fun D => { D with twin := if D.twin.role = .primary then { D.twin with instSeed := a ++ b.take 16 } else D.twin
                                 drbg := { drbgStart a (b.take 16) (drbgPers (if d < 256 then d else 0x100) D.roster.incarnation) with
                                           lastCall := D.drbg.lastCall } }

/-- Every DRBG of a list that is due, while seeds last. -/
def State.startAll (s : State) : List Nat → State
  | [] => s
  | d :: ds =>
    let D := s.dom d
    if (D.mode = .absent && d < 256) || D.drbg.inst then s.startAll ds
    else match s.startDrbg d with
      | some s => s.startAll ds
      | none => s

/-- Hash_df of SP 800-90A with SHA-384 over a window of raw bits, to 384 bits (R233). -/
def hashDf (m : Bytes) : Bytes := sha384 ([1] ++ beBytes 4 384 ++ m)

/-- Raw bits packed, first sample in the high bit (R246). -/
def packSamples (l : List Bool) : Bytes := (pieces 8 l.length l).filterMap fun p =>
  if p = [] then none else some (BitVec.ofNat 8 (ofBits (p ++ List.replicate (8 - p.length) false)))

end Sys2Proof.Machine
end

