-- ==== Sys2Proof/Machine/Admission.lean ====
section
/-!
DEFINITION. Sys2Proof/Machine/Admission.lean: the submission entry, the admission checks, placement and what follows it
until a command may start (R43 to R51, R66 to R73, R77).
-/

namespace Sys2Proof.Machine

/-! ### The entry (R43) -/

def parseEntry (b : Bytes) : Entry where
  opcode := field b 0 2
  flags := field b 2 2
  access := byteAt b 4
  len5 := byteAt b 5
  reserve := field b 6 2
  seq := field b 8 8
  handle0 := field b 16 4
  handle1 := field b 20 4
  handle2 := field b 24 4
  handle3 := field b 28 4
  addr32 := field b 32 8
  len40 := field b 40 4
  outLen := field b 44 4
  outAddr := field b 48 8
  addr56 := field b 56 8

def Entry.queueNo (e : Entry) : Nat := bits e.flags 15 12

def Entry.seqAuto (e : Entry) : Bool := bit e.flags 11

def Entry.noIrq (e : Entry) : Bool := bit e.flags 10

def Entry.fence (e : Entry) : Bool := bit e.flags 9

def Entry.mgmt (e : Entry) : Bool := isMgmt e.opcode

def Entry.reserveSlot (e : Entry) : Nat := bits e.reserve 15 14

def Entry.reserveCount (e : Entry) : Nat := bits e.reserve 13 0

/-- The reserved bits of a length word (Table 2-10). -/
def lengthResv (b : Bytes) (o : Nat) : List Resv :=
  if bit (field b o 4) 31 then [whole (o + 2) 1, (o + 3, 1, 0x7F)] else [(o + 2, 1, 0x80), (o + 3, 1, 0x7F)]

/-- The first non-zero reserved byte of an entry (R13, R43): FLAGS[8:0], a write bit without its valid bit, the reserved bits of the
length words. -/
def entryReserved (b : Bytes) : Option Nat :=
  let e := parseEntry b
  firstReserved b ([whole 2 1, (3, 1, 1), (4, 1, (15 - e.access % 16) * 16)] ++ (if e.mgmt then [] else lengthResv b 40) ++ lengthResv b 44)

/-- The parameter status of an opcode's group (R13). Groups 0x16 and 0x1A have none of their own, and share that of group 0x17; the
custom groups take that of group 0x0C.
DESIGN CHOICE (log entry 58). -/
def paramStatus (code : Nat) : Nat :=
  match groupOf code with
  | 0x01 => eQueueParam | 0x02 => ePitchParam | 0x03 => eStageParam | 0x04 => eKeyParam | 0x05 => eOfficerParam | 0x06 => eTimeParam
  | 0x07 => eLogParam | 0x08 => ePerfParam | 0x09 => eLcParam | 0x0A => eTamperParam | 0x0B => eTwinParam
  | 0x10 => eSymParam | 0x11 => eMacParam | 0x12 => ePinParam | 0x13 => eDukptParam | 0x14 => eCardParam | 0x15 => eHashParam
  | 0x16 | 0x17 | 0x1A => ePkParam | 0x18 => eRandomParam | 0x19 => eWrapParam | 0x1F => eSelftestParam
  | _ => eCfParam

/-- The fields of an entry that must be zero without being reserved (R13, R43): SEQ under SEQ_AUTO, and an invalid handle slot. They are
judged with the command's own checks, ahead of them. DETAIL is the field's offset in the entry, since it stands in no parameter block.
DESIGN CHOICE (log entry 58). -/
def entryZero (b : Bytes) : Option Fail :=
  let e := parseEntry b
  let spans := (if e.seqAuto then [(8, 8)] else []) ++ ([0, 1, 2, 3].filter fun k => !e.valid k).map fun k => (16 + 4 * k, 4)
  (spans.find? fun x => !allZero (slice b x.1 x.2)).map fun x => (paramStatus e.opcode, x.1)

/-! ### Parameter block, descriptors and lists (R43, R44) -/

def Entry.paramLen (e : Entry) : Nat := if e.mgmt then e.len40 else 16 * e.len5

def Entry.paramAddr (e : Entry) : Nat := if e.mgmt then e.addr32 else e.addr56

def Entry.approvalLen (e : Entry) : Nat := if e.mgmt then 256 * e.len5 else 0

/-- The length word and address of the input, absent for management commands, and of the output. -/
def Entry.inWord (e : Entry) : Nat := if e.mgmt then 0 else e.len40

def Entry.inAddr (e : Entry) : Nat := if e.mgmt then 0 else e.addr32

def isList (w : Nat) : Bool := bit w 31

def listCount (w : Nat) : Nat := bits w 15 0

def directLen (w : Nat) : Nat := bits w 22 0

/-- The buffers of a direction: its single buffer, or those its list names. -/
def buffers (w addr : Nat) (list : Bytes) : List (Nat × Nat) :=
  if isList w then (List.range (listCount w)).map fun i => (field list (16 * i) 8, field list (16 * i + 8) 4)
  else if directLen w = 0 then [] else [(addr, directLen w)]

def totalLen (l : List (Nat × Nat)) : Nat := (l.map (·.2)).sum

def Cmd.inBuffers (c : Cmd) : List (Nat × Nat) := buffers c.entry.inWord c.entry.inAddr c.inList

def Cmd.outBuffers (c : Cmd) : List (Nat × Nat) := buffers c.entry.outLen c.entry.outAddr c.outList

/-- IN_LEN: the bytes of input. -/
def Cmd.inLen (c : Cmd) : Nat := totalLen c.inBuffers

/-- The bytes of output the descriptor allows; on a command applied from a twin record, those that the primary's allowed. -/
def Cmd.outSpace (c : Cmd) : Nat := c.twinSpace.getD (totalLen c.outBuffers)

/-! ### Opcodes (R36, R58) -/

def Who.allows (w : Who) (d : Nat) : Bool :=
  match w with | .both => true | .pitch => d < 256 | .oper => d = operator

/-- The image a custom opcode is bound to, with its binding (R315, R317). -/
def Dom.binding (D : Dom) (code : Nat) : Option (CfGroup × Bytes) :=
  match Tab.find D.cfGroups (code / 256) with
  | some g =>
    if g.slot = 0xFF then none
    else
      let im := Tab.get D.cfImages {} g.slot
      if code % 256 < byteAt im.image 28 then some (g, im.image) else none
  | none => none

/-- Check 2: the opcode is defined for its submitter (R58). -/
def State.opcodeDefined (s : State) (d code : Nat) : Bool :=
  if isMgmt code then match mgmtInfo code with | some i => i.who.allows d | none => false
  else if isCustom code then d < 256 && ((s.dom d).binding code).isSome
  else match opFacts code with | some i => i.who.allows d | none => false

/-! ### Replication class (R77) -/

def opClass (code : Nat) (draws : Nat) : RepClass :=
  if isMgmt code then
    if groupOf code = 4 || groupOf code = 5 || code = 0x0B02 then .stateful else .localOnly
  else if isCustom code then if draws > 0 then .stateful else .stateless
  else match opFacts code with | some f => f.cls | none => .stateless

/-- The catalogue: groups 0x11 to 0x15 and 0x19, whose commands take no reservation (R248, R249). -/
def inCatalogue (code : Nat) : Bool := (0x11 ≤ groupOf code && groupOf code ≤ 0x15) || groupOf code = 0x19

/-- The class of an entry: the higher of its opcode's and of what it declares; of a catalogue command, its opcode's alone (R249).
SYM_CTR_ENCRYPT may still become RESERVE by its block (`State.reclass`), and a command with random calls STATE. -/
def classOf (e : Entry) (draws : Nat) : RepClass :=
  if inCatalogue e.opcode then opClass e.opcode draws
  else
  match opClass e.opcode draws with
  | .stateful => .stateful
  | .localOnly => .localOnly
  | cls => if (List.range 4).any e.writes then .stateful
           else if e.reserveCount > 0 then .reserve else cls

/-! ### Conditions sampled at placement (R66, R73) -/

def usedWindows (l : List (Nat × Nat)) : List (Nat × Nat) := l.filter fun w => w.1 ≤ w.2

def State.windowsOf (s : State) (d : Nat) : List (Nat × Nat) :=
  usedWindows (if d < 256 then (s.dom d).conf.windows else s.chip.windows)

/-- A range inside a single window (R51). -/
def inWindows (w : List (Nat × Nat)) (a n : Nat) : Bool := n = 0 || w.any fun x => x.1 ≤ a && a + n - 1 ≤ x.2

def State.lockedFor (s : State) (d : Nat) : Bool := if d < 256 then (s.dom d).mode = .locked else s.boot.state = .locked

/-- The conditions that a command takes as inputs from its placement, the admission timestamp among them (R65, R66, R106). -/
def State.sample (s : State) (d : Nat) (e : Entry) : Conditions :=
  let D := s.dom d
  let b := if isCustom e.opcode then D.binding e.opcode else none
  { stamp := s.clock.tai, trusted := s.clock.trusted, locked := s.lockedFor d, lifeCycle := s.life.state.code
    logGone := s.chip.auditPolicy = 0 && s.trail.state = 2
    windows := s.windowsOf d, pasid := if d < 256 then some D.conf.pasid else none
    regionMask := if d < 256 then D.conf.regionMask else 255, entropyWait := D.conf.entropyWait
    grants := (List.range 4).filter fun k => e.valid k && handleKind (e.handle k) = 2 && D.grants.contains (handleIndex (e.handle k))
    cfImage := b.map (·.2), cfGroup := b.map fun x => (x.1.slot, x.1.drawCalls, x.1.budget)
    ready := !s.life.recovery, started := s.boot.randomReady }

/-! ### Conflicts (R67, R68) -/

/-- Two commands of one domain conflict: they name one handle and either declares a write. -/
def conflict (a b : Entry) : Bool :=
  (List.range 4).any fun i => (List.range 4).any fun j =>
    a.valid i && b.valid j && a.handle i = b.handle j && (a.writes i || b.writes j)

def Phase.committed : Phase → Bool
  | .linking | .held => true
  | _ => false

/-- A command that has reached its commit point, whether or not it is executed again for its outputs (R26, R76). -/
def Cmd.done (c : Cmd) : Bool := c.phase.committed || c.redo

/-- An earlier unfinished command that a later one must not pass: in conflict with it, fenced, or both of management (R48, R68, R73). -/
def Cmd.blocks (x c : Cmd) : Bool :=
  conflict x.entry c.entry || fences x.entry.opcode x.entry.fence || fences c.entry.opcode c.entry.fence || (x.entry.mgmt && c.entry.mgmt)

def Dom.mayStart (D : Dom) (c : Cmd) : Bool :=
  c.phase = .ready && !c.awaits && D.cmds.all fun x => x.id ≥ c.id || x.done || !x.blocks c

/-- The operational commands of a domain that have just become ready are noted with the instant (R68, R346). -/
def State.noteReady (s : State) (d : Nat) : State :=
  s.setDom d fun D => { D with cmds := D.cmds.map fun c =>
    if !c.entry.mgmt && c.readySince.isNone && D.mayStart c then { c with readySince := some s.now } else c }

/-- A command past its commit point with the result of its commit record, no longer executed again. -/
def Cmd.settled (c : Cmd) : Cmd :=
  match c.commitRec with
  | some (status, delta, output) =>
    { c with phase := .linking, redo := false, effects := [], status := status, delta := delta, output := output, resultLen := output.length }
  | none => { c with phase := .linking, redo := false, effects := [] }

/-! ### Checks 5 to 7 (Table 2-11) -/

def descriptorFail (w addr : Nat) (n : Nat) : Option Fail :=
  need (if isList w then addr % 16 = 0 else directLen w != 0 || addr = 0) eDescriptorForm n

def lengthFail (w : Nat) (n : Nat) : Option Fail :=
  need (if isList w then 1 ≤ listCount w && listCount w ≤ 256 else directLen w ≤ 4194304) eLengthLimit n

/-- The length in 16-byte units that E_PARAM_LENGTH reports. -/
def units16 (n : Nat) : Nat := min 0xFFFF (ceilDiv n 16)

def fixedOf (code : Nat) : Nat × Bool :=
  if isMgmt code then match mgmtInfo code with | some i => (i.fixed, i.varies) | none => (0, false)
  else if isCustom code then (0, true)
  else match opFacts code with | some f => (f.fixed, f.varies) | none => (0, false)

/-- Check 6. -/
def check6 (e : Entry) : Option Fail :=
  let (fixed, varies) := fixedOf e.opcode
  firstFail [
    lengthFail e.inWord 0, lengthFail e.outLen 1,
    need ((if varies then fixed ≤ e.paramLen else e.paramLen = fixed) && e.paramLen ≤ 4194304) eParamLength (units16 fixed),
    need (if e.paramLen = 0 then e.paramAddr = 0 else e.paramAddr % 16 = 0) eDescriptorForm 0,
    descriptorFail e.inWord e.inAddr 1, descriptorFail e.outLen e.outAddr 2,
    need (!e.mgmt || (if e.approvalLen = 0 then e.addr56 = 0 else e.addr56 % 16 = 0)) eDescriptorForm 3]

/-- Check 7: the ranges the entry names, in the order of their numbers. -/
def check7 (e : Entry) (w : List (Nat × Nat)) : Option Fail :=
  firstFail [
    need (inWindows w e.paramAddr e.paramLen) eAddressWindow 0,
    need (isList e.inWord || inWindows w e.inAddr (directLen e.inWord)) eAddressWindow 1,
    need (isList e.outLen || inWindows w e.outAddr (directLen e.outLen)) eAddressWindow 2,
    need (inWindows w e.addr56 e.approvalLen) eAddressWindow 3,
    need (!isList e.inWord || inWindows w e.inAddr (16 * listCount e.inWord)) eAddressWindow 4,
    need (!isList e.outLen || inWindows w e.outAddr (16 * listCount e.outLen)) eAddressWindow 5]

/-- Check 5. -/
def check5 (d : Nat) (e : Entry) : Option Fail :=
  ((List.range 4).find? fun k => e.valid k && !handleOwn d (e.handle k)).map fun k => (eHandleForeign, k)

/-! ### Checks 8 and 9 -/

def reservedFail (bs : Bytes) (spans : List Resv) (structure_ : Nat) : Option Fail :=
  (firstReserved bs spans).map fun o => (eReserved, structure_ * 8192 + min o 0x1FFF)

/-- The reserved spans of a parameter block. -/
def paramResv (code : Nat) (p : Bytes) : List Resv :=
  if isMgmt code then match mgmtInfo code with | some i => i.reserved ++ mgmtMore code p | none => []
  else match opFacts code with
    | some f => f.reserved ++ (opRefs code p).flatMap fun o => (keyRefAt p o).reserved f.fixed
    | none => []

/-- Reserved spans of an approvals list (R162): its header, each entry's, and what follows the last entry. An entry whose SIG_LEN
cannot be followed still has its own reserved bytes (R13). -/
def approvalSpans (l : Bytes) : Nat → Nat → List Resv
  | 0, o => [whole o (l.length - o)]
  | k + 1, o =>
    let n := field l (o + 2) 2
    if o + 16 > l.length then []
    else if !(n = 96 || n = 3309) || o + 16 + roundUp n 16 > l.length then [whole (o + 4) 4]
    else whole (o + 4) 4 :: approvalSpans l k (o + 16 + roundUp n 16)

def approvalResv (l : Bytes) : List Resv :=
  whole 1 15 :: (if 1 ≤ byteAt l 0 && byteAt l 0 ≤ 16 then approvalSpans l (byteAt l 0) 16 else [])

def listResv (w : Nat) : List Resv := (List.range (listCount w)).map fun i => whole (16 * i + 12) 4

/-- Check 8, once every structure is read. -/
def check8 (c : Cmd) : Option Fail :=
  let e := c.entry
  firstFail [
    reservedFail c.param (paramResv e.opcode c.param) 1,
    if isList e.inWord then reservedFail c.inList (listResv e.inWord) 3 else none,
    if isList e.outLen then reservedFail c.outList (listResv e.outLen) 4 else none,
    if e.approvalLen = 0 then none else reservedFail c.approvals (approvalResv c.approvals) 2]

def listFail (w : Nat) (l : List (Nat × Nat)) (n : Nat) : Option Fail :=
  if !isList w then none
  else
    match l.findIdx? fun b => b.2 = 0 || 4194304 < b.2 with
    | some i => some (eLengthLimit, n + 256 * i)
    | none => need (totalLen l ≤ 4194304) eLengthLimit n

def windowFail (w : Nat) (l : List (Nat × Nat)) (ws : List (Nat × Nat)) (n : Nat) : Option Fail :=
  if !isList w then none
  else (l.findIdx? fun b => !inWindows ws b.1 b.2).map fun i => (eAddressWindow, n + 256 * i)

/-- Whether a path reference of a block has a fault that is left to Table 5-8 (R45). -/
def badPath (code fixed : Nat) (p : Bytes) : Bool := ((opRefs code p).map (keyRefAt p)).any fun r => r.pathLen != 0 && !r.walks fixed

/-- The parameter length that a block's contents require (R45): of paths, each that is in range is judged on its own. -/
def requiredLen (code : Nat) (p : Bytes) : Option Nat :=
  if isMgmt code then mgmtRequired code p
  else (opFacts code).map fun f =>
    (((opRefs code p).map (keyRefAt p)).filter fun r => r.walks f.fixed).foldl (fun n r => max n (r.pathOffset + 32 + 80 * r.pathLen)) f.fixed

/-- A block has the length its contents require. Beside a path that is left to Table 5-8 the length is not known, and no path in range
runs past the block (R45, R140). -/
def lengthHolds (code : Nat) (p : Bytes) (n : Nat) : Bool :=
  if !isMgmt code && (match opFacts code with | some f => badPath code f.fixed p | none => false) then n ≤ p.length else p.length = n

/-- Check 9. -/
def check9 (c : Cmd) : Option Fail :=
  let e := c.entry
  firstFail [
    listFail e.inWord c.inBuffers 0, listFail e.outLen c.outBuffers 1,
    windowFail e.inWord c.inBuffers c.cond.windows 1, windowFail e.outLen c.outBuffers c.cond.windows 2,
    match requiredLen e.opcode c.param with
    | some n => need (lengthHolds e.opcode c.param n) eParamLength (units16 n)
    | none => none]

/-! ### Conditions of the module that refuse a command (R66, R96, R375, R393, R395, R422) -/

def lifeCycleServes (lc d : Nat) (c : Cmd) : Bool :=
  let g := groupOf c.entry.opcode
  if [0x0903, 0x0904].contains c.entry.opcode then lc = 2
  else match lc with
  | 0 => d = operator && [1, 9].contains g
  | 1 => d = operator && [1, 7, 8, 9, 10, 0x15, 0x18, 0x1A, 0x1F].contains g
  | 5 => d = operator && [1, 7, 9, 0x1F].contains g
  | 6 => c.entry.opcode = 0x0901 && d = operator && c.queue = 0
  | _ => true

def recoveryServes (d code : Nat) : Bool :=
  let g := groupOf code
  if d = operator then [1, 7, 9, 0x1F].contains g else g = 1 || g = 0x1F || isCustom code

def lockedServes (d : Nat) (c : Cmd) : Bool :=
  let g := groupOf c.entry.opcode
  if d = operator then [1, 7, 9, 10].contains g || (g = 3 && byteAt c.param 0 = 2) else pitchLockedAllows c.entry.opcode

def conditionFail (d : Nat) (c : Cmd) : Option Fail :=
  firstFail [
    need (lifeCycleServes c.cond.lifeCycle d c) eLifecycleState c.cond.lifeCycle,
    need (c.cond.ready || recoveryServes d c.entry.opcode) eNotReady 0,
    need (!c.cond.locked || lockedServes d c) eModuleLocked 0,
    need (!c.cond.logGone || !c.entry.mgmt || auditAllows c.entry.opcode) eLogUnavailable 0]

/-! ### Timers that follow the queues and the waiting entries (R42, R49) -/

/-- The entry of a queue that is to be fetched again (R357). -/
def Dom.refetch (D : Dom) (q : Nat) : Option Waiting := D.waiting.find? fun w => w.queue = q && w.again

def Dom.drained (D : Dom) : Bool :=
  (D.queues.all fun q => q.2.state = .absent || q.2.sqHead = q.2.sqTail) && !D.waiting.any Waiting.again

/-- The gap timer of a domain, after a change (R49): `moved` says SEQ_NEXT advanced. -/
def State.gapTimer (s : State) (d : Nat) (moved : Bool) : State :=
  let t := s.setDom d fun D =>
    if D.waiting != [] && D.drained then
      { D with gapSince := if moved || D.gapSince.isNone then some s.now else D.gapSince }
    else { D with gapSince := none }
  if (t.dom d).gapSince = (s.dom d).gapSince then t else t.journalTimer d s.now

/-- Fetched, unfinished management commands of a domain (R42). -/
def Dom.mgmtCount (D : Dom) : Nat :=
  (D.waiting.filter fun w => w.entry.mgmt).length + (D.cmds.filter fun c => c.entry.mgmt && !c.posted && !c.noPost).length

def State.mgmtTotal (s : State) : Nat := (s.doms.map fun p => p.2.mgmtCount).sum

/-- BUSY of a queue (R33, R42). -/
def State.queueBusy (s : State) (d q : Nat) : Bool :=
  ((s.dom d).queue q).admin && ((s.dom d).mgmtBusy || s.allBusy)

/-- A warden is saturated while it pauses any admin queue (R42, R363): WARDEN_SATURATED is raised, and an entry written
at most once in 100 ms, which counts the occurrences it suppresses. -/
def State.saturation (s : State) : State :=
  let now := s.allBusy || s.doms.any fun p => p.2.mgmtBusy
  if now = s.guy.saturated then s
  else if !now then { s with guy := { s.guy with saturated := false } }
  else
    let s := { s with guy := { s.guy with saturated := true } }
    let s := s.raise 0x192
    let due := match s.guy.lastSaturated with | some t => decide (t + 100000000 ≤ s.now) | none => true
    if due then
      ({ s with guy := { s.guy with lastSaturated := some s.now } }).log codeSaturated (originOf 0 0) warning (leBytes 1 s.guy.lastCause)
    else s.suppress codeSaturated (originOf 0 0)

/-- A domain with an admin queue. -/
def Dom.hasAdmin (D : Dom) : Bool := D.queues.any fun q => q.2.admin && q.2.state != .absent

/-- BUSY after a fetch, a completion or a reset (R42): each domain whose admin queues leave it has its ADMIN_READY event. -/
def State.busyTimer (s : State) (d : Nat) : State :=
  let n := (s.dom d).mgmtCount
  let t := s.mgmtTotal
  let was := fun (s : State) (e : Nat) => (s.dom e).mgmtBusy || s.allBusy
  let before := s
  let s := s.setDom d fun D => { D with mgmtBusy := if D.mgmtBusy then n > 32 else n ≥ 64 }
  let s := { s with allBusy := if s.allBusy then decide (t > 512) else decide (t ≥ 1024) }
  let s := if (s.dom d).hasAdmin then s.journal .queueState d 0 (leBytes 2 n ++ leBytes 2 t) else s
  let freed := (s.doms.map (·.1)).filter fun e => was before e && !was s e && (s.dom e).hasAdmin
  (freed.foldl (fun s e => s.pitchEvent e evAdminReady) s).saturation

/-! ### Placement (R46, R47, R66 to R73) -/

/-- The structures an entry names, and its input. -/
def Entry.parts (e : Entry) : List DmaPart :=
  (if e.paramLen = 0 then [] else [.param]) ++ (if isList e.inWord then [.inList] else []) ++
    (if isList e.outLen then [.outList] else []) ++ (if e.approvalLen = 0 then [] else [.approvals]) ++
    (if e.inWord = 0 then [] else [.input])

/-- The reservation a command makes at placement (R69, R71): its first value, and the domain after it. -/
def Dom.reservation (D : Dom) (d : Nat) (e : Entry) : Except Fail (Option Nat × Dom) :=
  if e.reserveCount = 0 || inCatalogue e.opcode then .ok (none, D)
  else if !e.valid e.reserveSlot then .error (eUndeclaredAccess, e.reserveSlot)
  else
    let h := e.handle e.reserveSlot
    match D.reserve d h e.reserveCount with
    | some (v, D) => .ok (some v, D)
    | none => .error (eNonceExhausted, e.reserveSlot)

/-- The admission record of an entry at its placement, with the timestamp that R65 has it record. -/
def State.newCmd (s : State) (d q : Nat) (raw : Bytes) (seq : Nat) : Cmd :=
  let e := parseEntry raw
  let cond := s.sample d e
  let draws := match cond.cfGroup with | some (_, n, _) => n | none => 0
  { id := (s.dom d).placed, seq := seq, queue := q, raw := raw, entry := e, cond := cond
    cls := classOf e draws, toRead := e.parts, placedAt := s.now }

/-- Classes that take part in the digest chain (R77, R78). -/
def RepClass.chains : RepClass → Bool
  | .stateful | .reserve => true
  | _ => false

/-- A twinned primary whose SEQ_NEXT a warm reset has put at or below its last forwarded SEQ (R443). -/
def Dom.behindTwin (D : Dom) (seq : Nat) : Bool :=
  D.twin.role = .primary && seq ≤ (match D.twin.unacked.getLast? with | some r => max r.seq D.twin.acked | none => D.twin.acked)

/-- A command placed: its conditions, checks 5, 6 and 7 and its reservation. The reservation that placement refuses (R69, R71) is
reported ahead of checks 6 and 7, because the counter moves at the placement instant; the spec gives no order between them.
DESIGN CHOICE (log entry 59). -/
def State.placeOne (s : State) (d q : Nat) (raw : Bytes) (seq : Nat) : State :=
  let c := s.newCmd d q raw seq
  let e := c.entry
  let add := fun (D : Dom) (c : Cmd) => { D with placed := D.placed + 1, cmds := D.cmds ++ [c] }
  let s := if e.mgmt then s.journal .placement d seq raw else s
  if c.cls.chains && (s.dom d).behindTwin seq then s.setDom d fun D => add D { c.failWith (eTwinState, 0) with cls := .localOnly }
  else
  match firstFail [need (!isCustom e.opcode || c.cond.cfGroup.isSome) eOpcodeUndefined 0, check5 d e] with
  | some f => s.setDom d fun D => add D (c.failWith f)
  | none =>
    match (s.dom d).reservation d e with
    | .error f => s.setDom d fun D => add D (c.failWith f)
    | .ok (v, D) =>
      let c := { c with reserveStart := v }
      let c := match firstFail [check6 e, check7 e c.cond.windows] with
        | some f => c.failWith f
        | none => c
      s.setDom d fun _ => add D c

/-- The random calls of a command, from its block as read. -/
def Cmd.drawList (c : Cmd) : List Nat :=
  match c.cond.cfGroup with
  | some (_, n, _) => List.replicate n 48
  | none => if c.entry.mgmt then mgmtDraws c.entry.opcode c.param else opDraws c.entry.opcode c.param

/-- Whether a command could draw, before its block is read. -/
def Cmd.mayDraw (c : Cmd) : Bool :=
  match c.cond.cfGroup with
  | some (_, n, _) => n > 0
  | none => if c.entry.mgmt then mgmtMayDraw c.entry.opcode else opMayDraw c.entry.opcode

/-- Whether a command takes part in the chain, or could once its block is read. -/
def Cmd.mayChain (c : Cmd) : Bool :=
  c.cls.chains || (c.phase = .reading && !c.assigned && (c.mayDraw || c.entry.opcode = 0x1003))

/-- The class of a command once its block is read: SYM_CTR_ENCRYPT with CTR_SOURCE 1 is of class RESERVE (R77, Table 7-7),
which a twinned secondary refuses (R87). -/
def State.reclass (s : State) (d : Nat) (c : Cmd) : Cmd :=
  if c.phase = .reading && c.entry.opcode = 0x1003 && c.cls = .stateless && byteAt c.param 17 = 1 then
    if (s.dom d).twin.role = .secondary then c.failWith (eTwinSecondary, 0)
    else if (s.dom d).behindTwin c.seq then { c.failWith (eTwinState, 0) with cls := .localOnly }
    else { c with cls := .reserve }
  else c

/-- Checks 8 and 9 of a command once its structures are read. -/
def Cmd.entered (c : Cmd) : Cmd :=
  if c.phase != .reading || c.admitted || !(c.toRead.all fun p => p = .input) then c
  else
    match firstFail [check8 c, check9 c] with
    | some f => c.failWith f
    | none => { c with admitted := true }

/-- A TWIN_ESTABLISH whose reinstantiation of the DRBG is still to come: later calls wait for it (R84). -/
def Cmd.establishing (c : Cmd) : Bool :=
  c.entry.opcode = 0x0B02 && !c.done && !(c.phase = .computed && c.status != sOk)

/-- A command whose calls are still to be assigned: one that may draw and is not yet admitted, or a TWIN_ESTABLISH to come. Later
commands that draw wait for it; the others do not (R21, R72). -/
def Cmd.holdsCalls (c : Cmd) : Bool := c.establishing || (c.phase = .reading && !c.admitted && c.mayDraw)

/-- The end of placement in SEQ order (R65, R72): calls are assigned to each admitted command, behind no command that may
still draw; then the sampled conditions decide, and a command with nothing left to read is ready. The checks of a management command's
own entry wait for its approvals (R13, R163). -/
def State.settleList (s : State) (d : Nat) (hold : Bool) : List Cmd → State
  | [] => s
  | c :: cs =>
    let hold := hold || c.holdsCalls
    if c.phase != .reading || !c.admitted then s.settleList d hold cs
    else if !c.assigned && c.drawList != [] && (s.dom d).twin.role = .secondary then
      (s.setCmd d c.id fun c => c.failWith (eTwinSecondary, 0)).settleList d hold cs
    else if !c.assigned && c.drawList != [] && (s.dom d).behindTwin c.seq then
      (s.setCmd d c.id fun c => { c.failWith (eTwinState, 0) with cls := .localOnly }).settleList d hold cs
    else if hold && !c.assigned && c.drawList != [] then s.settleList d hold cs
    else
      let s := if c.assigned then s
        else (s.assign d c.id c.drawList (opPredicts c.entry.opcode c.param)).setCmd d c.id fun c => { c with assigned := true }
      let s := if c.assigned || c.drawList = [] then s else s.setCmd d c.id fun c => { c with cls := .stateful }
      let s := match firstFail [conditionFail d c, if c.entry.mgmt then none else entryZero c.raw] with
        | some f => s.setCmd d c.id fun c => c.failWith f
        | none => s.setCmd d c.id fun c => if c.toRead = [] then { c with phase := .ready } else c
      s.settleList d hold cs

def State.settle (s : State) (d : Nat) : State :=
  let s := s.setDom d fun D => { D with cmds := D.cmds.map Cmd.entered }
  ((s.settleList d false (s.dom d).cmds).draw d).noteReady d

/-- The waiting entry with a SEQ; one to be fetched again is not known by its SEQ. -/
def Dom.waits (D : Dom) (seq : Nat) : Option Waiting := D.waiting.find? fun w => w.entry.seq = seq && !w.again

/-- Placement pauses on an ATTACHED primary for lag (R86), and behind a TWIN_DEMOTE (R90). A DETACHED primary serves (Table 3-6). -/
def Dom.paused (D : Dom) : Bool :=
  D.twin.mode = .attached && D.twin.role = .primary &&
    (D.twin.lagPaused || D.cmds.any fun c => c.entry.opcode = 0x0B06 && !c.done && !(c.phase = .computed && c.status != sOk))

/-- Waiting entries that now follow without a gap, placed (R46). -/
def State.placeWaiting (s : State) (d : Nat) : Nat → State
  | 0 => s
  | n + 1 =>
    if (s.dom d).paused then s
    else match (s.dom d).waits (s.dom d).seqNext with
    | none => s
    | some w =>
      let seq := w.entry.seq
      let s := s.placeOne d w.queue w.raw seq
      let s := s.setDom d fun D => { D with seqNext := seq + 1, waiting := D.waiting.filter fun x => x.entry.seq != seq || x.again }
      s.placeWaiting d n

/-- Placement goes on where nothing pauses it: no lag, and no staged instant in a gap (R358). -/
def State.resumePlacement (s : State) (d : Nat) : State :=
  if (s.dom d).paused || s.guy.due.isSome then s
  else
    let n := (s.dom d).seqNext
    let s := s.placeWaiting d (s.dom d).waiting.length
    if (s.dom d).seqNext = n then s else (s.gapTimer d true).settle d

/-- An entry placed at SEQ_NEXT, and every waiting entry that then follows; a twinned secondary's host commands are
placed without advancing it (R46, R87). A SEQ_AUTO entry is placed at SEQ_NEXT even where that is 2^64 - 1: SEQ_NEXT then counts 2^64,
no further entry with a SEQ of its own can be placed, and the register reads 0. The spec says that SEQ never wraps and no more (R46, R47).
DESIGN CHOICE (log entry 60). -/
def State.place (s : State) (d q : Nat) (raw : Bytes) : State :=
  let seq := (s.dom d).seqNext
  let s := s.placeOne d q raw seq
  let s := if (s.dom d).twin.role = .secondary then s
    else (s.setDom d fun D => { D with seqNext := seq + 1 }).placeWaiting d (s.dom d).waiting.length
  (s.gapTimer d true).settle d

end Sys2Proof.Machine
end

