-- ==== Sys2Proof/Machine/Link.lean ====
section
/-!
DEFINITION. Sys2Proof/Machine/Link.lean: the frames of the twin link (R464, R466, R467) and the form the model gives to
the twin records they carry (R85; log entry 24).
-/

namespace Sys2Proof.Machine

/-! ### Frames (R464 Table 20-6) -/

def frameHead (type len epoch no : Nat) : Bytes := leBytes 1 type ++ [0] ++ leBytes 2 len ++ leBytes 4 epoch ++ leBytes 8 no

/-- The first counter block of a frame (R466). -/
def frameCounter (fromInitiator : Bool) (epoch no : Nat) : Bytes :=
  leBytes 1 (if fromInitiator then 1 else 2) ++ beBytes 3 epoch ++ beBytes 8 no ++ beBytes 4 1

/-- The encryption and authentication keys of a direction, of the four of a session (R465). -/
def directionKeys (keys : List Bytes) (fromInitiator : Bool) : Bytes × Bytes :=
  if fromInitiator then (keys.getD 0 [], keys.getD 1 []) else (keys.getD 2 [], keys.getD 3 [])

/-- A frame encrypted and then authenticated (R466). -/
def sealFrame (keys : List Bytes) (fromInitiator : Bool) (type epoch no : Nat) (payload : Bytes) : Bytes :=
  let (ke, ka) := directionKeys keys fromInitiator
  let m := frameHead type payload.length epoch no ++ ctrMode (aes ke) 4 (frameCounter fromInitiator epoch no) payload
  m ++ cmac (aes ka) m

/-- A frame of epoch 0 (R464). -/
def plainFrame (type no : Nat) (payload : Bytes) : Bytes :=
  let m := frameHead type payload.length 0 no ++ payload
  m ++ leBytes 4 (crc32 m) ++ zeros 12

/-- A received frame's fields. -/
structure Frame where
  type : Nat
  epoch : Nat
  no : Nat
  body : Bytes
  tag : Bytes

def parseFrame (b : Bytes) : Option Frame :=
  let n := field b 2 2
  if b.length = 32 + n && n ≤ 8192 then
    some { type := byteAt b 0, epoch := field b 4 4, no := field b 8 8, body := slice b 16 n, tag := slice b (16 + n) 16 }
  else none

/-- The payload of a frame whose tag holds. -/
def Frame.open (f : Frame) (keys : List Bytes) (fromInitiator : Bool) : Option Bytes :=
  let (ke, ka) := directionKeys keys fromInitiator
  if keys != [] && cmac (aes ka) (frameHead f.type f.body.length f.epoch f.no ++ f.body) = f.tag then
    some (ctrMode (aes ke) 4 (frameCounter fromInitiator f.epoch f.no) f.body)
  else none

/-- The payload of an epoch 0 frame whose CRC holds. -/
def Frame.plain (f : Frame) : Option Bytes :=
  let m := frameHead f.type f.body.length 0 f.no ++ f.body
  if f.epoch = 0 && f.tag = leBytes 4 (crc32 m) ++ zeros 12 then some f.body else none

/-! ### Sending (R467) -/

def TwinLink.buffered (l : TwinLink) : Nat := (l.unacked.map fun f => f.2.length).sum

/-- A frame sent on the session, or held while the buffer is full. -/
def State.sendFrame (s : State) (type : Nat) (payload : Bytes) : State :=
  let l := s.link
  if l.mode != .secure && type != 3 then s
  else if l.buffered + payload.length + 32 > 4194304 then
    { s with link := { l with queued := l.queued ++ [leBytes 1 type ++ payload] } }
  else
    let f := sealFrame l.keys l.initiator type l.epoch l.txNo payload
    ({ s with link := { l with txNo := l.txNo + 1, unacked := l.unacked ++ [(l.txNo, f)], lastSent := s.now } }).putRaw (.frame f)

/-- Held frames sent as far as the buffer takes them. -/
def State.sendQueued (s : State) : List Bytes → State
  | [] => s
  | m :: ms => (s.sendFrame (byteAt m 0) (m.drop 1)).sendQueued ms

def State.flushQueued (s : State) : State :=
  let q := s.link.queued
  ({ s with link := { s.link with queued := [] } }).sendQueued q

/-- A twin message sent in RECORD frames: each payload is a byte that is 1 on the last piece, then up to 8,191 bytes. -/
def State.sendMessage (s : State) (m : Bytes) : State :=
  let ps := chunks 8191 m
  (ps.zipIdx).foldl (fun s p => s.sendFrame 4 (leBytes 1 (b2n (p.2 + 1 = ps.length)) ++ p.1)) s

/-! ### The state of the link (R463, R465) -/

/-- Trail code of a change of the twin link session (log entry 22). -/
def codeSession : Nat := 0x1602

/-- A change into or out of SECURE: a trail entry that names the peer serial, and the chip event (R465). -/
def State.sessionChange (s : State) (severity : Nat) : State :=
  (s.log codeSession (originOf 0 0) severity (slice s.link.peerSerial 0 16)).raise 0x19D

/-- The link returns to TRAINING: its session ends. -/
def State.retrain (s : State) (mode : LinkMode) : State :=
  let was := s.link.mode
  let l := s.link
  let s := { s with link := { l with mode := mode, epoch := 0, keys := [], oldKeys := [], txNo := 1, rxNo := 1, unacked := []
                                     queued := [], rxPart := [], helloIn := false, confirmOut := false, transcript := [], kemKey := []
                                     tagFails := [] } }
  if was = .secure then s.sessionChange warning else s

/-- A frame that is dropped and counted (R466). -/
def State.dropFrame (s : State) : State := { s with link := { s.link with dropped := s.link.dropped + 1 } }

/-- A tag failure: sixteen within 1 s end the session (R466). -/
def State.tagFail (s : State) : State :=
  let t := (s.link.tagFails.filter fun t => s.now < t + 1000000000) ++ [s.now]
  let s := ({ s with link := { s.link with tagFails := t } }).dropFrame
  if t.length ≥ 16 then (s.sendFrame 8 []).retrain .training else s

/-- A received frame of the session: its type and payload where it is accepted (R466, R467). -/
def State.acceptFrame (s : State) (bytes : Bytes) : Option (Nat × Bytes) × State :=
  let l := s.link
  match parseFrame bytes with
  | none => (none, s.dropFrame)
  | some f =>
    let current := f.epoch = l.epoch
    let old := l.oldKeys != [] && f.epoch + 1 = l.epoch
    if l.mode = .down || l.mode = .training || f.epoch = 0 || !(current || old) then (none, s.dropFrame)
    else
      match f.open (if current then l.keys else l.oldKeys) (!l.initiator) with
      | none => (none, s.tagFail)
      | some p =>
        let expected := if current && l.oldKeys != [] then 1 else l.rxNo
        if f.no != expected then (none, s.dropFrame)
        else
          (some (f.type, p), { s with link := { l with rxNo := expected + 1, oldKeys := if current then [] else l.oldKeys, lastFrame := s.now
                                                       unacked := if current then l.unacked.filter fun u => field u.2 4 4 = l.epoch else l.unacked } })

/-! ### Twin records (R85; the form is the model's, log entry 24) -/

/-- A byte string with its length. -/
def counted (b : Bytes) : Bytes := leBytes 4 b.length ++ b

/-- The counted byte string at an offset, and the offset after it. -/
def countedAt (b : Bytes) (o : Nat) : Bytes × Nat := (slice b (o + 4) (field b o 4), o + 4 + field b o 4)

/-- Canonical input item 1 (R79). -/
def Cmd.canonicalEntry (c : Cmd) : Bytes :=
  let e := slice c.raw 0 64
  let e := overlay e 2 (leBytes 2 (c.entry.flags % 512))
  let e := overlay e 8 (leBytes 8 c.seq)
  let e := [19, 23, 27, 31].foldl (fun e o => overlay e o [0]) e
  overlay (overlay e 32 (zeros 8)) 48 (zeros 16)

/-- The reservation start, 12 bytes. -/
def Cmd.reserveBytes (c : Cmd) : Bytes := leBytes 12 (c.reserveStart.getD 0)

/-- Canonical input items 1 to 4. -/
def Cmd.inputs4 (c : Cmd) : Bytes :=
  c.canonicalEntry ++ leBytes 8 c.cond.stamp ++ c.reserveBytes ++ leBytes 8 c.firstCall

/-- The pitch byte of an attribute record's handle, in the commands that carry one (R128, R79).
DEDUCED: no chapter marks it by that word (log entry 5). -/
def pitchByteFields (code : Nat) : List (Nat × Nat) :=
  if [0x0401, 0x0402, 0x0403, 0x0406].contains code then [(3, 1)] else if code = 0x1902 then [(35, 1)] else []

/-- Canonical input item 6 (R79). -/
def Cmd.canonicalParam (c : Cmd) : Bytes :=
  zeroFields c.param (addressFields c.entry.opcode ++ pitchByteFields c.entry.opcode)

/-- Canonical input item 5 (R79): the digest of a custom opcode's bound image. -/
def Cmd.imageItem (c : Cmd) : Bytes := match c.cond.cfImage with | some i => sha384 i | none => []

/-- The canonical inputs (R79). -/
def Cmd.canonicalInputs (c : Cmd) : Bytes := c.inputs4 ++ c.imageItem ++ c.canonicalParam ++ c.approvals ++ c.input

/-- Whether a command links as a RESERVE command: of that class, or cut off (R27, R108). -/
def Cmd.reserveLink (c : Cmd) : Bool := c.aborted || c.cls = .reserve

/-- The key value a STATE record carries: of keys that came from transport-wrapped components (R85). -/
def Cmd.carriedKey (c : Cmd) : Bytes := if c.status = sOk || c.status = eKeyCheck then c.twinKey.getD [] else []

/-- A command that the check of its own entry has failed: what it judges, the record zeroes (R13, R79). -/
def Cmd.failedEntry (c : Cmd) : Bool := match entryZero c.raw with | some f => c.status = f.1 && c.detail = f.2 | none => false

/-- The additional input of the calls of a command that is cut off. -/
def Cmd.cutInput (c : Cmd) : Bytes := if c.draws = [] then [] else c.additional

/-- The record of a command with its chain link digest, and the instantiation that precedes its calls (R241), if any. -/
def Cmd.record (c : Cmd) (digest start : Bytes) : Bytes :=
  leBytes 1 (if c.reserveLink then 1 else if c.failedEntry then 2 else 0) ++ slice digest 0 48 ++ c.inputs4 ++ leBytes 2 c.status ++ counted (c.draws.flatMap (leBytes 4)) ++
    counted (c.seedUsed.getD (c.reseed.getD [])) ++ counted start ++
    (if c.reserveLink then counted c.cutInput else counted c.imageItem ++ counted c.canonicalParam ++ counted c.approvals ++ counted c.input ++ counted c.carriedKey ++ leBytes 4 c.outSpace)

/-- Whether a record's command draws random calls. -/
def recordDraws (body : Bytes) : Bool := field body 143 4 != 0

end Sys2Proof.Machine
end

