-- ==== Sys2Proof/Machine/Curves.lean ====
section
/-!
DEFINITION. Sys2Proof/Machine/Curves.lean: arithmetic modulo a number and on the elliptic curves of Table 5-5, with
ECDSA, EdDSA and the X functions over them. PRESUMED from FIPS 186-5, SP 800-186, RFC 7748 and RFC 8032, which the
spec names (log entry 6).
-/

namespace Sys2Proof.Machine

/-- Modular power by squaring over the bits of the exponent, `fuel` of them. -/
def powModFuel (m : Nat) : Nat → Nat → Nat → Nat
  | 0, _, _ => 1 % m
  | f + 1, b, e =>
    if e = 0 then 1 % m
    else
      let r := powModFuel m f (b * b % m) (e / 2)
      if e % 2 = 1 then r * b % m else r

def powMod (b e m : Nat) : Nat := powModFuel m (e.log2 + 1) (b % m) e

/-- The inverse modulo a prime. -/
def invPrime (a p : Nat) : Nat := powMod a (p - 2) p

/-- Subtraction modulo a number. -/
def subMod (a b m : Nat) : Nat := (a + (m - b % m)) % m

/-- One step of the extended algorithm of Euclid; `fuel` bounds the steps. -/
def egcd : Nat → Int → Int → Int → Int → Int × Int
  | 0, r0, _, s0, _ => (r0, s0)
  | f + 1, r0, r1, s0, s1 => if r1 = 0 then (r0, s0) else egcd f r1 (r0 - r0 / r1 * r1) s1 (s0 - r0 / r1 * s1)

/-- The inverse of `a` modulo `m`, where there is one. -/
def invMod (a m : Nat) : Option Nat :=
  let (g, x) := egcd (2 * (m.log2 + 2)) (a % m : Nat) m 1 0
  if g = 1 then some (x.emod m).toNat else none

/-- A short Weierstrass curve of prime order with a = -3. -/
structure Curve where
  p : Nat
  b : Nat
  gx : Nat
  gy : Nat
  n : Nat
  bytes : Nat

def curveP256 : Curve where
  p := 0xffffffff00000001000000000000000000000000ffffffffffffffffffffffff
  b := 0x5ac635d8aa3a93e7b3ebbd55769886bc651d06b0cc53b0f63bce3c3e27d2604b
  gx := 0x6b17d1f2e12c4247f8bce6e563a440f277037d812deb33a0f4a13945d898c296
  gy := 0x4fe342e2fe1a7f9b8ee7eb4a7c0f9e162bce33576b315ececbb6406837bf51f5
  n := 0xffffffff00000000ffffffffffffffffbce6faada7179e84f3b9cac2fc632551
  bytes := 32

def curveP384 : Curve where
  p := 0xfffffffffffffffffffffffffffffffffffffffffffffffffffffffffffffffeffffffff0000000000000000ffffffff
  b := 0xb3312fa7e23ee7e4988e056be3f82d19181d9c6efe8141120314088f5013875ac656398d8a2ed19d2a85c8edd3ec2aef
  gx := 0xaa87ca22be8b05378eb1c71ef320ad746e1d3b628ba79b9859f741e082542a385502f25dbf55296c3a545e3872760ab7
  gy := 0x3617de4a96262c6f5d9e98bf9292dc29f8f41dbd289a147ce9da3113b5f0b8c00a60b1ce1d7e819d7a431d7c90ea0e5f
  n := 0xffffffffffffffffffffffffffffffffffffffffffffffffc7634d81f4372ddf581a0db248b0a77aecec196accc52973
  bytes := 48

def curveP521 : Curve where
  p := 2 ^ 521 - 1
  b := 0x051953eb9618e1c9a1f929a21a0b68540eea2da725b99b315f3b8b489918ef109e156193951ec7e937b1652c0bd3bb1bf073573df883d2c34f1ef451fd46b503f00
  gx := 0x0c6858e06b70404e9cd9e3ecb662395b4429c648139053fb521f828af606b4d3dbaa14b5e77efe75928fe1dc127a2ffa8de3348b3c1856a429bf97e7e31c2e5bd66
  gy := 0x11839296a789a3bc0045c8a5fb42c7d1bd998f54449579b446817afbd17273e662c97ee72995ef42640c550b9013fad0761353c7086a272c24088be94769fd16650
  n := 0x1fffffffffffffffffffffffffffffffffffffffffffffffffffffffffffffffffa51868783bf2f966b7fcc0148f709a5d03bb5c9b8899c47aebb6fb71e91386409
  bytes := 66

/-- A point of a curve in affine coordinates; none is the point at infinity. -/
abbrev Point := Option (Nat × Nat)

def Curve.on (c : Curve) (x y : Nat) : Bool :=
  x < c.p && y < c.p && (y * y) % c.p == (x * x % c.p * x + (c.p - 3) * x + c.b) % c.p

def Curve.add (c : Curve) (u v : Point) : Point :=
  match u, v with
  | none, v => v
  | u, none => u
  | some (x1, y1), some (x2, y2) =>
    if x1 = x2 && (y1 + y2) % c.p = 0 then none
    else
      let l := if x1 = x2 then (3 * x1 * x1 + (c.p - 3)) % c.p * invPrime (2 * y1 % c.p) c.p % c.p
        else subMod y2 y1 c.p * invPrime (subMod x2 x1 c.p) c.p % c.p
      let x3 := subMod (l * l) (x1 + x2) c.p
      some (x3, subMod (l * subMod x1 x3 c.p) y1 c.p)

/-- A multiple of a point, by doubling over the bits of the scalar from the lowest. -/
def Curve.mulFuel (c : Curve) : Nat → Nat → Point → Point → Point
  | 0, _, _, acc => acc
  | f + 1, k, q, acc =>
    if k = 0 then acc else c.mulFuel f (k / 2) (c.add q q) (if k % 2 = 1 then c.add acc q else acc)

def Curve.mul (c : Curve) (k : Nat) (q : Point) : Point := c.mulFuel (k.log2 + 1) k q none

def Curve.base (c : Curve) : Point := some (c.gx, c.gy)

/-- The uncompressed SEC1 encoding of a point. -/
def Curve.encode (c : Curve) (q : Point) : Bytes :=
  match q with
  | some (x, y) => 0x04 :: beBytes c.bytes x ++ beBytes c.bytes y
  | none => [0]

/-- The point of an uncompressed SEC1 encoding that lies on the curve. -/
def Curve.decode (c : Curve) (bs : Bytes) : Point :=
  let x := beNat (slice bs 1 c.bytes)
  let y := beNat (slice bs (1 + c.bytes) c.bytes)
  if bs.length = 1 + 2 * c.bytes && bs.headD 0 = 0x04 && c.on x y then some (x, y) else none

/-- The integer of a digest, its leftmost bits where it is longer than the order (FIPS 186-5). -/
def Curve.hashInt (c : Curve) (digest : Bytes) : Nat :=
  beNat digest >>> (8 * digest.length - (c.n.log2 + 1))

/-- ECDSA with a given per-message number; none where it gives r or s of 0. -/
def Curve.sign (c : Curve) (d k : Nat) (digest : Bytes) : Option Bytes :=
  match c.mul k c.base with
  | none => none
  | some (x, _) =>
    let r := x % c.n
    let s := invPrime k c.n * (c.hashInt digest + r * d) % c.n
    if r = 0 || s = 0 then none else some (beBytes c.bytes r ++ beBytes c.bytes s)

/-- ECDSA verification of r ‖ s under a public point. -/
def Curve.verify (c : Curve) (q : Point) (digest sig : Bytes) : Bool :=
  let r := beNat (slice sig 0 c.bytes)
  let s := beNat (slice sig c.bytes c.bytes)
  if sig.length != 2 * c.bytes || r = 0 || s = 0 || r ≥ c.n || s ≥ c.n || q.isNone then false
  else
    let w := invPrime s c.n
    match c.add (c.mul (c.hashInt digest * w % c.n) c.base) (c.mul (r * w % c.n) q) with
    | some (x, _) => x % c.n == r
    | none => false

/-- The Montgomery ladder of RFC 7748 on `bits` bits. -/
def ladder (p a24 bits k u : Nat) : Nat :=
  let st := (List.range bits).foldl (fun (st : Nat × Nat × Nat × Nat) i =>
    let b := k.testBit (bits - 1 - i)
    let (x2, z2, x3, z3) := st
    let (x2, z2, x3, z3) := if b then (x3, z3, x2, z2) else (x2, z2, x3, z3)
    let aa := (x2 + z2) * (x2 + z2) % p
    let bb := subMod x2 z2 p * subMod x2 z2 p % p
    let e := subMod aa bb p
    let da := subMod x3 z3 p * (x2 + z2) % p
    let cb := (x3 + z3) * subMod x2 z2 p % p
    let x3' := (da + cb) * (da + cb) % p
    let z3' := u * (subMod da cb p * subMod da cb p % p) % p
    let x2' := aa * bb % p
    let z2' := e * (aa + a24 * e) % p
    if b then (x3', z3', x2', z2') else (x2', z2', x3', z3')) (1, 0, u, 1)
  st.1 * invPrime st.2.1 p % p

def p25519 : Nat := 2 ^ 255 - 19

def p448 : Nat := 2 ^ 448 - 2 ^ 224 - 1

/-- X25519 of RFC 7748. -/
def x25519 (k u : Bytes) : Bytes :=
  let kn := leNat k
  leBytes 32 (ladder p25519 121665 255 (kn % 2 ^ 255 / 8 * 8 % 2 ^ 254 + 2 ^ 254) (leNat u % 2 ^ 255 % p25519))

/-- X448 of RFC 7748. -/
def x448 (k u : Bytes) : Bytes :=
  let kn := leNat k
  leBytes 56 (ladder p448 39081 448 (kn % 2 ^ 448 / 4 * 4 % 2 ^ 447 + 2 ^ 447) (leNat u % p448))

/-- An Edwards curve a x² + y² = 1 + d x² y² with a of 1 or p - 1. -/
structure Edwards where
  p : Nat
  a : Nat
  d : Nat
  gx : Nat
  gy : Nat
  n : Nat
  bytes : Nat

def ed25519 : Edwards where
  p := p25519
  a := p25519 - 1
  d := 37095705934669439343138083508754565189542113879843219016388785533085940283555
  gx := 15112221349535400772501151409588531511454012693041857206046113283949847762202
  gy := 46316835694926478169428394003475163141307993866256225615783033603165251855960
  n := 2 ^ 252 + 27742317777372353535851937790883648493
  bytes := 32

def ed448 : Edwards where
  p := p448
  a := 1
  d := p448 - 39081
  gx := 224580040295924300187604334099896036246789641632564134246125461686950415467406032909029192869357953282578032075146446173674602635247710
  gy := 298819210078481492676017930443930673437544040154080242095928241372331506189835876003536878655418784733982303233503462500531545062832660
  n := 2 ^ 446 - 13818066809895115352007386748515426880336692474882178609894547503885
  bytes := 57

def Edwards.add (c : Edwards) (u v : Nat × Nat) : Nat × Nat :=
  let t := c.d * (u.1 * v.1 % c.p) % c.p * (u.2 * v.2 % c.p) % c.p
  (((u.1 * v.2 + v.1 * u.2) % c.p) * invPrime ((1 + t) % c.p) c.p % c.p,
   subMod (u.2 * v.2) (c.a * (u.1 * v.1 % c.p)) c.p * invPrime (subMod 1 t c.p) c.p % c.p)

def Edwards.mulFuel (c : Edwards) : Nat → Nat → Nat × Nat → Nat × Nat → Nat × Nat
  | 0, _, _, acc => acc
  | f + 1, k, q, acc =>
    if k = 0 then acc else c.mulFuel f (k / 2) (c.add q q) (if k % 2 = 1 then c.add acc q else acc)

def Edwards.mul (c : Edwards) (k : Nat) (q : Nat × Nat) : Nat × Nat := c.mulFuel (k.log2 + 1) k q (0, 1)

/-- The encoding of a point: y with the sign of x in the last bit (RFC 8032). -/
def Edwards.encode (c : Edwards) (q : Nat × Nat) : Bytes := leBytes c.bytes (q.2 + (q.1 % 2) * 2 ^ (8 * c.bytes - 1))

/-- A square root modulo a prime that is 3 modulo 4 or 5 modulo 8, where there is one. -/
def sqrtMod (v p : Nat) : Option Nat :=
  let r := if p % 4 = 3 then powMod v ((p + 1) / 4) p
    else
      let r := powMod v ((p + 3) / 8) p
      if r * r % p = v % p then r else r * powMod 2 ((p - 1) / 4) p % p
  if r * r % p = v % p then some r else none

/-- The point of an encoding (RFC 8032). -/
def Edwards.decode (c : Edwards) (bs : Bytes) : Option (Nat × Nat) :=
  let v := leNat bs
  let sign := v / 2 ^ (8 * c.bytes - 1)
  let y := v % 2 ^ (8 * c.bytes - 1)
  if bs.length != c.bytes || y ≥ c.p then none
  else
    let x2 := subMod (y * y) 1 c.p * invPrime (subMod (c.d * (y * y % c.p)) c.a c.p) c.p % c.p
    match sqrtMod x2 c.p with
    | none => none
    | some x =>
      if x = 0 && sign = 1 then none
      else some (if x % 2 = sign then x else c.p - x, y)

/-- The hash of an EdDSA scheme over the parts after its prefix under a context (RFC 8032); Ed25519 takes none. -/
def Edwards.hash (c : Edwards) (ctx m : Bytes) : Nat :=
  if c.bytes = 32 then leNat (sha512 m)
  else leNat (shake256 (ascii "SigEd448" ++ [0] ++ leBytes 1 ctx.length ++ ctx ++ m) 114)

/-- The scalar and the prefix of a private key (RFC 8032). -/
def Edwards.expand (c : Edwards) (key : Bytes) : Nat × Bytes :=
  if c.bytes = 32 then
    let h := sha512 key
    (leNat (h.take 32) % 2 ^ 254 / 8 * 8 + 2 ^ 254, h.drop 32)
  else
    let h := shake256 key 114
    (leNat (h.take 56) / 4 * 4 % 2 ^ 447 + 2 ^ 447, h.drop 57)

def Edwards.public (c : Edwards) (key : Bytes) : Bytes := c.encode (c.mul (c.expand key).1 (c.gx, c.gy))

def Edwards.sign (c : Edwards) (ctx key m : Bytes) : Bytes :=
  let (a, pre) := c.expand key
  let r := c.hash ctx (pre ++ m) % c.n
  let rb := c.encode (c.mul r (c.gx, c.gy))
  let k := c.hash ctx (rb ++ c.public key ++ m) % c.n
  rb ++ leBytes c.bytes ((r + k * a) % c.n)

def Edwards.verify (c : Edwards) (ctx pub m sig : Bytes) : Bool :=
  let s := leNat (slice sig c.bytes c.bytes)
  match c.decode pub, c.decode (sig.take c.bytes) with
  | some q, some r =>
    sig.length == 2 * c.bytes && s < c.n &&
      c.mul s (c.gx, c.gy) == c.add r (c.mul (c.hash ctx (sig.take c.bytes ++ pub ++ m) % c.n) q)
  | _, _ => false

end Sys2Proof.Machine
end

