-- ==== Sys2Proof/Machine/Lattice.lean ====
section
/-!
DEFINITION. Sys2Proof/Machine/Lattice.lean: ML-KEM and ML-DSA. PRESUMED from FIPS 203 and FIPS 204, which the spec
names (log entry 6). Rejection sampling reads a bounded stretch of its stream (log entry 6).
-/

namespace Sys2Proof.Machine

/-- A polynomial of 256 coefficients modulo a prime. -/
abbrev Poly := List Nat

/-- The low `n` bits of `v` in reverse order. -/
def bitRev (n v : Nat) : Nat := (List.range n).foldl (fun a i => 2 * a + b2n (v.testBit i)) 0

/-- Parameters of a number-theoretic transform: modulus, root, bits of the root's index, levels. -/
structure NttForm where
  q : Nat
  root : Nat
  order : Nat
  bits : Nat

def kemNtt : NttForm := ⟨3329, 17, 256, 7⟩

def dsaNtt : NttForm := ⟨8380417, 1753, 512, 8⟩

def NttForm.zeta (t : NttForm) (k : Nat) : Nat := powMod t.root (bitRev t.bits k) t.q

/-- The transform, level by level; `k` numbers the block of a level. -/
def NttForm.fwd (t : NttForm) : Nat → Nat → Poly → Poly
  | 0, _, f => f
  | l + 1, k, f =>
    let h := f.length / 2
    let z := t.zeta k
    let b := (f.drop h).map fun x => x * z % t.q
    t.fwd l (2 * k) (List.zipWith (fun x y => (x + y) % t.q) (f.take h) b) ++
      t.fwd l (2 * k + 1) (List.zipWith (fun x y => subMod x y t.q) (f.take h) b)

def NttForm.bwd (t : NttForm) : Nat → Nat → Poly → Poly
  | 0, _, f => f
  | l + 1, k, f =>
    let h := f.length / 2
    let a := t.bwd l (2 * k) (f.take h)
    let b := t.bwd l (2 * k + 1) (f.drop h)
    let z := powMod t.root (t.order - bitRev t.bits k) t.q
    List.zipWith (fun x y => (x + y) % t.q) a b ++ List.zipWith (fun x y => subMod x y t.q * z % t.q) a b

def NttForm.ntt (t : NttForm) (f : Poly) : Poly := t.fwd t.bits 1 f

def NttForm.inv (t : NttForm) (f : Poly) : Poly :=
  let n := invPrime (2 ^ t.bits) t.q
  (t.bwd t.bits 1 f).map fun x => x * n % t.q

def addPoly (q : Nat) (a b : Poly) : Poly := List.zipWith (fun x y => (x + y) % q) a b

def subPoly (q : Nat) (a b : Poly) : Poly := List.zipWith (fun x y => subMod x y q) a b

def zeroPoly : Poly := List.replicate 256 0

/-- Coefficients of `d` bits each from a byte string, least significant bit first. -/
def unpackBits (d : Nat) (bs : Bytes) : Poly :=
  let v := leNat bs
  (List.range (8 * bs.length / d)).map fun i => v / 2 ^ (d * i) % 2 ^ d

/-- Coefficients packed in `d` bits each. -/
def packBits (d : Nat) (f : Poly) : Bytes :=
  leBytes (d * f.length / 8) (f.foldr (fun x a => a * 2 ^ d + x % 2 ^ d) 0)

/-! ### ML-KEM (FIPS 203) -/

/-- The parameter sets of ML-KEM. -/
structure KemForm where
  k : Nat
  eta1 : Nat
  du : Nat
  dv : Nat

def kemForm (set : Nat) : KemForm :=
  if set = 512 then ⟨2, 3, 10, 4⟩ else if set = 768 then ⟨3, 2, 10, 4⟩ else ⟨4, 2, 11, 5⟩

/-- Products of degree-one residues, pair by pair. -/
def kemMul (a b : Poly) : Poly :=
  ((pairs 128 a).zip (pairs 128 b)).zipIdx.flatMap fun ((x, y), i) =>
    let g := powMod 17 (2 * bitRev 7 i + 1) 3329
    [(x.1 * y.1 + x.2 * y.2 % 3329 * g) % 3329, (x.1 * y.2 + x.2 * y.1) % 3329]
where
  /-- The coefficients two by two. -/
  pairs : Nat → Poly → List (Nat × Nat)
    | 0, _ => []
    | n + 1, x :: y :: r => (x, y) :: pairs n r
    | _ + 1, _ => []

/-- Candidates of 12 bits below q from three bytes each. -/
def kemReject : Nat → Bytes → Poly
  | 0, _ => []
  | n + 1, a :: b :: c :: r =>
    let d1 := a.toNat + 256 * (b.toNat % 16)
    let d2 := b.toNat / 16 + 16 * c.toNat
    (if d1 < 3329 then [d1] else []) ++ (if d2 < 3329 then [d2] else []) ++ kemReject n r
  | _ + 1, _ => []

def kemSample (seed : Bytes) : Poly := (kemReject 448 (shake128 seed 1344)).take 256

/-- The centred binomial distribution. -/
def kemCbd (eta : Nat) (bs : Bytes) : Poly :=
  let b := unpackBits 1 bs
  (pieceSums eta 256 b)
where
  /-- Differences of sums of `eta` bits. -/
  pieceSums (eta : Nat) : Nat → Poly → Poly
    | 0, _ => []
    | n + 1, l => subMod (l.take eta).sum ((l.drop eta).take eta).sum 3329 :: pieceSums eta n (l.drop (2 * eta))

def kemPrf (eta : Nat) (s : Bytes) (n : Nat) : Poly := kemCbd eta (shake256 (s ++ leBytes 1 n) (64 * eta))

/-- Entry (i, j) of the matrix. -/
def kemMatrix (rho : Bytes) (i j : Nat) : Poly := kemSample (rho ++ leBytes 1 j ++ leBytes 1 i)

def kemCompress (d x : Nat) : Nat := (x * 2 ^ d + 1664) / 3329 % 2 ^ d

def kemDecompress (d y : Nat) : Nat := (3329 * y + 2 ^ (d - 1)) / 2 ^ d

/-- Inner product in the transform domain. -/
def kemDot (a b : List Poly) : Poly := (List.zipWith kemMul a b).foldl (addPoly 3329) zeroPoly

/-- Key generation from d and z: encapsulation key and decapsulation key. -/
def kemKeyGen (set : Nat) (d z : Bytes) : Bytes × Bytes :=
  let f := kemForm set
  let g := sha3 64 (d ++ leBytes 1 f.k)
  let rho := g.take 32
  let sigma := g.drop 32
  let s := (List.range f.k).map fun i => kemNtt.ntt (kemPrf f.eta1 sigma i)
  let e := (List.range f.k).map fun i => kemNtt.ntt (kemPrf f.eta1 sigma (f.k + i))
  let t := e.zipIdx.map fun (ei, i) => addPoly 3329 (kemDot ((List.range f.k).map (kemMatrix rho i)) s) ei
  let ek := t.flatMap (packBits 12) ++ rho
  (ek, s.flatMap (packBits 12) ++ ek ++ sha3 32 ek ++ z)

/-- K-PKE encryption. -/
def kemEncrypt (set : Nat) (ek m r : Bytes) : Bytes :=
  let f := kemForm set
  let t := (chunks 384 (ek.take (384 * f.k))).map (unpackBits 12)
  let rho := ek.drop (384 * f.k)
  let y := (List.range f.k).map fun i => kemNtt.ntt (kemPrf f.eta1 r i)
  let u := (List.range f.k).map fun i =>
    addPoly 3329 (kemNtt.inv (kemDot ((List.range f.k).map fun j => kemMatrix rho j i) y)) (kemPrf 2 r (f.k + i))
  let mu := (unpackBits 1 m).map (kemDecompress 1)
  let v := addPoly 3329 (addPoly 3329 (kemNtt.inv (kemDot t y)) (kemPrf 2 r (2 * f.k))) mu
  (u.flatMap fun x => packBits f.du (x.map (kemCompress f.du))) ++ packBits f.dv (v.map (kemCompress f.dv))

/-- K-PKE decryption. -/
def kemDecrypt (set : Nat) (dk c : Bytes) : Bytes :=
  let f := kemForm set
  let u := (chunks (32 * f.du) (c.take (32 * f.du * f.k))).map fun b => (unpackBits f.du b).map (kemDecompress f.du)
  let v := (unpackBits f.dv (c.drop (32 * f.du * f.k))).map (kemDecompress f.dv)
  let s := (chunks 384 (dk.take (384 * f.k))).map (unpackBits 12)
  let w := subPoly 3329 v (kemNtt.inv (kemDot s (u.map kemNtt.ntt)))
  packBits 1 (w.map (kemCompress 1))

/-- Encapsulation with a given m: shared secret and ciphertext. -/
def kemEncaps (set : Nat) (ek m : Bytes) : Bytes × Bytes :=
  let g := sha3 64 (m ++ sha3 32 ek)
  (g.take 32, kemEncrypt set ek m (g.drop 32))

/-- Decapsulation with implicit rejection. -/
def kemDecaps (set : Nat) (dk c : Bytes) : Bytes :=
  let n := 384 * (kemForm set).k
  let ek := slice dk n (n + 32)
  let h := slice dk (2 * n + 32) 32
  let z := slice dk (2 * n + 64) 32
  let m := kemDecrypt set dk c
  let g := sha3 64 (m ++ h)
  if kemEncrypt set ek m (g.drop 32) = c then g.take 32 else shake256 (z ++ c) 32

def kemEkLen (set : Nat) : Nat := 384 * (kemForm set).k + 32

def kemCtLen (set : Nat) : Nat := 32 * ((kemForm set).du * (kemForm set).k + (kemForm set).dv)

/-- The modulus check on an encapsulation key. -/
def kemEkValid (set : Nat) (ek : Bytes) : Bool :=
  ek.length == kemEkLen set && (unpackBits 12 (ek.take (384 * (kemForm set).k))).all (· < 3329)

/-! ### ML-DSA (FIPS 204) -/

/-- The parameter sets of ML-DSA. -/
structure DsaForm where
  k : Nat
  l : Nat
  eta : Nat
  tau : Nat
  lam : Nat
  gam1 : Nat
  gam2 : Nat
  omega : Nat

def dsaQ : Nat := 8380417

def dsaForm (set : Nat) : DsaForm :=
  if set = 44 then ⟨4, 4, 2, 39, 128, 2 ^ 17, (dsaQ - 1) / 88, 80⟩
  else if set = 65 then ⟨6, 5, 4, 49, 192, 2 ^ 19, (dsaQ - 1) / 32, 55⟩
  else ⟨8, 7, 2, 60, 256, 2 ^ 19, (dsaQ - 1) / 32, 75⟩

def DsaForm.beta (f : DsaForm) : Nat := f.tau * f.eta

def dsaReject : Nat → Bytes → Poly
  | 0, _ => []
  | n + 1, a :: b :: c :: r =>
    let z := a.toNat + 256 * b.toNat + 65536 * (c.toNat % 128)
    (if z < dsaQ then [z] else []) ++ dsaReject n r
  | _ + 1, _ => []

/-- Entry (r, s) of the matrix. -/
def dsaMatrix (rho : Bytes) (r s : Nat) : Poly :=
  (dsaReject 392 (shake128 (rho ++ leBytes 1 s ++ leBytes 1 r) 1176)).take 256

def dsaBounded (eta : Nat) (seed : Bytes) : Poly :=
  let nib := (shake256 seed 1088).flatMap fun b => [b.toNat % 16, b.toNat / 16]
  (nib.filterMap fun z =>
    if eta = 2 then (if z < 15 then some (subMod 2 (z % 5) dsaQ) else none)
    else if z < 9 then some (subMod 4 z dsaQ) else none).take 256

/-- A coefficient taken to the range around zero. -/
def centre (q x : Nat) : Int := if x > q / 2 then (x : Int) - q else x

def normPoly (f : Poly) : Nat := f.foldl (fun a x => max a (centre dsaQ x).natAbs) 0

def dsaPower2Round (r : Nat) : Nat × Nat :=
  let r0 := r % 8192
  if r0 > 4096 then (r / 8192 + 1, subMod r0 8192 dsaQ) else (r / 8192, r0)

/-- High and low parts; the low part as an integer. -/
def dsaDecompose (g2 r : Nat) : Nat × Int :=
  let m := 2 * g2
  let r0 : Int := if r % m > g2 then (r % m : Int) - m else (r % m : Int)
  if (r : Int) - r0 = dsaQ - 1 then (0, r0 - 1) else (((r : Int) - r0) / m |>.toNat, r0)

def dsaUseHint (g2 : Nat) (h : Bool) (r : Nat) : Nat :=
  let m := (dsaQ - 1) / (2 * g2)
  let (r1, r0) := dsaDecompose g2 r
  if h then (if r0 > 0 then (r1 + 1) % m else (r1 + m - 1) % m) else r1

def dsaW1 (f : DsaForm) (w1 : List Poly) : Bytes := w1.flatMap (packBits (if f.gam2 = (dsaQ - 1) / 88 then 6 else 4))

/-- The challenge polynomial. -/
def dsaBall (f : DsaForm) (seed : Bytes) : Poly :=
  let st := shake256 seed 1360
  let h := leNat (st.take 8)
  (go h (256 - f.tau) f.tau (st.drop 8) zeroPoly)
where
  /-- Position `i`, with `n` positions and a stretch of bytes left. -/
  go (h i : Nat) : Nat → Bytes → Poly → Poly
    | 0, _, c => c
    | n + 1, bs, c =>
      let rest := bs.dropWhile fun b => b.toNat > i
      let j := (rest.headD 0).toNat
      let c := c.set i (c.getD j 0)
      go h (i + 1) n (rest.drop 1) (c.set j (if h.testBit (i + f.tau - 256) then dsaQ - 1 else 1))

def mulHat (a b : Poly) : Poly := List.zipWith (fun x y => x * y % dsaQ) a b

def dsaDot (a b : List Poly) : Poly := (List.zipWith mulHat a b).foldl (addPoly dsaQ) zeroPoly

/-- Key generation from a seed: public key and private key. -/
def dsaKeyGen (set : Nat) (xi : Bytes) : Bytes × Bytes :=
  let f := dsaForm set
  let e := shake256 (xi ++ leBytes 1 f.k ++ leBytes 1 f.l) 128
  let rho := e.take 32
  let rho' := slice e 32 64
  let key := slice e 96 32
  let s1 := (List.range f.l).map fun r => dsaBounded f.eta (rho' ++ leBytes 2 r)
  let s2 := (List.range f.k).map fun r => dsaBounded f.eta (rho' ++ leBytes 2 (f.l + r))
  let s1h := s1.map dsaNtt.ntt
  let t := s2.zipIdx.map fun (x, i) =>
    addPoly dsaQ (dsaNtt.inv (dsaDot ((List.range f.l).map (dsaMatrix rho i)) s1h)) x
  let pk := rho ++ t.flatMap fun p => packBits 10 (p.map fun r => (dsaPower2Round r).1)
  let eb := if f.eta = 2 then 3 else 4
  let small := fun (p : Poly) => packBits eb (p.map fun x => subMod f.eta x dsaQ)
  let t0 := t.flatMap fun p => packBits 13 (p.map fun r => subMod 4096 (dsaPower2Round r).2 dsaQ)
  (pk, rho ++ key ++ shake256 pk 64 ++ s1.flatMap small ++ s2.flatMap small ++ t0)

/-- Hint bits packed (FIPS 204 algorithm 20). -/
def dsaHintPack (f : DsaForm) (h : List (List Bool)) : Bytes :=
  let idx := h.map fun row => row.zipIdx.filterMap fun (b, j) => if b then some j else none
  let y := idx.flatMap id
  let ends := (List.range f.k).map fun i => ((idx.take (i + 1)).map List.length).sum
  (y ++ List.replicate (f.omega - y.length) 0 ++ ends).map fun v => BitVec.ofNat 8 v

/-- Hint bits unpacked, with the checks of FIPS 204 algorithm 21. -/
def dsaHintUnpack (f : DsaForm) (bs : Bytes) : Option (List (List Bool)) :=
  let y := bs.map BitVec.toNat
  let ends := y.drop f.omega
  let starts := 0 :: ends
  let ok := (List.zipWith (fun a b => decide (a ≤ b) && decide (b ≤ f.omega)) starts ends).all id
  let rows := List.zipWith (fun a b => (y.drop a).take (b - a)) starts ends
  let sorted := rows.all fun r => (List.zipWith (fun a b => decide (a < b)) r (r.drop 1)).all id
  let clear := ((y.take f.omega).drop (ends.getLastD 0)).all (· == 0)
  if ok && sorted && clear && ends.length = f.k then some (rows.map fun r => (List.range 256).map fun j => r.contains j) else none

/-- One attempt to sign (FIPS 204 algorithm 7). -/
def dsaTry (f : DsaForm) (rho mu rho2 : Bytes) (s1h s2h t0h : List Poly) (kappa : Nat) : Option Bytes :=
  let cb := if f.gam1 = 2 ^ 17 then 18 else 20
  let y := (List.range f.l).map fun r =>
    (unpackBits cb (shake256 (rho2 ++ leBytes 2 (kappa + r)) (32 * cb))).map fun v => subMod f.gam1 v dsaQ
  let yh := y.map dsaNtt.ntt
  let w := (List.range f.k).map fun i => dsaNtt.inv (dsaDot ((List.range f.l).map (dsaMatrix rho i)) yh)
  let w1 := w.map fun p => p.map fun r => (dsaDecompose f.gam2 r).1
  let ct := shake256 (mu ++ dsaW1 f w1) (f.lam / 4)
  let ch := dsaNtt.ntt (dsaBall f ct)
  let z := List.zipWith (fun yi si => addPoly dsaQ yi (dsaNtt.inv (mulHat ch si))) y s1h
  let wc := List.zipWith (fun wi si => subPoly dsaQ wi (dsaNtt.inv (mulHat ch si))) w s2h
  let r0 := wc.foldl (fun a p => p.foldl (fun a r => max a (dsaDecompose f.gam2 r).2.natAbs) a) 0
  let ct0 := t0h.map fun t => dsaNtt.inv (mulHat ch t)
  let h := List.zipWith (fun p t => List.zipWith (fun r x =>
    (dsaDecompose f.gam2 r).1 != (dsaDecompose f.gam2 ((r + x) % dsaQ)).1) p t) wc ct0
  let ones := (h.map fun r => r.countP id).sum
  if (z.map normPoly).foldl max 0 ≥ f.gam1 - f.beta || r0 ≥ f.gam2 - f.beta ||
      (ct0.map normPoly).foldl max 0 ≥ f.gam2 || ones > f.omega then none
  else some (ct ++ z.flatMap (fun p => packBits cb (p.map fun x => subMod f.gam1 x dsaQ)) ++ dsaHintPack f h)

def dsaLoop (f : DsaForm) (rho mu rho2 : Bytes) (s1h s2h t0h : List Poly) : Nat → Nat → Bytes
  | 0, _ => []
  | n + 1, kappa =>
    match dsaTry f rho mu rho2 s1h s2h t0h kappa with
    | some sig => sig
    | none => dsaLoop f rho mu rho2 s1h s2h t0h n (kappa + f.l)

/-- The message with its context (pure ML-DSA). -/
def dsaMessage (ctx m : Bytes) : Bytes := [0] ++ leBytes 1 ctx.length ++ ctx ++ m

/-- Signing with a given rnd. -/
def dsaSign (set : Nat) (sk ctx m rnd : Bytes) : Bytes :=
  let f := dsaForm set
  let eb := if f.eta = 2 then 3 else 4
  let rho := sk.take 32
  let key := slice sk 32 32
  let tr := slice sk 64 64
  let vec := fun (o n d : Nat) (c : Nat) => (List.range n).map fun i =>
    dsaNtt.ntt ((unpackBits d (slice sk (o + 32 * d * i) (32 * d))).map fun v => subMod c v dsaQ)
  let s1h := vec 128 f.l eb f.eta
  let s2h := vec (128 + 32 * eb * f.l) f.k eb f.eta
  let t0h := vec (128 + 32 * eb * (f.l + f.k)) f.k 13 4096
  let mu := shake256 (tr ++ dsaMessage ctx m) 64
  dsaLoop f rho mu (shake256 (key ++ rnd ++ mu) 64) s1h s2h t0h 1000 0

/-- Verification. -/
def dsaVerify (set : Nat) (pk ctx m sig : Bytes) : Bool :=
  let f := dsaForm set
  let cb := if f.gam1 = 2 ^ 17 then 18 else 20
  let cl := f.lam / 4
  let rho := pk.take 32
  let t1 := (chunks 320 (pk.drop 32)).map fun b => dsaNtt.ntt ((unpackBits 10 b).map fun x => x * 8192 % dsaQ)
  let ct := sig.take cl
  let z := (List.range f.l).map fun i => (unpackBits cb (slice sig (cl + 32 * cb * i) (32 * cb))).map fun v => subMod f.gam1 v dsaQ
  if sig.length != cl + 32 * cb * f.l + f.omega + f.k || pk.length != 32 + 320 * f.k then false
  else
    match dsaHintUnpack f (sig.drop (cl + 32 * cb * f.l)) with
    | none => false
    | some h =>
      let mu := shake256 (shake256 pk 64 ++ dsaMessage ctx m) 64
      let ch := dsaNtt.ntt (dsaBall f ct)
      let zh := z.map dsaNtt.ntt
      let w := t1.zipIdx.map fun (t, i) =>
        dsaNtt.inv (subPoly dsaQ (dsaDot ((List.range f.l).map (dsaMatrix rho i)) zh) (mulHat ch t))
      let w1 := List.zipWith (fun p hr => List.zipWith (fun r b => dsaUseHint f.gam2 b r) p hr) w h
      (z.map normPoly).foldl max 0 < f.gam1 - f.beta && shake256 (mu ++ dsaW1 f w1) cl == ct

end Sys2Proof.Machine
end

