-- ==== Sys2Proof/Machine/Rsa.lean ====
section
/-!
DEFINITION. Sys2Proof/Machine/Rsa.lean: DER (RFC 8017 appendix A), the RSA primitives with their paddings, prime
generation from a random stream (FIPS 186-5) and the deterministic nonce of ECDSA. The standards are those R203 and
R223 name; their procedures are written from the standards (log entries 6 and 7).
-/

namespace Sys2Proof.Machine

/-! ### Hashes by their code (Table 8-9) -/

/-- A digest of code 1 to 6 of Table 8-9. -/
def hashOf (code : Nat) (m : Bytes) : Bytes :=
  match code with
  | 1 => sha256 m | 2 => sha384 m | 3 => sha512 m | 4 => sha3 32 m | 5 => sha3 48 m | _ => sha3 64 m

def hashLen (code : Nat) : Nat := match code with | 1 | 4 => 32 | 2 | 5 => 48 | _ => 64

/-- The block length of a hash, for HMAC. -/
def hashBlock (code : Nat) : Nat := match code with | 1 => 64 | 2 | 3 => 128 | 4 => 136 | 5 => 104 | _ => 72

def hmacCode (code : Nat) : Bytes → Bytes → Bytes := hmac (hashOf code) (hashBlock code)

/-! ### DER -/

/-- Big-endian bytes without leading zeros. -/
def minBytes (v : Nat) : Bytes := beBytes (v.log2 / 8 + 1) v

def derLen (n : Nat) : Bytes :=
  if n < 128 then [BitVec.ofNat 8 n] else let b := minBytes n; BitVec.ofNat 8 (128 + b.length) :: b

def derTlv (tag : Byte) (v : Bytes) : Bytes := tag :: derLen v.length ++ v

def derInt (v : Nat) : Bytes :=
  let b := minBytes v
  derTlv 0x02 (if (b.headD 0).msb then 0 :: b else b)

def derSeq (parts : List Bytes) : Bytes := derTlv 0x30 (parts.flatMap id)

/-- The contents of a value with a tag, and what follows it. -/
def derTake (tag : Byte) (bs : Bytes) : Option (Bytes × Bytes) :=
  match bs with
  | t :: l :: r =>
    if t != tag then none
    else if l.toNat < 128 then
      if l.toNat ≤ r.length then some (r.take l.toNat, r.drop l.toNat) else none
    else
      let k := l.toNat - 128
      let n := beNat (r.take k)
      if k ≤ 4 && k ≤ r.length && n ≤ (r.drop k).length then some ((r.drop k).take n, (r.drop k).drop n) else none
  | _ => none

/-- The non-negative integers of a sequence, in order. -/
def derInts : Nat → Bytes → Option (List Nat)
  | 0, bs => if bs = [] then some [] else none
  | n + 1, bs => if bs = [] then some [] else
    match derTake 0x02 bs with
    | none => none
    | some (v, r) => (derInts n r).map (beNat v :: ·)

/-- The integers of a DER sequence of exactly `n` integers; only the one DER encoding of them is accepted. -/
def derParse (n : Nat) (bs : Bytes) : Option (List Nat) :=
  match derTake 0x30 bs with
  | some (v, []) =>
    match derInts n v with
    | some l => if l.length = n && derSeq (l.map derInt) = bs then some l else none
    | none => none
  | _ => none

/-! ### RSA keys -/

/-- n and e of an `RSAPublicKey`. -/
def rsaPublic (bs : Bytes) : Option (Nat × Nat) :=
  match derParse 2 bs with | some [n, e] => some (n, e) | _ => none

def rsaPublicDer (n e : Nat) : Bytes := derSeq [derInt n, derInt e]

/-- n, e and d of an `RSAPrivateKey` (log entry 7). -/
def rsaPrivate (bs : Bytes) : Option (Nat × Nat × Nat) :=
  match derParse 9 bs with | some (0 :: n :: e :: d :: _) => some (n, e, d) | _ => none

/-- The public-key checks of Table 8-6. -/
def rsaKeyOk (length : Nat) (bs : Bytes) : Bool :=
  match rsaPublic bs with
  | some (n, e) => n % 2 = 1 && n != 0 && n.log2 + 1 = length && e % 2 = 1 && 65537 ≤ e && e < 2 ^ 256
  | none => false

/-! ### Paddings (RFC 8017) -/

def mgf1 (h : Nat) (seed : Bytes) (n : Nat) : Bytes :=
  ((List.range (ceilDiv n (hashLen h))).flatMap fun i => hashOf h (seed ++ beBytes 4 i)).take n

/-- The DigestInfo of a digest. -/
def digestInfo (h : Nat) (digest : Bytes) : Bytes :=
  let oid : Byte := match h with | 1 => 1 | 2 => 2 | 3 => 3 | 4 => 8 | 5 => 9 | _ => 10
  [0x30, BitVec.ofNat 8 (0x11 + digest.length), 0x30, 0x0d, 0x06, 0x09, 0x60, 0x86, 0x48, 0x01, 0x65, 0x03, 0x04, 0x02, oid,
    0x05, 0x00, 0x04, BitVec.ofNat 8 digest.length] ++ digest

/-- EMSA-PKCS1-v1_5 to k bytes. -/
def pkcs1Encode (h k : Nat) (digest : Bytes) : Bytes :=
  let t := digestInfo h digest
  [0, 1] ++ List.replicate (k - 3 - t.length) 0xff ++ [0] ++ t

/-- The first byte with its top bit cleared. -/
def clearTop (bs : Bytes) : Bytes := match bs with | b :: r => (b &&& 0x7f) :: r | [] => []

/-- EMSA-PSS to k bytes for a modulus of 8k bits. -/
def pssEncode (h k : Nat) (digest salt : Bytes) : Bytes :=
  let x := hashOf h (zeros 8 ++ digest ++ salt)
  let db := zeros (k - salt.length - x.length - 2) ++ [1] ++ salt
  clearTop (xorBytes db (mgf1 h x db.length)) ++ x ++ [0xbc]

/-- EMSA-PSS verification with a known salt length. -/
def pssVerify (h k saltLen : Nat) (digest em : Bytes) : Bool :=
  let hl := hashLen h
  let x := slice em (k - hl - 1) hl
  let masked := em.take (k - hl - 1)
  let db := clearTop (xorBytes masked (mgf1 h x masked.length))
  !(em.headD 0).msb && em.getLastD 0 = 0xbc && em == pssEncode h k digest (db.drop (k - hl - 1 - saltLen))

/-- EME-OAEP with an empty label. -/
def oaepEncode (h k : Nat) (m seed : Bytes) : Bytes :=
  let hl := hashLen h
  let db := hashOf h [] ++ zeros (k - m.length - 2 * hl - 2) ++ [1] ++ m
  let masked := xorBytes db (mgf1 h seed db.length)
  [0] ++ xorBytes seed (mgf1 h masked hl) ++ masked

def oaepDecode (h k : Nat) (em : Bytes) : Option Bytes :=
  let hl := hashLen h
  let masked := em.drop (1 + hl)
  let seed := xorBytes (slice em 1 hl) (mgf1 h masked hl)
  let db := xorBytes masked (mgf1 h seed masked.length)
  let rest := (db.drop hl).dropWhile (· == 0)
  if k < 2 * hl + 2 || em.headD 0 != 0 || db.take hl != hashOf h [] || rest.headD 0 != 1 then none else some (rest.drop 1)

/-! ### A random stream -/

/-- SHAKE256 output read piece by piece: what is left of the block squeezed last, and the lanes behind it. -/
structure Stream where
  ready : Bytes
  lanes : List (BitVec 64)

/-- The output of SHAKE256 over a seed (R65, R142). -/
def streamOf (seed : Bytes) : Stream :=
  let rate := 136
  let z := rate - seed.length % rate
  let p := if z = 1 then seed ++ [0x9f] else seed ++ [0x1f] ++ zeros (z - 2) ++ [0x80]
  ⟨[], (chunks rate p).foldl (keccakAbsorb ·) (List.replicate 25 0)⟩

/-- The next `n` bytes; `fuel` bounds the blocks squeezed. -/
def Stream.takeFuel : Nat → Nat → Stream → Bytes × Stream
  | 0, n, r => (r.ready.take n, { r with ready := r.ready.drop n })
  | f + 1, n, r =>
    if n ≤ r.ready.length then (r.ready.take n, { r with ready := r.ready.drop n })
    else
      let block := (r.lanes.flatMap fun w => leBytes 8 w.toNat).take 136
      Stream.takeFuel f n ⟨r.ready ++ block, keccakF r.lanes⟩

def Stream.take (r : Stream) (n : Nat) : Bytes × Stream := Stream.takeFuel (n / 136 + 1) n r

/-! ### Primes (FIPS 186-5, appendices A.1.3 and B.3.1) -/

/-- Squarings of one Miller-Rabin round: whether one of them gives w - 1. -/
def millerSquares (w : Nat) : Nat → Nat → Bool
  | 0, _ => false
  | k + 1, z => if z = w - 1 then true else millerSquares w k (z * z % w)

/-- The power of two in a number, and its odd part. -/
def splitTwos : Nat → Nat → Nat × Nat
  | 0, m => (0, m)
  | f + 1, m => if m % 2 = 0 then let (a, o) := splitTwos f (m / 2); (a + 1, o) else (0, m)

/-- Miller-Rabin rounds with bases from the stream. -/
def millerRabin (w : Nat) : Nat → Stream → Bool × Stream
  | 0, r => (true, r)
  | n + 1, r =>
    let (bs, r) := r.take (w.log2 / 8 + 1)
    let b := 2 + beNat bs % (w - 3)
    let (a, m) := splitTwos (w.log2 + 1) (w - 1)
    let z := powMod b m w
    if z = 1 || millerSquares w a z then millerRabin w n r else (false, r)

/-- A prime of `bits` bits that is prime to e after its decrement, and far from `other`. -/
def findPrime (bits e other : Nat) : Nat → Stream → Option (Nat × Stream)
  | 0, _ => none
  | f + 1, r =>
    let (bs, r) := r.take (bits / 8)
    let v := beNat bs
    let p := if v % 2 = 0 then v + 1 else v
    let far := if p > other then p - other else other - p
    if p * p < 2 ^ (2 * bits - 1) || far ≤ 2 ^ (bits - 100) || Nat.gcd (p - 1) e != 1 then findPrime bits e other f r
    else
      let (ok, r) := millerRabin p 8 r
      if ok then some (p, r) else findPrime bits e other f r

/-- An RSA private key of a modulus length with e = 65,537, from a stream (log entry 7). -/
def rsaGenerate (length : Nat) (r : Stream) : Option Bytes :=
  let half := length / 2
  let e := 65537
  match findPrime half e 0 (5 * half) r with
  | none => none
  | some (p, r) =>
    match findPrime half e p (10 * half) r with
    | none => none
    | some (q, _) =>
      let l := (p - 1) * (q - 1) / Nat.gcd (p - 1) (q - 1)
      match invMod e l with
      | none => none
      | some d => some (derSeq [derInt 0, derInt (p * q), derInt e, derInt d, derInt p, derInt q, derInt (d % (p - 1)),
          derInt (d % (q - 1)), derInt (invPrime q p)])

/-! ### Deterministic ECDSA (FIPS 186-5, appendix A.3.3) -/

/-- Bytes of an HMAC_DRBG state until `n` of them are there. -/
def hmacDrbgBytes (h : Nat) (k : Bytes) : Nat → Bytes → Bytes × Bytes
  | 0, v => ([], v)
  | n + 1, v =>
    let v := hmacCode h k v
    let (t, w) := hmacDrbgBytes h k n v
    (v ++ t, w)

/-- The first candidate nonce in range that signs. -/
def ecdsaTries (c : Curve) (h d : Nat) (digest : Bytes) : Nat → Bytes → Bytes → Bytes
  | 0, _, _ => []
  | f + 1, k, v =>
    let nb := ceilDiv (c.n.log2 + 1) 8
    let (t, v) := hmacDrbgBytes h k (ceilDiv nb (hashLen h)) v
    let x := beNat (t.take nb) >>> (8 * nb - (c.n.log2 + 1))
    match if 1 ≤ x && x < c.n then c.sign d x digest else none with
    | some sig => sig
    | none =>
      let k := hmacCode h k (v ++ [0])
      ecdsaTries c h d digest f k (hmacCode h k v)

def ecdsaDeterministic (c : Curve) (h d : Nat) (digest : Bytes) : Bytes :=
  let nb := ceilDiv (c.n.log2 + 1) 8
  let seed := beBytes nb d ++ beBytes nb (c.hashInt digest % c.n)
  let v := List.replicate (hashLen h) 0x01
  let k := hmacCode h (zeros (hashLen h)) (v ++ [0] ++ seed)
  let v := hmacCode h k v
  let k := hmacCode h k (v ++ [1] ++ seed)
  ecdsaTries c h d digest 64 k (hmacCode h k v)

/-- A number from 1 to n - 1 by extra random bits (FIPS 186-5, appendices A.2.1 and A.3.1). -/
def scalarFrom (n : Nat) (r : Stream) : Nat × Stream :=
  let m := n.log2 + 1 + 64
  let (bs, r) := r.take (ceilDiv m 8)
  (beNat bs >>> (8 * ceilDiv m 8 - m) % (n - 1) + 1, r)

/-- ECDSA with nonces from a stream. -/
def ecdsaHedged (c : Curve) (d : Nat) (digest : Bytes) : Nat → Stream → Bytes
  | 0, _ => []
  | f + 1, r =>
    let (k, r) := scalarFrom c.n r
    match c.sign d k digest with
    | some sig => sig
    | none => ecdsaHedged c d digest f r

end Sys2Proof.Machine
end

