-- ==== Sys2Proof/Machine/PublicKey.lean ====
section
/-!
DEFINITION. Sys2Proof/Machine/PublicKey.lean: what the long-integer units compute for each algorithm (R203, R210 to
R213): key pairs, public halves, the public-key checks, signing, verification, agreement and encapsulation. Private keys
are held in the encodings of log entry 7.
-/

namespace Sys2Proof.Machine

def isSymmetric (alg : Nat) : Bool := 1 ≤ alg && alg ≤ 0x0B && alg != 9

def isCurveAlg (alg : Nat) : Bool := alg = 0x20 || alg = 0x21 || alg = 0x22

/-- Algorithms of classic key agreement. -/
def isAgree (alg : Nat) : Bool := isCurveAlg alg || alg = 0x25 || alg = 0x26

def curveOf (alg : Nat) : Curve := if alg = 0x20 then curveP256 else if alg = 0x21 then curveP384 else curveP521

def edwardsOf (alg : Nat) : Edwards := if alg = 0x23 then ed25519 else ed448

/-- Lengths of the encodings of Table 8-1; 0 where the encoding has no fixed length. -/
def publicLen (alg length : Nat) : Nat :=
  match alg with
  | 0x20 => 65 | 0x21 => 97 | 0x22 => 133 | 0x23 | 0x25 => 32 | 0x24 => 57 | 0x26 => 56
  | 0x30 => kemEkLen length
  | 0x31 => if length = 44 then 1312 else if length = 65 then 1952 else 2592
  | _ => 0

def signatureLen (alg length : Nat) : Nat :=
  match alg with
  | 0x10 => length / 8
  | 0x20 => 64 | 0x21 => 96 | 0x22 => 132 | 0x23 => 64 | 0x24 => 114
  | _ => if length = 44 then 2420 else if length = 65 then 3309 else 4627

/-! ### Public-key checks (Table 8-6) -/

/-- Whether a u-coordinate is below the prime, bit 255 cleared for X25519. -/
def uInRange (alg : Nat) (bs : Bytes) : Bool :=
  if alg = 0x25 then bs.length = 32 && leNat bs % 2 ^ 255 < p25519 else bs.length = 56 && leNat bs < p448

/-- The status of a public key that fails its checks. -/
def publicCheck (alg length : Nat) (bs : Bytes) : Option Nat :=
  if alg = 0x10 then (if rsaKeyOk length bs then none else some eInvalidKey)
  else if isCurveAlg alg then (if ((curveOf alg).decode bs).isSome then none else some eInvalidPoint)
  else if alg = 0x23 || alg = 0x24 then (if ((edwardsOf alg).decode bs).isSome then none else some eInvalidPoint)
  else if alg = 0x25 || alg = 0x26 then (if uInRange alg bs then none else some eInvalidPoint)
  else if alg = 0x30 then (if bs.length = kemEkLen length && kemEkValid length bs then none else some eInvalidKey)
  else if bs.length = publicLen 0x31 length then none else some eInvalidKey

/-! ### Key generation (R142) and public halves -/

/-- The base point of the Montgomery curves. -/
def xBase (alg : Nat) : Bytes := if alg = 0x25 then leBytes 32 9 else leBytes 56 5

def xMul (alg : Nat) (k u : Bytes) : Bytes := if alg = 0x25 then x25519 k u else x448 k u

/-- A key value of an algorithm and length, built from a stream. -/
def generateValue (alg length : Nat) (seed : Bytes) : Bytes :=
  let r := streamOf seed
  if isSymmetric alg then (r.take (length / 8)).1
  else match alg with
  | 0x10 => (rsaGenerate length r).getD []
  | 0x20 | 0x21 | 0x22 => beBytes (curveOf alg).bytes (scalarFrom (curveOf alg).n r).1
  | 0x23 | 0x25 => (r.take 32).1
  | 0x24 => (r.take 57).1
  | 0x26 => (r.take 56).1
  | 0x30 => let (d, r) := r.take 32; (kemKeyGen length d (r.take 32).1).2
  | _ => (dsaKeyGen length (r.take 32).1).2

/-- The ML-DSA public key of a private key (FIPS 204): t1 from the matrix, s1 and s2. -/
def dsaPublic (set : Nat) (sk : Bytes) : Bytes :=
  let f := dsaForm set
  let eb := if f.eta = 2 then 3 else 4
  let rho := sk.take 32
  let vec := fun (o n : Nat) => (List.range n).map fun i =>
    (unpackBits eb (slice sk (o + 32 * eb * i) (32 * eb))).map fun v => subMod f.eta v dsaQ
  let s1h := (vec 128 f.l).map dsaNtt.ntt
  let s2 := vec (128 + 32 * eb * f.l) f.k
  let t := s2.zipIdx.map fun (x, i) =>
    addPoly dsaQ (dsaNtt.inv (dsaDot ((List.range f.l).map (dsaMatrix rho i)) s1h)) x
  rho ++ t.flatMap fun p => packBits 10 (p.map fun r => (dsaPower2Round r).1)

/-- The public half of a private key, in the encoding of Table 8-1. -/
def publicOf (alg length : Nat) (value : Bytes) : Bytes :=
  match alg with
  | 0x10 => match rsaPrivate value with | some (n, e, _) => rsaPublicDer n e | none => []
  | 0x20 | 0x21 | 0x22 => (curveOf alg).encode ((curveOf alg).mul (beNat value) (curveOf alg).base)
  | 0x23 | 0x24 => (edwardsOf alg).public value
  | 0x25 | 0x26 => xMul alg value (xBase alg)
  | 0x30 => slice value (384 * (kemForm length).k) (kemEkLen length)
  | _ => dsaPublic length value

/-! ### Signing and verification (R222, R223) -/

/-- What a signing or verifying job works with besides the key. -/
structure SignForm where
  scheme : Nat
  hash : Nat
  ctx : Bytes
  salt : Bytes
  /-- the digest of the message; the message itself for schemes 4 and 5 -/
  m : Bytes

/-- RSA, big-endian, to the length of the modulus. -/
def rsaApply (length : Nat) (e n : Nat) (em : Bytes) : Bytes := beBytes (length / 8) (powMod (beNat em) e n)

/-- A signature; `hedge` is the stream of a hedged one. -/
def signWith (alg length : Nat) (value : Bytes) (f : SignForm) (hedge : Option Stream) : Bytes :=
  match f.scheme with
  | 1 => match rsaPrivate value with
    | some (n, _, d) => rsaApply length d n (pkcs1Encode f.hash (length / 8) f.m)
    | none => []
  | 2 => match rsaPrivate value with
    | some (n, _, d) => rsaApply length d n (pssEncode f.hash (length / 8) f.m f.salt)
    | none => []
  | 3 => match hedge with
    | some r => ecdsaHedged (curveOf alg) (beNat value) f.m 64 r
    | none => ecdsaDeterministic (curveOf alg) f.hash (beNat value) f.m
  | 4 => (edwardsOf alg).sign f.ctx value f.m
  | _ => dsaSign length value f.ctx f.m (match hedge with | some r => (r.take 32).1 | none => zeros 32)

/-- Reasons of a verdict FALSE (R213). -/
def sigRange : Nat := 1

def sigForm : Nat := 2

def sigMismatch : Nat := 3

/-- The reason a signature is refused for its range or form before verification (Table 8-6). -/
def signatureFault (alg length : Nat) (pub sig : Bytes) : Option Nat :=
  match alg with
  | 0x10 =>
    let s := beNat sig
    let n := match rsaPublic pub with | some (n, _) => n | none => 0
    if s ≥ n || s ≤ 1 || s + 1 = n then some sigRange else none
  | 0x20 | 0x21 | 0x22 =>
    let c := curveOf alg
    let r := beNat (sig.take c.bytes)
    let s := beNat (sig.drop c.bytes)
    if r = 0 || r ≥ c.n || s = 0 || s ≥ c.n then some sigRange else none
  | 0x23 | 0x24 =>
    let c := edwardsOf alg
    if (c.decode (sig.take c.bytes)).isNone then some sigForm
    else if leNat (sig.drop c.bytes) ≥ c.n then some sigRange else none
  | _ =>
    let f := dsaForm length
    let cb := if f.gam1 = 2 ^ 17 then 18 else 20
    let o := f.lam / 4 + 32 * cb * f.l
    if (dsaHintUnpack f (sig.drop o)).isNone then some sigForm
    else
      let z := (List.range f.l).map fun i => (unpackBits cb (slice sig (f.lam / 4 + 32 * cb * i) (32 * cb))).map fun v => subMod f.gam1 v dsaQ
      if (z.map normPoly).foldl max 0 ≥ f.gam1 - f.beta then some sigRange else none

/-- Whether a signature verifies. -/
def verifyWith (alg length : Nat) (pub sig : Bytes) (f : SignForm) (saltLen : Nat) : Bool :=
  match f.scheme with
  | 1 => match rsaPublic pub with
    | some (n, e) => rsaApply length e n sig == pkcs1Encode f.hash (length / 8) f.m
    | none => false
  | 2 => match rsaPublic pub with
    | some (n, e) => pssVerify f.hash (length / 8) saltLen f.m (rsaApply length e n sig)
    | none => false
  | 3 => (curveOf alg).verify ((curveOf alg).decode pub) f.m sig
  | 4 => (edwardsOf alg).verify f.ctx pub f.m sig
  | _ => dsaVerify length pub f.ctx f.m sig

/-- The reason of a verdict: 0 for TRUE (R213). -/
def verdictReason (alg length : Nat) (pub sig : Bytes) (f : SignForm) (saltLen : Nat) : Nat :=
  match signatureFault alg length pub sig with
  | some r => r
  | none => if verifyWith alg length pub sig f saltLen then 0 else sigMismatch

/-! ### Agreement (R224, R226) -/

/-- Z of a private key and a peer's public key; none where R212 refuses it. -/
def agreeZ (alg : Nat) (value peer : Bytes) : Option Bytes :=
  if isCurveAlg alg then
    let c := curveOf alg
    match c.mul (beNat value) (c.decode peer) with
    | some (x, _) => some (beBytes c.bytes x)
    | none => none
  else
    let z := xMul alg value peer
    if allZero z then none else some z

/-- An ephemeral private key from a stream (R224). -/
def ephemeral (alg : Nat) (r : Stream) : Bytes :=
  if isCurveAlg alg then beBytes (curveOf alg).bytes (scalarFrom (curveOf alg).n r).1
  else (r.take (publicLen alg 0)).1

/-- The length of a classic public key. -/
def classicLen (alg : Nat) : Nat := publicLen alg 0

end Sys2Proof.Machine
end

