-- ==== Sys2Proof/Machine/Approvals.lean ====
section
/-!
DEFINITION. Sys2Proof/Machine/Approvals.lean: officers' signatures, the approvals list and its checks (R155 to R166).
-/

namespace Sys2Proof.Machine

/-- A signature of an officer's algorithm over a message (R160): 0x21 ECDSA P-384 over its SHA-384, 0x31 ML-DSA-65
with an empty context. -/
def officerVerify (alg : Nat) (pub m sig : Bytes) : Bool :=
  if alg = 0x21 then curveP384.verify (curveP384.decode pub) (sha384 m) sig
  else dsaVerify 65 pub [] m sig

/-- BLANK, VENDOR_TEST and RETURNED have no operator roster (R393). -/
def noRoster (lifeCycle : Nat) : Bool := [0, 1, 5].contains lifeCycle

/-- Whether a TAMPER image weakens the committed table (R388). -/
def Response.code : Response → Nat
  | .none => 0 | .note => 1 | .shed => 2 | .lock => 3 | .strike => 4 | .strikeHalt => 5

/-- A 16-bit two's-complement number. -/
def int16 (v : Nat) : Int := if v ≥ 32768 then (v : Int) - 65536 else v

def tamperWeakens (t : Tamper) (fuseOff : BitVec 10) (image : Bytes) : Bool :=
  (List.range 10).any (fun n => byteAt image (8 * n) < (t.responses.getD n .none).code) ||
    int16 (field image 12 2) > t.upperTrip || int16 (field image 14 2) < t.lowerTrip ||
    field image 60 4 > t.stormCount || (field image 80 2 &&& (1023 - fuseOff.toNat)) != 0

/-- The roles a command needs (R166 Table 6-6). A STAGE_COMMIT outside the table's rows needs none: a pitch that names the
CHIP or TAMPER set, or a pitch set with an operator's write, meets its own status (R104, R340). -/
def State.rolesNeeded (s : State) (d : Nat) (c : Cmd) : List Nat :=
  if d = operator && noRoster c.cond.lifeCycle then []
  else
    match c.entry.opcode with
    | 0x0401 | 0x0402 | 0x0403 | 0x0404 | 0x0405 | 0x0406 | 0x040A => [1]
    | 0x0501 | 0x0502 | 0x0503 => if (s.dom d).roster.isSealed then [2] else []
    | 0x0504 => [2]
    | 0x0202 | 0x0205 => [2]
    | 0x0303 =>
      match byteAt c.param 0 with
      | 0 => if d = operator then [2] else []
      | 1 => if d = operator || !(s.stage (byteAt c.param 1)).opWrite then [2] else []
      | 2 =>
        if d = operator && (s.stage tamperSet).state != .empty &&
          tamperWeakens s.tamper s.life.fuseOff (s.stage tamperSet).image then [2] else []
      | _ => []
    | 0x0A02 => [2]
    | 0x0601 => [5]
    | 0x0701 => [3]
    | 0x0902 | 0x0903 | 0x0904 | 0x0905 | 0x0907 => [6]
    | 0x0C02 | 0x0C03 => [4]
    | 0x0B02 => [1]
    | 0x0B05 | 0x0B09 => [2]
    | _ => []

/-- An approval entry at an offset of the list (Table 6-4). -/
structure Approval where
  officer : Nat
  role : Nat
  sigLen : Nat
  notAfter : Nat
  sig : Bytes
  pad : Bytes
  deriving DecidableEq, Repr

def approvalAt (l : Bytes) (o : Nat) : Approval :=
  let n := field l (o + 2) 2
  { officer := byteAt l o, role := byteAt l (o + 1), sigLen := n, notAfter := field l (o + 8) 8
    sig := slice l (o + 16) n, pad := slice l (o + 16 + n) (roundUp n 16 - n) }

/-- The entries of a list from an offset, or the index of the first one that breaks the form (Table 6-5 check 1). -/
def parseApprovals (r : Roster) (l : Bytes) : Nat → Nat → Nat → Except Nat (List Approval)
  | 0, _, _ => .ok []
  | k + 1, i, o =>
    let a := approvalAt l o
    let algOk := match Tab.find r.officers a.officer with
      | some f => a.sigLen = (if f.alg = 0x21 then 96 else 3309)
      | none => true
    if o + 16 > l.length || !(a.sigLen = 96 || a.sigLen = 3309) || !algOk || o + 16 + roundUp a.sigLen 16 > l.length || !allZero a.pad
    then .error i
    else
      match parseApprovals r l k (i + 1) (o + 16 + roundUp a.sigLen 16) with
      | .ok as => .ok (a :: as)
      | .error x => .error x

/-- CMD_DIGEST (R161). -/
def Cmd.digestOf (c : Cmd) : Bytes :=
  let e := slice c.raw 0 64
  let e := overlay e 3 [(e.getD 3 0) &&& 1]
  let e := overlay e 5 [0]
  let e := overlay e 8 (zeros 8)
  let e := overlay e 32 (zeros 8)
  let e := overlay e 44 (zeros 20)
  sha384 (e ++ zeroFields c.param (addressFields c.entry.opcode))

/-- The approval body (R160 Table 6-3). -/
def approvalBody (d role incarnation seq notAfter : Nat) (digest : Bytes) : Bytes :=
  ascii "KALLAN-APPROVAL1" ++ slice Config.serial 0 16 ++ leBytes 2 d ++ leBytes 1 role ++ [0] ++
    leBytes 4 incarnation ++ leBytes 8 seq ++ leBytes 8 notAfter ++ digest

/-- Checks 2 to 7 on the entry of an index, after the officers already named (Table 6-5). DESIGN CHOICE (log entry 66):
E_TIME_UNTRUSTED carries the entry index here, as Table 6-5 says, where Table 2-14 says 0. -/
def approvalFail (D : Dom) (d : Nat) (c : Cmd) (roles : List Nat) (earlier : List Nat) (i : Nat) (a : Approval) : Option Fail :=
  let code := c.entry.opcode
  let from0 := if code = 0x0601 then field c.param 0 8 * 1000000000 else c.cond.stamp
  match Tab.find D.roster.officers a.officer with
  | none => if code != 0x0504 && !D.roster.isSealed then some (eRosterOpen, 0) else some (eApprovalOfficer, i)
  | some o =>
    firstFail [
      need (code = 0x0504 || D.roster.isSealed) eRosterOpen 0,
      need (a.role = o.role && roles.contains a.role) eApprovalOfficer i,
      need (!earlier.contains a.officer) eApprovalDuplicate i,
      need (code = 0x0601 || c.cond.trusted) eTimeUntrusted i,
      need (from0 ≤ a.notAfter && a.notAfter ≤ from0 + 604800000000000) eApprovalTime i,
      need (c.floored || c.seq ≥ D.roster.floor) eApprovalReplay i,
      need (officerVerify o.alg o.pub (approvalBody d a.role D.roster.incarnation c.seq a.notAfter c.digestOf) a.sig) eApprovalSignature i]

/-- The first failure over the entries, entry by entry. -/
def approvalsFail (D : Dom) (d : Nat) (c : Cmd) (roles : List Nat) : List Nat → Nat → List Approval → Option Fail
  | _, _, [] => none
  | earlier, i, a :: as =>
    match approvalFail D d c roles earlier i a with
    | some f => some f
    | none => approvalsFail D d c roles (earlier ++ [a.officer]) (i + 1) as

/-- The officers of a role whose approvals a list carries. -/
def approving (as : List Approval) (role : Nat) : List Nat := (as.filter fun a => a.role = role).map Approval.officer

/-- The check of a command's approvals at its serial position (R162, R163): the first failure, or the entries. -/
def State.checkApprovals (s : State) (d : Nat) (c : Cmd) : Except Fail (List Approval) :=
  let roles := s.rolesNeeded d c
  let D := s.dom d
  if roles = [] then
    if c.entry.len5 = 0 then .ok [] else .error (eApprovalForm, 0x00FF)
  else
    let list : Except Fail (List Approval) := if c.entry.len5 = 0 then .ok [] else
      let n := byteAt c.approvals 0
      if n = 0 || n > 16 then .error (eApprovalForm, 0x00FF)
      else
        match parseApprovals D.roster c.approvals n 0 16 with
        | .ok as => .ok as
        | .error i => .error (eApprovalForm, i)
    match list with
    | .error f => .error f
    | .ok as =>
      if c.entry.opcode != 0x0504 && !D.roster.isSealed then .error (eRosterOpen, 0)
      else
        match approvalsFail D d c roles [] 0 as with
        | some f => .error f
        | none =>
          match roles.find? fun r => Tab.get D.roster.quorum 0 r = 0 || (approving as r).length < Tab.get D.roster.quorum 0 r with
          | some r => .error (eQuorumShort, r)
          | none => .ok as

end Sys2Proof.Machine
end

