-- ==== Sys2Proof/Machine/Counters.lean ====
section
/-!
DEFINITION. Sys2Proof/Machine/Counters.lean: what the performance counters count (R428 to R433, R436).
-/

namespace Sys2Proof.Machine

/-! ### Counters (R428, R430, R436) -/

/-- The key of a counter: KIND, UNIT, INDEX. -/
def perfKey (kind unit index : Nat) : Nat := kind * 65536 + unit * 16 + index

/-- A counter of Table 18-1. -/
def perfExists (kind unit index : Nat) : Bool :=
  (kind = 0 && unit < 96 && index < 8) || (kind = 1 && unit < 8 && index < 8) || (kind = 2 && unit < 2 && index < 2)

/-- A programmable counter. -/
def perfProgrammable (kind index : Nat) : Bool := (kind = 0 && index < 6) || kind = 1

/-- The configuration a counter has at reset (Table 18-4). -/
def perfDefault (kind : Nat) : PerfConf := if kind = 2 then { enable := true, windowLog2 := 10 } else {}

def Perf.conf (p : Perf) (kind unit index : Nat) : PerfConf := Tab.get p.configs (perfDefault kind) (perfKey kind unit index)

def Perf.setConf (p : Perf) (kind unit index : Nat) (c : PerfConf) : Perf :=
  { p with configs := Tab.put p.configs (perfDefault kind) (perfKey kind unit index) c }

def Perf.value (p : Perf) (kind unit index : Nat) : Nat := Tab.get p.values 0 (perfKey kind unit index)

def Perf.setValue (p : Perf) (kind unit index v : Nat) : Perf :=
  { p with values := Tab.put p.values 0 (perfKey kind unit index) v }

/-- The events a kind defines (Table 18-5). -/
def perfEvents (kind : Nat) : List Nat :=
  if kind = 0 then [1, 2, 3, 4, 5, 6, 7, 8, 9, 0x10, 0x11, 0x12, 0x13, 0x14]
  else [0x20, 0x21, 0x22, 0x23, 0x24, 0x25, 0x26, 0x27, 0x28, 0x29, 0x2A, 0x2B]

/-- Whether a counter's filter counts work of a domain; an occurrence without a domain counts as no domain's work. -/
def PerfConf.counts (c : PerfConf) (event : Nat) (dom : Option Nat) : Bool :=
  c.enable && c.event = event &&
    (match c.filter with
     | 1 => dom = some c.pitch
     | 2 => dom = some operator
     | _ => true)

/-- One counter after `n` occurrences: it wraps at 2^48, sets OVF and makes PERF pending where its block asks for it
(R433). -/
def State.bump (s : State) (kind unit index n : Nat) : State :=
  let c := s.perf.conf kind unit index
  let v := s.perf.value kind unit index + n
  let s := { s with perf := s.perf.setValue kind unit index (v % 2 ^ 48) }
  if v < 2 ^ 48 then s
  else
    let s := { s with perf := s.perf.setConf kind unit index { c with ovf := true } }
    if kind = 0 && c.ovfIrq then
      s.setCore unit fun K => { K with ipend := K.ipend ||| 4, perfNumber := index, perfSkid := if K.ipend.getLsbD 2 then K.perfSkid else 0 }
    else s

/-- `n` occurrences of an event on a block or region, in work of a domain (R431). -/
def State.count (s : State) (kind unit event : Nat) (dom : Option Nat) (n : Nat) : State :=
  (List.range (if kind = 0 then 6 else 8)).foldl (fun s i =>
    if (s.perf.conf kind unit i).counts event dom then s.bump kind unit i n else s) s

/-- Everything returned to its reset value (R436). -/
def Perf.cleared : Perf := {}

/-- The counters of a region, with those of its blocks, returned to their reset values (R436). -/
def Perf.clearRegion (p : Perf) (r : Nat) : Perf :=
  let keep := fun (k : Nat) => !((k < 65536 && k / 16 / 12 = r) || (65536 ≤ k && k < 131072 && (k - 65536) / 16 = r))
  { p with values := p.values.filter fun x => keep x.1, configs := p.configs.filter fun x => keep x.1
           samples := p.samples.filter fun x => x.1 / 12 != r, lost := p.lost.filter fun x => x.1 / 12 != r, left := p.left.filter fun x => x.1 / 12 != r }

end Sys2Proof.Machine
end

