-- ==== Sys2Proof/Machine/Blinding.lean ====
section
/-!
DEFINITION. Sys2Proof/Machine/Blinding.lean: seeds that a region borrows, and the blinding DRBGs: their instantiation, reseeds and
calls (R209, R234 to R236, R240).
-/

namespace Sys2Proof.Machine

/-! ### Borrowing (R234) -/

/-- The region begins or ends borrowing, with its trail entry and the region event (R230, R234, R423). -/
def State.setBorrowing (s : State) (r : Nat) (on : Bool) : State :=
  if (s.region r).entropy.borrowing = on then s
  else
    ((s.setEntropy r fun e => { e with borrowing := on }).log codeBorrow (originOf 3 r) warning (leBytes 1 r ++ leBytes 1 (b2n on))).regionEvent r 9

/-- A region with an empty pool and no source that feeds it. -/
def State.mayBorrow (s : State) (r : Nat) : Bool :=
  let e := (s.region r).entropy
  e.pool = [] && (e.active.isNone || e.conditionerOut) && (s.region r).service = .service

/-- The region that lends to another: the next one in order that has a seed. -/
def State.lender (s : State) (r : Nat) : Option Nat := ((List.range 7).map fun i => (r + 1 + i) % 8).find? fun q => s.pool q != []

/-- One seed lent, for one request. -/
def State.borrow (s : State) (r : Nat) : Option (Bytes × State) :=
  if s.mayBorrow r then
    (s.lender r).bind fun q => (s.takeSeedOf q none).map fun p => (p.1, (p.2.setBorrowing r true).count 1 r 0x2A none 1)
  else none

/-- A seed for a region's own use: the oldest of its pool, else a borrowed one. -/
def State.regionSeed (s : State) (r : Nat) : Option (Bytes × State) :=
  match s.takeSeedOf r none with
  | some p => some p
  | none => s.borrow r

/-! ### The blinding DRBG of a region (R235, R236, R240) -/

/-- A region in service that is not in REST or BIVVY. -/
def State.awake (s : State) (r : Nat) : Bool := (s.region r).service = .service && (s.region r).power != .rest && !s.boot.bivvy

/-- One of the two seeds of an instantiation, taken when it is ready, of the region's own or of any: the first waits for the second.
DESIGN CHOICE: the personalisation string carries the operator's INCARNATION (log entry 74), since R159 gives a blinding DRBG none. -/
def State.blindStep (s : State) (own : Bool) (r : Nat) : State :=
  if (s.region r).entropy.blinding.inst || !s.awake r then s
  else
    match if own then s.takeSeedOf r none else s.regionSeed r with
    | none => s
    | some (x, s) =>
      s.setEntropy r fun e =>
        match e.blindSeed with
        | none => { e with blindSeed := some x }
        | some a => { e with blindSeed := none
                             blinding := drbgStart a (x.take 16) (drbgPers (0x200 + r) (s.dom operator).roster.incarnation) }

/-- The blinding DRBGs of some regions, instantiated as far as seeds last: each region serves its own before any borrows (R234). -/
def State.startBlindings (s : State) (l : List Nat) : State :=
  let pass := fun (own : Bool) (s : State) => l.foldl (fun s r => (s.blindStep own r).blindStep own r) s
  pass false (pass true s)

/-- Whether the blinding DRBG of a region serves calls: at its limit of 2^48 it waits for a reseed. -/
def State.blindReady (s : State) (r : Nat) (calls : Nat) : Bool :=
  let g := (s.region r).entropy.blinding
  g.inst && (g.sinceReseed + calls ≤ 2 ^ 48 || (s.regionSeed r).isSome)

/-- A reseed that is due applies where a seed is ready; else the interval is stretched (R237). -/
def State.reseedBlinding (s : State) (r : Nat) : State :=
  if (s.region r).entropy.blinding.sinceReseed < 65536 then s
  else
    match s.regionSeed r with
    | some (x, s) => s.setEntropy r fun e => { e with blinding := e.blinding.reseed x }
    | none => s.setEntropy r fun e => { e with blinding := { e.blinding with stretched := true } }

/-- Calls of the blinding DRBG of a region, of some lengths; none where it is not instantiated. -/
def State.blind (s : State) (r : Nat) (ns : List Nat) : Option Bytes × State :=
  if ns = [] || !(s.region r).entropy.blinding.inst then (none, s)
  else
    let s := s.reseedBlinding r
    let x := (s.region r).entropy.blinding.calls [] ns
    (some x.1, s.setEntropy r fun e => { e with blinding := x.2 })

end Sys2Proof.Machine
end

