-- ==== Sys2Proof/Machine/KeyCache.lean ====
section
/-!
DEFINITION. Sys2Proof/Machine/KeyCache.lean: the entries of the region key caches: shares, eviction, masking, and the job-scoped entries of
a core's command (R98, R102, R115, R119, R120, R205, R251).
-/

namespace Sys2Proof.Machine

/-- The room an entry takes; the spec gives no size (log entry 26). -/
def CacheEntry.size (e : CacheEntry) : Nat := 128 + roundUp e.masked.length 64

/-- A domain's share of a region's cache in bytes: CACHE_QUOTA, or 256 KiB for the operator domain (R98). -/
def State.cacheShare (s : State) (d : Nat) : Nat := 1024 * (if d < 256 then (s.dom d).conf.cacheQuota else 256)

def cacheUse (l : List CacheEntry) (d : Nat) : Nat := ((l.filter fun e => e.owner = d).map CacheEntry.size).sum

/-- A domain's least recently used entries evicted until its use fits its share (R102); a job-scoped entry stands until it is scrubbed
(R205). -/
def evict (d share : Nat) : Nat → List CacheEntry → List CacheEntry
  | 0, l => l
  | n + 1, l => if cacheUse l d ≤ share then l else evict d share n (l.eraseP fun e => e.owner = d && e.scope.isNone)

def State.trimCache (s : State) (d : Nat) : State :=
  let share := s.cacheShare d
  { s with regions := s.regions.map fun p => (p.1, { p.2 with cache := evict d share p.2.cache.length p.2.cache }) }

/-- A value masked under a region's cache mask register, or a masked one in clear (R120). -/
def maskCached (mask value : Bytes) : Bytes :=
  xorBytes value ((List.replicate (ceilDiv value.length 32) mask).flatten)

/-- An entry put into a region's cache, most recently used, within its owner's share: an operator key within the operator's (R102, R115,
R119, R141); a region whose mask register is cleared holds none. -/
def State.cacheEntry (s : State) (r : Nat) (e : CacheEntry) (value : Bytes) : State :=
  let R := s.region r
  if allZero R.cacheMask then s
  else
    let e := { e with masked := maskCached R.cacheMask value }
    let l := (R.cache.filter fun x => !(x.owner = e.owner && x.handle = e.handle && x.path = e.path && x.scope = e.scope && x.job = e.job)) ++ [e]
    s.setRegion r fun R => { R with cache := evict e.owner (s.cacheShare e.owner) l.length l }

/-- The value of an entry of a region. -/
def State.entryValue (s : State) (r : Nat) (e : CacheEntry) : Bytes := maskCached (s.region r).cacheMask e.masked

/-! ### Job-scoped entries (R205, R251) -/

/-- A job-scoped entry for a command on a core, given by its domain and placement number, in the share of the key's owner; its handle, a value
that the spec leaves open, is a free value. -/
def State.scopeKey (s : State) (k : Nat) (job : Nat × Nat) (owner : Nat) (attr : Option Attr) (path value : Bytes) : Nat × State :=
  let (v, s) := s.fresh 4
  (leNat v, s.cacheEntry (k / 12) { owner := owner, handle := leNat v, path := path, scope := some k, attr := attr, job := job } value)

/-- A job-scoped entry of a core whose command is still running. -/
def State.scopeLive (s : State) (k : Nat) (e : CacheEntry) : Bool :=
  e.scope = some k && (match s.cmd e.job.1 e.job.2 with | some c => c.phase != .computed | none => true)

/-- The job-scoped entry of a core that a handle names. -/
def State.scopedEntry (s : State) (k h : Nat) : Option CacheEntry :=
  (s.region (k / 12)).cache.find? fun e => s.scopeLive k e && e.handle = h

/-- A key that a command keeps as a job-scoped entry while it computes: its owner, its attributes, its value (R251). -/
structure Held where
  owner : Nat
  attr : Attr
  value : Bytes
  deriving DecidableEq, Repr

/-- The job-scoped entry of a command that holds an intermediate key. -/
def State.heldEntry (s : State) (k : Nat) (job : Nat × Nat) (x : Held) : Option CacheEntry :=
  (s.region (k / 12)).cache.find? fun e =>
    e.scope = some k && e.job = job && e.owner = x.owner && e.attr = some x.attr && e.path = [] && s.entryValue (k / 12) e = x.value

/-- The intermediate keys of a command, each in one job-scoped entry. -/
def State.holdKeys (s : State) (k : Nat) (job : Nat × Nat) (l : List Held) : State :=
  l.foldl (fun s x => if (s.heldEntry k job x).isSome then s else (s.scopeKey k job x.owner (some x.attr) [] x.value).2) s

/-- The job-scoped cache entries that some cores' running commands use, scrubbed (R205). -/
def State.scrubScoped (s : State) (mine : Nat → Bool) : State :=
  { s with regions := s.regions.map fun (p : Nat × Region) =>
      (p.1, { p.2 with cache := p.2.cache.filter fun e => match e.scope with | some k => !(mine k && s.scopeLive k e) | none => true }) }

/-- The job-scoped cache entries of one command scrubbed, at its commit point or when it is cancelled (R205). -/
def State.scrubJob (s : State) (d id : Nat) : State :=
  { s with regions := s.regions.map fun (p : Nat × Region) =>
      (p.1, { p.2 with cache := p.2.cache.filter fun e => e.scope.isNone || e.job != (d, id) }) }

end Sys2Proof.Machine
end

