-- ==== Sys2Proof/Machine/Units.lean ====
section
/-!
DEFINITION. Sys2Proof/Machine/Units.lean: the engines of a region as the jobs of its cores use them: cells, LIU contexts and their
scrubs, hash engines, and the jobs that leave them (R170, R172, R175, R206, R207, R216, R269, R366).
-/

namespace Sys2Proof.Machine

/-! ### Jobs of a core -/

/-- A job of a core changed. -/
def State.setJob (s : State) (k slot : Nat) (f : Job → Job) : State :=
  s.setCore k fun K => { K with jobs := K.jobs.map fun j => if j.slot = slot then f j else j }

def State.job (s : State) (k slot : Nat) : Option Job := (s.core k).jobs.find? fun j => j.slot = slot

/-- Jobs of a region that wait for an engine of a kind, with their cores. -/
def State.jobsWaiting (s : State) (r : Nat) (kind : EngineKind) : List (Nat × Job) :=
  (List.range 12).flatMap fun b =>
    ((s.core (12 * r + b)).jobs.filter fun j => j.kind = kind && j.ended.isNone && !j.started).map fun j => (12 * r + b, j)

/-- The first job of a domain among those that wait, in SEQ order of their commands (R100). -/
def headOf (l : List (Nat × Job)) (d : Nat) : Option (Nat × Job) :=
  (l.filter fun p => p.2.dom = d).foldl (fun b p => match b with
    | some q => if q.2.id.getD 0 ≤ p.2.id.getD 0 then b else some p
    | none => some p) none

/-- The units of four that a job may go to, from the one after its last: after a failed check another one (R214, R366). -/
def Job.units (j : Job) : List Nat :=
  ((List.range 4).map fun i => (j.lastUnit + 1 + i) % 4).filter fun u => j.tried = [] || u != j.lastUnit

/-! ### Cells (R170, R172, R175) -/

/-- A cell without a run. -/
def Cell.freed (c : Cell) : Cell :=
  { c with state := if c.state = .quarantined || c.state = .retired then c.state else .idle, key := [], core := 0, job := 0, run := 0, from_ := 0, blocks := 0 }

/-- Cell cycles in ns, at the nominal 1.5 GHz; SHED halves the clocks (R170, R374). -/
def State.cellNs (s : State) (n : Nat) : Nat := ceilDiv (2 * n * (if s.tamper.shed then 2 else 1)) 3

/-- A cell that has ended its run or given it up: its key register is cleared in 4 cycles (R172). -/
def Cell.cleared (c : Cell) (t : Nat) : Cell :=
  if c.state = .loading || c.state = .running then { c.freed with state := .clearing, until_ := t } else c.freed

/-- The state of a cell at an instant: LOADING and CLEARING end with their cycle counts (Table 7-2). -/
def Cell.phase (c : Cell) (now : Nat) : CellState :=
  match c.state with
  | .loading => if c.until_ ≤ now then .running else .loading
  | .clearing => if c.until_ ≤ now then .idle else .clearing
  | x => x

def State.cellState (s : State) (n : Nat) : CellState := (s.cell n).phase s.now

/-- A cell that holds a run. -/
def State.atWork (s : State) (n : Nat) : Bool := (s.cell n).state = .loading || (s.cell n).state = .running

/-- The cells of a block that hold runs of a job. -/
def State.cellsOf (s : State) (k slot : Nat) : List Nat :=
  ((List.range 24).map fun i => 24 * k + i).filter fun n => s.atWork n && (s.cell n).job = slot

/-- Blocks of a cell job that cells are working on. -/
def State.blocksOut (s : State) (k slot : Nat) : Nat := ((s.cellsOf k slot).map fun n => (s.cell n).blocks).sum

/-- Blocks of a cell job still to be checked: all that its later runs have, where they follow one another. -/
def State.blocksLeft (s : State) (k : Nat) (j : Job) : Nat :=
  if j.serial then j.runs else (j.waiting.map fun (x : Nat × Nat × Nat) => x.2.2).sum + s.blocksOut k j.slot

/-! ### LIU contexts (R206, R207, R216) -/

/-- A job whose estimate is 20 µs or less. -/
def Job.short (j : Job) : Bool := j.cost ≤ 20000

/-- Contexts of an LIU that hold jobs, with the jobs. -/
def State.residents (s : State) (l : Nat) : List (Nat × Nat × Job) :=
  (List.range 4).filterMap fun x =>
    if Tab.get (s.liu l).contexts 0 x = 1 then
      let o := Tab.get (s.liu l).owners (0, 0) x
      (s.job o.1 o.2).map fun j => (x, o.1, j)
    else none

/-- The job among some that has waited longest. -/
def oldestOf : List (Nat × Nat × Job) → Option (Nat × Nat × Job)
  | [] => none
  | x :: xs => match oldestOf xs with | some y => if x.2.2.since ≤ y.2.2.since then some x else some y | none => some x

/-- The LIU chooses its next work: the oldest short job, but for a long one after four short jobs; else the long job that has waited
longest. -/
def State.chooseWork (s : State) (l : Nat) : State :=
  let res := s.residents l
  let short := oldestOf (res.filter fun x => x.2.2.short)
  let long := oldestOf (res.filter fun x => !x.2.2.short)
  let n := (s.liu l).shorts
  match short, long with
  | some x, none => s.setLiu l fun u => { u with running := some x.1, shorts := n + 1 }
  | some x, some y =>
    if n ≥ 4 then s.setLiu l fun u => { u with running := some y.1, shorts := 0 } else s.setLiu l fun u => { u with running := some x.1, shorts := n + 1 }
  | none, some y => s.setLiu l fun u => { u with running := some y.1, shorts := 0 }
  | none, none => s.setLiu l fun u => { u with running := none }

/-- Bytes of a context (R200). -/
def contextBytes : Nat := 16384

/-- A job leaves its context, and the scrub begins: the first pass overwrites the context with output of the region's blinding DRBG (R216). At its
limit of 2^48 calls without a seed the DRBG still serves this call, and while it is not instantiated the memory keeps what it held.
DESIGN CHOICE of both (log entry 69): the spec has only private-key jobs wait (R240). -/
def State.leaveContext (s : State) (l x : Nat) : State :=
  let (b, s) := s.blind (l / 4) [contextBytes]
  s.setLiu l fun u =>
    { u with contexts := Tab.put u.contexts 0 x 2, running := if u.running = some x then none else u.running
             memory := match b with | some b => Tab.put u.memory [] x b | none => u.memory }

/-- The contexts of an LIU whose jobs leave: those of some cores. -/
def Liu.holds (l : Liu) (mine : Nat → Bool) : List Nat :=
  (List.range 4).filter fun x => Tab.get l.contexts 0 x = 1 && mine (Tab.get l.owners (0, 0) x).1

/-- An LIU whose array serves nothing chooses among the jobs that remain (R207). -/
def State.goOn (s : State) (l : Nat) : State :=
  if (s.liu l).running.isNone && (s.liu l).state = .service then s.chooseWork l else s

/-! ### Hash engines (R269, R366) -/

def HashEngine.freed (h : HashEngine) : HashEngine := { h with busy := none }

/-- Hash engines of a region that work for a domain, and its cap. -/
def State.hashesUsed (s : State) (r d : Nat) : Nat :=
  ((List.range 4).filter fun i => match (s.hash (4 * r + i)).busy with
    | some x => (match s.job x.1 x.2 with | some j => j.dom = d | none => false)
    | none => false).length

def State.capHash (s : State) (d : Nat) : Nat := if d < 256 then (s.dom d).conf.capHash else 4

/-- A hash engine for a job. -/
def State.hashFor (s : State) (r : Nat) (j : Job) : Option Nat :=
  j.units.find? fun u => (s.hash (4 * r + u)).state = .service && (s.hash (4 * r + u)).busy.isNone

/-- The region arbiter gives one waiting hash job its engine (R100, R269): domains in turn, each below CAP_HASH. -/
def State.feedHash (s : State) (r : Nat) : State :=
  let l := s.jobsWaiting r .hash
  let next := ((List.range 257).map fun i => ((s.region r).lastHashDom + 1 + i) % 257).findSome? fun d =>
    if s.hashesUsed r d < s.capHash d then (headOf l d).filter fun p => (s.hashFor r p.2).isSome else none
  match next with
  | none => s
  | some (k, j) =>
    match s.hashFor r j with
    | none => s
    | some u =>
      let s := s.setJob k j.slot fun j => { j with started := true, lastUnit := u, since := s.now }
      let s := s.setHash (4 * r + u) fun h => { h with busy := some (k, j.slot) }
      s.setRegion r fun R => { R with lastHashDom := j.dom }

/-- Every hash engine of a region that is free takes a job. -/
def State.feedHashes (s : State) (r : Nat) : State := (List.range 4).foldl (fun s _ => s.feedHash r) s

/-! ### Jobs that leave (R74, R172, R205, R216) -/

/-- The engines lose the jobs of some cores, whose job-scoped keys are scrubbed; the LIUs choose, and the hash engines take, other
jobs. -/
def State.dropJobs (s : State) (mine : Nat → Bool) : State :=
  let t := s.now + s.cellNs 4
  let held := s.lius.flatMap fun (p : Nat × Liu) => (p.2.holds mine).map fun x => (p.1, x)
  let s := { s with
    cells := s.cells.map fun (p : Nat × Cell) => (p.1, if mine (p.1 / 24) then p.2.cleared t else p.2)
    hashes := s.hashes.map fun (p : Nat × HashEngine) =>
      (p.1, match p.2.busy with | some x => if mine x.1 then p.2.freed else p.2 | none => p.2)
    cores := s.cores.map fun (p : Nat × Core) =>
      (p.1, if mine p.1 then { p.2 with jobs := p.2.jobs.filter fun j => j.ended.isSome && !j.firmware } else p.2) }
  let s := held.foldl (fun s p => s.leaveContext p.1 p.2) (s.scrubScoped mine)
  let s := (s.lius.map (·.1)).foldl State.goOn s
  (List.range 8).foldl (fun s r => s.feedHashes r) s

end Sys2Proof.Machine
end

