-- ==== Sys2Proof/Machine/Run.lean ====
section
/-!
DEFINITION. Sys2Proof/Machine/Run.lean: how the meaning of an opcode runs on a started command (R22 stages 5 and 6, R55),
and the checks of approvals that precede a management command (R163, R164).
-/

namespace Sys2Proof.Machine

/-! ### Engine calls (R194, R220, R255 to R271; log entry 69) -/

/-- The key of an engine call: none; that of a key reference at an offset of the parameter block, or the child of its path (R177); that of an
entry slot; an intermediate key (R251); the Key of the domain's DRBG (R235). -/
inductive CallKey where
  | none
  | ref (offset : Nat)
  | slot (slot : Nat)
  | held (key : Held)
  | drbg

/-- An engine call that a command makes: its operation, function or algorithm (Tables 7-4, 8-3 and 11-10), the algorithm of its key, the LENGTH
of an LIU job's key or its OPERAND_LEN, the bytes it works on, the further bits of a cell job's CONTROL or the EXP_LEN of a modular function,
BLOCK_START, counter block or sector number; whether each of its blocks is a job that follows from the one before. -/
structure Call where
  kind : EngineKind := .cell
  func : Nat
  alg : Nat := 0
  length : Nat := 0
  bytes : Nat := 0
  control : Nat := 0
  start : Nat := 0
  iv : Nat := 0
  chain : Bool := false
  key : CallKey := .none

/-- Bytes of a cipher block under an algorithm. -/
def cipherSize (alg : Nat) : Nat := if alg = 4 || alg = 5 then 8 else 16

/-- ECB_ENC, or ECB_DEC, of some independent blocks in one job. -/
def ecbCall (dec : Bool) (alg : Nat) (key : CallKey) (blocks : Nat) : Call :=
  { func := if dec then 2 else 1, alg := alg, bytes := blocks * cipherSize alg, key := key }

/-- The same as a chain of one-block jobs, each of which follows from the one before. -/
def chainCall (dec : Bool) (alg : Nat) (key : CallKey) (blocks : Nat) : Call := { ecbCall dec alg key blocks with chain := true }

/-- A hash job of a HASH code, or of 0x10 plus the algorithm of an HMAC key. -/
def hashCall (alg bytes : Nat) : Call := { kind := .hash, func := alg, bytes := bytes }

/-- An LIU job of a function for a key of an algorithm and length. -/
def liuCall (func alg length : Nat) : Call := { kind := .liu, func := func, alg := alg, length := length }

/-- The block steps of SP 800-38F over a plaintext of some bytes: one block for KWP of up to 8 bytes, else six for each 8 bytes. -/
def wrapCall (dec : Bool) (alg : Nat) (key : CallKey) (bytes : Nat) : Call :=
  if bytes ≤ 8 then ecbCall dec alg key 1 else chainCall dec alg key (6 * ceilDiv bytes 8)

/-- Cell cycles of a key load, and of a block (Table 7-1). -/
def loadCycles (alg : Nat) : Nat :=
  match alg with
  | 1 => 56 | 2 => 72 | 3 => 88 | 0x0A => 112 | 0x0B => 176 | _ => 24

def blockCycles (alg : Nat) : Nat :=
  match alg with
  | 1 | 0x0A => 216 | 2 => 260 | 3 | 0x0B => 304 | _ => 420

/-- The time of a cell call by R192 and Table 7-6, in ns, with 24 cells that share its runs of 64 blocks; XTS takes the time of T besides. -/
def Call.time (x : Call) : Nat :=
  let n := ceilDiv x.bytes (cipherSize x.alg)
  let xts := x.alg = 0x0A || x.alg = 0x0B
  let most := if xts then min 64 (x.control / 2 ^ 32 + 1) else 64
  let run := fun m => loadCycles x.alg + (m + 1 + b2n xts) * blockCycles x.alg + 4
  ceilDiv (2 * (if x.chain then n * run 1 else ceilDiv (ceilDiv n most) 24 * run (min n most))) 3

/-- What a command computes: its output, its DETAIL, the changes its commit point applies, the intermediate keys that it keeps as job-scoped
entries until then (R251), the engine calls that it makes, and the failure of a check that is made only once they have been computed: of a
secret value (R251), or of an LIU (R211). -/
structure Result where
  out : Bytes := []
  detail : Nat := 0
  effects : List Effect := []
  held : List Held := []
  calls : List Call := []
  late : Option Fail := none

/-- A result, or the first failing check. -/
abbrev Work := Except Fail Result

/-- A computation that keeps intermediate keys. -/
def Work.keep (w : Work) (l : List Held) : Work := w.map fun r => { r with held := r.held ++ l }

/-- A computation that makes engine calls. -/
def Work.calling (w : Work) (l : List Call) : Work := w.map fun r => { r with calls := r.calls ++ l }

/-- A failure after engine calls. -/
def Work.failing (f : Fail) (l : List Call) : Work := .ok { late := some f, calls := l }

/-- An intermediate key of a usage and an algorithm, in an owner's share. -/
def held (owner usage alg : Nat) (value : Bytes) : Held :=
  { owner := owner, attr := { usage := usage, alg := alg, length := 8 * value.length }, value := value }

/-- The value of a list of checks followed by a computation. -/
def checked (l : List (Option Fail)) (w : Work) : Work :=
  match firstFail l with
  | some f => .error f
  | none => w

/-- Output longer than the descriptor allows (R55); on a command applied from a twin record the primary's status says so. -/
def Cmd.tooLong (c : Cmd) (n : Nat) : Bool := if c.twinDigest.isSome then c.twinStatus = eOutputSpace else n > c.outSpace

/-- A command with its result: E_OUTPUT_SPACE where the output is longer than the descriptor allows (R55). -/
def Cmd.finish (c : Cmd) (w : Work) : Cmd :=
  match w with
  | .error f => c.failWith f
  | .ok r =>
    if let some f := r.late then c.failWith f
    else if c.tooLong r.out.length then { c.failWith (eOutputSpace, 0) with resultLen := r.out.length }
    else { c with phase := .computed, status := sOk, detail := r.detail, output := r.out, resultLen := r.out.length
                  effects := r.effects }

/-- The keys that a command has kept, as they stood at its serial position. -/
def State.withKeysOf (s : State) (c : Cmd) : State :=
  c.preKeys.foldl (fun s x => match x.2.2 with | some (a, v) => s.writeKey x.1 x.2.1 a v | none => s.dropKey x.1 x.2.1) s

/-- The state a command computes from: as it is, or, for a command executed again past its commit point, with the keys it declares as
they stood before that point (R26, R76). -/
def State.before (s : State) (c : Cmd) : State := if c.redo then s.withKeysOf c else s

/-! ### Efori's engine jobs (R194, R220, R240, R269) -/

/-- The core of the block that an operational command runs on. -/
def Cmd.core (c : Cmd) : Nat := 12 * c.region + c.block

/-- The random values of a private-key computation, in bytes each (R209 Table 8-4): RSA's r_p, r_q and r; a scalar's r and the projective Z; the
Z of a ladder; the s_1 and Z of an Edwards signature; twice for an agreement, whose check computes Z again (Table 8-5). -/
def blindValues (func alg length : Nat) : List Nat :=
  let field := if alg = 0x20 || alg = 0x25 || alg = 0x23 then 32 else if alg = 0x21 then 48 else if alg = 0x22 then 66 else if alg = 0x24 then 57 else 56
  let once : List Nat :=
    if alg = 0x10 then [8, 8, length / 8]
    else if alg = 0x20 || alg = 0x21 || alg = 0x22 then [8, field]
    else if alg = 0x23 || alg = 0x24 then [field, field]
    else if alg = 0x25 || alg = 0x26 then [field]
    else []
  if func = 0x01 || func = 0x03 then once else if func = 0x05 || func = 0x06 then once ++ once else []

/-- A function that computes with a private key (R208, R240). -/
def liuPrivate (func : Nat) : Bool := [0x01, 0x03, 0x05, 0x06, 0x08].contains func

/-- The engine job of a command at its end: cells are cleared, a context is scrubbed, a hash engine is free; what the counters have not seen of it is
counted. A job that no unit had taken yet has had its turn within the row. -/
def State.endFirmwareJob (s : State) (k : Nat) (j : Job) : State :=
  match j.kind with
  | .cell =>
    let s := s.count 0 k 0x10 (some j.dom) (s.blocksLeft k j)
    (s.cellsOf k j.slot).foldl (fun s n => s.setCell n fun c => c.cleared (s.now + s.cellNs 4)) s
  | .liu =>
    let s := s.count 1 (k / 12) 0x22 (some j.dom) 1
    if j.started then (s.leaveContext (4 * (k / 12) + j.lastUnit) j.context).goOn (4 * (k / 12) + j.lastUnit)
    else (s.blind (k / 12) (j.blinds ++ [contextBytes])).2
  | .hash =>
    let s := s.count 1 (k / 12) 0x23 (some j.dom) j.blocks
    if j.started then s.setHash (4 * (k / 12) + j.lastUnit) HashEngine.freed else s

/-- A job that Efori holds for a command. -/
def Job.serves (j : Job) (d id : Nat) : Bool := j.firmware && j.dom = d && j.id = some id

/-- Every engine job that Efori holds for a command ends with the command's row. -/
def State.endFirmware (s : State) (d : Nat) (c : Cmd) : State :=
  let k := c.core
  let l := (s.core k).jobs.filter fun j => j.serves d c.id
  if l = [] then s
  else
    let s := l.foldl (fun s j => s.endFirmwareJob k j) s
    (s.setCore k fun K => { K with jobs := K.jobs.filter fun j => !j.serves d c.id }).feedHashes (k / 12)

/-- Operations whose LIU job computes with a private key. -/
def privateOp (code : Nat) : Bool := [0x1601, 0x1702, 0x1703, 0x1704, 0x1705, 0x1706, 0x1708].contains code

/-- A private-key job waits while the blinding DRBG of its region cannot serve it (R240). -/
def State.blindWaits (s : State) (c : Cmd) : Bool := privateOp c.entry.opcode && !s.blindReady c.region 8

/-- The module once a command has computed: its engine jobs end, and its intermediate keys stand as job-scoped entries until its commit
point (R251). -/
def State.worked (s : State) (d : Nat) (c : Cmd) (w : Work) : State :=
  match w with
  | .ok r => (s.endFirmware d c).holdKeys c.core (d, c.id) r.held
  | .error _ => s.endFirmware d c

/-- The row of an opcode on a started command of that opcode; any other command is unchanged. -/
def State.runOp (s : State) (code d id : Nat) (f : State → Cmd → Work) : Answer :=
  match s.cmd d id with
  | none => .next s
  | some c =>
    if c.phase = .running && c.entry.opcode = code && !s.blindWaits c then
      let w := f (s.before c) c
      .next ((s.worked d c w).setCmd d id fun c => c.finish w)
    else .next s

/-- The result of a management command behind the checks of its own entry (R13, R163). -/
def Cmd.ownChecks (c : Cmd) (w : Work) : Work := match entryZero c.raw with | some f => .error f | none => w

/-- The approval floor of a domain written for a command that carries approvals, with its journal entry (R164, R357). -/
def State.flooredFor (s : State) (d : Nat) (c : Cmd) (as : List Approval) : State :=
  if as = [] then s
  else (s.setDom d fun D => { D with roster := { D.roster with floors := D.roster.floors.put (c.seq + 1) } }).journal .floorWrite d c.seq
    (leBytes 8 (c.seq + 1))

/-- The row of a management opcode: its approvals are checked first, and the approval floor is written before any
effect (R163, R164). A twinned secondary does not check approvals again (R85). -/
def State.runMgmt (s : State) (code d id : Nat) (f : Cmd → List Approval → Work) : Answer :=
  match s.cmd d id with
  | none => .next s
  | some c =>
    if c.phase = .running && c.entry.opcode = code then
      if c.twinDigest.isSome then .next (s.setCmd d id fun c => c.finish (c.ownChecks (f c [])))
      else match s.checkApprovals d c with
      | .error e => .next (s.setCmd d id fun c => c.failWith e)
      | .ok as =>
        .next ((s.flooredFor d c as).setCmd d id fun c => { c.finish (c.ownChecks (f c as)) with floored := c.floored || as != [] })
    else .next s

/-- The row of a management opcode that goes on over several rows: its approvals are checked, and the floor written, at
its first one. -/
def State.runStaged (s : State) (code d id : Nat) (f : State → Cmd → State) : Answer :=
  match s.cmd d id with
  | none => .next s
  | some c =>
    if c.phase = .running && c.entry.opcode = code then
      if c.stage > 0 then .next (f s c)
      else
        match s.checkApprovals d c with
        | .error e => .next (s.setCmd d id fun c => c.failWith e)
        | .ok as =>
          let s := (s.flooredFor d c as).setCmd d id fun c => { c with floored := c.floored || as != [] }
          match entryZero c.raw with
          | some e => .next (s.setCmd d id fun c => c.failWith e)
          | none => .next (f s c)
    else .next s

/-- Whether a command of an opcode runs. -/
def State.runs (s : State) (code d id : Nat) : Bool :=
  match s.cmd d id with
  | none => false
  | some c => c.phase = .running && c.entry.opcode = code

/-- The state in which the engine jobs of a running command of an opcode have ended. -/
def State.endCalls (s : State) (code d id : Nat) : State :=
  match s.cmd d id with
  | some c => if c.phase = .running && c.entry.opcode = code then s.endFirmware d c else s
  | none => s

/-- The state after a free value has been taken by a running command of an opcode. -/
def State.freed (s : State) (code d id : Nat) : State := if s.runs code d id then { s with free := s.free + 1 } else s

/-- Random bytes of a command expanded from its assigned output (R72). -/
def Cmd.stream (c : Cmd) (n : Nat) : Bytes := shake256 (c.drawn.getD []) n

/-- The first of a list of fields, by offset, whose condition fails. -/
def fields (status : Nat) (l : List (Nat × Bool)) : Option Fail :=
  (l.find? fun x => !x.2).map fun x => (status, x.1)

/-- A field of a block that must be zero. -/
def zeroAt (p : Bytes) (o n : Nat) : Nat × Bool := (o, allZero (slice p o n))

end Sys2Proof.Machine
end

