-- ==== Sys2Proof/Machine/Officers.lean ====
section
/-!
DEFINITION. Sys2Proof/Machine/Officers.lean: the officer commands of group 0x05 (R155 to R159, R167).
-/

namespace Sys2Proof.Machine

/-- An officer record (R156 Table 6-2). -/
def Officer.bytes (o : Officer) (index : Nat) : Bytes :=
  leBytes 1 index ++ leBytes 1 o.role ++ leBytes 1 o.alg ++ [0] ++ leBytes 2 o.pub.length ++ zeros 10 ++
    slice o.label 0 16 ++ padTo 16 o.pub

/-- The 16 bytes of a quorum table: byte r is M of role r (R167). -/
def Roster.table (r : Roster) : Bytes := (List.range 16).map fun i => BitVec.ofNat 8 (Tab.get r.quorum 0 i)

/-- The officers of a role. -/
def Roster.count (r : Roster) (role : Nat) : Nat := (r.officers.filter fun p => p.2.role = role).length

/-- The first role whose M would be 1, or that would have officers and fewer than its M (R157). -/
def Roster.broken (r : Roster) (m : Nat → Nat) : Option Nat :=
  [1, 2, 3, 4, 5, 6].find? fun i => m i = 1 || (0 < r.count i && r.count i < m i)

/-- The length of an officer's public key. -/
def officerLen (alg : Nat) : Nat := if alg = 0x21 then 97 else 1952

/-- OFFICER_ADD up to its effect (R156). -/
def officerAddWork (s : State) (d : Nat) (c : Cmd) : Work :=
  let p := c.param
  let r := (s.dom d).roster
  let i := byteAt p 0
  let alg := byteAt p 2
  let n := field p 4 2
  let pub := slice p 32 n
  let o : Officer := { role := byteAt p 1, alg := alg, label := slice p 16 16, pub := pub }
  checked [
    need (r.officers.length < 16) eRosterFull 0,
    fields eOfficerParam [
      (0, i ≤ 15 && (Tab.find r.officers i).isNone),
      (1, 1 ≤ byteAt p 1 && byteAt p 1 ≤ (if d = operator then 6 else 4)),
      (2, alg = 0x21 || alg = 0x31), (4, n = officerLen alg), (32, allZero (p.drop (32 + n)))],
    (publicCheck alg (if alg = 0x21 then 384 else 65) pub).map fun st => (st, 0),
    (r.officers.find? fun o => o.2.pub = pub).map fun o => (eOfficerDuplicate, o.1)]
    (.ok { effects := [.roster { r with officers := Tab.insert r.officers i o }] })

/-- OFFICER_ADD (R156). -/
def execOfficerAdd (dom id : Nat) (s : State) : Answer := s.runMgmt 0x0501 dom id fun c _ => officerAddWork s dom c

/-- OFFICER_REMOVE up to its effect (R157). -/
def officerRemoveWork (s : State) (d : Nat) (c : Cmd) : Work :=
  let r := (s.dom d).roster
  let i := byteAt c.param 0
  match Tab.find r.officers i with
  | none => .error (eOfficerParam, 0)
  | some _ =>
    let left := { r with officers := Tab.erase r.officers i }
    checked [need (i ≤ 15) eOfficerParam 0,
      (left.broken fun role => Tab.get r.quorum 0 role).map fun role => (eQuorumBreak, role)]
      (.ok { effects := [.roster left] })

/-- OFFICER_REMOVE (R157). -/
def execOfficerRemove (dom id : Nat) (s : State) : Answer :=
  s.runMgmt 0x0502 dom id fun c _ => officerRemoveWork s dom c

/-- QUORUM_SET up to its effect (R157, R167). -/
def quorumSetWork (s : State) (d : Nat) (c : Cmd) : Work :=
  let r := (s.dom d).roster
  let m := fun role => byteAt c.param role
  checked [
    fields eOfficerParam ([1, 2, 3, 4, 5, 6].map fun i => (i, d = operator || i < 5 || m i = 0)),
    (r.broken m).map fun i => (eQuorumBreak, i)]
    (.ok { effects := [.roster { r with quorum := [1, 2, 3, 4, 5, 6].foldl (fun t i => Tab.put t 0 i (m i)) [] }] })

/-- QUORUM_SET (R157). -/
def execQuorumSet (dom id : Nat) (s : State) : Answer := s.runMgmt 0x0503 dom id fun c _ => quorumSetWork s dom c

/-- ROSTER_SEAL (R158). -/
def execRosterSeal (dom id : Nat) (s : State) : Answer :=
  s.runMgmt 0x0504 dom id fun _ _ =>
    let r := (s.dom dom).roster
    checked [need (!r.isSealed) eRosterSealed 0] (.ok { effects := [.roster { r with isSealed := true }] })

/-- ROSTER_READ (Table 6-7). -/
def execRosterRead (dom id : Nat) (s : State) : Answer :=
  s.runMgmt 0x0505 dom id fun _ _ =>
    let r := (s.dom dom).roster
    .ok { out := leBytes 1 (b2n r.isSealed) ++ leBytes 1 r.officers.length ++ zeros 2 ++ leBytes 4 r.incarnation ++
            leBytes 8 r.floor ++ r.table ++ r.officers.flatMap fun p => p.2.bytes p.1 }

end Sys2Proof.Machine
end

