-- ==== Sys2Proof/Machine/Post.lean ====
section
/-!
DEFINITION. Sys2Proof/Machine/Post.lean: completions and their messages (R56, R57), the digest chain (R78 to R80), the
records a twinned primary forwards (R85, R86), and commands that are cut off (R27, R108).
-/

namespace Sys2Proof.Machine

/-! ### Completions (R56, R57) -/

/-- What a completion says, and the PASID that its write carries (R51). -/
structure Completion where
  seq : Nat
  status : Nat
  detail : Nat := 0
  len : Nat := 0
  digest : Option Bytes := none
  noIrq : Bool := false
  pasid : Option Nat := none

/-- The 32 bytes of a completion (Table 2-12). -/
def Completion.bytes (x : Completion) (queue : Nat) (phase : Bool) : Bytes :=
  leBytes 8 x.seq ++ leBytes 2 x.status ++ leBytes 2 x.detail ++ leBytes 3 x.len ++
    leBytes 1 (32 * b2n x.digest.isSome + 2 * queue + b2n phase) ++ slice (x.digest.getD []) 0 16

/-- The message a queue owes after a completion without NO_IRQ (R57). -/
def State.aggregate (s : State) (d q : Nat) (now : Bool) : State :=
  let Q := (s.dom d).queue q
  if Q.aggWaiting ≥ Q.aggCount then
    (s.setDom d fun D => D.setQueue q fun Q => { Q with aggWaiting := 0, aggSince := none }).message Q.vector now
  else
    let t := s.setDom d fun D => D.setQueue q fun Q =>
      { Q with aggWaiting := Q.aggWaiting + 1, aggSince := if Q.aggSince.isNone then some s.now else Q.aggSince }
    if Q.aggSince.isNone then t.journalTimer d s.now else t

/-- The queue after a completion has taken a slot: the phase flips when its tail wraps (R41). -/
def Queue.advance (Q : Queue) : Queue :=
  if Q.cqTail + 1 = 2 ^ Q.sizeLog2 then { Q with cqTail := 0, phase := !Q.phase } else { Q with cqTail := Q.cqTail + 1 }

/-- A completion written to the next slot of its queue, with its message; `now` passes a warden gap (R27, R356). -/
def State.post (s : State) (d q : Nat) (x : Completion) (now : Bool := false) : State :=
  let Q := (s.dom d).queue q
  if Q.state = .absent then s
  else
    let o : HostOut := .completion d x.pasid q (Q.cqAddr + 32 * Q.cqTail) (x.bytes q Q.phase)
    let s := s.setDom d fun D => D.setQueue q Queue.advance
    let s := if now then s.emitNow o else s.emit o
    if x.noIrq then s else s.aggregate d q now

/-! ### The trail entries of a management command (R412) -/

/-- Severity of a management command's entry. -/
def mgmtSeverity (code : Nat) : Nat := if [4, 5, 9, 10].contains (groupOf code) then security else notice

/-- The entry of a management command, with the first bytes of its CMD_DIGEST; it reaches MRAM first where the command changes state (R414). -/
def State.mgmtLog (s : State) (d : Nat) (e : Entry) (seq status : Nat) (digest : Bytes) : State :=
  s.trailAs e.opcode (domOrigin d) (mgmtSeverity e.opcode) 0
    (leBytes 8 seq ++ leBytes 2 (if d < 256 then d else 0x0100) ++ leBytes 2 status ++ leBytes 4 e.handle0 ++ digest)
    (changesState e.opcode) 0

/-- The entry of a placed command, at its commit or its failure. -/
def State.mgmtEntry (s : State) (d : Nat) (c : Cmd) : State :=
  if c.entry.mgmt then s.mgmtLog d c.entry c.seq c.status (c.digestOf.take 8) else s

/-- An entry refused before placement (R45); the CMD_DIGEST of a management command whose parameter block is never read is a free value. -/
def State.refuse (s : State) (d q : Nat) (e : Entry) (f : Fail) : State :=
  let s := if e.mgmt then (s.fresh 8).2.mgmtLog d e e.seq f.1 (s.fresh 8).1 else s
  s.post d q { seq := e.seq, status := f.1, detail := f.2, noIrq := e.noIrq, pasid := s.pasidOf d }

/-- A placed command's completion is written, unless its queue is gone, and the command leaves the module. -/
def State.finishCmd (s : State) (d : Nat) (c : Cmd) : State :=
  let s := s.setDom d fun D => { D with cmds := D.cmds.filter fun x => x.id != c.id }
  let s := if c.noPost || c.posted then s
    else s.post d c.queue { seq := c.seq, status := c.status, detail := c.detail, len := c.resultLen
                            digest := c.digest, noIrq := c.entry.noIrq, pasid := c.cond.pasid }
  s.busyTimer d

/-! ### The digest chain (R77 to R80) -/

/-- D_0 (R78). -/
def chainStart : Bytes := sha384 (ascii "KALLAN-STATE-V01")

/-- D, the last digest of a domain's chain. -/
def Dom.chain (D : Dom) : Bytes := if D.digest = [] then chainStart else D.digest

/-- A delta record: its canonical handle, KIND and payload (R80 Table 3-5). -/
abbrev DeltaRec := Nat × Nat × Bytes

/-- A record put before the first one of a higher handle, or of the same handle and a higher KIND. -/
def insertRec (x : DeltaRec) : List DeltaRec → List DeltaRec
  | [] => [x]
  | y :: ys => if x.1 < y.1 || (x.1 = y.1 && x.2.1 < y.2.1) then x :: y :: ys else y :: insertRec x ys

def deltaBytes (l : List DeltaRec) : Bytes :=
  (l.foldl (fun a x => insertRec x a) []).flatMap fun (h, k, p) => leBytes 1 k ++ zeros 3 ++ leBytes 4 h ++ p

/-- The attribute record whose SHA-384 a delta record holds (R80 Table 3-5). On a twinned secondary it is the primary's
record, whose handle names the primary's pitch, so that the two chains agree.
DEDUCED (log entry 25). -/
def Cmd.attrHashed (c : Cmd) (D : Dom) (a : Attr) : Attr :=
  if c.twinDigest.isSome then { a with handle := canonical a.handle + D.twin.peer * 16777216 } else a

/-- The delta records of a state change. -/
def Effect.delta (D : Dom) (c : Cmd) : Effect → List DeltaRec
  | .keyPut _ h a v _ =>
    [(canonical h, 1, (hmacSha384 D.kDig v).take 16), (canonical h, 2, sha384 (c.attrHashed D a).bytes)]
  | .keyAttr _ h a => [(canonical h, 2, sha384 (c.attrHashed D a).bytes)]
  | .keyDrop _ h => [(canonical h, 3, [])]
  | .roster r =>
    let i := byteAt c.param 0
    match c.entry.opcode with
    | 0x0501 => match Tab.find r.officers i with | some o => [(i, 6, sha384 (o.bytes i))] | none => []
    | 0x0502 => [(i, 6, zeros 48)]
    | 0x0503 => [(0xFF, 6, sha384 r.table)]
    | _ => []
  | .twin _ => if c.entry.opcode = 0x0B02 then [(0, 5, zeros 16)] else []
  | _ => []

/-- The delta of a command: its changes, of which one that failed has none, its reservation and its calls, which stand whatever its
STATUS (R71, R72, R80). TWIN_ESTABLISH's reinstantiation is a change of the DRBG, to no call and no reseed; calls that E_ENTROPY kept
from being generated are none of the DRBG's (R239). -/
def Cmd.deltaOf (c : Cmd) (D : Dom) : Bytes :=
  deltaBytes ((if c.status = sOk then c.effects.flatMap (Effect.delta D c) else []) ++
    (match c.reserveStart with
     | some v => [(canonical (c.entry.handle c.entry.reserveSlot), 4, leBytes 12 (v + c.entry.reserveCount))]
     | none => []) ++
    (if c.draws = [] || c.entropyFail then [] else [(0, 5, leBytes 8 (c.firstCall + c.draws.length - 1) ++ leBytes 8 c.reseeds)]))

/-- The chain link of a command after a previous digest (R78 Table 3-4). -/
def Cmd.link (c : Cmd) (prev : Bytes) : Bytes :=
  prev ++ leBytes 8 c.seq ++ leBytes 2 c.entry.opcode ++
    (if c.reserveLink then leBytes 2 0xFFFF ++ sha384 c.inputs4 ++ zeros 96
     else leBytes 2 c.status ++ sha384 c.canonicalInputs ++ sha384 c.output ++ sha384 c.delta)

/-- A DIGEST_READ that the link of a later command overtakes keeps the digest of its own serial position (R21, R92). -/
def Dom.noteDigest (D : Dom) (id : Nat) : Dom :=
  { D with cmds := D.cmds.map fun x =>
      if x.entry.opcode = 0x0B08 && x.id < id && x.chainSeen.isNone then { x with chainSeen := some (D.chain, D.chainSeq) } else x }

/-- A command whose link may be computed now: it is its turn in SEQ order. -/
def Dom.linkable (D : Dom) (c : Cmd) : Bool :=
  c.phase = .linking && c.cls.chains && c.digest.isNone && !c.awaits &&
    (D.cmds.all fun x => x.id ≥ c.id || !x.mayChain || x.digest.isSome)

/-! ### The twin of a primary (R85 to R88) -/

/-- The instantiation that the next drawing record carries: personalisation string, seed and nonce; empty where none is due (R241). -/
def Dom.startDue (D : Dom) (d : Nat) : Bytes :=
  if D.twin.instSeed = [] then [] else drbgPers d D.roster.incarnation ++ D.twin.instSeed

/-- A record retained on the primary, at most 65,536 of them (R88), and sent while the pitch is ATTACHED. -/
def State.forward (s : State) (d : Nat) (c : Cmd) (digest : Bytes) : State :=
  let t := (s.dom d).twin
  if t.role != .primary || !(t.mode = .attached || t.mode = .detached) || c.entry.opcode = 0x0B02 then s
  else
    let start := if c.draws = [] then [] else (s.dom d).startDue d
    let s := if start = [] then s else s.setDom d fun D => { D with twin := { D.twin with instSeed := [] } }
    let body := c.record digest start
    let r : TwinRec := { index := t.unacked.length, seq := c.seq, kind := b2n c.reserveLink, body := body, digest := digest, since := s.now }
    let l := t.unacked ++ [r]
    let keep := l.drop (l.length - 65536)
    let lost := match (l.take (l.length - 65536)).getLast? with | some x => some x.seq | none => t.lostFrom
    let s := s.setDom d fun D => { D with twin := { D.twin with unacked := keep, lostFrom := lost
                                                                lagPaused := t.mode = .attached && (D.twin.lagPaused || keep.length ≥ t.lagMax) } }
    if t.mode = .attached && s.boot.state != .locked then s.sendMessage (leBytes 1 0 ++ leBytes 1 t.peer ++ body) else s

/-- Whether a completion waits for the twin's acknowledgement (R86). -/
def Twin.holds (t : Twin) : Bool := t.role = .primary && t.mode = .attached && !t.async

/-- The completions a primary held for its twin, written in their order (R88, R89). -/
def State.releaseTwin (s : State) (d : Nat) : State :=
  ((s.dom d).cmds.filter fun c => c.phase = .held).foldl (fun s c => s.finishCmd d c) s

/-- Trail codes of twin states and of a divergence (log entry 22). -/
def codeTwin : Nat := 0x1600

def codeDiverged : Nat := 0x1601

/-- A twin state transition: TWIN_ATTENTION and a trail entry (R81). -/
def State.twinMode (s : State) (d : Nat) (mode : TwinMode) : State :=
  if (s.dom d).twin.mode = mode then s
  else
    let s := s.setDom d fun D => { D with twin := { D.twin with mode := mode } }
    (s.log codeTwin (originOf 1 d) warning (leBytes 2 d ++ leBytes 8 (s.dom d).twin.divergedSeq)).pitchEvent d evTwin

/-- A digest mismatch at a SEQ (R89): DIVERGED, every completion held under SYNC is written, and the pitch serves on. -/
def State.diverge (s : State) (d seq : Nat) : State :=
  let s := s.setDom d fun D => { D with twin := { D.twin with divergedSeq := seq, lagPaused := false } }
  let s := s.log codeDiverged (originOf 1 d) warning (leBytes 2 d ++ leBytes 8 seq)
  ((s.twinMode d .diverged).releaseTwin d).resumePlacement d

/-- The secondary's comparison with the primary's digest: an acknowledgement, or DIVERGED on both sides (R86, R89). -/
def State.compareTwin (s : State) (d : Nat) (c : Cmd) (mine theirs : Bytes) : State :=
  let t := (s.dom d).twin
  let s := s.sendMessage (leBytes 1 5 ++ leBytes 1 t.peer ++ leBytes 8 c.seq ++ leBytes 1 (b2n (mine = theirs)))
  if mine = theirs then
    s.setDom d fun D => { D with seqNext := max (c.seq + 1) D.twin.peerNext, twin := { D.twin with acked := c.seq } }
  else s.diverge d c.seq

/-- A command whose link is due is linked: its digest joins the chain, its record goes to the twin, and its completion is
written or held for the acknowledgement (R21, R78, R85, R86). -/
def State.linkCmd (s : State) (d : Nat) (c : Cmd) : State :=
  let D := s.dom d
  let dig := sha384 (c.link D.chain)
  let s := s.setDom d fun D => ({ D.noteDigest c.id with digest := dig, chainSeq := c.seq }).setCmd c.id fun c => { c with digest := some dig }
  let c := { c with digest := some dig }
  match c.twinDigest with
  | some theirs => (s.compareTwin d c dig theirs).finishCmd d c
  | none =>
    let s := s.forward d c dig
    if c.posted || c.noPost then s.finishCmd d c
    else if (s.dom d).twin.holds && c.entry.opcode != 0x0B02 then s.setCmd d c.id fun c => { c with phase := .held }
    else s.finishCmd d c

/-! ### Commands that are cut off (R27, R108, R375) -/

/-- A command cut off before its commit point: its delta is discarded, and its job-scoped keys are scrubbed (R205); of class STATE or RESERVE it waits to link as a
RESERVE link, else it leaves the module. -/
def State.cut (s : State) (d : Nat) (c : Cmd) : State :=
  let s := s.scrubJob d c.id
  if c.cls.chains then
    s.setCmd d c.id fun c => { c with phase := .linking, aborted := true, output := [], effects := [], delta := [], resultLen := 0 }
  else s.setDom d fun D => { D with cmds := D.cmds.filter fun x => x.id != c.id }

/-- The E_ABORTED_TAMPER completion is posted at once (R27). -/
def State.abortPost (s : State) (d : Nat) (c : Cmd) (source : Nat) : State :=
  if c.noPost || c.posted || c.twinDigest.isSome then s
  else
    (s.setCmd d c.id fun c => { c with posted := true, status := eAbortedTamper, detail := source }).post d c.queue
      { seq := c.seq, status := eAbortedTamper, detail := source, noIrq := c.entry.noIrq, pasid := c.cond.pasid } true

/-- When the completions of aborted commands are posted: at once, at the end of a STRIKE's stage 3 (R380), or never. -/
inductive Posting where
  | now | later | never
  deriving DecidableEq, Repr

/-- A command aborted by a STRIKE: nothing is left of it but its STATUS and what its link needs, until its completion is posted. -/
def State.setAside (s : State) (d : Nat) (c : Cmd) : State :=
  (s.scrubJob d c.id).setCmd d c.id fun c => { c with phase := .linking, aborted := true, output := [], effects := [], delta := [], resultLen := 0 }

/-- A command aborted by a tamper response, with the entry of a management command's failure (R412). Its STATUS stays with it, so that a reboot
that the response includes loses neither its completion nor its link (R27). -/
def State.abortCmd (s : State) (source : Nat) (p : Posting) (d : Nat) (c : Cmd) : State :=
  let s := s.mgmtEntry d { c with status := eAbortedTamper }
  match p with
  | .now => (s.abortPost d c source).cut d c
  | .later => (s.setCmd d c.id fun c => { c with status := eAbortedTamper, detail := source }).setAside d c
  | .never => (s.setCmd d c.id fun c => { c with noPost := true, status := eAbortedTamper, detail := source }).cut d c

/-- Every uncommitted command of a domain aborted by a tamper response. -/
def State.abortDom (s : State) (source : Nat) (p : Posting) (only : Cmd → Bool) (d : Nat) : State :=
  let l := (s.dom d).cmds.filter fun c => !c.done && only c
  (l.foldl (fun s c => s.abortCmd source p d c) s).busyTimer d

/-- A command that a STRIKE has aborted and whose completion is still to come. -/
def Cmd.owesAbort (c : Cmd) : Bool := c.aborted && c.status = eAbortedTamper && c.digest.isNone && !c.posted && !c.noPost

/-- The completions of the commands that a STRIKE aborted, posted where the host link is up (R380). -/
def State.postAborted (s : State) : State :=
  if !s.host.linkUp then s
  else s.foldDoms (allDoms.filter fun d => (s.dom d).cmds != []) fun s d =>
    ((s.dom d).cmds.filter Cmd.owesAbort).foldl (fun s c => s.abortPost d c c.detail) s

/-- A STRIKE_HALT turns the end of a STRIKE into the halt: completions not yet posted are posted no more (R374, R380). -/
def State.dropAborted (s : State) : State :=
  { s with doms := s.doms.map fun p => (p.1, { p.2 with cmds := p.2.cmds.map fun c => if c.owesAbort then { c with noPost := true } else c }) }

/-- Cancelled commands post nothing (R108). -/
def State.cancelDom (s : State) (d : Nat) : State :=
  let l := (s.dom d).cmds.filter fun c => !c.done && c.twinDigest.isNone
  (l.foldl (fun s c => (s.setCmd d c.id fun c => { c with noPost := true }).cut d c) s).busyTimer d

/-- Commands fetched from a queue and not completed (R40, Table 2-17). -/
def Dom.inFlight (D : Dom) (q : Nat) : Nat :=
  (D.waiting.filter fun w => w.queue = q).length +
    (D.cmds.filter fun c => c.queue = q && !c.posted && !c.noPost && c.twinDigest.isNone).length

/-- Completions of a queue that the host has not consumed. -/
def Queue.unconsumed (Q : Queue) : Nat := (Q.cqTail + 2 ^ Q.sizeLog2 - Q.cqHead) % 2 ^ Q.sizeLog2

end Sys2Proof.Machine
end

