-- ==== Sys2Proof/Machine/Access.lean ====
section
/-!
DEFINITION. Sys2Proof/Machine/Access.lean: host accesses to the register pages: when the module answers them, their size and
alignment, and their ignored writes (R12, R30, R445, R453).
-/

namespace Sys2Proof.Machine

/-- The BARs answer: the module is powered, its link is up, Memory Space Enable is 1, the function is in D0, and the boot has
passed step 3 (R445, R492). A host-port access in BIVVY comes after the wake (R346). -/
def State.barOpen (s : State) : Bool :=
  s.boot.powered && !s.boot.held && s.host.linkUp && s.host.memSpace && !s.host.d3hot && !(s.boot.state = .booting && s.boot.step < 3)

/-- The module runs commands: on main power, not held in reset, past its boot, not HALTED. -/
def State.working (s : State) : Bool := s.boot.powered && !s.boot.held && s.boot.state != .booting && s.boot.state != .halted

/-- A naturally aligned access of 4 or 8 bytes within a register (R30). -/
def regular (offset size : Nat) : Bool := (size = 4 && (offset = 0 || offset = 4)) || (size = 8 && offset = 0)

/-- The bytes of a register that an access covers, written over its old value (R30). -/
def merged (old offset size value : Nat) : Nat := setBytes old offset size value

/-- A write to a register of the operator page at a page offset. -/
def State.opWrite (s : State) (base offset size value : Nat) (f : State → State) : Answer :=
  if !s.barOpen then .next s
  else
    let s := s.wakeModule
    if !regular offset size then .next (s.ignore (originOf 2 0) (base + offset) value) else .next (f s)

/-- A read completion of the host, after the posted writes before it (R25). -/
def State.readReply (s : State) (v : Nat) : State := s.putRaw (.value v)

/-- A read of a register: the bytes it covers; a read of another size or alignment returns zero and has no effect. -/
def State.opRead (s : State) (offset size : Nat) (f : State → Nat × State) : Answer :=
  if !s.barOpen then .next s
  else if !regular offset size then .next (s.readReply 0)
  else
    let (v, s) := f s
    .next (s.readReply (v / 256 ^ offset % 256 ^ size))

/-- A write to a register of a pitch page: the page of an ABSENT pitch ignores it (R34). -/
def State.pitchWrite (s : State) (d base offset size value : Nat) (f : State → State) : Answer :=
  if !s.barOpen then .next s
  else
    let s := s.wakeModule
    if !regular offset size || (s.dom d).mode = .absent then .next (s.ignore (originOf 1 d) (base + offset) value) else .next (f s)

end Sys2Proof.Machine
end

