-- ==== Sys2Proof/Machine/Response.lean ====
section
/-!
DEFINITION. Sys2Proof/Machine/Response.lean: the LOCK response and the STRIKE stages (R372 to R380).
-/

namespace Sys2Proof.Machine

/-! ### OTP fields (R390, R401) -/

/-- The pattern of a written field. -/
def otpPattern : BitVec 32 := 0x5A5AA5A5

/-- The first ones of the pattern that a burn sets, from the lowest bit up, 10 µs each (16 Table 16-9). -/
def otpOnes (n : Nat) : BitVec 32 :=
  (((List.range 32).filter fun i => otpPattern.getLsbD i).take n).foldl (fun v i => v ||| (1 <<< i)) 0

/-! ### The loss of main power (R390, R415, R477) -/

/-- The first source of Table R479 that stands. -/
def Supplies.ember (x : Supplies) : EmberSource :=
  if x.p3v3 then .aux else if x.vemb then .external else if x.cell then .cell else .holdup

/-- Fuse-off burns that a loss of power cuts off: the field holds the ones burned so far, reads as absent, and its source stays live (R390). -/
def LifeCycleReg.cutFuses (l : LifeCycleReg) (now : Nat) : LifeCycleReg :=
  let cut := l.fuseBurns.filter fun p => now < p.2 + 160000
  { l with fuseOff := cut.foldl (fun f p => f &&& ~~~BitVec.ofNat 10 (2 ^ p.1)) l.fuseOff
           fusePart := cut.foldl (fun t p => Tab.put t 0 p.1 (Tab.get t 0 p.1 ||| otpOnes ((now - p.2) / 10000))) l.fusePart
           fuseBurns := [] }

/-- The main domain loses its power: it stops at once, entries still in the SRAM ring are lost, and OTP burns are cut off (R379, R415, R477). -/
def State.losePower (s : State) : State :=
  let s := { s with boot := { s.boot with powered := false }, host := { s.host with linkUp := false }
                    trail := { s.trail with sram := [], unflushed := 0 }, life := s.life.cutFuses s.now }
  { s with supplies := { s.supplies with emberSource := s.supplies.ember } }

/-! ### Tables of the responses -/

/-- The tamper sources (R369). -/
def tamperSources : List Nat := List.range 10

/-- The floor of each source (R373 Table 15-3). -/
def tamperFloors : List Response := [.strike, .lock, .shed, .lock, .shed, .lock, .lock, .lock, .strike, .shed]

/-- The default of each source (R373 Table 15-3). -/
def tamperDefaults : List Response := [.strike, .strike, .lock, .strike, .lock, .strike, .strike, .lock, .strike, .lock]

def Response.ofCode : Nat → Response
  | 1 => .note | 2 => .shed | 3 => .lock | 4 => .strike | 5 => .strikeHalt | _ => .none

/-- The response in force for a source. -/
def Tamper.response (t : Tamper) (n : Nat) : Response := t.responses.getD n .none

/-- Codes of the tamper response machine and of the STRIKE sequencer (R387 Table 15-7). -/
def tamperNormal : BitVec 16 := 0xAAAA

def tamperShed : BitVec 16 := 0xCCCC

def tamperLock : BitVec 16 := 0xF0F0

def tamperStriking : BitVec 16 := 0xFF00

def tamperHalted : BitVec 16 := 0x6666

def strikeArmed : BitVec 16 := 0x5A5A

def strikeStage1 : BitVec 16 := 0x55AA

def strikeStage2 : BitVec 16 := 0x3C3C

def strikeStage3 : BitVec 16 := 0x33CC

def strikeDone : BitVec 16 := 0x0FF0

/-- Causes of LOCK other than a source, as bits of TAMPER_STICKY (R385). -/
def lockSelfTest : Nat := 11

def lockRegions : Nat := 12

def lockWarden : Nat := 13

def State.setTamper (s : State) (f : Tamper → Tamper) : State := { s with tamper := f s.tamper }

/-- A pitch enters LOCKED: ACTIVE becomes LOCKED, and a PITCH_RESET in progress ends in it (R96, R375). -/
def State.lockPitch (s : State) (p : Nat) : State :=
  if (s.dom p).mode = .active then (s.setDom p fun D => { D with mode := .locked }).pitchEvent p evLocked
  else
    let entered := (s.dom p).mode = .resetting && (s.dom p).resetFrom != .locked
    let s := s.setDom p fun D => { D with resetFrom := .locked, mode := if D.mode = .resetting then .locked else D.mode }
    if entered then s.pitchEvent p evLocked else s

/-- Sources in alarm whose response is SHED (R372). -/
def Tamper.shedding (t : Tamper) : Bool := tamperSources.any fun n => t.alarm.getLsbD n && t.response n = .shed

/-- The instant from which no source with response SHED has been in alarm (R372). -/
def Tamper.noteShed (t : Tamper) (before : Bool) (now : Nat) : Tamper :=
  { t with shedSince := if t.shedding then none else if before then some now else t.shedSince }

/-- The clocks run at half their rate, or at their own again; cycles counted so far stand (R372). -/
def State.setShed (s : State) (on : Bool) : State :=
  if s.tamper.shed = on then s
  else
    let before := s
    let s := (List.range 8).foldl (fun s r => s.setRegion r fun R => { R with cycleBase := before.regionCycles r, cycleSince := s.now }) s
    s.setTamper fun t => { t with shed := on }

/-- Twin records that a secondary executes, put back to be executed once the module has left LOCKED: their STATUS is the primary's.
DESIGN CHOICE (log entry 51). -/
def Cmd.putBack (c : Cmd) : Cmd :=
  if c.twinDigest.isSome && (c.phase = .running || c.phase = .computed) && !c.done then
    { c with phase := .ready, ran := false, stage := 0, status := 0, detail := 0, output := [], resultLen := 0, effects := [] }
  else c

/-- Every uncommitted command of the module aborted (R27, R375). While chip state is to be rebuilt after a double warden failure, management
commands wait for the rebuild, which completes them (R359). -/
def State.abortAll (s : State) (source : Nat) (p : Posting) : State :=
  let s := s.foldDoms (allDoms.filter fun d => (s.dom d).cmds != []) fun s d =>
    s.abortDom source p (fun c => c.twinDigest.isNone && !(s.guy.rebuilding && c.entry.mgmt)) d
  { s with doms := s.doms.map fun (p : Nat × Dom) => (p.1, { p.2 with cmds := p.2.cmds.map Cmd.putBack }) }

/-- Detector and first time of a source in alarm, as the entries of a response name them; 0 and this instant where no source took it. -/
def State.firstAlarm (s : State) (n : Nat) : Bytes :=
  let x := Tab.get s.tamper.since (0, s.clock.tai) n
  leBytes 1 x.1 ++ leBytes 8 x.2

/-- What LOCK does to a running module (R375): every uncommitted command is aborted, and the module and every pitch become LOCKED. The response
wakes the main domain (R382), and drives HEALTH in a warden gap too (R356). -/
def State.lockModule (s : State) (source : Nat) (p : Posting) : State :=
  let s := s.wakeModule
  if s.boot.state = .locked then s.abortAll source p
  else
    let s := ({ s with boot := { s.boot with state := .locked } }).driveHealth
    let s := s.foldDoms (List.range 256) fun s p => if (s.dom p).mode = .absent then s else s.lockPitch p
    let s := s.abortAll source p
    (s.log 0x1012 (originOf 0 0) critical (leBytes 1 3 ++ s.firstAlarm s.tamper.source)).raise 0x18C

/-- A debug unlock ends (R408). -/
def State.endDebug (s : State) : State := { s with life := { s.life with debugLevel := 0, debugPitch := 0, extest := false } }

/-- LOCK on main power: a boot in progress completes into LOCKED (R381), a running module locks at once. -/
def State.lock (s : State) (source : Nat) : State :=
  let s := s.endDebug
  if !s.boot.powered || s.boot.held then s
  else if s.boot.state = .booting then { s with boot := { s.boot with alarmed := true } }
  else s.lockModule source .now

/-- A response joins the highest taken (R385). -/
def Tamper.took (t : Tamper) (r : Response) : Tamper := { t with highest := if t.highest.code < r.code then r else t.highest }

/-- LOCK under R244, R359 or R365, with its cause flag. A STRIKE in progress goes on (R374). -/
def State.lockCause (s : State) (flag : Nat) : State :=
  let s := s.setTamper fun t => { t.took .lock with
    flags := t.flags ||| BitVec.ofNat 16 (2 ^ flag)
    machine := if t.machine = tamperStriking || t.machine = tamperHalted then t.machine else tamperLock
    inForce := if t.inForce.code < 3 then .lock else t.inForce
    source := if t.inForce.code < 3 then 0xFF else t.source }
  (s.setShed true).lock 0x00FF

/-! ### STRIKE (R377 to R381) -/

/-- Stages 1 and 2 on a domain: its DRBG state is cleared, and a pitch's root and K_DIG are gone (R151, R241). -/
def Dom.struck (D : Dom) (pitch : Bool) : Dom :=
  { D with drbg := {}, kDig := if pitch then [] else D.kDig
           cmds := D.cmds.map fun c => { c with entropyFail := c.entropyFail || c.awaits, drawn := c.drawn.map fun _ => [], reseed := none, seedUsed := none } }

/-- A region after stage 2: cache masks, job-scoped keys, DRBG states and seed pools are cleared (R120, R241). -/
def Region.struck (R : Region) : Region :=
  { R with cacheMask := zeros 32, cache := []
           entropy := { R.entropy with pool := [], window := none, blinding := {}, blindSeed := none } }

/-- Stage 1 (Table 15-4): the mask and scramble seeds are cleared, and STRIKE_OUT is asserted. -/
def State.strikeOne (s : State) : State :=
  let s := { s with ember := { s.ember with seedA := zeros 48, seedB := zeros 48, scramble := zeros 48, refreshDue := false, transportDue := true } }
  s.setTamper fun t => { t with strikeOut := true, machine := tamperStriking, sequencer := strikeStage1, striking := true, strikePending := true
                                struckBy := Tab.get t.since (0, s.clock.tai) t.source }

/-- Stage 2: the broadcast clear of cells, LIUs, caches, DRBGs and seed pools, and of the keys of IDE and of the twin link (R460, R466). -/
def State.strikeTwo (s : State) : State :=
  let s := s.setTamper fun t => { t with sequencer := strikeStage2 }
  { s with doms := s.doms.map fun p => (p.1, p.2.struck (p.1 < 256))
           regions := s.regions.map fun p => (p.1, p.2.struck)
           cells := s.cells.map fun p => (p.1, { p.2 with key := [] })
           lius := s.lius.map fun p => (p.1, { p.2 with contexts := [], owners := [], memory := [], running := none })
           link := { s.link with keys := [], oldKeys := [], kemKey := [] }
           host := { s.host with ide := s.host.ide.map fun p => (p.1, { p.2 with secure := false, sets := [] }) } }

/-- Stage 3: the EMBER array is overwritten, and core memories and region buffers are zeroed. The boot will make a new attestation key (R457). -/
def State.strikeThree (s : State) : State :=
  let s := s.setTamper fun t => { t with sequencer := strikeStage3 }
  { s with ember := { s.ember with rows := [], epochs := [] }
           regions := s.regions.map fun p => (p.1, { p.2 with buffer := [], granules := [] })
           cores := s.cores.map fun p => (p.1, { p.2 with mem := [], colours := [], jobs := [] })
           host := { s.host with attestDue := true, chainKind := 1 } }

/-- Stages 1 to 3 (R377 Table 15-4). -/
def State.strikeStages (s : State) : State := s.strikeOne.strikeTwo.strikeThree

/-- What a STRIKE does beside its stages: on main power every uncommitted command is aborted, its completion to come with stage 3 (R380); in a
boot, which goes on into LOCKED, the key records are erased in the same boot, and no stage 4 follows (R151, R381). -/
def State.struck (s : State) (halt : Bool) : State :=
  let s := (s.strikeStages.setShed true).endDebug
  let ended := fun (s : State) => s.setTamper fun t => { t with sequencer := strikeDone, striking := false }
  if !s.boot.powered || s.boot.held then ended s
  else if s.boot.state = .booting then ended { s with doms := s.doms.map fun p => (p.1, { p.2 with keys := [] }) }
  else s.lockModule s.tamper.source (if halt then .never else .later)

/-- A STRIKE or STRIKE_HALT response (R374, R377 to R380). Stages in progress do not start again; STRIKE_HALT posts no completion that is still to
come, and holds the main domain in reset. -/
def State.strike (s : State) (halt : Bool) : State :=
  let s := if s.tamper.striking then s else s.struck halt
  if halt then
    let main := s.boot.powered
    let s := s.dropAborted.setTamper fun t => { t with machine := tamperHalted, sequencer := strikeDone, striking := false }
    if main then ({ s with boot := { s.boot with state := .halted, held := true } }).driveHealth else s
  else s

/-- A source takes the response its table gives (R374): SHED halves the clocks, LOCK and the STRIKE responses add their effects. A weaker one leaves
the response in force, one that equals it aborts what has been placed since, and a STRIKE in progress does not start again. -/
def State.respond (s : State) (n : Nat) (r : Response) : State :=
  let s := s.setTamper fun t => t.took r
  let t := s.tamper
  if r.code ≤ 1 || r.code < t.inForce.code then s
  else
    let same := r.code = t.inForce.code
    let s := s.setTamper fun t => { t with
      inForce := r, source := if same then min t.source n else n
      machine := if same then t.machine else if r.code = 2 then tamperShed else tamperLock }
    let s := s.setShed true
    match r with
    | .lock => s.lock s.tamper.source
    | .strike => s.strike false
    | .strikeHalt => s.strike true
    | _ => s

end Sys2Proof.Machine
end

