-- ==== Sys2Proof/Machine/Cache.lean ====
section
/-!
DEFINITION. Sys2Proof/Machine/Cache.lean: how a command's keys and children are loaded into its region's key cache (R102, R119, R141,
R177, R365).
-/

namespace Sys2Proof.Machine

/-- The entry of a region's cache for a key or a child, of the GENERATION that its record now has. -/
def State.cached (s : State) (r owner h generation : Nat) (path : Bytes) : Option CacheEntry :=
  (s.region r).cache.find? fun e => e.scope.isNone && e.owner = owner && e.handle = canonical h && e.path = path && e.generation = generation

/-- A cell of a region, of a block first, that can unwrap a record: one in service without a run (R119). -/
def State.unwrapCell (s : State) (r b : Nat) : Option Nat :=
  ((List.range 288).map fun i => 288 * r + (24 * b + i) % 288).find? fun n =>
    s.cellState n = .idle && (s.block (n / 24)).state = .service

/-- A record is unwrapped in a cell: its key register takes the owner's record key, and is cleared at the end (R119). -/
def State.unwrapIn (s : State) (n owner : Nat) : State :=
  let loaded := s.setCell n fun c => { c with key := recordKey ((s.root owner).getD []) owner }
  loaded.setCell n fun c => { c with key := [] }

/-- A key's working copy in a region's cache: one of the current GENERATION is used again, any other is loaded from its record (R119). -/
def State.loadCached (s : State) (r b owner h : Nat) : State :=
  match s.lookKey owner h with
  | .found a _ v =>
    let e : CacheEntry := { owner := owner, handle := canonical h, generation := a.generation }
    if (s.cached r owner h a.generation []).isSome then s.cacheEntry r e v
    else match s.unwrapCell r b with
      | none => s
      | some n => (s.unwrapIn n owner).cacheEntry r e v
  | _ => s

/-- The keys a command declares, loaded into the cache of its region (R102, R119). -/
def State.loadKeys (s : State) (r b d : Nat) (e : Entry) : State :=
  (List.range 4).foldl (fun s k =>
    if e.valid k && handleValid d (e.handle k) then s.loadCached r b (ownerOf d (e.handle k)) (e.handle k) else s) s

/-- A declared key that the region's cache lacks in its current GENERATION, and that must be loaded before the command runs (R102). -/
def State.mustLoad (s : State) (r d : Nat) (e : Entry) : Bool :=
  (List.range 4).any fun k => e.valid k && handleValid d (e.handle k) &&
    match s.lookKey (ownerOf d (e.handle k)) (e.handle k) with
    | .found a _ _ => (s.cached r (ownerOf d (e.handle k)) (e.handle k) a.generation []).isNone
    | _ => false

/-- A key reference of a command with a path, under which its parent's child is derived: the parent's owner and handle, GENERATION, the
digest of the path, the child's attributes and its value (R141). -/
structure ChildUse where
  owner : Nat
  handle : Nat
  generation : Nat
  path : Bytes
  attr : Attr
  value : Bytes

/-- The child of the key reference at an offset; none without a path, or with one that fails. -/
def State.childOf (s : State) (d : Nat) (c : Cmd) (o : Nat) : Option ChildUse :=
  let fixed := match opFacts c.entry.opcode with | some f => f.fixed | none => 0
  let x := keyRefAt c.param o
  if x.pathLen = 0 || !c.entry.valid x.slot || !handleValid d (c.entry.handle x.slot) then none
  else
    let h := c.entry.handle x.slot
    match s.lookKey (ownerOf d h) h with
    | .found a _ v =>
      if (pathFail a x c.param fixed).isSome then none
      else
        let child := attrAt (zeros 8 ++ slice c.param x.pathOffset 32 ++ zeros 24) 0
        some { owner := ownerOf d h, handle := canonical h, generation := a.generation
               path := sha384 (slice c.param x.pathOffset (32 + 80 * x.pathLen)), attr := { child with handle := a.handle, nonceLimit := 0 }
               value := derivePath a v c.param x.pathOffset x.pathLen }
    | _ => none

/-- The children that a command's key references derive: each cached beside its parent under the digest of its path (R141), and behind a
job-scoped handle that the cell jobs of the command name (R177); under override in the operator's share alone (R365). -/
def State.loadChildren (s : State) (k d : Nat) (c : Cmd) (excess : Bool) : State :=
  (opRefs c.entry.opcode c.param).foldl (fun s o =>
    match s.childOf d c o with
    | none => s
    | some x =>
      let s := if excess then s
        else s.cacheEntry (k / 12) { owner := x.owner, handle := x.handle, generation := x.generation, path := x.path } x.value
      (s.scopeKey k (d, c.id) (if excess then operator else x.owner) (some x.attr) x.path x.value).2) s

/-- Under override, the keys a command declares go to job-scoped entries of the operator's share (R365). -/
def State.loadOverride (s : State) (k d : Nat) (c : Cmd) : State :=
  (List.range 4).foldl (fun s i =>
    let h := c.entry.handle i
    if c.entry.valid i && handleValid d h then
      match s.lookKey (ownerOf d h) h with
      | .found a _ v =>
        s.cacheEntry (k / 12)
          { owner := operator, handle := canonical h, generation := a.generation, scope := some k, attr := some a, job := (d, c.id) } v
      | _ => s
    else s) s

/-- The working copy of a declared key that serves a core: its cache entry, or the job-scoped one of a job under override. -/
def State.workingCopy (s : State) (k owner h generation : Nat) : Option Bytes :=
  match s.cached (k / 12) owner h generation [] with
  | some e => some (s.entryValue (k / 12) e)
  | none => (s.scopedEntry k (canonical h)).bind fun e => if e.attr.isSome && e.generation = generation then some (s.entryValue (k / 12) e) else none

end Sys2Proof.Machine
end

