-- ==== Sys2Proof/Machine/Staging.lean ====
section
/-!
DEFINITION. Sys2Proof/Machine/Staging.lean: the images of the staging sets, the checks of a commit and its application, and
the commands of group 0x03 with the staged instant (R97 to R99, R104 to R106, R333 to R341, R388 to R390).
-/

namespace Sys2Proof.Machine

/-- The second that the next boundary begins. -/
def Clock.nextSecond (c : Clock) : Nat := c.tai / 1000000000 + 1

/-! ### Images (Tables 4-1, 13-5, 15-8) -/

def windowBytes (l : List (Nat × Nat)) : Bytes :=
  (List.range 8).flatMap fun w => leBytes 8 (l.getD w (1, 0)).1 ++ leBytes 8 (l.getD w (1, 0)).2

def windowsAt (b : Bytes) (o : Nat) : List (Nat × Nat) :=
  (List.range 8).map fun w => (field b (o + 16 * w) 8, field b (o + 16 * w + 8) 8)

/-- The 176 bytes of a pitch record (Table 4-1). -/
def PitchConf.bytes (c : PitchConf) : Bytes :=
  leBytes 4 c.pasid ++ leBytes 2 c.vectorBase ++ leBytes 2 c.vectorCount ++ leBytes 1 c.regionMask ++ leBytes 1 c.queueQuota ++
    leBytes 2 c.admitDepth ++ leBytes 4 c.latencyBudget ++ ((List.range 8).flatMap fun r => leBytes 2 (c.weights.getD r 0)) ++
    leBytes 1 c.capBlocks ++ leBytes 1 c.capLius ++ leBytes 1 c.capHash ++ zeros 1 ++ leBytes 4 c.cacheQuota ++
    leBytes 4 c.mramQuota ++ leBytes 4 c.entropyWait ++ windowBytes c.windows

def pitchConfAt (b : Bytes) (o : Nat) : PitchConf where
  pasid := field b o 4
  vectorBase := field b (o + 4) 2
  vectorCount := field b (o + 6) 2
  regionMask := byteAt b (o + 8)
  queueQuota := byteAt b (o + 9)
  admitDepth := field b (o + 10) 2
  latencyBudget := field b (o + 12) 4
  weights := (List.range 8).map fun r => field b (o + 16 + 2 * r) 2
  capBlocks := byteAt b (o + 32)
  capLius := byteAt b (o + 33)
  capHash := byteAt b (o + 34)
  cacheQuota := field b (o + 36) 4
  mramQuota := field b (o + 40) 4
  entropyWait := field b (o + 44) 4
  windows := windowsAt b (o + 48)

/-- The 160 bytes of the CHIP image (Table 13-5). -/
def ChipConf.bytes (c : ChipConf) : Bytes :=
  leBytes 4 c.holdoverLimit ++ leBytes 4 c.periodWindow ++ leBytes 2 c.utcOffset ++ leBytes 1 c.auditPolicy ++
    leBytes 1 c.deepest ++ leBytes 4 c.opBudget ++ leBytes 4 c.takeback ++ zeros 12 ++ windowBytes c.windows

def chipConfOf (b : Bytes) : ChipConf where
  holdoverLimit := field b 0 4
  periodWindow := field b 4 4
  utcOffset := field b 8 2
  auditPolicy := byteAt b 10
  deepest := byteAt b 11
  opBudget := field b 12 4
  takeback := field b 16 4
  windows := windowsAt b 32

/-- The low 16 bits of a signed number. -/
def word16 (i : Int) : Nat := (i % 65536).toNat

/-- The 96 bytes of the TAMPER image (Table 15-8). -/
def Tamper.bytes (t : Tamper) (fuse : BitVec 10) : Bytes :=
  (tamperSources.flatMap fun n =>
    leBytes 1 (t.response n).code ++ zeros 3 ++
      (if n = 1 then leBytes 2 (word16 t.upperTrip) ++ leBytes 2 (word16 t.lowerTrip)
       else if n = 7 then leBytes 4 t.stormCount else zeros 4)) ++ leBytes 2 fuse.toNat ++ zeros 14

/-- The committed values of a set, as an image. -/
def State.committed (s : State) (k : Nat) : Bytes :=
  if k = chipSet then s.chip.bytes
  else if k = tamperSet then s.tamper.bytes s.life.fuseOff
  else (s.dom k).conf.bytes

/-- The fields of an image, reserved spans left out (R333). -/
def pitchFields : List (Nat × Nat) :=
  [(0, 4), (4, 2), (6, 2), (8, 1), (9, 1), (10, 2), (12, 4)] ++ ((List.range 8).map fun r => (16 + 2 * r, 2)) ++
    [(32, 1), (33, 1), (34, 1), (36, 4), (40, 4), (44, 4)] ++ ((List.range 8).map fun w => (48 + 16 * w, 16))

def chipFields : List (Nat × Nat) :=
  [(0, 4), (4, 4), (8, 2), (10, 1), (11, 1), (12, 4), (16, 4)] ++ ((List.range 8).map fun w => (32 + 16 * w, 16))

def tamperFields : List (Nat × Nat) := (tamperSources.flatMap fun n => [(8 * n, 1), (8 * n + 4, 4)]) ++ [(80, 2)]

def imageFields (k : Nat) : List (Nat × Nat) :=
  if k = chipSet then chipFields else if k = tamperSet then tamperFields else pitchFields

def imageLen (k : Nat) : Nat := if k = chipSet then 160 else if k = tamperSet then 96 else 176

/-! ### Checks (R98, R99, R105, R335, R389) -/

/-- A violation: image offset of the field, STATUS and DETAIL. -/
abbrev Violation := Nat × Fail

def badRanges (status : Nat) (l : List (Nat × Bool)) : List Violation :=
  (l.filter fun x => !x.2).map fun x => (x.1, status, x.1)

/-- Misformed and overlapping windows (Table 4-1, R99). -/
def badWindows (l : List (Nat × Nat)) (o : Nat) : List Violation :=
  (List.range 8).filterMap fun w =>
    let x := l.getD w (1, 0)
    if x.2 < x.1 then none
    else
      let clash := (List.range w).any fun v => let y := l.getD v (1, 0); y.1 ≤ y.2 && x.1 ≤ y.2 && y.1 ≤ x.2
      if x.1 % 4096 = 0 && x.2 % 4096 = 4095 && !clash then none else some (o + 16 * w, eWindowForm, w)

/-- The range rules of a pitch record, by record offset (Table 4-1). -/
def PitchConf.ranges (c : PitchConf) : List (Nat × Bool) :=
  [(0, 1 ≤ c.pasid && c.pasid ≤ 0xFFFFF), (4, 32 ≤ c.vectorBase && c.vectorBase ≤ 2047),
   (6, 1 ≤ c.vectorCount && c.vectorCount ≤ 64 && c.vectorBase + c.vectorCount ≤ 2048), (8, c.regionMask != 0),
   (9, 1 ≤ c.queueQuota && c.queueQuota ≤ 16), (10, 16 ≤ c.admitDepth && c.admitDepth ≤ 4096),
   (12, c.latencyBudget ≤ 10000000)] ++
  ((List.range 8).map fun r => (16 + 2 * r, 1 ≤ c.weights.getD r 0 && c.weights.getD r 0 ≤ 1024)) ++
  [(32, 1 ≤ c.capBlocks && c.capBlocks ≤ 12), (33, 1 ≤ c.capLius && c.capLius ≤ 4), (34, 1 ≤ c.capHash && c.capHash ≤ 4),
   (36, 16 ≤ c.cacheQuota && c.cacheQuota ≤ 1792 && c.cacheQuota % 16 = 0),
   (40, 64 ≤ c.mramQuota && c.mramQuota ≤ 163840 && c.mramQuota % 64 = 0),
   (44, 1 ≤ c.entropyWait && c.entropyWait ≤ 1000)]

/-- Pitches other than ABSENT, but for one. -/
def State.otherPitches (s : State) (p : Nat) : List Dom :=
  (s.doms.filter fun x => x.1 < 256 && x.1 != p && x.2.mode != .absent).map (·.2)

/-- The pools a record would exceed, in the order of Table 4-2 (R98). -/
def State.badPools (s : State) (p : Nat) (c : PitchConf) : List Violation :=
  let os := (s.otherPitches p).map Dom.conf
  let excess := fun (b : Bool) (o det : Nat) => if b then [(o, eQuota, det)] else []
  excess ((os.map PitchConf.mramQuota).sum + c.mramQuota > 163840) 40 0x100 ++
  ((List.range 8).flatMap fun r =>
    excess (bit c.regionMask r && ((os.filter fun x => bit x.regionMask r).map PitchConf.cacheQuota).sum + c.cacheQuota > 1792) 36 (0x200 + r)) ++
  excess ((os.map PitchConf.admitDepth).sum + c.admitDepth > 262144) 10 0x300 ++
  excess (os.any fun x => x.vectorBase < c.vectorBase + c.vectorCount && c.vectorBase < x.vectorBase + x.vectorCount) 4 0x400 ++
  excess (os.any fun x => x.pasid = c.pasid) 0 0x500
where
  eQuota : Nat := ePoolExceeded

def Dom.presentQueues (D : Dom) : Nat := (D.queues.filter fun q => q.2.state != .absent).length

/-- MRAM in use by a pitch in KiB, rounded up. -/
def Dom.mramKib (D : Dom) : Nat := ceilDiv D.mramUsed 1024

/-- The conditions of Table 4-3. -/
def Dom.badUse (D : Dom) (c : PitchConf) : List Violation :=
  let ws := usedWindows c.windows
  let ringOk := fun (Q : Queue) => inWindows ws Q.sqAddr (64 * 2 ^ Q.sizeLog2) && inWindows ws Q.cqAddr (32 * 2 ^ Q.sizeLog2)
  (if c.queueQuota < D.presentQueues then [(9, eQuotaBelowUse, 1)] else []) ++
  (if c.mramQuota < D.mramKib then [(40, eQuotaBelowUse, 2)] else []) ++
  (D.queues.filterMap fun q => if q.2.state = .absent || ringOk q.2 then none else some (48, eWindowInUse, 0x100 + q.1)) ++
  (if D.dirty.mode = .running && !(ws.all fun w => D.dirty.coverBase ≤ w.1 && w.2 < D.dirty.coverBase + 4096 * D.dirty.coverPages)
   then [(48, eWindowInUse, 0x200)] else [])

/-- The ranges of the CHIP set (Table 13-5). -/
def ChipConf.ranges (c : ChipConf) : List (Nat × Bool) :=
  [(0, 1 ≤ c.holdoverLimit && c.holdoverLimit ≤ 86400), (4, 1000 ≤ c.periodWindow && c.periodWindow ≤ 1000000),
   (8, c.utcOffset ≤ 255), (10, c.auditPolicy ≤ 1), (11, c.deepest ≤ 4), (12, c.opBudget ≤ 10000000),
   (16, 1 ≤ c.takeback && c.takeback ≤ 864000)]

/-- The checks of the TAMPER set (R389). -/
def badTamper (fuse : BitVec 10) (b : Bytes) : List Violation :=
  (tamperSources.flatMap fun n =>
    let r := byteAt b (8 * n)
    let v := field b (8 * n + 4) 4
    let up := int16 (v % 65536)
    let lo := int16 (v / 65536)
    let ok := if n = 1 then 90 ≤ up && up ≤ 115 && -25 ≤ lo && lo ≤ 0 else if n = 7 then 16 ≤ v && v ≤ 256 else v = 0
    (if fuse.getLsbD n then []
     else if r > 5 then [(8 * n, eTamperParam, 8 * n)]
     else if r < (tamperFloors.getD n .none).code then [(8 * n, eTamperFloor, n)] else []) ++
    (if ok then [] else [(8 * n + 4, eTamperParam, 8 * n + 4)])) ++
  ((List.range 16).filterMap fun n =>
    let f := bit (field b 80 2) n
    if (f && !([1, 4, 5, 6].contains n)) || (!f && fuse.getLsbD n) then some (80, eTamperFuse, n) else none)

/-- A violation put before the first one of a higher image offset. -/
def insertViolation (x : Violation) : List Violation → List Violation
  | [] => [x]
  | y :: ys => if x.1 < y.1 then x :: y :: ys else y :: insertViolation x ys

/-- Every violation of an image, in ascending image offset (R335). -/
def State.violations (s : State) (k : Nat) (b : Bytes) : List Violation :=
  let l :=
    if k = chipSet then badRanges eStageParam (chipConfOf b).ranges ++ badWindows (chipConfOf b).windows 32
    else if k = tamperSet then badTamper s.life.fuseOff b
    else
      let c := pitchConfAt b 0
      badRanges ePitchParam c.ranges ++ badWindows c.windows 48 ++ s.badPools k c ++ (s.dom k).badUse c
  l.foldl (fun a x => insertViolation x a) []

/-! ### Applying a set (R106, R337, R338, R347, R388 to R390) -/

/-- Exit latency of a power state in ns (R343 Table 13-9). -/
def PowerState.exitNs : PowerState → Nat
  | .active => 0 | .doze => 30 | .nap => 3000 | .rest => 90000

/-- The latency budget of a region (R103, R344). -/
def State.budget (s : State) (r : Nat) : Nat :=
  (s.doms.filter fun x => x.1 < 256 && x.2.mode != .absent && bit x.2.conf.regionMask r).foldl (fun b x => min b x.2.conf.latencyBudget) s.chip.opBudget

/-- Regions whose state's exit latency exceeds their budget begin their exit (R347). -/
def State.heedBudgets (s : State) : State :=
  (List.range 8).foldl (fun s r =>
    if (s.region r).power.exitNs > s.budget r && (s.region r).exiting.isNone then s.setRegion r fun R => { R with exiting := some s.now } else s) s

/-- Fuse-off fields burned at an instant, one after the other in source order, at 10 µs a bit (R390; DESIGN CHOICE of the order, log entry 36). -/
def LifeCycleReg.burnFuses (l : LifeCycleReg) (ns : List Nat) (now : Nat) : LifeCycleReg :=
  { l with fuseOff := ns.foldl (fun f n => f ||| BitVec.ofNat 10 (2 ^ n)) l.fuseOff
           fuseBurns := ns.zipIdx.foldl (fun t p => Tab.insert t p.1 (now + 160000 * p.2)) [] }

/-- The TAMPER set applied: fuse-offs are burned, and a source in alarm takes a stronger response (R389, R390). -/
def State.applyTamper (s : State) (b : Bytes) : State :=
  let fuse := s.life.fuseOff ||| BitVec.ofNat 10 (field b 80 2)
  let rs := tamperSources.map fun n => Response.ofCode (byteAt b (8 * n))
  let up := int16 (field b 12 2)
  let lo := int16 (field b 14 2)
  let shedding := s.tamper.shedding
  let s := { s with life := s.life.burnFuses (tamperSources.filter fun n => fuse.getLsbD n && !s.life.fuseOff.getLsbD n) s.now }
  let s := s.setTamper fun t => { t with
    responses := rs, upperTrip := up, lowerTrip := lo, stormCount := field b 60 4, mramCopy := some (rs, up, lo, field b 60 4)
    alarm := t.alarm &&& ~~~fuse, detectorA := t.detectorA &&& ~~~fuse, detectorB := t.detectorB &&& ~~~fuse
    pairs := t.pairs.filter fun x => !fuse.getLsbD (x / 2) }
  let s := s.setTamper fun t =>
    let t := { t with alarm := if t.pairs = [] then t.alarm &&& 0x1FF else t.alarm }
    t.noteShed shedding s.now
  (tamperSources.filter fun n => s.tamper.alarm.getLsbD n).foldl (fun s n => s.respond n (s.tamper.response n)) s

/-- An instant after which some command was placed before it and is unfinished. -/
def State.stillSeen (s : State) (t : Nat) : Bool := s.doms.any fun p => p.2.cmds.any fun c => !c.done && c.placedAt < t

/-- A pitch's new record in force; the one it replaces stays for the commands placed before (R106, R337). -/
def State.setConf (s : State) (p : Nat) (conf : PitchConf) : State :=
  s.setDom p fun D => { D with conf := conf, confPast := ((s.now, D.conf) :: D.confPast).filter fun x => s.stillSeen x.1 }

/-- A set's image applied whole. -/
def State.applySet (s : State) (k : Nat) (b : Bytes) : State :=
  if k = chipSet then ({ s with chip := chipConfOf b }).heedBudgets
  else if k = tamperSet then s.applyTamper b
  else ((s.setConf k (pitchConfAt b 0)).trimCache k).heedBudgets

/-- What fails a commit at its instant (R337), none where it applies. -/
def State.instantFail (s : State) (k : Nat) (b : Bytes) : Option Fail :=
  let v := s.violations k b
  let exempt := k = tamperSet && !tamperWeakens s.tamper s.life.fuseOff b
  firstFail [
    need (v = []) eStageInvalid (min v.length 0xFFFF),
    need (exempt || s.boot.state != .locked) eModuleLocked 0,
    need (k ≥ 256 || (s.dom k).mode != .locked) eModuleLocked 0,
    need (s.chip.auditPolicy != 0 || s.trail.state != 2) eLogUnavailable 0]

/-- Trail code of a staged commit's outcome: STAGE_COMMIT's (log entry 22). -/
def codeStageOutcome : Nat := 0x0303

/-- The outcome of a commit recorded, written to the trail and raised as an event (R337); LAST_INSTANT of one that waited for a gap's end is its
instant (R358). -/
def State.stageOutcome (s : State) (k : Nat) (f : Option Fail) (set : StageSet) : State :=
  let (st, det) := f.getD (sOk, 0)
  let at_ := match s.guy.due with | some b => b * 1000000000 | none => s.clock.tai
  let s := s.setStage k { set with lastStatus := st, lastDetail := det, lastInstant := at_ }
  let s := s.log codeStageOutcome (if k < 256 then originOf 1 k else originOf 2 0) notice
    (leBytes 8 0 ++ leBytes 2 (if k < 256 then k else 0x0100) ++ leBytes 2 st)
  if k < 256 then s.pitchEvent k evStageApplied else if k = chipSet then s.raise 0x197 else s.raise 0x198

/-- An EMPTY set that keeps the outcome of its last commit. -/
def StageSet.emptied (x : StageSet) : StageSet :=
  { lastStatus := x.lastStatus, lastDetail := x.lastDetail, lastInstant := x.lastInstant }

/-- A set at its instant: applied whole, or not at all; it is EMPTY afterwards, but for a commit NOW that fails. -/
def State.instant (s : State) (k : Nat) (now : Bool) : Option Fail × State :=
  let x := s.stage k
  match s.instantFail k x.image with
  | some f => (some f, s.stageOutcome k (some f) (if now then x else x.emptied))
  | none => (none, (s.applySet k x.image).stageOutcome k none x.emptied)

/-- Sets PENDING for a boundary, in the order of R338. -/
def State.dueSets (s : State) (boundary : Nat) : List Nat :=
  (chipSet :: tamperSet :: List.range 256).filter fun k => (s.stage k).state = .pending && (s.stage k).boundary ≤ boundary

def State.applyDue (s : State) (boundary : Nat) : State := (s.dueSets boundary).foldl (fun s k => (s.instant k false).2) s

/-- An instant: the sets due at a boundary are applied, or placement stops for them until a gap ends (R337, R358). -/
def State.reachInstant (s : State) (boundary : Nat) : State :=
  if s.guy.rebuilding || s.dueSets boundary = [] then s
  else if s.guy.holding then { s with guy := { s.guy with due := some (max boundary (s.guy.due.getD 0)) } }
  else s.applyDue boundary

/-- Time passes until TIME_NOW reads a value, which it then reads exactly (R328). -/
def State.passToTai (s : State) (t : Nat) : State :=
  if t ≤ s.clock.tai then s
  else
    let c := s.clock
    let n := c.until t
    { s with clock := { c with mono := c.mono + n, tai := t, frac := 0, part := n * c.speed + c.part - (t - c.tai + c.frac) * 1000000000 } }

/-- The boundaries up to one for which sets are PENDING, in rising order. -/
def State.dueBoundaries (s : State) (boundary : Nat) : List Nat :=
  (s.dueSets boundary).foldl (fun l k => insertNat l (s.stage k).boundary) []

/-- STAGED_INSTANT (R336 to R338): the boundary of a TAI second for which a set is PENDING. Every boundary before it that has sets comes
first, at its own instant: a commit is never moved to another. -/
def execStagedInstant (boundary : Nat) (s : State) : Answer :=
  if s.dueSets boundary = [] || !s.boot.powered || s.boot.held then .next s
  else .next ((s.dueBoundaries boundary).foldl (fun s b => (s.passToTai (b * 1000000000)).reachInstant b) s)

/-- A set becomes PENDING for its instant: NEXT_PPS names the first boundary after the commit point (R336). -/
def State.pendSet (s : State) (k when_ second : Nat) : State :=
  let b := if when_ = 1 then s.clock.nextSecond else second
  s.setStage k { s.stage k with state := .pending, when_ := when_, second := b, boundary := b }

/-- Every PENDING timed commit fails when the clock becomes untrusted (R338). -/
def State.failPending (s : State) : State :=
  ((chipSet :: tamperSet :: List.range 256).filter fun k => (s.stage k).state = .pending).foldl (fun s k =>
    s.stageOutcome k (some (eTimeUntrusted, 0)) (s.stage k).emptied) s

/-- An uncommitted set is lost (R110, R339). -/
def State.dropSet (s : State) (k : Nat) : State := s.setStage k (s.stage k).emptied

/-! ### Group 0x03 (R340) -/

/-- The set a block names, after the checks of R340. -/
def State.namedSet (s : State) (d : Nat) (c : Cmd) : Except Fail Nat :=
  let kind := byteAt c.param 0
  let p := byteAt c.param 1
  match firstFail [need (kind ≤ 2) eStageParam 0, need (kind = 1 || p = 0) eStageParam 1,
      need (d = operator || (kind = 1 && p = d)) eStageOwner 0,
      need (kind != 1 || (s.dom p).mode != .absent) ePitchState 0] with
  | some f => .error f
  | none => .ok (if kind = 0 then chipSet else if kind = 2 then tamperSet else p)

def SetState.code : SetState → Nat
  | .empty => 0 | .opened => 1 | .pending => 2

/-- Pitch-owned fields of Table 4-1, and its RO fields. -/
def pitchOwned (o : Nat) : Bool := o = 12 || o = 44

def pitchRo (o : Nat) : Bool := o = 4 || o = 6

/-- What a write finds: a set that is not PENDING (R333). Another domain's command may come between its execution and its commit point. -/
def State.writeFail (s : State) (k : Nat) : Option Fail := need ((s.stage k).state != .pending) eStageState 2

/-- What a commit finds: an OPEN set, and no operator-owned write of it under a pitch's commit (R104, R336). -/
def State.commitSetFail (s : State) (d k : Nat) : Option Fail :=
  let x := s.stage k
  firstFail [need (d = operator || !x.opWrite) ePitchFieldOwner 0xFFFF, need (x.state = .opened) eStageState x.state.code]

/-- What a discard finds (R104, R339). -/
def State.dropSetFail (s : State) (d k : Nat) : Option Fail :=
  let x := s.stage k
  firstFail [need (x.state != .empty) eStageState 0, need (d = operator || !x.opWrite) ePitchFieldOwner 0xFFFF]

/-- A set after a write: the first one copies the committed values (R333). -/
def State.writeSet (s : State) (d k o : Nat) (data : Bytes) : State :=
  let x := s.stage k
  let image := if x.state = .empty then s.committed k else x.image
  s.setStage k { x with state := .opened, image := overlay image o data, opWrite := x.opWrite || (k < 256 && d = operator) }

/-- STAGE_WRITE up to its effect (R104, R333). -/
def stageWriteWork (s : State) (d : Nat) (c : Cmd) : Work :=
  let o := field c.param 4 4
  let n := field c.param 8 4
  match s.namedSet d c with
  | .error f => .error f
  | .ok k =>
    let touched := (imageFields k).filter fun f => f.1 < o + n && o < f.1 + f.2
    let data := slice c.param 16 n
    let own := touched.filterMap fun f =>
      if k ≥ 256 then none
      else if pitchOwned f.1 != (d < 256) then some (ePitchFieldOwner, f.1)
      else if pitchRo f.1 then some (ePitchParam, f.1) else none
    checked [need (1 ≤ n && n ≤ 512) eStageParam 8, need (allZero (c.param.drop (16 + n))) eStageParam 16,
      s.writeFail k, need (o + n ≤ imageLen k) eStageRange (min o (imageLen k)),
      (touched.find? fun f => f.1 < o || o + n < f.1 + f.2).map fun f => (eStageRange, f.1), own.head?]
      (.ok { effects := [.setWrite k o data] })

/-- STAGE_WRITE (R333). -/
def execStageWrite (dom id : Nat) (s : State) : Answer := s.runMgmt 0x0301 dom id fun c _ => stageWriteWork s dom c

/-- STAGE_CHECK (R335). -/
def execStageCheck (dom id : Nat) (s : State) : Answer :=
  s.runMgmt 0x0302 dom id fun c _ =>
    match s.namedSet dom c with
    | .error f => .error f
    | .ok k =>
      let x := s.stage k
      let v := (s.violations k (if x.state = .empty then s.committed k else x.image)).take 255
      .ok { out := leBytes 2 v.length ++ zeros 14 ++ v.flatMap fun e => leBytes 2 e.2.1 ++ leBytes 2 e.2.2 ++ leBytes 4 e.1 }

/-- STAGE_COMMIT up to its effect (R336). -/
def stageCommitWork (s : State) (d : Nat) (c : Cmd) : Work :=
  let when_ := byteAt c.param 2
  let second := field c.param 8 8
  let cur := c.cond.stamp / 1000000000
  match s.namedSet d c with
  | .error f => .error f
  | .ok k =>
    checked [need (when_ ≤ 2) eStageParam 2, need (when_ = 2 || second = 0) eStageParam 8,
      s.commitSetFail d k,
      need (when_ = 0 || c.cond.trusted) eTimeUntrusted 0,
      need (when_ != 2 || (cur + 2 ≤ second && second ≤ cur + 31536000)) eStageWhen 0]
      (.ok { effects := [if when_ = 0 then .setNow k else .setPend k when_ second] })

/-- STAGE_COMMIT (R336). -/
def execStageCommit (dom id : Nat) (s : State) : Answer := s.runMgmt 0x0303 dom id fun c _ => stageCommitWork s dom c

/-- STAGE_DISCARD (R339). -/
def execStageDiscard (dom id : Nat) (s : State) : Answer :=
  s.runMgmt 0x0304 dom id fun c _ =>
    match s.namedSet dom c with
    | .error f => .error f
    | .ok k => checked [s.dropSetFail dom k] (.ok { effects := [.setDrop k] })

/-- STAGE_STATUS (Table 13-6). -/
def execStageStatus (dom id : Nat) (s : State) : Answer :=
  s.runMgmt 0x0305 dom id fun c _ =>
    match s.namedSet dom c with
    | .error f => .error f
    | .ok k =>
      let x := s.stage k
      .ok { out := leBytes 1 x.state.code ++ leBytes 1 x.when_ ++ zeros 6 ++ leBytes 8 x.second ++ leBytes 2 x.lastStatus ++
              leBytes 2 x.lastDetail ++ zeros 4 ++ leBytes 8 x.lastInstant }

end Sys2Proof.Machine
end

