-- ==== Sys2Proof/Machine/Perf.lean ====
section
/-!
DEFINITION. Sys2Proof/Machine/Perf.lean: the performance counters (R428 to R439) and the register accesses of the operator
page that reach them.
-/

namespace Sys2Proof.Machine

/-! ### Selection and access (R429, R430, R434) -/

/-- The fields of PERF_SELECT. -/
def selKind (v : Nat) : Nat := bits v 15 12

def selUnit (v : Nat) : Nat := bits v 11 4

def selIndex (v : Nat) : Nat := bits v 3 0

/-- The fields of a selection, reserved bits read as zero. -/
def selMask (v : Nat) : Nat := bits v 31 31 * 2 ^ 31 + bits v 15 0

/-- A selection after a read, with AUTO_INC. -/
def selNext (v : Nat) : Nat :=
  if bit v 31 then
    let n := if selKind v = 2 then 2 else 8
    v - selIndex v + (selIndex v + 1) % n
  else v

/-- The region of a counter; ports have none. -/
def perfRegion (kind unit : Nat) : Option Nat := if kind = 0 then some (unit / 12) else if kind = 1 then some unit else none

/-- The counter's region is in REST or BIVVY (R429). -/
def State.perfAsleep (s : State) (kind unit : Nat) : Bool :=
  match perfRegion kind unit with
  | some r => s.boot.bivvy || (s.region r).power = .rest
  | none => false

/-- The value of a counter as PERF_VALUE reads it. -/
def State.perfRead (s : State) (kind unit index : Nat) : Nat :=
  if s.perfAsleep kind unit then 0
  else if kind = 0 && index = 6 then (s.cycleOf unit).toNat
  else if kind = 0 && index = 7 then (s.core unit).instret.toNat
  else s.perf.value kind unit index

/-- PERF_CONFIG as a register (Table 18-4). -/
def PerfConf.bits (c : PerfConf) : Nat :=
  c.pitch * 2 ^ 32 + c.filter * 2 ^ 30 + b2n c.enable * 2 ^ 29 + b2n c.ovfIrq * 2 ^ 28 + b2n c.ovf * 2 ^ 27 +
    c.windowLog2 * 2 ^ 16 + c.event

def State.perfConfRead (s : State) (kind unit index : Nat) : Nat :=
  if kind = 0 && index ≥ 6 then 0 else (s.perf.conf kind unit index).bits

/-- PERF_SELECT (R429): a selection of no counter is ignored, counted and logged. -/
def execPerfSelect (offset size value : Nat) (s : State) : Answer :=
  s.opWrite 0x2000 offset size value fun s =>
    let v := selMask (setBytes s.perf.select offset size value)
    if perfExists (selKind v) (selUnit v) (selIndex v) then { s with perf := { s.perf with select := v } }
    else s.ignore (originOf 2 0) (0x2000 + offset) value

/-- PERF_CONFIG_SELECT (R429). -/
def execPerfConfigSelect (offset size value : Nat) (s : State) : Answer :=
  s.opWrite 0x2010 offset size value fun s =>
    let v := selMask (setBytes s.perf.configSelect offset size value)
    if perfExists (selKind v) (selUnit v) (selIndex v) then { s with perf := { s.perf with configSelect := v } }
    else s.ignore (originOf 2 0) (0x2010 + offset) value

/-- PERF_VALUE read (R429). -/
def execPerfValueRead (offset size : Nat) (s : State) : Answer :=
  s.opRead offset size fun s =>
    let v := s.perf.select
    (s.perfRead (selKind v) (selUnit v) (selIndex v), { s with perf := { s.perf with select := selNext v } })

/-- PERF_CONFIG read (R429). -/
def execPerfConfigRead (offset size : Nat) (s : State) : Answer :=
  s.opRead offset size fun s =>
    let v := s.perf.configSelect
    (s.perfConfRead (selKind v) (selUnit v) (selIndex v), { s with perf := { s.perf with configSelect := selNext v } })

/-- PERF_VALUE write (R429, R434): fixed and port counters, and a sleeping region's, ignore it. -/
def execPerfValueWrite (offset size value : Nat) (s : State) : Answer :=
  s.opWrite 0x2008 offset size value fun s =>
    let v := s.perf.select
    let (k, u, i) := (selKind v, selUnit v, selIndex v)
    if perfProgrammable k i && !s.perfAsleep k u then
      { s with perf := s.perf.setValue k u i (setBytes (s.perf.value k u i) offset size value % 2 ^ 48) }
    else s

/-- A counter's configuration after a write of the bytes from `offset`: OVF is W1C, and WINDOW_LOG2 and OVF_IRQ belong to
ports and blocks alone. -/
def PerfConf.written (c : PerfConf) (kind offset size value : Nat) : PerfConf :=
  let w := setBytes ({ c with ovf := false } : PerfConf).bits offset size value
  { pitch := Machine.bits w 39 32, filter := Machine.bits w 31 30, enable := bit w 29, ovfIrq := kind = 0 && bit w 28
    ovf := c.ovf && !bit w 27, windowLog2 := if kind = 2 then min 20 (Machine.bits w 20 16) else 0, event := Machine.bits w 7 0 }

/-- A port counter's configuration has changed: its first full window begins now, where one does, or with the next (R432). -/
def Perf.portStart (p : Perf) (key : Nat) (atStart : Bool) (sent : Nat) : Perf :=
  { p with portFull := if atStart then Tab.insert p.portFull key 1 else Tab.erase p.portFull key, portMark := Tab.insert p.portMark key sent }

/-- PERF_CONFIG write (R430): an event that the kind does not define is ignored, counted and logged; a port's window
starts anew (R432). -/
def execPerfConfig (offset size value : Nat) (s : State) : Answer :=
  s.opWrite 0x2018 offset size value fun s =>
    let v := s.perf.configSelect
    let (k, u, i) := (selKind v, selUnit v, selIndex v)
    if (k = 0 && i ≥ 6) || s.perfAsleep k u then s
    else
      let c := (s.perf.conf k u i).written k offset size value
      if k != 2 && offset = 0 && !(perfEvents k).contains (value % 256) then s.ignore (originOf 2 0) (0x2018 + offset) value
      else
        let p := s.perf.setConf k u i c
        { s with perf := if k = 2 then (p.setValue k u i 0).portStart (perfKey k u i) (s.clock.tai % (2 ^ c.windowLog2 * 1000) = 0) s.host.sent.length else p }

/-- Payload bytes of an item that the host port or the twin link sends (R432, R464): DMA writes, completions, messages and AtomicOps; the payload of
frames, which they carry encrypted. -/
def HostOut.payload (link : Bool) : HostOut → Nat
  | .output _ _ _ b => if link then 0 else b.length
  | .completion _ _ _ _ b => if link then 0 else b.length
  | .message _ _ _ => if link then 0 else 4
  | .cas _ _ _ _ => if link then 0 else 16
  | .frame f => if link then f.length - 32 else 0
  | _ => 0

/-- Payload bytes that the model's own items have moved out of a port in the current window. -/
def State.portMoved (s : State) (link outbound : Bool) : Nat :=
  if outbound then ((s.host.sent.drop (Tab.get s.perf.portMark 0 (perfKey 2 (b2n link) 1))).map (HostOut.payload link)).sum else 0

/-- PORT_WINDOW_END (R432): a window aligned to the device clock ends; the counter latches the payload bytes moved in it, once a whole window has
passed since the last change: those of the module's own writes and frames, and `bytes` of transfers that the state does not count (log entry 54). -/
def execPortWindowEnd (link outbound : Bool) (bytes : Nat) (s : State) : Answer :=
  let u := b2n link
  let i := b2n outbound
  let c := s.perf.conf 2 u i
  if !s.boot.powered || s.boot.held || !c.enable then .next s
  else
    let w := 2 ^ c.windowLog2 * 1000
    let s := s.passToTai ((s.clock.tai / w + 1) * w)
    let key := perfKey 2 u i
    let n := s.portMoved link outbound + bytes
    let p := if Tab.get s.perf.portFull 0 key = 1 then s.perf.setValue 2 u i (n % 2 ^ 48) else s.perf
    .next { s with perf := p.portStart key true s.host.sent.length }

/-! ### Samples and commands (R433, R437 to R439) -/

/-- A sample put into a block's ring of 256; the oldest is dropped when it is full. -/
def Perf.sample (p : Perf) (block : Nat) (x : Sample) : Perf :=
  let l := Tab.get p.samples [] block ++ [x]
  if l.length ≤ 256 then { p with samples := Tab.insert p.samples block l }
  else { p with samples := Tab.insert p.samples block (l.drop 1), left := Tab.put p.left 0 block (Tab.get p.left 0 block + 1)
                lost := Tab.put p.lost 0 block (min 0xFFFFFFFF (Tab.get p.lost 0 block + 1)) }

def Sample.bytes (x : Sample) : Bytes :=
  leBytes 8 x.pc.toNat ++ leBytes 1 x.pitch ++ leBytes 1 x.mode ++ leBytes 1 x.index ++ zeros 1 ++ leBytes 4 x.cycle

/-- PERF_GRANT (R437, R438). -/
def execPerfGrant (dom id : Nat) (s : State) : Answer :=
  s.runMgmt 0x0801 dom id fun c _ =>
    let p := byteAt c.param 0
    checked [need (byteAt c.param 1 ≤ 1) ePerfParam 1, need ((s.dom p).mode != .absent) ePitchState 0]
      (.ok { effects := [.perfGrant p (byteAt c.param 1 = 1)] })

/-- PERF_SAMPLES (R438): the records it reads leave the ring at its commit point. -/
def execPerfSamples (dom id : Nat) (s : State) : Answer :=
  s.runMgmt 0x0802 dom id fun c _ =>
    let b := byteAt c.param 0
    let l := Tab.get s.perf.samples [] b
    checked [need (b < 96) ePerfParam 0]
      (.ok { out := leBytes 2 l.length ++ zeros 2 ++ leBytes 4 (Tab.get s.perf.lost 0 b) ++ zeros 8 ++ l.flatMap Sample.bytes
             effects := [.samplesTaken b (Tab.get s.perf.left 0 b + l.length)] })

/-- A grant at its commit point (R437). -/
def State.setPerfGrant (s : State) (p : Nat) (on : Bool) : State :=
  { s with perf := { s.perf with grants := if on then insertNat s.perf.grants p else removeNat s.perf.grants p } }

/-- Samples read, up to the n-th that the block has written, leave their ring; those that an overflow has dropped since are gone already. -/
def State.takeSamples (s : State) (b n : Nat) : State :=
  let gone := Tab.get s.perf.left 0 b
  let l := (Tab.get s.perf.samples [] b).drop (n - gone)
  { s with perf := { s.perf with samples := if l = [] then Tab.erase s.perf.samples b else Tab.insert s.perf.samples b l
                                 left := Tab.put s.perf.left 0 b (max gone n) } }

/-- Whether a pitch's own code may read CYCLE and INSTRET of the block it runs on (R437). -/
def State.counterAccess (s : State) (p : Nat) : Bool :=
  s.perf.grants.contains p &&
    (s.life.state = .vendorTest || s.life.state = .development || s.life.recovery || (s.boot.state = .booting && (s.boot.step = 7 || s.boot.step = 8)))

end Sys2Proof.Machine
end

