-- ==== Sys2Proof/Machine/Clock.lean ====
section
/-!
DEFINITION. Sys2Proof/Machine/Clock.lean: the device clock, its discipline by TICK_IN, TICK_OUT, group 0x06 and the validity
edges of stored keys (R132, R324 to R332).
-/

namespace Sys2Proof.Machine

def ClockState.code : ClockState → Nat
  | .unsynchronised => 0 | .acquiring => 1 | .locked => 2 | .holdover => 3 | .untrusted => 4

/-- HOLDOVER_S (Table 13-2). -/
def Clock.holdoverS (c : Clock) : Nat :=
  if c.state = .holdover || c.state = .untrusted then (c.mono - c.lastEdge.getD 0) / 1000000000 else 0

/-- TIME_STATUS (R325 Table 13-2). -/
def Clock.status (c : Clock) : Nat :=
  c.holdoverS % 2 ^ 32 * 2 ^ 32 + c.lastReject * 2 ^ 16 + c.inWindow * 2 ^ 8 + b2n c.set * 2 ^ 7 + c.state.code

/-- TICK_OUT is high for 100 ms from a second boundary, and low in every state but LOCKED and HOLDOVER (R330). -/
def State.tickOutHigh (s : State) : Bool :=
  match s.clock.tickOut with
  | some t => s.boot.powered && (s.clock.state = .locked || s.clock.state = .holdover) && s.now < t + 100000000
  | none => false

/-- Numbers of the clock entries (log entry 22). -/
def codeClock : Nat := 0x1500

def codePulse : Nat := 0x1501

def codeTimeSet : Nat := 0x1502

def State.setClock (s : State) (f : Clock → Clock) : State := { s with clock := f s.clock }

/-- The main domain runs, and the device clock with it. -/
def State.running (s : State) : Bool := s.boot.powered && !s.boot.held

/-- The clock changes state (R327): a trail entry and the clock event. -/
def State.clockTo (s : State) (new : ClockState) : State :=
  if s.clock.state = new then s
  else
    let s := s.setClock fun c => { c with state := new }
    (s.log codeClock (originOf 0 0) notice (leBytes 1 new.code ++ leBytes 8 s.clock.tai)).raise 0x196

/-! ### TICK_IN (R326 to R328) -/

/-- Causes of a rejected pulse (Table 13-2). -/
def pulseShort : Nat := 1

def pulseLong : Nat := 2

def pulseEarly : Nat := 3

def pulseLate : Nat := 4

/-- The window of the k-th second after the last accepted edge. -/
def pulseWindow (period k : Nat) (acquiring : Bool) : Nat :=
  let w := period + 2000 * (k - 1)
  if acquiring then max w 5000 else w

/-- Whether an edge `gap` ns after the last accepted one lies in a window, and in which (R326). -/
def judgeEdge (period gap : Nat) (acquiring : Bool) : Except Nat Nat :=
  let hit := fun k => 1 ≤ k && k * 1000000000 ≤ gap + pulseWindow period k acquiring && gap ≤ k * 1000000000 + pulseWindow period k acquiring
  let k := gap / 1000000000
  if hit k then .ok k
  else if hit (k + 1) then .ok (k + 1)
  else if gap + pulseWindow period 1 acquiring < 1000000000 then .error pulseEarly
  else .error pulseLate

/-- A rejected pulse (R326, R327): counted and logged, it ends the count of consecutive pulses and never moves the clock. -/
def State.rejectPulse (s : State) (cause : Nat) : State :=
  let s := s.setClock fun c =>
    { c with lastReject := cause, inWindow := 0, shorts := c.shorts + b2n (cause = pulseShort), longs := c.longs + b2n (cause = pulseLong)
             earlies := c.earlies + b2n (cause = pulseEarly), lates := c.lates + b2n (cause = pulseLate) }
  s.log codePulse (originOf 0 0) notice (leBytes 1 cause ++ leBytes 8 s.clock.tai)

/-- What the clock would read had it no backward move to catch up. -/
def Clock.target (c : Clock) : Nat := c.tai - c.frac

/-- The reading moved to a new target: forward at once, backward by holding TIME_NOW (R328). -/
def Clock.moveTo (c : Clock) (target : Nat) : Clock :=
  { c with tai := max c.tai target, frac := max c.tai target - target }

/-- The whole second nearest to a reading. -/
def nearestSecond (t : Nat) : Nat := (t + 500000000) / 1000000000 * 1000000000

/-- The accepted edge noted: its instant on the reference, and what the clock read there. -/
def Clock.edge (c : Clock) (edge at_ : Nat) : Clock := { c with lastEdge := some edge, lastEdgeTai := at_, lastAccept := edge }

/-- The clock aligned to an edge at which it read `at_`: its second boundary moves there, to the nearer whole second (R328). -/
def Clock.align (c : Clock) (at_ : Nat) : Clock := c.moveTo (c.target - at_ + nearestSecond at_)

/-- The rate steered so that the next second boundary falls on the edge that comes a period after this one (R328); `at_` is what the clock
read at this edge, `period` the length of the last second on the reference.
DESIGN CHOICE of the law (log entry 70). -/
def Clock.steer (c : Clock) (edge at_ period : Nat) : Clock :=
  { c with speed := max 1 ((nearestSecond at_ + 1000000000 - c.target) * 1000000000 / (edge + period - c.mono)) }

/-- An accepted pulse of the k-th second, whose edge came at `edge` with the clock reading `at_` (R327, R328). -/
def State.acceptPulse (s : State) (edge at_ k : Nat) : State :=
  let c := s.clock
  let period := (edge - c.lastEdge.getD (edge - 1000000000)) / k
  match c.state with
  | .unsynchronised => (s.setClock fun c => { c.edge edge at_ with inWindow := 1 }).clockTo .acquiring
  | .acquiring =>
    let n := if k = 1 && c.inWindow > 0 then c.inWindow + 1 else 1
    if n ≥ 3 then
      (s.setClock fun c => { ((c.align at_).steer edge at_ period).edge edge (nearestSecond at_) with inWindow := n }).clockTo .locked
    else s.setClock fun c => { c.edge edge at_ with inWindow := n }
  | .locked => s.setClock fun c => { (c.steer edge at_ period).edge edge at_ with inWindow := min 255 (c.inWindow + 1) }
  | _ =>
    let n := c.inWindow + 1
    if n ≥ 3 then (s.setClock fun c => { (c.steer edge at_ period).edge edge at_ with inWindow := min 255 n }).clockTo .locked
    else s.setClock fun c => { c.edge edge at_ with inWindow := n }

/-- TICK_IN_PULSE (R326): a rising edge `wait` ns from now that stays high for `high` ns, judged at the falling edge. A pulse under 10 ns
does not pass the glitch filter (Table 21-8, index 6). -/
def execTickInPulse (wait high : Nat) (s : State) : Answer :=
  if !s.running then .next s
  else
    let edge := s.now + wait
    let s := s.pass wait
    let at_ := s.clock.target
    let s := s.pass high
    if high < 10 then .next s
    else if high < 1000 then .next (s.rejectPulse pulseShort)
    else if high > 500000000 then .next (s.rejectPulse pulseLong)
    else
      match s.clock.lastEdge with
      | none => .next (s.acceptPulse edge at_ 1)
      | some t =>
        match judgeEdge s.chip.periodWindow (edge - t) (s.clock.state = .acquiring) with
        | .ok k => .next (s.acceptPulse edge at_ k)
        | .error cause => .next (s.rejectPulse cause)

/-- TICK_TIMEOUT (R327): 1.5 s without an accepted edge. -/
def execTickTimeout (s : State) : Answer :=
  if !s.running then .next s
  else
    match s.clock.state with
    | .acquiring =>
      let s := s.passTo (s.clock.lastAccept + 1500000000)
      .next (s.setClock fun c => { c with inWindow := 0, lastAccept := s.now })
    | .locked =>
      let s := s.passTo (s.clock.lastAccept + 1500000000)
      .next ((s.setClock fun c => { c with inWindow := 0 }).clockTo .holdover)
    | _ => .next s

/-- HOLDOVER_LIMIT (R327, R338): the clock becomes TIME_UNTRUSTED, SET becomes 0, and every pending timed commit fails. -/
def execHoldoverLimit (s : State) : Answer :=
  if s.running && s.clock.state = .holdover then
    let s := s.passTo (s.clock.lastEdge.getD 0 + s.chip.holdoverLimit * 1000000000)
    .next ((s.setClock fun c => { c with set := false }).clockTo .untrusted).failPending
  else .next s

/-! ### Validity edges of stored keys (R132) -/

/-- A device-clock value at which an edge of a window passes. -/
def Attr.edges (a : Attr) : List Nat :=
  (if a.notBefore = 0 then [] else [a.notBefore]) ++ (if a.notAfter = 0xFFFFFFFFFFFFFFFF then [] else [a.notAfter + 1])

/-- A pitch has a stored key with an edge in a span of device-clock values. -/
def State.edgeIn (s : State) (p lo hi : Nat) : Bool :=
  (s.dom p).keys.any fun k =>
    match s.lookKey p k.1 with
    | .found a _ _ => a.edges.any fun t => lo ≤ t && t ≤ hi
    | _ => false

/-- KEY_VALIDITY set in the pitches with an edge in a span. -/
def State.passEdges (s : State) (lo hi : Nat) : State :=
  s.foldDoms ((List.range 256).filter fun p => s.edgeIn p lo hi) fun s p => s.pitchEvent p evValidity

/-- KEY_VALIDITY_EDGE (R132): the device clock reaches an edge of a stored pitch key. -/
def execKeyValidityEdge (time : Nat) (s : State) : Answer :=
  if s.running then
    if (List.range 256).any fun p => s.edgeIn p time time then .next ((s.passToTai time).passEdges time time) else .next s
  else .next s

/-! ### Second boundaries and TIME_SET (R330, R331) -/

/-- TIME_SET up to its commit point (R331); E_TIME_BACKWARD is judged there. -/
def execTimeSet (dom id : Nat) (s : State) : Answer :=
  s.runMgmt 0x0601 dom id fun c _ =>
    let t := field c.param 0 8
    checked [need (s.clock.state = .locked || s.clock.state = .holdover) eTimeNotLocked s.clock.state.code,
      need (!s.clock.trusted || s.clock.nextSecond ≤ t) eTimeBackward 0]
      (.ok { out := zeros 16, effects := [.timeSet t] })

/-- TIME_READ (R332). -/
def execTimeRead (dom id : Nat) (s : State) : Answer :=
  s.runMgmt 0x0602 dom id fun _ _ =>
    let c := s.clock
    .ok { out := leBytes 8 c.tai ++ leBytes 8 c.status ++ leBytes 8 c.lastEdgeTai ++ leBytes 4 c.shorts ++ leBytes 4 c.longs ++
            leBytes 4 c.earlies ++ leBytes 4 c.lates ++ leBytes 2 s.chip.utcOffset ++ zeros 22 }

/-- A command whose output and completion wait for the boundary. -/
def Cmd.atBoundary (c : Cmd) : Bool := c.phase = .linking && c.entry.opcode = 0x0601 && c.status = sOk

/-- Output bytes cut into the buffers of a descriptor, in their order (R44), under a PASID (R51). -/
def outputWrites (d : Nat) (pasid : Option Nat) : List (Nat × Nat) → Bytes → List HostOut
  | [], _ => []
  | (a, n) :: l, bs => if bs = [] then [] else .output d pasid a (bs.take n) :: outputWrites d pasid l (bs.drop n)

/-- A command's output written ahead of its completion (R25), under the PASID of its placement (R106); a command whose queue is gone writes none (R442). -/
def State.writeOutput (s : State) (d : Nat) (c : Cmd) : State :=
  if c.noPost then s else (outputWrites d c.cond.pasid c.outBuffers c.output).foldl State.emitNow s

/-- The boundary at which a committed TIME_SET applies: the clock, then timed commits and key edges that it passes, then the
completions. -/
def State.applyTimeSet (s : State) (second : Nat) : State :=
  let before := s.clock.tai
  let at_ := second * 1000000000
  let s := s.setClock fun c => { c with tai := at_, frac := 0, set := true, timeSet := none }
  let s := s.log codeTimeSet (originOf 0 0) notice (leBytes 1 0 ++ leBytes 8 at_)
  let s := (s.reachInstant second).passEdges (before + 1) at_
  ((s.dom operator).cmds.filter Cmd.atBoundary).foldl (fun s c =>
    let c := { c with output := leBytes 8 (before / 1000000000) ++ leBytes 8 at_ }
    (s.writeOutput operator c).finishCmd operator c) s

/-- SECOND_BOUNDARY (R330, R331). -/
def execSecondBoundary (s : State) : Answer :=
  if !s.running then .next s
  else
    let s := s.passToTai (s.clock.nextSecond * 1000000000)
    let s := if s.clock.state = .locked || s.clock.state = .holdover then s.setClock fun c => { c with tickOut := some s.now } else s
    match s.clock.timeSet with
    | some (_, second) => .next (s.applyTimeSet second)
    | none => .next s

end Sys2Proof.Machine
end

