-- ==== Sys2Proof/Machine/CustomFunctions.lean ====
section
/-!
DEFINITION. Sys2Proof/Machine/CustomFunctions.lean: images, acceptance and binding of custom functions (R314 to R317,
group 0x0C).
-/

namespace Sys2Proof.Machine

/-! ### The image (R314 Table 12-2) -/

def imageCode (b : Bytes) : Nat := field b 8 4

def imageData (b : Bytes) : Nat := field b 12 4

def imageBss (b : Bytes) : Nat := field b 16 4

def imageStack (b : Bytes) : Nat := field b 20 4

def imageBudget (b : Bytes) : Nat := field b 24 4

/-- Where the signature begins. -/
def imageEnd (b : Bytes) : Nat := 128 + imageCode b + imageData b

/-- The length of an image with its signature. -/
def signedLen (b : Bytes) : Nat := imageEnd b + (if byteAt b 30 = 0x21 then 96 else 3309)

/-- ENTRY of an entry point. -/
def imageEntry (b : Bytes) (e : Nat) : Nat := field b (32 + 4 * e) 4

/-- Check 3 of R316: the first field of Table 12-2 out of range, by its offset. -/
def imageFail (b : Bytes) : Option Fail :=
  fields eCfImage ([
    (0, slice b 0 8 == ascii "KTWIMG01"),
    (8, 8 ≤ imageCode b && imageCode b ≤ 65536 && imageCode b % 8 = 0),
    (12, imageData b % 8 = 0 && imageData b ≤ 98304),
    (16, imageBss b % 8 = 0 && imageData b + imageBss b ≤ 98304),
    (20, 4096 ≤ imageStack b && imageStack b ≤ 32768 && imageStack b % 16 = 0),
    (24, 1000 ≤ imageBudget b && imageBudget b ≤ 4000000000),
    (28, 1 ≤ byteAt b 28 && byteAt b 28 ≤ 8),
    (29, byteAt b 29 ≤ 15),
    (30, byteAt b 30 = 0x21 || byteAt b 30 = 0x31),
    (31, byteAt b 31 = 0)] ++
    (List.range 8).map (fun e => (32 + 4 * e,
      if e < byteAt b 28 then imageEntry b e % 4 = 0 && imageEntry b e < imageCode b else imageEntry b e = 0)) ++
    [zeroAt b 64 64, (imageEnd b, b.length = signedLen b)])

/-- Check 4 of R316. -/
def imageSigned (r : Roster) (b : Bytes) : Bool :=
  match Tab.find r.officers (byteAt b 29) with
  | none => false
  | some o => o.role = 4 && o.alg = byteAt b 30 && officerVerify o.alg o.pub (slice b 0 (imageEnd b)) (b.drop (imageEnd b))

/-! ### Slots and groups (R315 Table 12-3) -/

def CfState.code : CfState → Nat
  | .empty => 0 | .loaded => 1 | .accepted => 2

def Dom.image (D : Dom) (slot : Nat) : CfImage := Tab.get D.cfImages {} slot

def Dom.group (D : Dom) (g : Nat) : CfGroup := Tab.get D.cfGroups {} g

/-- A group number is one of 0x40 to 0x7F. -/
def isGroup (g : Nat) : Bool := 0x40 ≤ g && g ≤ 0x7F

/-- Some group is bound to a slot. -/
def Dom.bound (D : Dom) (slot : Nat) : Option Nat := (D.cfGroups.find? fun p => p.2.slot = slot).map (·.1)

/-- CF_LOAD (R316); the image follows byte 64 of its parameter block. -/
def execCfLoad (dom id : Nat) (s : State) : Answer :=
  s.runMgmt 0x0C01 dom id fun c _ =>
    let D := s.dom dom
    let slot := byteAt c.param 0
    let b := c.param.drop 64
    let im : CfImage := { state := .loaded, image := b, digest := slice c.param 16 48 }
    checked [
      need (slot < 8) eCfParam 0,
      need ((D.image slot).state = .empty) eCfState (D.image slot).state.code,
      need (sha384 b == slice c.param 16 48) eCfDigest 0,
      imageFail b,
      need (imageSigned D.roster b) eCfSignature 0,
      need (D.mramUsed + roundUp b.length 4096 ≤ (s.confSeen dom c.placedAt).mramQuota * 1024) eCfSpace 0]
      (.ok { effects := [.cfImage dom slot im] })

/-- CF_ACCEPT (R315); its checks hold at its commit point too, for the pitch's own commands may come between. -/
def execCfAccept (dom id : Nat) (s : State) : Answer :=
  s.runMgmt 0x0C02 dom id fun c _ =>
    let pitch := byteAt c.param 0
    let slot := byteAt c.param 1
    let im := (s.dom pitch).image slot
    checked [
      need (slot < 8) eCfParam 1,
      need (im.state = .loaded) eCfState im.state.code,
      need (im.digest == slice c.param 16 48) eCfDigest 0]
      (.ok { effects := [.cfAccept pitch slot (slice c.param 16 48)] })

/-- CF_BIND (R315, R317). -/
def execCfBind (dom id : Nat) (s : State) : Answer :=
  s.runMgmt 0x0C03 dom id fun c _ =>
    let D := s.dom dom
    let p := c.param
    let g := byteAt p 0
    let slot := byteAt p 1
    let im := D.image slot
    let budget := field p 4 4
    checked [
      fields eCfParam [(0, isGroup g), (1, slot < 8), (2, byteAt p 2 ≤ 4), (4, 1000 ≤ budget)],
      need (im.state = .accepted) eCfState im.state.code,
      need (im.digest == slice p 16 48) eCfDigest 0,
      need (budget ≤ imageBudget im.image) eCfParam 4,
      need ((D.group g).slot = 0xFF) eCfBound g]
      (.ok { effects := [.cfGroup dom g { slot := slot, drawCalls := byteAt p 2, budget := budget }] })

/-- CF_UNBIND (R317). -/
def execCfUnbind (dom id : Nat) (s : State) : Answer :=
  s.runMgmt 0x0C04 dom id fun c _ =>
    let g := byteAt c.param 0
    checked [need (isGroup g) eCfParam 0, need (((s.dom dom).group g).slot != 0xFF) eCfState 0]
      (.ok { effects := [.cfGroup dom g {}] })

/-- CF_DELETE (R317). -/
def execCfDelete (dom id : Nat) (s : State) : Answer :=
  s.runMgmt 0x0C05 dom id fun c _ =>
    let D := s.dom dom
    let slot := byteAt c.param 0
    checked [
      need (slot < 8) eCfParam 0,
      need ((D.image slot).state != .empty) eCfState 0,
      (D.bound slot).map fun g => (eCfBound, g)]
      (.ok { effects := [.cfImage dom slot {}] })

/-- The record of a slot and of a group (Table 12-3). -/
def CfImage.bytes (im : CfImage) : Bytes :=
  leBytes 1 im.state.code ++ leBytes 1 (byteAt im.image 28) ++ zeros 2 ++ leBytes 4 im.image.length ++ zeros 8 ++
    slice im.digest 0 48

def CfGroup.bytes (g : CfGroup) : Bytes := leBytes 1 g.slot ++ leBytes 1 g.drawCalls ++ zeros 2 ++ leBytes 4 g.budget

/-- CF_INFO (R315); a pitch names itself. -/
def execCfInfo (dom id : Nat) (s : State) : Answer :=
  s.runMgmt 0x0C06 dom id fun c _ =>
    let p := byteAt c.param 0
    let D := s.dom p
    checked [need (dom = operator || p = dom) eCfParam 0]
      (.ok { out := (List.range 8).flatMap (fun i => (D.image i).bytes) ++
                    (List.range 64).flatMap fun i => (D.group (0x40 + i)).bytes })

end Sys2Proof.Machine
end

