-- ==== Sys2Proof/Machine/KeyRecords.lean ====
section
/-!
DEFINITION. Sys2Proof/Machine/KeyRecords.lean: the checks a new key record passes, key check values, the room a key needs
and the checks of a group 0x04 command on its handle (R126 to R131, R146, R147, R153).
-/

namespace Sys2Proof.Machine

/-- Usages of an algorithm for kinds 00 and 10 (Table 5-5). -/
def usagesPrivate (alg : Nat) : List Nat :=
  match alg with
  | 1 | 2 | 3 | 4 | 5 => [1, 2, 3, 4, 5, 6, 7, 8, 9]
  | 6 | 7 | 8 => [5, 6, 7]
  | 0x0A | 0x0B => [1, 2]
  | 0x10 => [2, 4, 10]
  | 0x20 | 0x21 | 0x22 => [10, 12]
  | 0x23 | 0x24 => [10]
  | 0x25 | 0x26 => [12]
  | 0x30 => [13]
  | 0x31 => [10]
  | _ => []

/-- Usages of an algorithm for kind 01. -/
def usagesPublic (alg : Nat) : List Nat :=
  match alg with
  | 0x10 => [1, 3, 11]
  | 0x20 | 0x21 | 0x22 => [11, 12]
  | 0x23 | 0x24 => [11]
  | 0x25 | 0x26 => [12]
  | 0x30 => [1]
  | 0x31 => [11]
  | _ => []

/-- The first of ALGORITHM, LENGTH and USAGE, in the order of R129, that no row of Table 5-5 with the fields before it
allows; its value is the field's offset in the record. DEDUCED (log entry 38). -/
def tableFail (h : Nat) (a : Attr) : Option Nat :=
  let usages := if handleKind h = 1 then usagesPublic a.alg else usagesPrivate a.alg
  if lengthsOf a.alg = [] then some 9
  else if !(lengthsOf a.alg).contains a.length then some 10
  else if !usages.contains a.usage then some 8
  else if handleKind h = 2 && handleIndex h < 0x1000 && !isSymmetric a.alg then some 9
  else none

/-- The checks of a new key's attribute record for a handle (R128, R129, R153). DETAIL is the offset in the record. DESIGN CHOICE: for KEY_UNWRAP too
(log entry 77), where Table 5-14 has the offset for group 0x04 and the slot otherwise. -/
def recordFail (h : Nat) (a : Attr) : Option Fail :=
  firstFail [
    need (a.handle = h) eKeyAttr 0, need (a.generation = 0) eKeyAttr 4,
    (tableFail h a).map fun o => (eKeyAlgorithm, o),
    need (bits a.flags 3 2 = 0) eKeyAttr 12, need (a.usage = 5 || a.deriveTo = 0) eKeyAttr 14,
    need (a.notBefore ≤ a.notAfter) eKeyAttr 16, need (a.depth = 0) eKeyAttr 32,
    need (a.nonceLimit = 0 || [1, 3, 6].contains a.usage) eKeyAttr 40]

/-- The attribute record a command carries at an offset, for a handle of its own; on a twinned secondary the record's
handle names this pitch (R79, R85). -/
def Cmd.attrFor (c : Cmd) (offset h : Nat) : Attr :=
  let a := attrAt c.param offset
  if c.twinDigest.isSome && canonical a.handle = canonical h then { a with handle := h } else a

/-- The attribute record of a group 0x04 command. -/
def Cmd.attrIn (c : Cmd) : Attr := c.attrFor 0 c.entry.handle0

/-- Origin bits of FLAGS: generated, from components (R128). -/
def originGenerated : Nat := 4

def originComponents : Nat := 8

/-- FLAGS with its origin bits set anew. -/
def originFlags (flags origin : Nat) : Nat := flags % 4 + origin

/-- The key check value of a key (R146). -/
def kcvOf (alg length : Nat) (value : Bytes) : Bytes :=
  let b := cipherOf0 alg value
  (match alg with
    | 1 | 2 | 3 | 4 | 5 => b.enc (zeros b.size)
    | 6 => hmacSha256 value [] | 7 => hmacSha384 value [] | 8 => hmacSha512 value []
    | 0x0A | 0x0B => (aes (value.take (value.length / 2))).enc (zeros 16)
    | _ => sha384 (publicOf alg length value)).take 3
where
  /-- The keyed cipher of an AES or TDEA key. -/
  cipherOf0 (alg : Nat) (key : Bytes) : Block1 := if alg = 4 || alg = 5 then tdea key else aes key

/-- The key check value of a kind 01 key: its value is its encoding. -/
def kcvPublic (encoding : Bytes) : Bytes := (sha384 encoding).take 3

/-- Whether a new key has room: its two slots in the owner's MRAM quota, and for an EMBER-resident key its pair (R147). A pair is fixed by
the key's index, so that none is free for it where no two of its pointer copies agree. The quota is the one that a command placed at that
instant sees (R106).
DEDUCED (log entry 38). -/
def State.keyRoom (s : State) (placed owner h valueLen : Nat) : Option Fail :=
  let n := 2 * slotBytes (if inEmber h then 0 else valueLen)
  firstFail [
    need (owner ≥ 256 || (s.dom owner).mramUsed + n ≤ (s.confSeen owner placed).mramQuota * 1024) eKeySpace 1,
    need (!inEmber h || (s.ember.side (emberPair h)).isSome) eKeySpace 2]

/-- The handle of a group 0x04 command: declared, with its write where the command changes the key, and of a kind the
command takes (R69, R126, R127, R153). -/
def handleFail (d : Nat) (e : Entry) (write : Bool) (kinds : List Nat) : Option Fail :=
  firstFail [
    need (e.valid 0) eUndeclaredAccess 0xFFFF, need (!write || e.writes 0) eUndeclaredAccess 0,
    need (handleValid d e.handle0 && (d = operator || handleKind e.handle0 != 2) && kinds.contains (handleKind e.handle0)) eKeyHandle 0]

/-- The key a command needs, by its slot. -/
def State.needKey (s : State) (d h slot : Nat) : Except Fail (Attr × Nat × Bytes) :=
  match s.lookKey (ownerOf d h) h with
  | .absent => .error (eKeyAbsent, slot)
  | .corrupt => .error (eKeyCorrupt, slot)
  | .found a n v => .ok (a, n, v)

end Sys2Proof.Machine
end

