-- ==== Sys2Proof/Machine/Keys.lean ====
section
/-!
DEFINITION. Sys2Proof/Machine/Keys.lean: group 0x04, the key commands (R142 to R154), and the attestation signature that
some commands carry (R457).
-/

namespace Sys2Proof.Machine

/-- A signature of the module's attestation key (EMBER pair 259, R457) over a message, with the nonce of deterministic
ECDSA (log entry 7); a free value while the key is unreadable. -/
def State.attest (s : State) (m : Bytes) : Bytes :=
  match s.ember.read 259 with
  | some k => ecdsaDeterministic curveP384 2 (beNat (k.take 48)) (sha384 m)
  | none => slice (Config.free s.free 96) 0 96

/-- The output of KEY_GENERATE and of both sources of KEY_REPLACE (Table 5-13). -/
def keyOutput (kcv pub : Bytes) : Bytes := kcv ++ zeros 1 ++ leBytes 4 pub.length ++ zeros 8 ++ pub

/-! ### KEY_GENERATE (R142) -/

/-- The KEYGEN job of an asymmetric key (R205). -/
def keygenCalls (a : Attr) : List Call := if isSymmetric a.alg then [] else [liuCall 0x0A a.alg a.length]

/-- KEY_GENERATE up to its effect. -/
def keyGenerateWork (s : State) (d : Nat) (c : Cmd) : Work :=
  let h := c.entry.handle0
  let a := c.attrIn
  let v := generateValue a.alg a.length (c.drawn.getD [])
  let pub := if isSymmetric a.alg then [] else publicOf a.alg a.length v
  checked [handleFail d c.entry true [0, 2], recordFail h a, need (!s.keyPresent (ownerOf d h) h) eKeyExists 0,
    s.keyRoom c.placedAt (ownerOf d h) h v.length]
    (.ok { out := keyOutput (kcvOf a.alg a.length v) pub, calls := keygenCalls a
           effects := [.keyPut (ownerOf d h) (canonical h) { a with flags := originFlags a.flags originGenerated } v true] })

/-- KEY_GENERATE (R142). -/
def execKeyGenerate (dom id : Nat) (s : State) : Answer :=
  (s.endCalls 0x0401 dom id).runMgmt 0x0401 dom id fun c _ => keyGenerateWork s dom c

/-! ### Components (R143 to R145) -/

/-- The decapsulation key of the transport key, from the seed in pair 257, and the X25519 key in pair 258 (R143). -/
def State.transport (s : State) : Option (Bytes × Bytes × Bytes) :=
  match s.ember.read 257, s.ember.read 258 with
  | some seed, some x =>
    let (ek, dk) := kemKeyGen 1024 (seed.take 32) (slice seed 32 32)
    some (ek, dk, x.take 32)
  | _, _ => none

/-- The component in an envelope at an offset of the block (R144); none where it does not decapsulate and unwrap. -/
def State.component (s : State) (h : Nat) (a : Attr) (p : Bytes) (o : Nat) : Option Bytes :=
  match s.transport with
  | none => none
  | some (_, dk, x) =>
    let n := field p (o + 4) 2
    let ss2 := x25519 x (slice p (o + 1584) 32)
    let ki := kemDecaps 1024 dk (slice p (o + 16) 1568) ++ ss2
    let context := slice Config.serial 0 16 ++ leBytes 4 h ++ slice p o 2 ++ a.block
    let kek := kdfHmac ki (ascii "KALLAN-COMPONENT") context 256
    if n < 24 || n > 80 || !allZero (slice p (o + 1616 + n) (80 - n)) || allZero ss2 then none
    else (kwpUnwrap (aes kek) (slice p (o + 1616) n)).filter fun v => v.length = a.length / 8

/-- The value that envelopes at an offset combine to (R145); a transport pair that cannot be read is E_KEY_CORRUPT (R122; log entry 38). -/
def State.combine (s : State) (h : Nat) (a : Attr) (p : Bytes) (o parts : Nat) (key : List Nat) : Except Fail Bytes :=
  let at_ := fun k => o + 1696 * k
  let nos := (List.range parts).map fun k => byteAt p (at_ k + 1)
  let officers := (List.range parts).map fun k => byteAt p (at_ k)
  if !(parts = 2 || parts = 3) || !((List.range parts).all fun k => byteAt p (at_ k + 2) = parts) then .error (eComponent, 1)
  else if !((List.range parts).all fun i => nos.contains (i + 1)) then .error (eComponent, 2)
  else if !officers.Nodup || !(officers.all key.contains) then .error (eComponent, 3)
  else if s.transport.isNone then .error (eKeyCorrupt, 0xFFFF)
  else
    (List.range parts).foldl (fun r k =>
      match r with
      | .error f => .error f
      | .ok v =>
        match s.component h a p (at_ k) with
        | none => .error (eComponent, 0x10 + byteAt p (at_ k + 1))
        | some x => .ok (if v = [] then x else xorBytes v x)) (.ok [])

/-- The key value of a command: the one its components give, or on a twinned secondary the one the record carries
(R85, R145). -/
def State.loaded (s : State) (c : Cmd) (a : Attr) (o parts : Nat) (key : List Nat) : Except Fail Bytes :=
  match c.twinKey with
  | some v => .ok v
  | none => s.combine c.entry.handle0 a c.param o parts key

/-- The key value that the components of a KEY_LOAD or a KEY_REPLACE give on a twinned primary; its record carries it (R85). -/
def State.givenKey (s : State) (d : Nat) (c : Cmd) (as : List Approval) : Except Fail Bytes :=
  if c.entry.opcode = 0x0402 then s.combine c.entry.handle0 c.attrIn c.param 80 (byteAt c.param 67) (approving as 1)
  else (s.needKey d c.entry.handle0 0).bind fun x => s.combine c.entry.handle0 x.1 c.param 16 (byteAt c.param 1) (approving as 1)

/-- The running command of an opcode with the key value that its record is to carry. -/
def State.carryKey (s : State) (code d id : Nat) : State :=
  match s.cmd d id with
  | none => s
  | some c =>
    if !s.runs code d id || c.twinDigest.isSome || (s.dom d).twin.role != .primary || (code = 0x0404 && byteAt c.param 0 != 1) then s
    else match s.checkApprovals d c with
    | .error _ => s
    | .ok as =>
      match s.givenKey d c as with
      | .error _ => s
      | .ok v => s.setCmd d id fun c => { c with twinKey := some v }

/-- A non-zero EXPECTED_KCV that differs from a key's (R153). -/
def kcvFail (expected kcv : Bytes) : Option Fail := need (allZero expected || expected = kcv) eKeyCheck 0

/-- KEY_LOAD up to its effect. -/
def keyLoadWork (s : State) (d : Nat) (c : Cmd) (as : List Approval) : Work :=
  let h := c.entry.handle0
  let a := c.attrIn
  let owner := ownerOf d h
  match firstFail [handleFail d c.entry true [0, 2], recordFail h a, need (isSymmetric a.alg) eKeyAlgorithm 9,
      need (!s.keyPresent owner h) eKeyExists 0, s.keyRoom c.placedAt owner h (a.length / 8)] with
  | some f => .error f
  | none =>
    match s.loaded c a 80 (byteAt c.param 67) (approving as 1) with
    | .error f => .error f
    | .ok v =>
      let kcv := kcvOf a.alg a.length v
      checked [kcvFail (slice c.param 64 3) kcv]
        (.ok { out := kcv ++ zeros 13
               effects := [.keyPut owner (canonical h) { a with flags := originFlags a.flags originComponents } v true] })

/-- KEY_LOAD (R145). -/
def execKeyLoad (dom id : Nat) (s : State) : Answer := (s.carryKey 0x0402 dom id).runMgmt 0x0402 dom id fun c as => keyLoadWork s dom c as

/-- KEY_PUBLIC_LOAD up to its effect. -/
def keyPublicLoadWork (s : State) (d : Nat) (c : Cmd) : Work :=
  let h := c.entry.handle0
  let a := c.attrIn
  let v := slice c.param 80 (field c.param 64 4)
  checked [handleFail d c.entry true [1], recordFail h a, need (!s.keyPresent d h) eKeyExists 0,
    (publicCheck a.alg a.length v).map fun st => (st, 0), s.keyRoom c.placedAt d h v.length]
    (.ok { out := kcvPublic v ++ zeros 13, effects := [.keyPut d (canonical h) a v true] })

/-- KEY_PUBLIC_LOAD (R146). -/
def execKeyPublicLoad (dom id : Nat) (s : State) : Answer := s.runMgmt 0x0403 dom id fun c _ => keyPublicLoadWork s dom c

/-! ### KEY_REPLACE, KEY_DESTROY, KEY_ATTR_RESTRICT (R131, R149, R150) -/

/-- KEY_REPLACE up to its effect. -/
def keyReplaceWork (s : State) (d : Nat) (c : Cmd) (as : List Approval) : Work :=
  let h := c.entry.handle0
  let owner := ownerOf d h
  let src := byteAt c.param 0
  match firstFail [handleFail d c.entry true [0, 2], need (src ≤ 1) eKeyParam 0, need (src = 1 || byteAt c.param 1 = 0) eKeyParam 1] with
  | some f => .error f
  | none =>
    match s.needKey d h 0 with
    | .error f => .error f
    | .ok (a, _, _) =>
      let next := (a.generation + 1) % 2 ^ 32
      if src = 0 then
        let v := generateValue a.alg a.length (c.drawn.getD [])
        let pub := if isSymmetric a.alg then [] else publicOf a.alg a.length v
        let kcv := kcvOf a.alg a.length v
        checked [kcvFail (slice c.param 4 3) kcv]
          (.ok { out := keyOutput kcv pub, calls := keygenCalls a
                 effects := [.keyPut owner (canonical h) { a with generation := next, flags := originFlags a.flags originGenerated } v false] })
      else if !isSymmetric a.alg then .error (eKeyAlgorithm, 9)
      else
        match s.loaded c a 16 (byteAt c.param 1) (approving as 1) with
        | .error f => .error f
        | .ok v =>
          let kcv := kcvOf a.alg a.length v
          checked [kcvFail (slice c.param 4 3) kcv]
            (.ok { out := keyOutput kcv []
                   effects := [.keyPut owner (canonical h) { a with generation := next, flags := originFlags a.flags originComponents } v false] })

/-- KEY_REPLACE (R149). -/
def execKeyReplace (dom id : Nat) (s : State) : Answer :=
  ((s.endCalls 0x0404 dom id).carryKey 0x0404 dom id).runMgmt 0x0404 dom id fun c as => keyReplaceWork s dom c as

/-- KEY_DESTROY (R150). -/
def execKeyDestroy (dom id : Nat) (s : State) : Answer :=
  s.runMgmt 0x0405 dom id fun c _ =>
    let h := c.entry.handle0
    checked [handleFail dom c.entry true [0, 1, 2], need (s.keyPresent (ownerOf dom h) h) eKeyAbsent 0]
      (.ok { effects := [.keyDrop (ownerOf dom h) (canonical h)] })

/-- The highest next value of any domain's counter on a handle, without the domain number (R131). -/
def State.nextNonce (s : State) (owner h : Nat) : Nat :=
  if handleKind h = 2 then allDoms.foldl (fun n d => max n ((s.dom d).nonce h).next) 0 else ((s.dom owner).nonce h).next

/-- The first field of a new record that is not a narrowing of the old one (R131). -/
def widenFail (old new : Attr) (next : Nat) : Option Nat :=
  firstFail1 [
    (4, new.generation = 0 || new.generation = old.generation), (8, new.usage = old.usage), (9, new.alg = old.alg),
    (10, new.length = old.length),
    (12, (!bit new.flags 0 || bit old.flags 0) && (!bit new.flags 1 || bit old.flags 1) &&
      (bits new.flags 3 2 = 0 || bits new.flags 3 2 = bits old.flags 3 2)),
    (14, new.deriveTo &&& old.deriveTo = new.deriveTo), (16, old.notBefore ≤ new.notBefore),
    (24, new.notAfter ≤ old.notAfter),
    (40, new.nonceLimit = old.nonceLimit || (new.nonceLimit < old.nonceLimit && next ≤ new.nonceLimit))]
where
  /-- The offset of the first condition that fails. -/
  firstFail1 (l : List (Nat × Bool)) : Option Nat := (l.find? fun x => !x.2).map (·.1)

/-- KEY_ATTR_RESTRICT up to its effect. A record whose window is inverted or whose DEPTH is not 0 is out of range (R154) before it is compared
with the current one (R131).
DESIGN CHOICE of that order (log entry 67). -/
def keyRestrictWork (s : State) (d : Nat) (c : Cmd) : Work :=
  let h := c.entry.handle0
  let owner := ownerOf d h
  let a := c.attrIn
  match firstFail [handleFail d c.entry true [0, 1, 2], need (a.handle = h) eKeyAttr 0] with
  | some f => .error f
  | none =>
    match s.needKey d h 0 with
    | .error f => .error f
    | .ok (old, _, _) =>
      checked [
        need (a.notBefore ≤ a.notAfter) eKeyAttr 16, need (a.depth = 0) eKeyAttr 32,
        (widenFail old a (s.nextNonce owner h)).map fun o => (eAttrWiden, o)]
        (.ok { effects := [.keyAttr owner (canonical h)
          { a with generation := old.generation, flags := a.flags % 4 + old.flags / 4 * 4 % 16 }] })

/-- KEY_ATTR_RESTRICT (R131). -/
def execKeyAttrRestrict (dom id : Nat) (s : State) : Answer := s.runMgmt 0x0406 dom id fun c _ => keyRestrictWork s dom c

/-! ### KEY_INFO, KEY_PUBLIC_READ, KEY_TRANSPORT_INFO, KEY_GRANT, KEY_LIST -/

/-- Regions whose cache holds the current value of a key, bit r for region r. -/
def State.cachedIn (s : State) (owner h generation : Nat) : Nat :=
  ((List.range 8).filter fun r => (s.region r).cache.any fun e =>
    e.owner = owner && e.handle = canonical h && e.generation = generation && e.path = []).foldl (fun n r => n + 2 ^ r) 0

/-- KEY_INFO up to its output. -/
def keyInfoWork (s : State) (d : Nat) (c : Cmd) : Work :=
  let h := c.entry.handle0
  let owner := ownerOf d h
  match handleFail d c.entry false [0, 1, 2] with
  | some f => .error f
  | none =>
    match s.needKey d h 0 with
    | .error f => .error f
    | .ok (a, n, v) =>
      let kcv := if handleKind h = 1 then kcvPublic v else if isSymmetric a.alg then kcvOf a.alg a.length v else zeros 3
      .ok { out := a.bytes ++ leBytes 12 (nonceBase owner h + ((s.dom owner).nonce h).next) ++ kcv ++
              leBytes 1 (if inEmber h then 1 else 2) ++ leBytes 8 n ++ leBytes 1 (s.cachedIn owner h a.generation) ++ zeros 7 }

/-- KEY_INFO (Table 5-13). -/
def execKeyInfo (dom id : Nat) (s : State) : Answer := s.runMgmt 0x0407 dom id fun c _ => keyInfoWork s dom c

/-- KEY_PUBLIC_READ up to its output. -/
def keyPublicReadWork (s : State) (d : Nat) (c : Cmd) : Work :=
  let h := c.entry.handle0
  match handleFail d c.entry false [0, 1, 2] with
  | some f => .error f
  | none =>
    match s.needKey d h 0 with
    | .error f => .error f
    | .ok (a, _, v) =>
      let pub := if handleKind h = 1 then v else publicOf a.alg a.length v
      checked [need (!isSymmetric a.alg) eKeyAlgorithm 9] (.ok { out := leBytes 4 pub.length ++ zeros 12 ++ pub })

/-- KEY_PUBLIC_READ (Table 5-13). -/
def execKeyPublicRead (dom id : Nat) (s : State) : Answer := s.runMgmt 0x0408 dom id fun c _ => keyPublicReadWork s dom c

/-- KEY_TRANSPORT_INFO up to its output; it needs the pairs of both keys and that of the attestation key (R122, R457). -/
def keyTransportWork (s : State) : Work :=
  match s.transport, s.ember.read 259 with
  | none, _ | _, none => .error (eKeyCorrupt, 0xFFFF)
  | some (ek, _, x), some _ =>
    let m := ek ++ x25519 x (leBytes 32 9) ++ slice Config.serial 0 16
    .ok { out := m ++ s.attest m }

/-- KEY_TRANSPORT_INFO (R143). -/
def execKeyTransportInfo (dom id : Nat) (s : State) : Answer := (s.freed 0x0409 dom id).runMgmt 0x0409 dom id fun _ _ => keyTransportWork s

/-- KEY_GRANT (R127). -/
def execKeyGrant (dom id : Nat) (s : State) : Answer :=
  s.runMgmt 0x040A dom id fun c _ =>
    checked [handleFail dom c.entry true [2], need (byteAt c.param 1 ≤ 1) eKeyParam 1]
      (.ok { effects := [.grant (byteAt c.param 0) (handleIndex c.entry.handle0) (byteAt c.param 1 = 1)] })

/-- KEY_LIST up to its output. -/
def keyListWork (s : State) (d : Nat) (c : Cmd) : Work :=
  let k := byteAt c.param 0
  let start := field c.param 4 4
  let n := field c.param 8 4
  let hs := ((s.dom d).keys.map (·.1)).filter fun h => handleKind h = k && start ≤ handleIndex h
  let hs := (hs.take n).map fun h => h + (if d < 256 then d * 2 ^ 24 else 0)
  checked [need (if d < 256 then k ≤ 1 else k = 2) eKeyParam 0, need (1 ≤ n && n ≤ 65536) eKeyParam 8]
    (.ok { out := leBytes 4 hs.length ++ zeros 12 ++ hs.flatMap (leBytes 4) })

/-- KEY_LIST (R153). -/
def execKeyList (dom id : Nat) (s : State) : Answer := s.runMgmt 0x040B dom id fun c _ => keyListWork s dom c

end Sys2Proof.Machine
end

