-- ==== Sys2Proof/Machine/LifeCycle.lean ====
section
/-!
DEFINITION. Sys2Proof/Machine/LifeCycle.lean: the life-cycle fuses, their vote and repair, the wipe, and group 0x09 (R393 to
R410).
-/

namespace Sys2Proof.Machine

/-! ### The OTP copies (R401 to R404) -/

/-- Field k of a copy. -/
def otpField (c : BitVec 256) (k : Nat) : BitVec 32 := c.extractLsb' (32 * k) 32

def otpWritten (c : BitVec 256) (k : Nat) : Bool := otpField c k &&& otpPattern == otpPattern

def otpPartial (c : BitVec 256) (k : Nat) : Bool := !otpWritten c k && otpField c k &&& otpPattern != 0

/-- A copy after a field is burned. -/
def otpBurn (c : BitVec 256) (k : Nat) : BitVec 256 := c ||| (otpPattern.zeroExtend 256 <<< (32 * k))

/-- The fields a written field requires (Table 16-4). -/
def otpRequires (c : BitVec 256) (k : Nat) : Bool :=
  match k with
  | 1 => otpWritten c 0
  | 2 => otpWritten c 1
  | 3 => otpWritten c 1
  | 4 => otpWritten c 2 || otpWritten c 3
  | 5 => otpWritten c 4
  | 7 => otpWritten c 6
  | _ => true

def otpFields : List Nat := List.range 8

/-- A valid copy (R403). -/
def otpValid (c : BitVec 256) : Bool :=
  otpFields.all fun k => otpField c k &&& ~~~otpPattern == 0 && (!otpWritten c k || otpRequires c k)

/-- The state a valid copy decodes to. -/
def otpDecode (c : BitVec 256) : LifeCycle :=
  if otpWritten c 7 then .scrapped
  else if otpWritten c 5 then .returned
  else if otpWritten c 3 then .field
  else if otpWritten c 2 then .development
  else if otpWritten c 1 then .provisioned
  else if otpWritten c 0 then .vendorTest
  else .blank

def LifeCycleReg.copies (l : LifeCycleReg) : List (BitVec 256) := [l.copy0, l.copy1, l.copy2]

/-- Every copy burned as `f` says, but for one whose burns do not verify. -/
def LifeCycleReg.withCopies (l : LifeCycleReg) (f : BitVec 256 → BitVec 256) (fails : Option Nat := none) : LifeCycleReg :=
  { l with copy0 := if fails = some 0 then l.copy0 else f l.copy0, copy1 := if fails = some 1 then l.copy1 else f l.copy1
           copy2 := if fails = some 2 then l.copy2 else f l.copy2 }

def LifeCycleReg.validCopies (l : LifeCycleReg) : List (BitVec 256) := l.copies.filter otpValid

/-- The state that the vote takes (R404). -/
def LifeCycleReg.vote2 (l : LifeCycleReg) : LifeCycle :=
  let v := l.validCopies.map otpDecode
  match v.find? fun x => v.count x ≥ 2 with
  | some x => x
  | none => .scrapped

/-- A field with which a WIPE_PENDING field is done. -/
def wipeOf (c : BitVec 256) : Option LifeCycle :=
  if otpWritten c 6 && !otpWritten c 7 then some .scrapped
  else if otpWritten c 4 && !otpWritten c 5 && !otpWritten c 7 then some .returned
  else none

/-- The wipe that is due, by its target (R405). -/
def LifeCycleReg.wipeDue (l : LifeCycleReg) : Option LifeCycle :=
  let w := l.validCopies.filterMap wipeOf
  if w.contains .scrapped then some .scrapped else w.head?

/-- The codes of the life-cycle vote logic (R387 Table 15-7). -/
def LifeCycle.voteCode : LifeCycle → BitVec 16
  | .blank => 0x6996 | .vendorTest => 0x5555 | .provisioned => 0x3333 | .development => 0x0F0F
  | .field => 0x00FF | .returned => 0x9999 | .scrapped => 0xA5A5

/-- A pending transition's target (R400): a WIPE_PENDING field's, or that of an AT_NEXT_RESET transition completed since the boot. -/
def LifeCycleReg.target (l : LifeCycleReg) : Option LifeCycle :=
  match l.wipeDue with
  | some x => some x
  | none => l.awaiting

/-- A bit for each copy. -/
def copyBits (l : LifeCycleReg) (p : BitVec 256 → Bool) : Nat := b2n (p l.copy0) + 2 * b2n (p l.copy1) + 4 * b2n (p l.copy2)

/-- LIFECYCLE (R396 Table 16-2). -/
def LifeCycleReg.bits (l : LifeCycleReg) : Nat :=
  l.state.code + 2 ^ 4 * b2n l.recovery + 2 ^ 16 * copyBits l (fun c => otpValid c && otpDecode c != l.vote2) +
    2 ^ 20 * copyBits l (fun c => !otpValid c) + 2 ^ 24 * copyBits l (fun c => otpFields.any (otpPartial c)) +
    2 ^ 32 * (if l.vote2 = l.state then 0xFF else l.vote2.code) + 2 ^ 40 * l.debugLevel

/-! ### Group 0x09 (R397 to R400, R408, R409) -/

/-- Numbers of the life-cycle entries (log entry 22). -/
def codeLifeCycle : Nat := 0x1200

def codeRepair : Nat := 0x1201

def codeUnlock : Nat := 0x1202

def codeRefused : Nat := 0x1203

def codeProbe : Nat := 0x1204

/-- The bits that are 1. -/
def popCount (v : BitVec 64) : Nat := ((List.range 64).filter fun i => v.getLsbD i).length

/-- The attempt bits of a transition that count as burned: those set in any of their three OTP copies (R398). -/
def LifeCycleReg.spent (l : LifeCycleReg) (t : Nat) : BitVec 64 :=
  l.attempts.getD (t - 1) 0 ||| l.attempts1.getD (t - 1) 0 ||| l.attempts2.getD (t - 1) 0

def LifeCycleReg.attemptsLeft (l : LifeCycleReg) (t : Nat) : Nat := 64 - popCount (l.spent t)

/-- A bit of a transition's attempt bits set in a copy. -/
def setAttempt (v : List (BitVec 64)) (t i : Nat) : List (BitVec 64) := v.set (t - 1) (v.getD (t - 1) 0 ||| (1 <<< i))

/-- One attempt bit of a transition burned, in its first `n` OTP copies. -/
def LifeCycleReg.burnAttempt (l : LifeCycleReg) (t : Nat) (n : Nat := 3) : LifeCycleReg :=
  match (List.range 64).find? fun i => !(l.spent t).getLsbD i with
  | some i => { l with attempts := if n > 0 then setAttempt l.attempts t i else l.attempts
                       attempts1 := if n > 1 then setAttempt l.attempts1 t i else l.attempts1
                       attempts2 := if n > 2 then setAttempt l.attempts2 t i else l.attempts2 }
  | none => l

/-- The digest burned for a transition (R397). -/
def LifeCycleReg.digest (l : LifeCycleReg) (t : Nat) : Option Bytes :=
  if t = 6 then Tab.find l.digests 6 else some (slice (Config.tokenDigest t) 0 48)

/-- Where a transition starts (Table 16-3). -/
def transitionFrom (t : Nat) (x : LifeCycle) : Bool :=
  match t with
  | 1 => x = .blank
  | 2 => x = .vendorTest
  | 3 | 4 => x = .provisioned
  | 5 => x = .development
  | 6 => x = .development || x = .field
  | 7 => x != .scrapped
  | _ => false

/-- The field that a transition burns at its commit point (R399). -/
def transitionField (t : Nat) : Nat :=
  match t with | 1 => 0 | 2 => 1 | 3 => 2 | 4 => 3 | 5 => 3 | 6 => 4 | _ => 6

def transitionWipes (t : Nat) : Bool := t = 6 || t = 7

/-- AT_NEXT_RESET is selected (R399). -/
def LifeCycleReg.deferred (l : LifeCycleReg) (t : Nat) : Bool := l.modes.getLsbD (t - 1)

/-- A pending transition blocks another, but a pending transition 6 does not block transition 7 (R400). -/
def LifeCycleReg.blocks (l : LifeCycleReg) (t : Nat) : Bool :=
  match l.target with
  | none => false
  | some x => !(t = 7 && x = .returned && l.wipeDue = some .returned)

def LifeCycleReg.targetCode (l : LifeCycleReg) : Nat := match l.target with | some x => x.code | none => 0xFF

/-- Checks 1 to 6 of LC_TRANSITION (R398). -/
def transitionFail (s : State) (t : Nat) : Option Fail :=
  let l := s.life
  firstFail [
    need (1 ≤ t && t ≤ 7) eLcParam 0,
    need (transitionFrom t l.state) eLifecycleState l.state.code,
    need ((l.digest t).isSome && ((t != 3 && t != 4) || (l.digest 6).isSome)) eLcNoDigest t,
    need (!l.blocks t) eLcPending l.targetCode,
    need (t > 5 || s.tamper.flags = 0) eLcTamperSticky s.tamper.flags.toNat,
    need (l.attemptsLeft t > 0) eLcExhausted t,
    need (l.wrong < 3) eLcBootLimit 0]

/-- The fuses after a field is burned into as many copies as verify (R402). -/
def LifeCycleReg.burnCopies (l : LifeCycleReg) (k n : Nat) : LifeCycleReg :=
  { l with copy0 := if n > 0 then otpBurn l.copy0 k else l.copy0
           copy1 := if n > 1 then otpBurn l.copy1 k else l.copy1
           copy2 := if n > 2 then otpBurn l.copy2 k else l.copy2 }

/-- The state in which a transition ends (Table 16-3). -/
def transitionTo (t : Nat) : LifeCycle :=
  match t with | 1 => .vendorTest | 2 => .provisioned | 3 => .development | 4 => .field | 5 => .field | 6 => .returned | _ => .scrapped

/-- The fuses after a burn that ends at a copy: those before it hold the field, and it holds some of its ones (R402). -/
def LifeCycleReg.burnPart (l : LifeCycleReg) (k : Nat) (b : OtpBurn) : LifeCycleReg :=
  let l := l.burnCopies k b.copies
  let v : BitVec 256 := (otpOnes b.bits).zeroExtend 256 <<< (32 * k)
  match b.copies with
  | 0 => { l with copy0 := l.copy0 ||| v }
  | 1 => { l with copy1 := l.copy1 ||| v }
  | 2 => { l with copy2 := l.copy2 ||| v }
  | _ => l

/-- The attempt bit that LC_TRANSITION burns and verifies in at least one of its OTP copies, unless power is lost first (R398). -/
def LifeCycleReg.attempted (l : LifeCycleReg) (t : Nat) (b : OtpBurn) : LifeCycleReg := l.burnAttempt t (if b.cut then b.attempt else max 1 b.attempt)

/-- LC_TRANSITION once its approvals stand: the attempt bit is burned before the token is compared (R398). The operand says how the burns come out:
each copy verifies within its five burns or does not, or main power is lost in the middle, and nothing is completed (R402). An attempt that has been
burned stands when the warden that computes fails. -/
def transitionRow (s : State) (d : Nat) (b : OtpBurn) (c : Cmd) : State :=
  let t := byteAt c.param 0
  match transitionFail s t with
  | some f => s.setCmd d c.id fun c => c.failWith f
  | none =>
    let s := s.setCmd d c.id fun c => { c with stage := 1 }
    let l := s.life.attempted t b
    let left := l.attemptsLeft t
    if b.cut && b.attempt < 3 then ({ s with life := l, supplies := { s.supplies with p12v := false } }).losePower
    else if l.digest t = some (sha384 (slice c.param 16 32)) then
      let k := transitionField t
      if b.cut then ({ s with life := l.burnPart k b, supplies := { s.supplies with p12v := false } }).losePower
      else if b.copies < 3 then
        ({ s with life := l.burnPart k b }).setCmd d c.id fun c => c.failWith (eLcOtp, b.copies * 256 + k)
      else
        let deferred := l.deferred t
        let out := leBytes 1 (b2n deferred) ++ leBytes 1 left ++ zeros 14
        ({ s with life := l }).setCmd d c.id fun c => c.finish (.ok { out := out, effects := [
          .lifeCycle (.burn k !deferred),
          .trail codeLifeCycle (originOf 0 0) security (leBytes 1 l.state.code ++ leBytes 1 (transitionTo t).code ++ leBytes 1 0 ++ leBytes 1 k),
          .event 0x199] })
    else ({ s with life := { l with wrong := l.wrong + 1 } }).setCmd d c.id fun c => c.failWith (eLcToken, left)

/-- LC_TRANSITION (R398, R399). -/
def execLcTransition (dom id : Nat) (burn : OtpBurn) (s : State) : Answer :=
  s.runStaged 0x0902 dom id fun s c => transitionRow s dom burn c

/-- LC_STATUS (R409). -/
def execLcStatus (dom id : Nat) (s : State) : Answer :=
  s.runMgmt 0x0901 dom id fun _ _ =>
    let l := s.life
    .ok { out := leBytes 8 l.bits ++ (l.copies.flatMap fun c => leBytes 1 (if otpValid c then (otpDecode c).code else 0xFE)) ++
            leBytes 1 (match l.wipeDue with | some x => x.code | none => 0xFF) ++ zeros 4 ++
            ((List.range 7).flatMap fun i => leBytes 1 (l.attemptsLeft (i + 1))) ++ leBytes 1 l.modes.toNat ++
            leBytes 1 (0x5F + 0x20 * b2n (l.digest 6).isSome) ++ leBytes 1 l.wrong ++ zeros 6 ++
            (l.copies.flatMap fun c => leBytes 1 ((otpFields.map fun k => 2 ^ k * b2n (otpPartial c k)).sum)) ++ zeros 29 }

/-- LC_DIGEST_BURN (R397, R409). -/
def execLcDigestBurn (dom id : Nat) (s : State) : Answer :=
  s.runMgmt 0x0903 dom id fun c _ =>
    let l := s.life
    checked [need (l.digest 6).isNone eLcPending l.targetCode]
      (.ok { effects := [.lifeCycle (.digest (slice c.param 16 48))] })

/-- LC_MODE_SET (R399). -/
def execLcModeSet (dom id : Nat) (s : State) : Answer :=
  s.runMgmt 0x0904 dom id fun c _ =>
    let t := byteAt c.param 0
    checked [need (3 ≤ t && t ≤ 7) eLcParam 0]
      (.ok { effects := [.lifeCycle (.mode t)] })

/-- Levels a state allows (R407 Table 16-5). -/
def debugAllowed (lc level : Nat) : Bool :=
  match level with
  | 1 => lc = 2 || lc = 3 || lc = 4
  | 2 => lc = 3
  | 3 => lc = 0 || lc = 1 || lc = 5
  | _ => false

/-- The checks of a debug certificate, in their order (R408). -/
def certificateFail (s : State) (c : Cmd) : Option Fail :=
  let x := c.param.drop 16
  let lc := c.cond.lifeCycle
  let level := byteAt x 8
  let customer := lc = 2 || lc = 3 || lc = 4
  firstFail [
    need (slice x 0 8 = ascii "KDBGCERT") eDebugCert 1,
    need (slice x 16 16 = slice Config.serial 0 16) eDebugCert 2,
    need (debugAllowed lc level && (level != 2 || (s.dom (byteAt x 9)).mode != .absent)) eLifecycleState lc,
    need (level = 2 || byteAt x 9 = 0) eLcParam 25,
    need (!customer || c.cond.trusted) eTimeUntrusted 0,
    need (!customer || c.cond.stamp ≤ field x 32 8) eDebugCert 3,
    need (dsaVerify 65 Config.debugKey [] (slice x 0 48) (slice x 48 3309)) eDebugCert 4]

/-- DEBUG_UNLOCK (R408). -/
def execDebugUnlock (dom id : Nat) (s : State) : Answer :=
  s.runMgmt 0x0905 dom id fun c _ =>
    let level := byteAt c.param 24
    checked [certificateFail s c]
      (.ok { effects := [.lifeCycle (.debug level (byteAt c.param 25)),
               .trail codeUnlock (originOf 0 0) security (leBytes 1 s.life.state.code ++ leBytes 1 level)] })

/-- DEBUG_LOCK (R408). -/
def execDebugLock (dom id : Nat) (s : State) : Answer :=
  s.runMgmt 0x0906 dom id fun _ _ => .ok { effects := [.lifeCycle (.debug 0 0)] }

/-- FW_INSTALL (R409): the image is written into the MRAM copy not in use. -/
def execFwInstall (dom id : Nat) (s : State) : Answer :=
  s.runMgmt 0x0907 dom id fun c _ =>
    let image := c.param.drop 64
    checked [need (slice c.param 16 48 = sha384 image && Config.firmwareSigned image) eFwImage 0]
      (.ok { effects := [.lifeCycle (.firmware (1 - s.life.fwActive) image)] })

/-- The state that a transition's field leads to. -/
def fieldTarget (k : Nat) : LifeCycle :=
  match k with | 0 => .vendorTest | 1 => .provisioned | 2 => .development | 3 => .field | 4 => .returned | _ => .scrapped

/-- A change of the life-cycle group at its commit point. A reset that an earlier transition awaits still comes (R399). -/
def LifeCycleReg.change (l : LifeCycleReg) (x : LcChange) : LifeCycleReg :=
  match x with
  | .burn k immediate =>
    { l.burnCopies k 3 with pendingReset := l.pendingReset || immediate, awaiting := if immediate then l.awaiting else some (fieldTarget k) }
  | .digest b => { l with digests := Tab.insert l.digests 6 b }
  | .mode t => { l with modes := l.modes ||| BitVec.ofNat 8 (2 ^ (t - 1)) }
  | .debug level pitch => { l with debugLevel := level, debugPitch := pitch }
  | .firmware n image => { l with fwCopies := Tab.insert l.fwCopies n image, fwNew := true }

def State.setLife (s : State) (x : LcChange) : State := { s with life := s.life.change x }

/-! ### The vote, the repair and the wipe at a boot (R404, R405) -/

/-- PARTIAL fields that at least two valid copies hold complete are completed in the copies that have them. -/
def LifeCycleReg.completePartial (l : LifeCycleReg) (fails : Option Nat) : LifeCycleReg :=
  let v := l.validCopies
  otpFields.foldl (fun l k => if (v.filter fun c => otpWritten c k).length ≥ 2
    then l.withCopies (fun c => if otpPartial c k then otpBurn c k else c) fails else l) l

/-- The fields that give a copy its state (R403). -/
def stateFields : List Nat := [0, 1, 2, 3, 5, 7]

/-- A dissenting valid copy that lacks only fields of the majority is given those that the copies of the majority hold. Without a majority nothing
is mended. -/
def LifeCycleReg.mendDissent (l : LifeCycleReg) (fails : Option Nat) : LifeCycleReg :=
  let agree := l.validCopies.filter fun c => otpDecode c = l.vote2
  if agree.length < 2 then l
  else
    let held := fun (k : Nat) => agree.all fun c => otpWritten c k
    l.withCopies (fun c =>
      if otpValid c && otpDecode c != l.vote2 && stateFields.all (fun k => !otpWritten c k || held k) then
        otpFields.foldl (fun c k => if held k then otpBurn c k else c) c
      else c) fails

/-- The repair of the boot ROM. -/
def LifeCycleReg.repair (l : LifeCycleReg) (fails : Option Nat := none) : LifeCycleReg := (l.completePartial fails).mendDissent fails

/-- The repairs made: copy and field of each completed field. -/
def repairs (a b : LifeCycleReg) : List (Nat × Nat) :=
  (List.range 3).flatMap fun c => (otpFields.filter fun k => otpWritten (b.copies.getD c 0) k && !otpWritten (a.copies.getD c 0) k).map fun k => (c, k)

/-- The copies that a burn of one copy after the other reaches: those before the one that does not verify (R402). -/
def reached (fails : Option Nat) : Nat := match fails with | some c => min 3 c | none => 3

/-- The fuses after a wipe: its WIPE_PENDING field in every copy (step 1), and its state field in one copy after the other (step 5). -/
def LifeCycleReg.wiped (l : LifeCycleReg) (k : Nat) (fails : Option Nat) : LifeCycleReg :=
  (l.withCopies (fun c => otpBurn c k) fails).burnCopies (k + 1) (reached fails)

/-- What the boot ROM leaves in the fuses, with the state taken, and the wipe it carried out: a wipe that PARTIAL fields, once complete, make due is
due before a dissenting copy is mended, so that one cut off in its last step starts again (R404, R405). -/
def LifeCycleReg.boot (l : LifeCycleReg) (fails : Option Nat := none) : LifeCycleReg × Option LifeCycle :=
  let w := (l.completePartial fails).wipeDue
  let l := l.repair fails
  let l := match w with
    | some .scrapped => l.wiped 6 fails
    | some _ => l.wiped 4 fails
    | none => l
  ({ l with state := l.vote2, vote := l.vote2.voteCode, wrong := 0, debugLevel := 0, debugPitch := 0, recovery := false
            pendingReset := false, awaiting := none }, w)

/-- A domain after a wipe: nothing but its INCARNATION (R405, R406). -/
def Dom.wiped (D : Dom) : Dom := { roster := { incarnation := D.roster.incarnation }, placed := D.placed }

/-- The TAMPER table at its defaults (Tables 15-3 and 15-8). -/
def Tamper.defaults (t : Tamper) : Tamper :=
  { t with responses := tamperDefaults, upperTrip := 115, lowerTrip := -25, stormCount := 64, mramCopy := none }

/-- A wipe (R405): EMBER, the sticky flags, the response table and MRAM. -/
def State.wipe (s : State) : State :=
  let s := { s with ember := { transportDue := false }, recordIv := 0, ivStored := {}, doms := s.doms.map fun (p : Nat × Dom) => (p.1, p.2.wiped), sets := [], chip := {}
                    trail := {}, events := { s.events with routes := [], latched := [] } }
  let s := s.setTamper fun t => { t.defaults with flags := 0, alarmCount := 0, firstSource := 0xFF, highest := .none, counts := []
                                                  machine := tamperNormal, inForce := .none, source := 0xFF, strikePending := false, emberLock := false, owedEvents := 0 }
  { s with host := { s.host with attestDue := true, chainKind := 3 } }

end Sys2Proof.Machine
end

