-- ==== Sys2Proof/Machine/Queues.lean ====
section
/-!
DEFINITION. Sys2Proof/Machine/Queues.lean: group 0x01, the queue commands (R61 to R63).
-/

namespace Sys2Proof.Machine

/-- Whether a vector is 0xFFFF or one of the domain's (R57, R99, R115). -/
def State.vectorOk (s : State) (d v : Nat) : Bool :=
  v = 0xFFFF || (if d < 256 then
    decide ((s.dom d).conf.vectorBase ≤ v) && decide (v < (s.dom d).conf.vectorBase + (s.dom d).conf.vectorCount) else decide (v < 32))

/-- The QUEUE byte of a queue command: 0 to 15, and not 0 where the command names queues 1 to 15 (R63). -/
def queueByte (p : Bytes) (zero : Bool) : List (Option Fail) :=
  [need (byteAt p 0 ≤ 15) eQueueParam 0, need (zero || byteAt p 0 != 0) eQueueZero 0]

/-- The vector and aggregation fields of Table 2-16. -/
def State.routeFields (s : State) (d : Nat) (p : Bytes) : List (Option Fail) :=
  [need (field p 8 2 ≤ 1000) eGapTimeoutRange 0, need (s.vectorOk d (field p 4 2)) eVector 0]

/-- QUEUE_CREATE up to its effect. -/
def queueCreateWork (s : State) (d : Nat) (c : Cmd) : Work :=
  let p := c.param
  let q := byteAt p 0
  let lg := byteAt p 2
  let n := 2 ^ lg
  let sq := field p 16 8
  let cq := field p 24 8
  let D := s.dom d
  let Q : Queue := { state := .active, admin := byteAt p 1 = 1, sizeLog2 := lg, sqAddr := sq, cqAddr := cq
                     vector := field p 4 2, aggCount := byteAt p 6, aggTime := field p 8 2 }
  checked (queueByte p false ++ [need (byteAt p 1 ≤ 1) eQueueParam 1,
      need (4 ≤ lg && lg ≤ 16 && sq % 4096 = 0 && cq % 4096 = 0 && !(sq < cq + 32 * n && cq < sq + 64 * n)) eQueueSize 0] ++
    s.routeFields d p ++ [need ((D.queue q).state = .absent) eQueueExists 0,
      need (d = operator || D.presentQueues < (s.confSeen d c.placedAt).queueQuota) eQueueQuota 0,
      need (inWindows c.cond.windows sq (64 * n) && inWindows c.cond.windows cq (32 * n)) eAddressWindow 0])
    (.ok { effects := [.queueCreate q Q] })

/-- QUEUE_CREATE (R61). -/
def execQueueCreate (dom id : Nat) (s : State) : Answer := s.runMgmt 0x0101 dom id fun c _ => queueCreateWork s dom c

/-- QUEUE_DELETE (R62): emptiness is judged at the commit point.
DEDUCED: for queue 0 named on itself, E_QUEUE_ZERO comes before E_QUEUE_SELF (log entry 72). -/
def execQueueDelete (dom id : Nat) (s : State) : Answer :=
  s.runMgmt 0x0102 dom id fun c _ =>
    let q := byteAt c.param 0
    checked (queueByte c.param false ++ [need (((s.dom dom).queue q).state != .absent) eQueueAbsent 0, need (q != c.queue) eQueueSelf 0])
      (.ok { effects := [.queueDelete q] })

def QState.code : QState → Nat
  | .absent => 0 | .active => 1 | .error => 2

/-- QUEUE_STATUS up to its output (Table 2-17). -/
def queueStatusWork (s : State) (d : Nat) (c : Cmd) : Work :=
  let q := byteAt c.param 0
  let D := s.dom d
  let Q := D.queue q
  checked (queueByte c.param true ++ [need (Q.state != .absent) eQueueAbsent 0])
    (.ok { out := leBytes 8 D.seqNext ++ leBytes 8 D.gapTimeout ++ leBytes 2 Q.sqHead ++ leBytes 2 Q.sqTail ++ leBytes 2 Q.cqHead ++
            leBytes 2 Q.cqTail ++ leBytes 2 (D.inFlight q - b2n (c.queue = q)) ++ leBytes 2 Q.vector ++ leBytes 1 Q.state.code ++
            leBytes 1 (b2n Q.admin) ++ leBytes 1 Q.sizeLog2 ++ leBytes 1 (if Q.state = .error then Q.errorCause else 0) })

/-- QUEUE_STATUS (R61). -/
def execQueueStatus (dom id : Nat) (s : State) : Answer := s.runMgmt 0x0103 dom id fun c _ => queueStatusWork s dom c

/-- QUEUE_ROUTE (R62). -/
def execQueueRoute (dom id : Nat) (s : State) : Answer :=
  s.runMgmt 0x0104 dom id fun c _ =>
    let p := c.param
    let q := byteAt p 0
    checked (queueByte p true ++ [need (byteAt p 1 = 0) eQueueParam 1, need (byteAt p 2 = 0) eQueueParam 2] ++ s.routeFields dom p ++
        [need (((s.dom dom).queue q).state != .absent) eQueueAbsent 0])
      (.ok { effects := [.queueRoute q (field p 4 2) (byteAt p 6) (field p 8 2)] })

/-- QUEUE_RECOVER (R62). -/
def execQueueRecover (dom id : Nat) (s : State) : Answer :=
  s.runMgmt 0x0105 dom id fun c _ =>
    let q := byteAt c.param 0
    checked (queueByte c.param false ++ [need (((s.dom dom).queue q).state = .error) eQueueAbsent 0])
      (.ok { effects := [.queueRecover q] })

/-- SEQ_GAP_SET (R61). -/
def execSeqGapSet (dom id : Nat) (s : State) : Answer :=
  s.runMgmt 0x0106 dom id fun c _ =>
    let t := field c.param 0 8
    checked [need (1000 ≤ t && t ≤ 1000000000) eGapTimeoutRange 0] (.ok { effects := [.gapTimeout t] })

end Sys2Proof.Machine
end

