-- ==== Sys2Proof/Machine/Pitches.lean ====
section
/-!
DEFINITION. Sys2Proof/Machine/Pitches.lean: group 0x02, the pitch commands (R94 to R96, R107 to R117).
-/

namespace Sys2Proof.Machine

def PitchMode.code : PitchMode → Nat
  | .absent => 0 | .active => 1 | .resetting => 2 | .locked => 3

/-- The named pitch is in one of the states a command accepts (R116). -/
def State.pitchIn (s : State) (p : Nat) (l : List PitchMode) : Option Fail :=
  need (l.contains (s.dom p).mode) ePitchState (s.dom p).mode.code

/-- The violations of a new pitch's record, in the order ranges, windows, pools (R94, R97 to R99). -/
def State.createFail (s : State) (p : Nat) (c : PitchConf) : Option Fail :=
  ((badRanges ePitchParam c.ranges ++ badWindows c.windows 48 ++ s.badPools p c).head?).map fun v =>
    if v.2.1 = ePitchParam then (ePitchParam, v.2.2 + 16) else v.2

/-- PITCH_CREATE (R94). -/
def execPitchCreate (dom id : Nat) (s : State) : Answer :=
  s.runMgmt 0x0201 dom id fun c _ =>
    let p := byteAt c.param 0
    let conf := pitchConfAt c.param 16
    checked [s.pitchIn p [.absent], s.createFail p conf] (.ok { effects := [.pitchCreate p conf] })

/-- Fetched, unfinished commands of a domain. -/
def Dom.unfinished (D : Dom) : Nat :=
  D.waiting.length + (D.cmds.filter fun c => !c.posted && !c.noPost && c.twinDigest.isNone).length

/-- A domain's host commands have all left it. -/
def Dom.idle (D : Dom) : Bool := D.waiting = [] && D.cmds.all fun c => c.twinDigest.isSome

/-- The waiting entries of a domain discarded. -/
def State.discardWaiting (s : State) (d : Nat) : State :=
  (s.setDom d fun D => { D with waiting := [], gapSince := none }).busyTimer d

/-- A staged management command's result. -/
def State.finishRow (s : State) (d id : Nat) (w : Work) : State := s.setCmd d id fun c => c.finish w

/-- PITCH_DESTROY (R95): once its approvals have passed, the pitch's admission stops and its uncommitted commands are
cancelled; the row comes again when the pitch holds no command. -/
def execPitchDestroy (dom id : Nat) (s : State) : Answer :=
  s.runStaged 0x0202 dom id fun s c =>
    let p := byteAt c.param 0
    if c.stage = 0 then
      match s.pitchIn p [.active, .resetting, .locked] with
      | some f => s.finishRow dom id (.error f)
      | none => ((s.setCmd dom id fun c => { c with stage := 1 }).discardWaiting p).cancelDom p
    else if (s.dom p).idle then s.finishRow dom id (.ok { effects := [.pitchDestroy p] })
    else s

/-- A queue as PITCH_RESET leaves it (R38). A message that aggregation still owed for completions written before it is dropped.
DESIGN CHOICE (log entry 62). -/
def Queue.reset (Q : Queue) : Queue :=
  if Q.state = .absent then Q
  else { Q with sqHead := 0, sqTail := 0, cqHead := 0, cqTail := 0, phase := true, aggWaiting := 0, aggSince := none, owed := [] }

/-- The entry of a PITCH_RESET with its counts: kind 5 beside the kinds of the other resets (R449; log entry 22). -/
def State.pitchResetEntry (s : State) (p cancelled discarded : Nat) : State :=
  s.trailAs 0x1210 (originOf 1 p) security 0 (leBytes 1 5 ++ leBytes 1 0 ++ leBytes 4 cancelled ++ leBytes 4 discarded) true 0

/-- The reset point (R107, R108, R110): RESETTING, waiting entries discarded, uncommitted commands cancelled, the pitch's
staging set discarded; a debug unlock ends (R408, Table 19-3). -/
def State.resetPoint (s : State) (p : Nat) : State :=
  let s := s.setDom p fun D => { D with mode := .resetting, resetFrom := D.mode }
  ((s.discardWaiting p).cancelDom p).dropSet p |>.endDebug

/-- No DMA write of a domain still waits for the host's controls or for a gap to close (R109). -/
def State.dmaDone (s : State) (d : Nat) : Bool := (s.host.waiting ++ s.guy.held).all fun o => o.owner != some d

/-- PITCH_RESET (R107 to R110): the row starts it at the reset point, and ends it when every completion that R108 posts has
been written, every cancelled command has linked and every DMA write of the pitch has been made. -/
def execPitchReset (dom id : Nat) (s : State) : Answer :=
  s.runStaged 0x0203 dom id fun s c =>
    let p := byteAt c.param 0
    let D := s.dom p
    if c.stage = 0 then
      match s.pitchIn p [.active, .locked] with
      | some f => s.finishRow dom id (.error f)
      | none =>
        if c.outSpace < 32 then s.finishRow dom id (.ok { out := zeros 32 })
        else
          let cancelled := (D.cmds.filter fun c => !c.done && c.twinDigest.isNone).length
          let out := leBytes 4 cancelled ++ leBytes 4 D.waiting.length ++ leBytes 1 (b2n ((s.stage p).state != .empty)) ++ zeros 15
          ((s.setCmd dom id fun c => { c with stage := 1, output := out }).resetPoint p).pitchResetEntry p cancelled D.waiting.length
    else if D.idle && s.dmaDone p then
      let s := s.setDom p fun D => { D with queues := D.queues.map fun q => (q.1, q.2.reset) }
      s.finishRow dom id (.ok { out := leBytes 8 (s.dom p).seqNext ++ c.output, effects := [.pitchResetEnd p] })
    else s

/-- PITCH_LOCK (R96). -/
def execPitchLock (dom id : Nat) (s : State) : Answer :=
  s.runMgmt 0x0204 dom id fun c _ =>
    let p := byteAt c.param 0
    checked [s.pitchIn p [.active, .locked]] (.ok { effects := [.pitchLock p] })

/-- PITCH_UNLOCK (R96). -/
def execPitchUnlock (dom id : Nat) (s : State) : Answer :=
  s.runMgmt 0x0205 dom id fun c _ =>
    let p := byteAt c.param 0
    checked [s.pitchIn p [.locked]] (.ok { effects := [.pitchUnlock p] })

def DirtyMode.code : DirtyMode → Nat
  | .off => 0 | .running => 1 | .failed => 2

/-- PITCH_INFO (R116). -/
def execPitchInfo (dom id : Nat) (s : State) : Answer :=
  s.runMgmt 0x0206 dom id fun c _ =>
    let p := byteAt c.param 0
    let D := s.dom p
    checked [need (dom = operator || p = dom) ePitchParam 0]
      (.ok { out := if D.mode = .absent then zeros 192
             else (s.confSeen p c.placedAt).bytes ++ leBytes 4 D.mramKib ++ leBytes 1 D.presentQueues ++ leBytes 1 D.mode.code ++
               leBytes 1 D.dirty.mode.code ++ zeros 1 ++ leBytes 4 D.unfinished ++ zeros 4 })

/-! ### Dirty-page logging (R112 to R114, R462) -/

/-- The states that the dirty-log commands accept: any but ABSENT.
DESIGN CHOICE (log entry 68). -/
def State.pitchPresent (s : State) (p : Nat) : Option Fail := s.pitchIn p [.active, .resetting, .locked]

/-- DIRTY_LOG_START (R113, R462). Of several faults the cover's is reported before the log's state, and that before the bitmap's window.
DESIGN CHOICE (log entry 68). -/
def execDirtyLogStart (dom id : Nat) (s : State) : Answer :=
  s.runMgmt 0x0208 dom id fun c _ =>
    let p := byteAt c.param 0
    let bitmap := field c.param 8 8
    let base := field c.param 16 8
    let pages := field c.param 24 4
    let D := s.dom p
    let covered := (usedWindows (s.confSeen p c.placedAt).windows).all fun w => base ≤ w.1 && w.2 < base + 4096 * pages
    checked [s.pitchPresent p, need (bitmap % 4096 = 0) ePitchParam 8, need (base % 4096 = 0) ePitchParam 16,
      need (1 ≤ pages && pages ≤ 2 ^ 30 && covered) eDirtyRange 0,
      need (D.dirty.mode = .off) eDirtyLogState D.dirty.mode.code,
      need (inWindows c.cond.windows bitmap (8 * ceilDiv pages 64)) eAddressWindow 0]
      (.ok { effects := [.dirtyStart p bitmap base pages] })

/-- The bits that are not yet visible in the bitmap, by word. -/
def Dirty.unseen (y : Dirty) : Tab Nat :=
  y.sent.foldl (fun t e => Tab.put t 0 e.1 (Tab.get t 0 e.1 ||| e.2.2)) y.wanted

/-- A command that flushes the log (R113): once every DMA write issued before has been made, the bits that are not yet visible are noted, and
it goes on when all of them are. -/
def State.flushRow (s : State) (d : Nat) (c : Cmd) (stop : Bool) : State :=
  let p := byteAt c.param 0
  let y := (s.dom p).dirty
  let w : Work := .ok { effects := if stop then [.dirtyStop p] else [] }
  let note := if s.dmaDone p then (s.setCmd d c.id fun c => { c with stage := 2 }).setDom p fun D => { D with dirty := { D.dirty with flush := D.dirty.unseen } }
    else s.setCmd d c.id fun c => { c with stage := 1 }
  if c.stage = 0 then
    match firstFail [s.pitchPresent p, need (y.mode = .running || (stop && y.mode = .failed)) eDirtyLogState y.mode.code] with
    | some f => s.finishRow d c.id (.error f)
    | none =>
      if y.mode = .failed || (y.unseen = [] && s.dmaDone p) then s.finishRow d c.id w else note
  else if y.mode = .running && c.stage = 1 then note
  else if y.mode = .running && y.flush != [] then s
  else if y.mode = .running || stop then s.finishRow d c.id w
  else s.finishRow d c.id (.error (eDirtyLogState, y.mode.code))

/-- DIRTY_LOG_FLUSH (R113, R462). -/
def execDirtyLogFlush (dom id : Nat) (s : State) : Answer := s.runStaged 0x0209 dom id fun s c => s.flushRow dom c false

/-- DIRTY_LOG_STOP (R113, R114). -/
def execDirtyLogStop (dom id : Nat) (s : State) : Answer := s.runStaged 0x020A dom id fun s c => s.flushRow dom c true

/-! ### The changes at their commit points -/

/-- A new pitch (R94): its record, its DRBG, its root and K_DIG from calls 1 and 2, D_0, a new INCARNATION and floor 0
(R159, R164); the grants that the operator gave its number stand (R127); none while no seeds are ready (R243). -/
def State.createPitch (s : State) (p : Nat) (c : PitchConf) : Option State :=
  let old := s.dom p
  let roster : Roster := { incarnation := (old.roster.incarnation + 1) % 2 ^ 32 }
  let D : Dom := { mode := .active, conf := c, roster := roster, opNonces := old.opNonces, placed := old.placed, grants := old.grants }
  ((s.setDom p fun _ => D).startDrbg p).map fun s =>
    let (a, g) := (s.dom p).drbg.generate 32 []
    let (b, g) := g.generate 32 []
    ({ s with ember := s.ember.write p a }).setDom p fun D => { D with drbg := { g with lastCall := 2 }, kDig := b }

/-- A destroyed pitch (R95): only its INCARNATION and its counters on operator keys stay (R133, R159). -/
def State.destroyPitch (s : State) (p : Nat) : State :=
  let gone := fun (D : Dom) => ({ opNonces := D.opNonces, roster := { incarnation := D.roster.incarnation }, placed := D.placed } : Dom)
  let s := s.setDom p gone
  let keep := fun (R : Region) => { R with cache := R.cache.filter fun e => e.owner != p }
  let s := { s with ember := s.ember.zero p, perf := { s.perf with grants := removeNat s.perf.grants p } }
  let s := { s with regions := s.regions.map fun (n, R) => (n, keep R) }
  s.setStage p {}

/-- PITCH_LOCK at its commit point (R96). -/
def State.lockByCommand (s : State) (p : Nat) : State :=
  let was := (s.dom p).mode
  let s := s.setDom p fun D => { D with lockedByCommand := true, mode := if D.mode = .active then .locked else D.mode }
  if was = .active then s.pitchEvent p evLocked else s

/-- PITCH_UNLOCK at its commit point (R96): the mark is cleared, and the pitch is ACTIVE unless the chip response holds it
in LOCKED. -/
def State.unlockByCommand (s : State) (p : Nat) : State :=
  s.setDom p fun D => { D with lockedByCommand := false
                               mode := if D.mode = .locked && s.boot.state != .locked then .active else D.mode }

end Sys2Proof.Machine
end

