-- ==== Sys2Proof/Machine/Logs.lean ====
section
/-!
DEFINITION. Sys2Proof/Machine/Logs.lean: the trail log's rings, rotation, signatures and failures, and group 0x07 with the
event routes (R414 to R427).
-/

namespace Sys2Proof.Machine

/-! ### The rings (R414, R417, R421) -/

/-- The entries held, oldest first: those of the MRAM ring, then those that only the SRAM ring holds; with the MRAM log area failed, the SRAM
ring's. -/
def Trail.entries (t : Trail) : List LogEntry := if t.mramFailed then t.sram else t.mram ++ t.fresh

def Trail.oldest (t : Trail) : Nat := match t.entries with | e :: _ => e.seq | [] => t.nextSeq

def Trail.newest (t : Trail) : Nat := t.nextSeq - 1

def Trail.entry (t : Trail) (seq : Nat) : Option LogEntry := t.entries.find? fun e => e.seq = seq

/-- The 64 bytes of TRAIL_WINDOW (Table 17-3). -/
def Trail.window (t : Trail) : Bytes :=
  if t.cursor < t.oldest then leBytes 8 t.oldest ++ zeros 8 ++ leBytes 2 1 ++ zeros 46
  else match t.entry t.cursor with | some e => e.bytes | none => zeros 64

/-- The log state that failed memories give (Table 17-4). -/
def Trail.stateOf (t : Trail) : Nat := if t.mramFailed then 2 else if t.sramFailed then 1 else 0

/-- Held entries written first, in their order, with RECOVERED and their original time (R421). -/
def State.writeHeld (s : State) : State :=
  { s with trail := s.trail.gasp.foldl (fun t e => t.recover e s.clock.tai s.clock.trusted s.attested) { s.trail with gasp := [] } }

/-- The first entry of a failed log state, with its chip event (Table 17-4). -/
def State.logFailed (s : State) (address : Bytes) : State :=
  if s.trail.state = 1 then (s.trailAs 4 (originOf 0 0) security 0 address true 0).raise 0x193
  else (s.trailAs 5 (originOf 0 0) security 0 [] true 0).raise 0x194

/-- The log with its memories as a test finds them; what the SRAM ring still has to flush goes first, and a failed ring holds nothing. -/
def Trail.tested (t : Trail) (sram mram : Bool) : Trail :=
  let t : Trail := if !sram && !t.sramFailed then { t.flush with sram := [], unflushed := 0 } else t
  let t : Trail := { t with sramFailed := !sram, mramFailed := !mram }
  { t with state := t.stateOf }

/-- A log memory fails (R421): the log changes state, with the first entry of that state and its chip event. -/
def State.logFail (s : State) (sram : Bool) (address : Nat) : State :=
  let old : Nat := s.trail.state
  let s : State := { s with trail := s.trail.tested (!sram && !s.trail.sramFailed) (sram && !s.trail.mramFailed) }
  if s.trail.state = old then s else s.logFailed (leBytes 4 address)

/-- What a test of the memories has changed, from the log state and the failed memories before it (R418, R421): held entries first where the log
can be written again, then the first entry of a failed state it has entered, and LOG_RESTORED for each memory that has returned to use. The
failed address is a free value. -/
def State.logTested (s : State) (before : Trail) : State :=
  let t := s.trail
  let s := if before.state = 2 && t.state != 2 then s.writeHeld else s
  let s := if t.state = before.state || t.state = 0 then s else (s.fresh 4).2.logFailed (s.fresh 4).1
  let back := b2n (before.sramFailed && !t.sramFailed) + b2n (before.mramFailed && !t.mramFailed)
  (List.range back).foldl (fun s _ => s.trailAs 6 (originOf 0 0) security 0 [] true 0) s

/-- The memory tests repeated (R418, R421). -/
def State.testLog (s : State) (sram mram : Bool) : State := { s with trail := s.trail.tested sram mram }.logTested s.trail

/-- The closing checkpoint, one more where the next SEQ is a multiple of 4,096, and the genesis of the new chain (R416, R418). While the log is lost
both wait in the last-gasp registers, and say what they say when they are written. -/
def State.rotateLog (s : State) : State :=
  if s.trail.state = 2 then
    (s.trailAs 2 (originOf 0 0) security 128 [] true 0).trailAs 3 (originOf 0 0) security 0 [] true 0
  else
    let sign := fun (t : Trail) => t.checkpoint s.clock.tai s.clock.trusted s.attested
    let t := sign s.trail
    let t := if t.nextSeq % 4096 = 0 then sign t else t
    { s with trail := t.rotated s.clock.tai s.clock.trusted }

/-- TRAIL_FLUSH (R414). The cursor of the flush is journalled (R354). -/
def execTrailFlush (s : State) : Answer := .next (({ s with trail := s.trail.flush }).journal .cursor operator 0 (leBytes 8 s.trail.nextSeq))

/-- CHECKPOINT_SIGN (R416): a pending checkpoint is signed, or stays unsigned where no attestation key can be read. -/
def execCheckpointSign (seq : Nat) (s : State) : Answer :=
  match Tab.find s.trail.signatures seq, s.trail.entry seq with
  | some (1, _), some e =>
    let m := ascii "KALLAN-CHECKPNT1" ++ slice Config.serial 0 16 ++ e.bytes
    let v := if (s.ember.read 259).isSome then (0, s.attest m) else (2, [])
    .next { s with trail := { s.trail with signatures := Tab.insert s.trail.signatures seq v } }
  | _, _ => .next s

/-- LOG_MEMORY_FAIL (R421). -/
def execLogMemoryFail (sram : Bool) (address : Nat) (s : State) : Answer :=
  if s.boot.powered && !s.boot.held then .next (s.logFail sram address) else .next s

/-! ### Group 0x07 (R426, R427) -/

/-- LOG_ROTATE (R418): the operands say which memories pass their test; E_LOG_MEMORY is judged at the commit point, where
the new chain starts all the same. -/
def execLogRotate (dom id : Nat) (sram mram : Bool) (s : State) : Answer :=
  s.runMgmt 0x0701 dom id fun _ _ => .ok { out := zeros 16, effects := [.logRotate sram mram] }

/-- LOG_EXPORT (R426). -/
def execLogExport (dom id : Nat) (s : State) : Answer :=
  s.runMgmt 0x0702 dom id fun c _ =>
    let start := field c.param 0 8
    let n := field c.param 8 4
    checked [need (1 ≤ n && n ≤ 65536) eLogParam 8, need (s.trail.oldest ≤ start) eLogStale 0]
      (.ok { out := ((s.trail.entries.filter fun e => start ≤ e.seq && e.seq < start + n).flatMap LogEntry.bytes) })

/-- LOG_CHECKPOINT_READ (R426). -/
def execLogCheckpointRead (dom id : Nat) (s : State) : Answer :=
  s.runMgmt 0x0703 dom id fun c _ =>
    match s.trail.entry (field c.param 0 8) with
    | none => .error (eLogStale, 0)
    | some e =>
      if e.code != 2 then .error (eLogStale, 0)
      else
        let (st, sig) := Tab.get s.trail.signatures (2, []) e.seq
        .ok { out := e.bytes ++ leBytes 1 st ++ zeros 15 ++ slice sig 0 96 }

/-- LOG_RATE_SET (R419). -/
def execLogRateSet (dom id : Nat) (s : State) : Answer :=
  s.runMgmt 0x0704 dom id fun c _ =>
    let code := field c.param 0 2
    let rate := field c.param 4 4
    let burst := field c.param 8 2
    checked [fields eLogParam [(0, !exempt code), (4, 1 ≤ rate && rate ≤ 1000000), (8, 1 ≤ burst)]]
      (.ok { effects := [.rate code rate burst] })

/-- A code's bucket set (R419), with RATE_CHANGED. -/
def State.setRate (s : State) (code rate burst : Nat) : State :=
  let b := s.trail.bucketAt code s.now
  let b := { b with rate := rate, burst := burst, tokens := min b.tokens (burst * 1000000000) }
  let s := { s with trail := { s.trail with buckets := Tab.insert s.trail.buckets code b } }
  s.log 9 (originOf 0 0) notice (leBytes 2 code ++ leBytes 4 rate ++ leBytes 2 burst)

/-- LOG_STATUS (R426). -/
def execLogStatus (dom id : Nat) (s : State) : Answer :=
  s.runMgmt 0x0705 dom id fun _ _ =>
    let t := s.trail
    .ok { out := leBytes 1 t.state ++ leBytes 1 s.chip.auditPolicy ++ zeros 2 ++ leBytes 4 t.lost ++ leBytes 8 t.oldest ++
            leBytes 8 t.newest ++ leBytes 4 t.chainNumber ++ leBytes 1 t.gasp.length ++ zeros 3 }

/-- A source that the module has (Table 17-5). -/
def sourceDefined (x : Nat) : Bool :=
  x < 0x100 || (x < 0x180 && x % 16 < 14) || (0x180 ≤ x && x ≤ 0x18D) || (0x190 ≤ x && x ≤ 0x19D)

/-- EVENT_ROUTE up to its effect (R425). ROUTE[7:4] is no field of Table 17-7 and is not named reserved there: a bit of it names a route
part that does not exist, and gives E_LOG_PARAM (Table 17-8).
DEDUCED (log entry 71). -/
def eventRouteWork (s : State) (d : Nat) (c : Cmd) : Work :=
  let x := field c.param 0 2
  let r := byteAt c.param 2
  let v := field c.param 4 2
  let old := s.events.route x
  let vec := if bit r 0 then v else 0xFFFF
  if d < 256 then
    checked [need (x = d) eLogParam 0, need (r ≤ 1) eLogParam 2, need (!bit r 0 || (v != 0xFFFF && s.vectorOk d v)) eEventVector 0]
      (.ok { effects := [.route x { old with vector := vec }] })
  else
    let lines := { old with alert := bit r 1, smbAlert := bit r 2, trail := bit r 3 }
    checked [need (sourceDefined x) eLogParam 0, need (r < 16 && (x ≥ 256 || !bit r 0)) eLogParam 2, need (!bit r 0 || v < 32) eEventVector 0]
      (.ok { effects := [.route x (if x < 256 then lines else { lines with vector := vec })] })

/-- EVENT_ROUTE (R425). -/
def execEventRoute (dom id : Nat) (s : State) : Answer := s.runMgmt 0x0706 dom id fun c _ => eventRouteWork s dom c

/-- EVENT_STATUS (R426). -/
def execEventStatus (dom id : Nat) (s : State) : Answer :=
  s.runMgmt 0x0707 dom id fun _ _ =>
    .ok { out := (List.range 64).map fun i =>
            BitVec.ofNat 8 ((List.range 8).foldl (fun n b => n + 2 ^ b * b2n (s.eventPending (8 * i + b))) 0) }

/-- EVENT_CLEAR (R424). -/
def execEventClear (dom id : Nat) (s : State) : Answer :=
  s.runMgmt 0x0708 dom id fun c _ =>
    .ok { effects := [.eventClear ((List.range 512).filter fun x => bit (byteAt c.param (x / 8)) (x % 8))] }

/-- Sources whose condition holds now (R424). -/
def State.holdingSources (s : State) : List Nat :=
  ((List.range 10).filter fun n => s.tamper.alarm.getLsbD n).map (0x180 + ·) ++
    (if s.guy.pathWire || s.guy.pathFabric then [0x191] else []) ++ (if s.guy.saturated then [0x192] else []) ++
    (if s.trail.state = 1 then [0x193] else []) ++ (if s.trail.state = 2 then [0x194] else [])

/-- Latches cleared; a source whose condition still holds latches again at once (R424). -/
def State.clearEvents (s : State) (l : List Nat) : State :=
  let s := { s with events := { s.events with latched := s.events.latched.filter fun x => !l.contains x } }
  (s.holdingSources.filter l.contains).foldl State.raise s

/-- A route set (R425). -/
def State.setRoute (s : State) (x : Nat) (r : Route) : State :=
  { s with events := { s.events with routes := if r = defaultRoute x then Tab.erase s.events.routes x else Tab.insert s.events.routes x r } }

end Sys2Proof.Machine
end

