-- ==== Sys2Proof/Machine/Tamper.lean ====
section
/-!
DEFINITION. Sys2Proof/Machine/Tamper.lean: the tamper sources, their alarms and their ends, group 0x0A, and the EMBER supply
(R369 to R392, R479).
-/

namespace Sys2Proof.Machine

/-! ### Registers (R385) -/

/-- TAMPER_STICKY (Table 15-5). -/
def Tamper.sticky (t : Tamper) : Nat :=
  t.flags.toNat + 2 ^ 32 * t.highest.code + 2 ^ 40 * t.firstSource + 2 ^ 48 * t.alarmCount

/-- IN_FORCE of TAMPER_LIVE: it names responses up to LOCK. -/
def Tamper.inForceField (t : Tamper) : Nat := if t.inForce.code < 2 then 0 else min 3 t.inForce.code

/-- TAMPER_LIVE (Table 15-6). -/
def State.tamperLive (s : State) : Nat :=
  s.tamper.alarm.toNat + 2 ^ 13 * s.tamper.inForceField + 2 ^ 16 * s.life.fuseOff.toNat

/-- STRIKE_OUT (R485): high from stage 1 while HIGHEST is STRIKE or STRIKE_HALT and P3V3_AUX is present. -/
def State.strikeOutHigh (s : State) : Bool := s.tamper.strikeOut && s.tamper.highest.code ≥ 4 && s.supplies.p3v3

/-! ### Alarms (R369, R370, R372, R374, R381, R384) -/

/-- Whether a source is watched: not fused off, sources 2 and 7 only on main power, and source 2 once P12V has been in its window for 100 ms
(Table 15-1). -/
def State.watched (s : State) (n : Nat) : Bool :=
  !s.life.fuseOff.getLsbD n && (s.boot.powered || !(n = 2 || n = 7)) && (n != 2 || s.supplies.p12vFrom + 100000000 ≤ s.now)

/-- A detector of a source is watched: of source 9, whose operand names a pair, the pair's own source must be (R370, R390). -/
def State.detects (s : State) (n detector : Nat) : Bool := s.watched n && (n != 9 || s.watched (detector / 2))

/-- The trail runs: on main power, from step 4 of the boot on (R381). -/
def State.trailRuns (s : State) : Bool := s.boot.powered && !s.boot.held && !(s.boot.state = .booting && s.boot.step < 4)

/-- The side actions of an alarm (R372, R412): the sticky flags, the count, the entry with response, detector and first time in alarm, and the
chip event; while the trail does not run the entry goes to the last-gasp registers, and the event waits (R381, R384). -/
def State.alarmSides (s : State) (n detector : Nat) : State :=
  let r := s.tamper.response n
  let ember := !s.boot.powered
  let time := (Tab.get s.tamper.since (0, 0) n).2
  let s := s.setTamper fun t =>
    { t.took r with
      flags := t.flags ||| BitVec.ofNat 16 (2 ^ n) ||| (if ember then 0x4000 else 0)
      alarmCount := min 0xFFFF (t.alarmCount + 1), firstSource := if t.firstSource = 0xFF then n else t.firstSource
      emberLock := t.emberLock || (ember && r.code ≥ 3)
      counts := Tab.put t.counts 0 n (min 0xFFFFFFFF (Tab.get t.counts 0 n + 1)) }
  let data := leBytes 1 r.code ++ leBytes 1 detector ++ leBytes 8 time
  if s.trailRuns then (s.trailAs (0x1000 + n) (originOf 0 0) security 0 data true 0).raise (0x180 + n)
  else
    let e : LogEntry := { code := 0x1000 + n, origin := originOf 0 0, flags := security, data := data, time := if ember then 0 else s.clock.tai }
    { s.setTamper (fun t => { t with owedEvents := t.owedEvents ||| BitVec.ofNat 10 (2 ^ n) }) with trail := s.trail.hold e }

/-- Whether a detector's alarm adds nothing: its source is in alarm already; of source 9, its pair is (R370). -/
def Tamper.reported (t : Tamper) (n detector : Nat) : Bool :=
  t.alarm.getLsbD n && (n != 9 || t.pairs.contains detector)

/-- A detector in alarm: its source's side actions once, and for source 9 once a pair, then the source's response (R370, R374). -/
def State.alarm (s : State) (n detector : Nat) : State :=
  if !s.detects n detector then s
  else
    let was := s.tamper.reported n detector
    let b : BitVec 10 := BitVec.ofNat 10 (2 ^ n)
    let time := if s.boot.powered then s.clock.tai else 0
    let s := s.setTamper fun t =>
      { t with alarm := t.alarm ||| b, shedSince := if t.response n = .shed then none else t.shedSince
               detectorA := if n != 9 && detector % 2 = 0 then t.detectorA ||| b else t.detectorA
               detectorB := if n != 9 && detector % 2 = 1 then t.detectorB ||| b else t.detectorB
               pairs := if n = 9 then insertNat t.pairs detector else t.pairs
               since := if t.alarm.getLsbD n then t.since else Tab.insert t.since n (detector, time) }
    if was then s
    else (s.alarmSides n detector).respond n (s.tamper.response n)

/-- TAMPER_ALARM (R372): a detector of a source goes into alarm. For source 9 the detector operand is twice the pair plus the
detector in alarm (R370). -/
def execTamperAlarm (source detector : Nat) (s : State) : Answer :=
  if s.tamper.emberMachine then .next (s.alarm source detector) else .next s

/-- Every wide-distance state register holds a code assigned to it (R387 Table 15-7). -/
def State.codesAssigned (s : State) : Bool :=
  [tamperNormal, tamperShed, tamperLock, tamperStriking, tamperHalted].contains s.tamper.machine &&
    [strikeArmed, strikeStage1, strikeStage2, strikeStage3, strikeDone].contains s.tamper.sequencer &&
    [grantA, grantB, movingToA, movingToB].contains s.guy.code

/-- A detector of a source leaves its alarm; the source leaves it when neither is in it, source 9 when no pair is (R370, R372), and source 8 not
while a register holds an unassigned code (R387). -/
def State.alarmEnd (s : State) (source detector : Nat) : State :=
  if !s.tamper.alarm.getLsbD source || (source = 8 && !s.codesAssigned) then s
  else
    let b : BitVec 10 := BitVec.ofNat 10 (2 ^ source)
    s.setTamper fun t =>
      let before := t.shedding
      let t := { t with detectorA := if detector % 2 = 0 then t.detectorA &&& ~~~b else t.detectorA
                        detectorB := if detector % 2 = 1 then t.detectorB &&& ~~~b else t.detectorB
                        pairs := if source = 9 then removeNat t.pairs detector else t.pairs }
      let on := if source = 9 then t.pairs != [] else t.detectorA.getLsbD source || t.detectorB.getLsbD source
      let t := if on then t else { t with alarm := t.alarm &&& ~~~b, since := Tab.erase t.since source }
      t.noteShed before s.now

/-- TAMPER_ALARM_END (R370, R372): a detector leaves its alarm. -/
def execTamperAlarmEnd (source detector : Nat) (s : State) : Answer :=
  .next (s.alarmEnd source detector)

/-- SHED_END (R372): 10 s after no source with response SHED is in alarm. -/
def execShedEnd (s : State) : Answer :=
  match s.tamper.shedSince with
  | some t =>
    if s.tamper.inForce = .shed then
      let s := (s.passTo (t + 10000000000)).setShed false
      .next (s.setTamper fun t => { t with inForce := .none, source := 0xFF, shedSince := none, machine := tamperNormal })
    else .next s
  | none => .next s

/-- A duplicate-mismatch report from a region (R369 source 7): `STORM_COUNT` reports within 10 ms from at least 2 regions
alarm. -/
def State.mismatchReport (s : State) (r : Nat) : State :=
  let l := (s.tamper.reports.filter fun x => s.now < x.1 + 10000000) ++ [(s.now, r)]
  if l.length ≥ s.tamper.stormCount && l.any (fun x => x.2 != r) then
    (s.setTamper fun t => { t with reports := [] }).alarm 7 0
  else s.setTamper fun t => { t with reports := l }

/-! ### Group 0x0A (R376, R391) -/

/-- TAMPER_STATUS (R391). -/
def execTamperStatus (dom id : Nat) (s : State) : Answer :=
  s.runMgmt 0x0A01 dom id fun _ _ =>
    let t := s.tamper
    .ok { out := leBytes 8 s.tamperLive ++ leBytes 8 t.sticky ++ (tamperSources.flatMap fun n => leBytes 1 (t.response n).code) ++
            (tamperFloors.flatMap fun r => leBytes 1 r.code) ++ zeros 12 ++
            (tamperSources.flatMap fun n => leBytes 4 (Tab.get t.counts 0 n)) ++ zeros 8 }

/-- The lowest source of a mask that is in alarm (R391). -/
def Tamper.activeIn (t : Tamper) (mask : Nat) : Option Nat := tamperSources.find? fun n => bit mask n && t.alarm.getLsbD n

/-- TAMPER_CLEAR (R391): what it names is judged at its commit point, where its output is taken too. -/
def execTamperClear (dom id : Nat) (s : State) : Answer :=
  s.runMgmt 0x0A02 dom id fun c _ =>
    .ok { out := zeros 16, effects := [.tamperClear (field c.param 0 2)] }

/-- The sticky flags after a clear; a full clear resets bits 63 to 32. -/
def Tamper.cleared (t : Tamper) (mask : Nat) : Tamper :=
  let f := t.flags &&& ~~~(BitVec.ofNat 16 mask)
  let t := { t with flags := f, counts := t.counts.filter fun x => !bit mask x.1 }
  if f = 0 then { t with alarmCount := 0, firstSource := 0xFF, highest := .none } else t

/-- A source in alarm holds LOCK (R376). -/
def Tamper.lockHeld (t : Tamper) : Bool := tamperSources.any fun n => t.alarm.getLsbD n && (t.response n).code ≥ 3

/-- SHED is in force of its own: a source with that response is in alarm, or was within the last 10 s (R372). -/
def Tamper.sheds (t : Tamper) (now : Nat) : Bool :=
  t.shedding || match t.shedSince with | some x => now < x + 10000000000 | none => false

/-- The module leaves LOCKED (R376): each pitch that no PITCH_LOCK marks returns to ACTIVE. A boot that chose the recovery boot returns to
RECOVERY (R395). -/
def State.leaveLock (s : State) : State :=
  let sh := s.tamper.sheds s.now
  let s := (s.setShed sh).setTamper fun t =>
    { t with inForce := if sh then .shed else .none
             source := if sh then (tamperSources.find? fun n => t.alarm.getLsbD n && t.response n = .shed).getD 0xFF else 0xFF
             shedSince := if sh then t.shedSince else none
             machine := if sh then tamperShed else tamperNormal, sequencer := strikeArmed }
  let s := { s with boot := { s.boot with state := if s.life.recovery then .recovery else .ready, alarmed := false } }
  let s := s.foldDoms (List.range 256) fun s p => s.setDom p fun D =>
    if D.mode = .locked && !D.lockedByCommand then { D with mode := .active } else D
  (s.log 0x1013 (originOf 0 0) critical (leBytes 1 0 ++ leBytes 1 0 ++ leBytes 8 s.clock.tai)).raise 0x18D

/-- TAMPER_CLEAR at its commit point (R376, R391). A STRIKE that has not reached its reset ends after it only (Table 15-2). -/
def State.clearTamper (s : State) (mask : Nat) : State :=
  let s := s.setTamper fun t => t.cleared mask
  if s.boot.state = .locked && !s.tamper.striking && s.tamper.flags &&& 0x3FFF == 0 && !s.tamper.lockHeld then s.leaveLock else s

/-! ### The EMBER supply (R386, R479) -/

/-- Number of the entry of an input outside its window (log entry 22). -/
def codeExcursion : Nat := 0x1703

/-- An excursion of an input to a value, counted against its index and logged (R483); 0 where the row gives no value. -/
def State.excursion (s : State) (index value : Nat) : State :=
  let s := { s with supplies := { s.supplies with excursions := Tab.put s.supplies.excursions 0 index (Tab.get s.supplies.excursions 0 index + 1) } }
  if s.trailRuns then s.log codeExcursion (originOf 10 index) errorSeverity (leBytes 8 index ++ leBytes 8 value) else s

/-- EMBER_SOURCE_CHANGE (R479, R483): VEMB_EXT enters or leaves its window; the domain draws from the first source that
stands. -/
def execEmberSourceChange (external : Bool) (s : State) : Answer :=
  let left := s.supplies.vemb && !external
  let s := if left then s.excursion 3 0 else s
  let x := { s.supplies with vemb := external }
  .next { s with supplies := { x with emberSource := x.ember } }

/-- CELL_CUTOFF (R479): at 3.3 V the cell is disconnected; P3V3_AUX charges it again. -/
def execCellCutoff (s : State) : Answer :=
  if s.supplies.emberSource = .cell then
    let x := { s.supplies with cell := false }
    .next { s with supplies := { x with emberSource := x.ember } }
  else .next s

/-- EMBER_COLLAPSE (R386): the hold-up capacitor falls below the collapse level; seeds, values, flags and the response table
are gone. -/
def execEmberCollapse (s : State) : Answer :=
  if s.boot.powered || s.supplies.emberSource != .holdup then .next s
  else
    let s := s.setTamper fun t => { mramCopy := t.mramCopy, emberMachine := false }
    .next { s with ember := {}, trail := { s.trail with gasp := [], lost := 0 } }

end Sys2Proof.Machine
end

