-- ==== Sys2Proof/Machine/Twin.lean ====
section
/-!
DEFINITION. Sys2Proof/Machine/Twin.lean: twin pitches: group 0x0B, the messages between the two modules, lag, loss and
resumption (R81 to R93, R464, R467).
-/

namespace Sys2Proof.Machine

/-! ### Messages: kind, the receiver's pitch, body (log entry 24) -/

def msgRecord : Nat := 0

def msgEstablish : Nat := 2

def msgHandover : Nat := 3

def msgAck : Nat := 5

def msgResume : Nat := 6

def msgResumed : Nat := 8

/-- A message of a pitch to its peer. -/
def State.tell (s : State) (d kind : Nat) (body : Bytes) : State :=
  s.sendMessage (leBytes 1 kind ++ leBytes 1 (s.dom d).twin.peer ++ body)

/-- Flags of an acknowledgement message: mismatch, match, and the replies to a resume request with and without the DRBG. -/
def ackMismatch : Nat := 0

def ackMatch : Nat := 1

def ackReady : Nat := 2

def ackNoDrbg : Nat := 3

def State.tellAck (s : State) (d seq flag : Nat) : State := s.tell d msgAck (leBytes 8 seq ++ leBytes 1 flag)

/-- Retained records sent again in their order (R88). -/
def State.resendRecords (s : State) (d : Nat) : State :=
  (s.dom d).twin.unacked.foldl (fun s r => s.tell d msgRecord r.body) s

def TwinMode.code : TwinMode → Nat
  | .none => 0 | .joining => 1 | .attached => 2 | .detached => 3 | .diverged => 4

def TwinRole.code : TwinRole → Nat
  | .none => 0 | .primary => 1 | .secondary => 2

def State.setTwin (s : State) (d : Nat) (f : Twin → Twin) : State := s.setDom d fun D => { D with twin := f D.twin }

/-! ### Lag (R86) -/

/-- Placement stays paused while LAG_MAX records are unacknowledged or the oldest is older than LAG_TIME. -/
def State.lagging (s : State) (t : Twin) : Bool :=
  t.role = .primary && t.mode = .attached &&
    (t.unacked.length ≥ t.lagMax || (match t.unacked with | r :: _ => r.since + t.lagTime * 1000 ≤ s.now | [] => false))

/-- Lag judged anew; placement resumes where both limits are met. -/
def State.judgeLag (s : State) (d : Nat) : State :=
  (s.setTwin d fun t => { t with lagPaused := s.lagging t }).resumePlacement d

/-- TWIN_LAG_TIME (R86). -/
def execTwinLagTime (dom : Nat) (s : State) : Answer :=
  let t := (s.dom dom).twin
  match t.unacked with
  | r :: _ =>
    if t.role = .primary && t.mode = .attached then
      let s := s.passTo (r.since + t.lagTime * 1000)
      .next (s.setTwin dom fun t => { t with lagPaused := true })
    else .next s
  | [] => .next s

/-! ### Group 0x0B (R83, R84, R88, R90 to R93) -/

/-- The role and state on which a command of group 0x0B may be submitted (Table 3-7). It is judged in the command's row and again at its
commit point, since a mismatch or a silent peer may have changed the state between the two (R88, R89).
DESIGN CHOICE of the status at the commit point (log entry 65). -/
def Twin.inState (t : Twin) (code : Nat) : Option Fail :=
  need (match code with
    | 0x0B01 | 0x0B02 => t.mode = .none
    | 0x0B03 => t.mode = .attached
    | 0x0B04 => t.mode = .detached && t.role = .primary
    | 0x0B05 => t.mode = .detached && t.role = .secondary
    | 0x0B06 => t.mode = .attached && t.role = .primary
    | 0x0B09 => t.mode = .detached || t.mode = .diverged
    | _ => true) eTwinState 0

/-- TWIN_JOIN needs a pitch without keys and officers (R83). -/
def Dom.joinFail (D : Dom) : Option Fail :=
  firstFail [D.twin.inState 0x0B01, need (D.keys = [] && D.roster.officers = []) eTwinState 0]

/-- TWIN_JOIN (R83). The spec names no status for a pitch that holds keys or officers; the model gives E_TWIN_STATE.
DESIGN CHOICE (log entry 65). -/
def execTwinJoin (dom id : Nat) (s : State) : Answer :=
  s.runMgmt 0x0B01 dom id fun c _ =>
    let D := s.dom dom
    checked [D.joinFail, need (s.link.mode = .secure) eTwinLink 0]
      (.ok { effects := [.twin { mode := .joining, role := .secondary, peer := byteAt c.param 0 }] })

/-- The ranges of Table 3-8. Table 3-11 gives the statuses of group 0x0B no DETAIL; the model gives 0, here and in the rows below.
DESIGN CHOICE (log entry 65). -/
def establishFail (p : Bytes) : Option Fail :=
  need (byteAt p 1 ≤ 1 && 1 ≤ field p 4 4 && field p 4 4 ≤ 65536 && 10 ≤ field p 8 4 && field p 8 4 ≤ 1000000 &&
    100 ≤ field p 12 4 && field p 12 4 ≤ 1000000) eTwinParam 0

/-- The twin-eligible keys of a pitch, as they are sent (R84). -/
def State.eligibleKeys (s : State) (d : Nat) : Bytes :=
  (s.dom d).keys.flatMap fun k =>
    match s.lookKey d k.1 with
    | .found a _ v => if bit a.flags 1 then counted (leBytes 4 k.1 ++ a.bytes ++ v) else []
    | _ => []

/-- The roster as it is sent: seal, quorum table, officers. -/
def Roster.sent (r : Roster) : Bytes :=
  leBytes 1 (b2n r.isSealed) ++ r.table ++ r.officers.flatMap fun o => counted (o.2.bytes o.1)

/-- The digest a TWIN_ESTABLISH gives the chain when it succeeds. -/
def Cmd.establishDigest (c : Cmd) (prev : Bytes) : Bytes :=
  sha384 (({ c with status := sOk, output := [], delta := deltaBytes [(0, 5, zeros 16)], aborted := false, cls := .stateful } : Cmd).link prev)

/-- The message of TWIN_ESTABLISH: parameters, SEQ, SEQ_NEXT, D_new, K_DIG, seed, nonce, personalisation string, roster,
keys, as they stand at its serial position. -/
def State.establishBody (s : State) (d : Nat) (c : Cmd) (seed : Bytes) : Bytes :=
  let D := s.dom d
  leBytes 1 d ++ slice c.param 1 15 ++ leBytes 8 c.seq ++ leBytes 8 D.seqNext ++ slice (c.establishDigest D.chain) 0 48 ++
    slice D.kDig 0 32 ++ slice seed 0 64 ++ counted (drbgPers d D.roster.incarnation) ++ counted D.roster.sent ++ counted ((s.withKeysOf c).eligibleKeys d)

/-- Every earlier command of the chain has its link, and none waits for its calls. -/
def Dom.settledBefore (D : Dom) (id : Nat) : Bool :=
  D.cmds.all fun x => x.id ≥ id || ((!x.mayChain || x.digest.isSome) && !x.awaits)

/-- TWIN_ESTABLISH (R84): the row sends the pitch to its twin at its serial position, and the acknowledgement ends it. -/
def execTwinEstablish (dom id : Nat) (s : State) : Answer :=
  s.runStaged 0x0B02 dom id fun s c =>
    if c.stage > 0 then s
    else
      match firstFail [(s.dom dom).twin.inState 0x0B02, establishFail c.param, need (s.link.mode = .secure) eTwinLink 0] with
      | some f => s.finishRow dom id (.error f)
      | none =>
        if !(s.dom dom).settledBefore id then s
        else
          match s.takeTwo (s.seedOrderOf dom) with
          | none => s
          | some (a, b, s) =>
            let seed := a ++ b.take 16
            let s := s.setCmd dom id fun c => { c with stage := 1, seedUsed := some seed }
            let s := s.setTwin dom fun t => { t with establishing := some c.seq, peer := byteAt c.param 0, lastHeard := s.now
                                                     timeout := field c.param 12 4 }
            s.tell dom msgEstablish (s.establishBody dom c seed)

/-- The twin state that a successful TWIN_ESTABLISH gives. -/
def establishedTwin (s : State) (c : Cmd) : Twin :=
  let p := c.param
  { mode := .attached, role := .primary, async := byteAt p 1 = 1, peer := byteAt p 0, lagMax := field p 4 4, lagTime := field p 8 4
    timeout := field p 12 4, acked := c.seq, lastHeard := s.now, instSeed := c.seedUsed.getD [] }

/-- TWIN_DETACH (R91, Table 3-7). -/
def execTwinDetach (dom id : Nat) (s : State) : Answer :=
  s.runMgmt 0x0B03 dom id fun _ _ =>
    let t := (s.dom dom).twin
    checked [t.inState 0x0B03] (.ok { effects := [.twin { t with mode := .detached }] })

/-- TWIN_RESUME (R88): the row asks the secondary how far it has come, and its reply ends the row. -/
def execTwinResume (dom id : Nat) (s : State) : Answer :=
  s.runStaged 0x0B04 dom id fun s c =>
    if c.stage > 0 then s
    else
      let t := (s.dom dom).twin
      match firstFail [t.inState 0x0B04, need (s.link.mode = .secure) eTwinLink 0] with
      | some f => s.finishRow dom id (.error f)
      | none =>
        let s := s.setCmd dom id fun c => { c with stage := 1 }
        (s.setTwin dom fun t => { t with lastHeard := s.now }).tell dom msgResume []

/-- TWIN_PROMOTE (R90). -/
def execTwinPromote (dom id : Nat) (s : State) : Answer :=
  s.runMgmt 0x0B05 dom id fun _ _ =>
    let t := (s.dom dom).twin
    checked [t.inState 0x0B05] (.ok { effects := [.twin { t with role := .primary }] })

/-- TWIN_DEMOTE (R90): it ends once every record is acknowledged. A primary that leaves ATTACHED while it waits, to DETACHED (R88) or to
DIVERGED (R89), has no handover left to make, and the command fails with E_TWIN_STATE.
DESIGN CHOICE of the status (log entry 65). -/
def execTwinDemote (dom id : Nat) (s : State) : Answer :=
  s.runStaged 0x0B06 dom id fun s c =>
    let D := s.dom dom
    if (D.twin.inState 0x0B06).isSome then s.finishRow dom id (.error (eTwinState, 0))
    else if c.stage = 0 then s.setCmd dom id fun c => { c with stage := 1 }
    else if D.twin.unacked = [] && D.cmds.all (fun x => x.id ≥ id || !x.mayChain) then
      s.finishRow dom id (.ok { effects := [.twinHandover] })
    else s

/-- TWIN_STATUS (Table 3-9). -/
def execTwinStatus (dom id : Nat) (s : State) : Answer :=
  s.runMgmt 0x0B07 dom id fun _ _ =>
    let t := (s.dom dom).twin
    .ok { out := leBytes 1 t.mode.code ++ leBytes 1 t.role.code ++ leBytes 1 (b2n t.async) ++ leBytes 1 t.peer ++
            leBytes 4 t.unacked.length ++ leBytes 8 t.acked ++ leBytes 8 (if t.mode = .diverged then t.divergedSeq else 0) ++ zeros 8 }

/-- DIGEST_READ (R92): it waits for the links of the commands before it. -/
def execDigestRead (dom id : Nat) (s : State) : Answer :=
  s.runStaged 0x0B08 dom id fun s c =>
    let D := s.dom dom
    if D.cmds.all fun x => x.id ≥ c.id || !x.mayChain || x.digest.isSome then
      let seen := c.chainSeen.getD (D.chain, D.chainSeq)
      s.finishRow dom id (.ok { out := leBytes 8 seen.2 ++ zeros 8 ++ slice seen.1 0 48 })
    else s

/-- TWIN_DISSOLVE (R91). -/
def execTwinDissolve (dom id : Nat) (s : State) : Answer :=
  s.runMgmt 0x0B09 dom id fun _ _ =>
    let t := (s.dom dom).twin
    checked [t.inState 0x0B09] (.ok { effects := [.twinDissolve] })

/-! ### The changes at their commit points -/

/-- The roles change, with the attention and the entry of a transition (R81). -/
def State.twinTurn (s : State) (d : Nat) : State :=
  (s.log codeTwin (originOf 1 d) warning (leBytes 2 d ++ leBytes 8 (s.dom d).twin.divergedSeq)).pitchEvent d evTwin

/-- Entries that a pitch turned SECONDARY still holds: each has SEQ_AUTO 0, which R87 refuses. -/
def State.refuseWaiting (s : State) (d : Nat) : State :=
  let l := (s.dom d).waiting
  let s := s.setDom d fun D => { D with waiting := [], gapSince := none }
  (l.foldl (fun s w => s.refuse d w.queue w.entry (eTwinSeq, 0)) s).busyTimer d

/-- A twin command's change: a new twin taken whole, a detachment, a resumption, a promotion. -/
def State.applyTwin (s : State) (d : Nat) (t : Twin) : State :=
  let old := (s.dom d).twin
  if old.mode = .none then
    let s := s.setTwin d fun _ => { t with mode := .none, instSeed := [] }
    let s := if t.role = .primary then
        s.setDom d fun D => { D with drbg := drbgStart (t.instSeed.take 48) (t.instSeed.drop 48) (drbgPers d D.roster.incarnation) }
      else s
    let s := if t.role = .secondary then s.refuseWaiting d else s
    (s.twinMode d t.mode).settle d
  else if t.role != old.role then (s.setTwin d fun x => { x with role := t.role }).twinTurn d
  else if t.mode = .attached then
    let s := (s.setTwin d fun x => { x with lastHeard := s.now }).twinMode d .attached
    ((s.tell d msgResumed []).resendRecords d).judgeLag d
  else ((s.setTwin d fun x => { x with lagPaused := false }).twinMode d t.mode).releaseTwin d

/-- The handover of TWIN_DEMOTE: the roles swap (R90). An instantiation that no drawing record has carried goes with it, so that the two
generators stay identical (R85, R241). The former primary holds the generator that the two share, and the entries still waiting on it
are refused (R87).
DEDUCED (log entry 24). -/
def State.handOver (s : State) (d : Nat) : State :=
  let D := s.dom d
  let s := s.tell d msgHandover (leBytes 8 D.seqNext ++ counted (D.startDue d))
  let s := s.setTwin d fun t => { t with role := .secondary, peerNext := 0, instSeed := [], lagPaused := false
                                         peerPers := if t.peerPers = [] || t.instSeed != [] then drbgPers d D.roster.incarnation else t.peerPers }
  (s.twinTurn d).refuseWaiting d

/-- TWIN_DISSOLVE at its commit point: the twin state and its retained records go (R91). -/
def State.dissolveTwin (s : State) (d : Nat) : State :=
  (s.twinMode d .none).setTwin d fun _ => {}

/-! ### What the secondary does with a record (R85, R86) -/

/-- Statuses of the primary that the secondary cannot find from a record: those of the admission checks, which judge what the record
leaves out or zeroes, of the approvals, which it does not check again, and of the components, which only the primary unwraps.
DEDUCED (log entry 24). -/
def recordedStatuses : List Nat :=
  [eHandleForeign, eLengthLimit, eParamLength, eDescriptorForm, eAddressWindow, eDmaRead, eReserved,
   eNonceExhausted, eTwinIneligible, eApprovalForm, eApprovalOfficer, eApprovalDuplicate, eApprovalTime, eApprovalReplay,
   eApprovalSignature, eQuorumShort, eRosterOpen, eComponent]

/-- A record whose command the secondary does not execute: of class 5 or 6, E_ENTROPY among them (R65, R85), or of those statuses. -/
def recordedOnly (status : Nat) : Bool := status / 4096 = 5 || status / 4096 = 6 || recordedStatuses.contains status

/-- An entry of the primary's with its handles on this pitch. -/
def localEntry (raw : Bytes) (d : Nat) : Bytes :=
  ((List.range 4).filter fun k => bit (byteAt raw 4) k).foldl (fun b k => overlay b (19 + 4 * k) (leBytes 1 d)) raw

/-- The command that a record places on the secondary. A RESERVE_SLOT that names an invalid slot is refused at placement here as well (R69).
One whose status is only recorded waits for its commit point like any other, so that
its delta counts its reservation and its calls (R80); an invocation of an entry point that no image was bound to on the primary, or is here, is
recorded too; in the latter case its link, without an image, differs from the primary's (R318). -/
def recordCmd (D : Dom) (d : Nat) (b : Bytes) (now : Nat) : Cmd :=
  let reserved := byteAt b 0 = 1
  let entryOnly := byteAt b 0 = 2
  let raw := localEntry (slice b 49 64) d
  let e := parseEntry raw
  let status := field b 141 2
  let (dr, o) := countedAt b 143
  let (seed, o) := countedAt b o
  let (_, o) := countedAt b o
  let (image, o) := if reserved then ([], o) else countedAt b o
  let (p, o1) := countedAt b o
  let (ap, o2) := countedAt b o1
  let (inp, o3) := countedAt b o2
  let (key, o4) := countedAt b o3
  let binding := if isCustom e.opcode && image != [] then D.binding e.opcode else none
  let noSlot := e.reserveCount != 0 && !inCatalogue e.opcode && !e.valid e.reserveSlot
  let noRun := reserved || entryOnly || noSlot || recordedOnly status || (isCustom e.opcode && binding.isNone)
  let draws := (chunks 4 dr).map leNat
  { id := D.placed, seq := field b 57 8, raw := raw, entry := e, phase := if reserved then .linking else if noRun then .computed else .ready
    cls := if reserved then .reserve else .stateful
    cond := { stamp := field b 113 8, trusted := true, ready := true, started := true, regionMask := D.conf.regionMask
              entropyWait := D.conf.entropyWait
              cfImage := binding.map (·.2), cfGroup := binding.map fun x => (x.1.slot, x.1.drawCalls, x.1.budget) }
    param := if reserved then [] else p, approvals := if reserved then [] else ap, input := if reserved then p else inp
    reserveStart := if e.reserveCount = 0 || inCatalogue e.opcode || noSlot || (status = eNonceExhausted && field b 121 12 = 0) then none
      else some (field b 121 12)
    draws := draws, firstCall := field b 133 8, reseed := if seed = [] then none else some seed
    placedAt := now, status := if noSlot then eUndeclaredAccess else if noRun then status else 0, entropyFail := status = eEntropy
    admitted := true, assigned := true, noPost := true, twinDigest := some (slice b 1 48), twinStatus := status
    twinKey := if reserved || key = [] then none else some key, twinSpace := if reserved then none else some (field b o4 4) }

/-- The generator that a forwarded instantiation gives (R241). -/
def startOf (start : Bytes) : Option Drbg :=
  if start = [] then none else some (drbgStart (slice start 33 48) (slice start 81 16) (start.take 33))

/-- A record applied (R85): its reservation moves the counter, its calls and their reseed join the DRBG's, and its command
runs or is recorded. -/
def State.applyRecord (s : State) (d : Nat) (b : Bytes) : State :=
  let D := s.dom d
  let c := recordCmd D d b s.now
  let known := c.seq ≤ D.twin.acked || D.cmds.any fun x => x.twinDigest.isSome && x.seq ≥ c.seq
  if D.twin.role != .secondary || D.twin.mode != .attached || known then s
  else
    let start := (countedAt b (countedAt b (countedAt b 143).2).2).1
    let g := (startOf start).getD D.drbg
    let g := if c.draws = [] || c.entropyFail then g else { g with lastCall := c.firstCall + c.draws.length - 1 }
    let h := c.entry.handle c.entry.reserveSlot
    let D := match c.reserveStart with
      | some v =>
        D.setNonce h ((D.nonce h).follow v c.entry.reserveCount)
      | none => D
    let D := { D with drbg := g, placed := D.placed + 1, cmds := D.cmds ++ [c]
                      twin := { D.twin with lastHeard := s.now, peerPers := if start = [] then D.twin.peerPers else start.take 33 } }
    (s.setDom d fun _ => D).draw d

/-! ### Other messages -/

/-- Counted items of a byte string, at most `n`. -/
def countedItems : Nat → Bytes → List Bytes
  | 0, _ => []
  | n + 1, b => if b = [] then [] else let (x, o) := countedAt b 0; x :: countedItems n (b.drop o)

/-- The roster received with TWIN_ESTABLISH. -/
def rosterOf (b : Bytes) (old : Roster) : Roster :=
  let officers := (countedItems 16 (b.drop 17)).map fun r =>
    (byteAt r 0, ({ role := byteAt r 1, alg := byteAt r 2, label := slice r 16 16, pub := slice r 32 (field r 4 2) } : Officer))
  { old with isSealed := byteAt b 0 = 1, quorum := ((List.range 16).filter fun i => byteAt b (1 + i) != 0).map fun i => (i, byteAt b (1 + i))
             officers := officers }

/-- TWIN_ESTABLISH on the secondary (R84): everything sent is installed, and the pitch is ATTACHED. -/
def State.joinTwin (s : State) (d : Nat) (b : Bytes) : State :=
  let D := s.dom d
  if D.twin.mode != .joining then s
  else
    let seq := field b 16 8
    let next := max (seq + 1) (field b 24 8)
    let seed := slice b 112 64
    let (pers, o) := countedAt b 176
    let (ros, o) := countedAt b o
    let (keys, _) := countedAt b o
    let twin : Twin := { mode := .joining, role := .secondary, async := byteAt b 1 = 1, peer := byteAt b 0, lagMax := field b 4 4
                         lagTime := field b 8 4, timeout := field b 12 4, acked := seq, lastHeard := s.now, peerNext := field b 24 8
                         peerPers := pers }
    let s := s.setDom d fun D => { D with kDig := slice b 80 32, digest := slice b 32 48, chainSeq := seq, seqNext := next, twin := twin
                                          roster := rosterOf ros D.roster, drbg := drbgStart (seed.take 48) (seed.drop 48) pers }
    let s := (countedItems keys.length keys).foldl (fun s k =>
      let h := field k 0 4
      s.writeKey d h { attrAt k 4 with handle := d * 0x1000000 + h } (k.drop 68)) s
    (s.twinMode d .attached).tellAck d seq ackMatch

/-- The roles swap on the former secondary (R90). -/
def State.takeOver (s : State) (d : Nat) (b : Bytes) : State :=
  let t := (s.dom d).twin
  if t.role != .secondary || t.mode != .attached then s
  else
    let start := (countedAt b 8).1
    let s := s.setDom d fun D => { D with seqNext := max (t.acked + 1) (field b 0 8), drbg := (startOf start).getD D.drbg
                                          twin := { t with role := .primary, unacked := [], lagPaused := false } }
    s.twinTurn d

/-- A resume request on the secondary: how far it has come, and whether it holds the primary's DRBG (R88, R241). -/
def State.answerResume (s : State) (d : Nat) : State :=
  let t := (s.dom d).twin
  if t.role = .secondary && (t.mode = .detached || t.mode = .attached) then
    s.tellAck d t.acked (if t.peerPers = [] then ackNoDrbg else ackReady)
  else s

/-- The secondary is ATTACHED again. -/
def State.resumed (s : State) (d : Nat) : State :=
  let t := (s.dom d).twin
  if t.role = .secondary && t.mode = .detached then (s.setTwin d fun t => { t with lastHeard := s.now }).twinMode d .attached else s

/-- The command of a domain that runs an opcode's row and waits for its twin. -/
def Dom.awaiting (D : Dom) (code : Nat) : Option Cmd :=
  D.cmds.find? fun c => c.entry.opcode = code && c.phase = .running && c.stage = 1

/-- The reply to a resume request (R88, R241). -/
def State.resumeReply (s : State) (d seq flag : Nat) : State :=
  let t := (s.dom d).twin
  match (s.dom d).awaiting 0x0B04 with
  | none => s
  | some c =>
    let after := t.unacked.filter fun r => r.seq > seq
    let lost := match t.lostFrom with | some x => decide (x > seq) | none => false
    if lost || (flag = ackNoDrbg && after.any fun r => recordDraws r.body) then s.finishRow d c.id (.error (eTwinResumeRange, 0))
    else
      let s := s.setTwin d fun t => { t with unacked := after, acked := seq }
      s.finishRow d c.id (.ok { effects := [.twin { (s.dom d).twin with mode := .attached }] })

/-- An acknowledgement of a record: its completion is written, and lag is judged (R86). -/
def State.recordAcked (s : State) (d seq : Nat) : State :=
  let s := (s.setTwin d fun t => { t with unacked := t.unacked.filter fun r => r.seq > seq, acked := max t.acked seq, lastHeard := s.now }).journalTimer d s.now
  let s := ((s.dom d).cmds.filter fun c => c.phase = .held && c.seq ≤ seq).foldl (fun s c => s.finishCmd d c) s
  s.judgeLag d

/-- An acknowledgement message (R84, R86, R88, R89). -/
def State.twinAck (s : State) (d seq flag : Nat) : State :=
  let t := (s.dom d).twin
  if flag = ackReady || flag = ackNoDrbg then s.resumeReply d seq flag
  else
    match (s.dom d).awaiting 0x0B02 with
    | some c =>
      if t.establishing = some seq && flag = ackMatch then
        (s.setTwin d fun t => { t with establishing := none }).finishRow d c.id (.ok { effects := [.twin (establishedTwin s c)] })
      else s
    | none =>
      if t.role != .primary || t.mode != .attached then s
      else if flag = ackMatch then s.recordAcked d seq
      else s.diverge d seq

/-- A message that has arrived whole. -/
def State.twinMessage (s : State) (m : Bytes) : State :=
  let d := byteAt m 1
  let b := m.drop 2
  match byteAt m 0 with
  | 0 => s.applyRecord d b
  | 2 => s.joinTwin d b
  | 3 => s.takeOver d b
  | 5 => s.twinAck d (field b 0 8) (byteAt b 8)
  | 6 => s.answerResume d
  | 8 => s.resumed d
  | _ => s

/-! ### Frames (R467) -/

/-- ACK with the highest accepted number. -/
def State.ackFrames (s : State) : State := s.sendFrame 5 (leBytes 8 (s.link.rxNo - 1))

/-- A piece of a message: with its last piece the message takes effect. -/
def State.takePiece (s : State) (p : Bytes) : State :=
  let m := s.link.rxPart ++ p.drop 1
  if byteAt p 0 = 1 then ({ s with link := { s.link with rxPart := [] } }).twinMessage m
  else { s with link := { s.link with rxPart := m } }

/-- One 16-byte entry of a heartbeat (R467). -/
def State.heartbeatEntry (s : State) (e : Bytes) : State :=
  let peer := byteAt e 0
  let d := byteAt e 1
  let t := (s.dom d).twin
  if t.mode = .none || t.mode = .joining || t.peer != peer then s
  else
    let s := (s.setTwin d fun t => { t with lastHeard := s.now }).journalTimer d s.now
    let s := if t.role = .secondary && byteAt e 2 = 1 then
        s.setDom d fun D => { D with seqNext := max (t.acked + 1) (field e 8 8), twin := { D.twin with peerNext := field e 8 8 } }
      else s
    if t.mode = .attached && byteAt e 3 = 3 then
      ((s.setTwin d fun t => { t with lagPaused := false }).twinMode d .detached).releaseTwin d |>.resumePlacement d
    else s

/-- The frames of an epoch acknowledged up to a number leave the buffer, and held frames follow (R467). -/
def State.framesAcked (s : State) (epoch n : Nat) : State :=
  ({ s with link := { s.link with unacked := s.link.unacked.filter fun f => f.1 > n || field f.2 4 4 != epoch, lastSent := s.now } }).flushQueued

/-- A frame of the session that a row of one of some types takes. -/
def State.frameRow (s : State) (bytes : Bytes) (types : List Nat) : State :=
  if !s.boot.powered || s.boot.held || s.link.mode != .secure || !types.contains (byteAt bytes 0) then s
  else
    match s.wakeModule.acceptFrame bytes with
    | (none, s) => s
    | (some (5, p), s) => s.framesAcked (field bytes 4 4) (field p 0 8)
    | (some (4, p), s) => (s.takePiece p).ackFrames
    | (some (6, p), s) => ((chunks 16 p).foldl State.heartbeatEntry s).ackFrames
    | (some _, s) => s

/-- RECORD (R85). -/
def execRecord (bytes : Bytes) (s : State) : Answer := .next (s.frameRow bytes [4])

/-- ACK (R86, R467): an ACK frame, or the RECORD frame that carries a record's acknowledgement. -/
def execAck (bytes : Bytes) (s : State) : Answer := .next (s.frameRow bytes [5, 4])

/-- HEARTBEAT (R467). -/
def execHeartbeat (bytes : Bytes) (s : State) : Answer := .next (s.frameRow bytes [6])

/-- The heartbeat entries of the twinned pitches. -/
def State.heartbeats (s : State) : Bytes :=
  ((List.range 256).filter fun d => (s.dom d).twin.mode != .none).flatMap fun d =>
    let t := (s.dom d).twin
    leBytes 1 d ++ leBytes 1 t.peer ++ leBytes 1 t.role.code ++ leBytes 1 t.mode.code ++ zeros 4 ++ leBytes 8 (s.dom d).seqNext

/-- HEARTBEAT_SEND (R467); LOCK stops it (R375). -/
def execHeartbeatSend (s : State) : Answer :=
  if s.boot.powered && !s.boot.held && s.link.mode = .secure && s.boot.state != .locked && s.boot.state != .booting then
    .next (s.sendFrame 6 s.heartbeats)
  else .next s

/-- TWIN_RESEND (R467): frames go out again as they were first sent. -/
def execTwinResend (s : State) : Answer :=
  if s.boot.powered && !s.boot.held && s.link.mode = .secure && s.link.unacked != [] then
    let s := s.passTo (s.link.lastSent + 20000)
    let s := s.link.unacked.foldl (fun s f => s.putRaw (.frame f.2)) s
    .next { s with link := { s.link with lastSent := s.now } }
  else .next s

/-- A command that waits for its twin fails (R84, R88, R93). -/
def State.failAwaiting (s : State) (d code : Nat) : State :=
  match (s.dom d).awaiting code with
  | some c => s.finishRow d c.id (.error (eTwinLink, 0))
  | none => s

/-- TWIN_TIMEOUT (R88): no heartbeat or acknowledgement within TIMEOUT. -/
def execTwinTimeout (dom : Nat) (s : State) : Answer :=
  let t := (s.dom dom).twin
  let waiting := ((s.dom dom).awaiting 0x0B02).isSome || ((s.dom dom).awaiting 0x0B04).isSome
  if !s.boot.powered || s.boot.held || !(t.mode = .attached || waiting) then .next s
  else
    let s := s.passTo (t.lastHeard + t.timeout * 1000)
    let s := (s.failAwaiting dom 0x0B02).failAwaiting dom 0x0B04
    let s := s.setTwin dom fun t => { t with establishing := none, lagPaused := false }
    if t.mode = .attached then
      .next ((((s.failAwaiting dom 0x0B06).twinMode dom .detached).releaseTwin dom).resumePlacement dom)
    else .next s

end Sys2Proof.Machine
end

