-- ==== Sys2Proof/Machine/Commit.lean ====
section
/-!
DEFINITION. Sys2Proof/Machine/Commit.lean: the commit point of a command, the changes it applies, and the chain link that
follows it (R24, R25, R62, R75 to R78).
-/

namespace Sys2Proof.Machine

/-! ### The changes, applied once (R75) -/

/-- Records that a LOCK kept from a twin are sent when the module leaves LOCKED with the pitch still ATTACHED (R375, R88). -/
def State.resendAfterLock (s : State) (was : Bool) : State :=
  if was && s.boot.state != .locked then
    s.foldDoms ((List.range 256).filter fun p =>
        (s.dom p).twin.mode = .attached && (s.dom p).twin.role = .primary && (s.dom p).twin.unacked != [])
      fun s p => s.resendRecords p
  else s

/-- A new log after LOG_ROTATE (R418). -/
def State.rotated (s : State) (sram mram : Bool) : State := (s.testLog sram mram).rotateLog

/-- A queue under a new routing, which applies to completions written from here on (R62): the message owed for earlier ones keeps its
vector and the instant that AGG_TIME gave it. With AGG_TIME 0 they were to wait for further completions (R57); those now count under
the new routing, and no message is owed.
DESIGN CHOICE (log entry 62). -/
def Queue.routed (Q : Queue) (v n t : Nat) : Queue :=
  { Q with vector := v, aggCount := n, aggTime := t, aggWaiting := 0, aggSince := none
           owed := match Q.aggSince with | some x => if Q.aggTime = 0 then Q.owed else Q.owed ++ [(Q.vector, x + Q.aggTime * 1000)] | none => Q.owed }

/-- One change of a domain's command. A message still owed by a queue that QUEUE_DELETE takes away is dropped (DESIGN CHOICE, log
entry 62). -/
def State.applyEffect (s : State) (d : Nat) (c : Cmd) : Effect → State
  | .queueCreate q Q => s.setDom d fun D => D.setQueue q fun _ => Q
  | .queueDelete q => (s.setDom d fun D => D.setQueue q fun _ => {}).gapTimer d false
  | .queueRoute q v n t => s.setDom d fun D => D.setQueue q fun Q => Q.routed v n t
  | .queueRecover q => s.setDom d fun D => D.setQueue q fun Q => { Q with state := .active, errorCause := 0 }
  | .gapTimeout ns => s.setDom d fun D => { D with gapTimeout := ns }
  | .pitchCreate p conf => (s.createPitch p conf).getD s
  | .pitchDestroy p => s.destroyPitch p
  | .pitchResetEnd p => s.setDom p fun D => { D with mode := if D.mode = .resetting then D.resetFrom else D.mode }
  | .pitchLock p => s.lockByCommand p
  | .pitchUnlock p => s.unlockByCommand p
  | .dirtyStart p b base n =>
    s.setDom p fun D => { D with dirty := { mode := .running, bitmap := b, coverBase := base, coverPages := n } }
  | .dirtyStop p => s.setDom p fun D => { D with dirty := {} }
  | .setWrite k o data => s.writeSet d k o data
  | .setPend k w n => s.pendSet k w n
  | .setNow k => if (s.commitSetFail d k).isSome then s else (s.instant k true).2
  | .setDrop k => s.dropSet k
  | .timeSet t => s.setClock fun k => { k with timeSet := some (c.seq, t) }
  | .keyPut o h a v _ => s.writeKey o h a v
  | .keyAttr o h a => match s.lookKey o h with | .found _ _ v => s.writeKey o h a v | _ => s
  | .keyDrop o h => s.dropKey o h
  | .grant p i on => s.setDom p fun D => { D with grants := if on then insertNat D.grants i else removeNat D.grants i }
  | .roster r =>
    s.setDom d fun D => { D with roster := { r with floors := D.roster.floors, incarnation := D.roster.incarnation } }
  | .logRotate sram mram => s.rotated sram mram
  | .rate code r b => s.setRate code r b
  | .route x r => s.setRoute x r
  | .eventClear l => s.clearEvents l
  | .perfGrant p on => s.setPerfGrant p on
  | .samplesTaken b n => s.takeSamples b n
  | .lifeCycle x => s.setLife x
  | .tamperClear m => (s.clearTamper m).resendAfterLock (s.boot.state = .locked)
  | .twin t => s.applyTwin d t
  | .twinDissolve => s.dissolveTwin d
  | .twinHandover => s.handOver d
  | .cfImage p i x => s.setDom p fun D => { D with cfImages := Tab.put D.cfImages {} i x }
  | .cfAccept p i _ => s.setDom p fun D => { D with cfImages := Tab.put D.cfImages {} i { Tab.get D.cfImages {} i with state := .accepted } }
  | .cfGroup p g x => s.setDom p fun D => { D with cfGroups := Tab.put D.cfGroups {} g x }
  | .trail code origin sev data => s.trailAs code origin sev 0 data true 0
  | .event x => s.raise x

/-- What the journal records of a change (R354). -/
def State.journalEffect (s : State) (d : Nat) (c : Cmd) : Effect → State
  | .setWrite k o data => s.journal .staging d c.seq (leBytes 2 k ++ leBytes 8 o ++ data)
  | .setPend k _ _ | .setNow k | .setDrop k => s.journal .staging d c.seq (leBytes 2 k)
  | .queueCreate q _ | .queueDelete q | .queueRoute q _ _ _ | .queueRecover q => s.journal .queueState d c.seq (leBytes 2 q)
  | .gapTimeout n => s.journal .timer d c.seq (leBytes 8 n)
  | .timeSet n => s.journal .timer d c.seq (leBytes 8 n)
  | _ => s

/-! ### What is judged at the commit point itself -/

/-- QUEUE_DELETE finds its queue empty (R62). -/
def Dom.queueEmpty (D : Dom) (q : Nat) : Bool :=
  (D.queue q).sqHead = (D.queue q).sqTail && D.inFlight q = 0 && (D.queue q).unconsumed = 0

/-- The EMBER pair whose value a change updates, with the value (R124). -/
def State.pairWritten (s : State) : Effect → Option (Nat × Bytes)
  | .keyPut _ h _ v _ => if inEmber h then some (emberPair h, v) else none
  | .keyAttr o h _ =>
    match s.lookKey o h with | .found _ _ v => if inEmber h then some (emberPair h, v) else none | _ => none
  | .pitchCreate p _ => some (p, zeros 64)
  | _ => none

/-- The slot in which a command names a handle; 0xFFFF where it names none. -/
def Entry.slotOf (e : Entry) (h : Nat) : Nat :=
  ((List.range 4).find? fun k => e.valid k && canonical (e.handle k) = canonical h).getD 0xFFFF

/-- The update of a pair fails its verification: either read-back of a key's, that of the value of a root (R124). -/
def checkFails (x : EmberCheck) : Effect → Bool
  | .pitchCreate _ _ => x = .shadowFails
  | _ => x != .verified

/-- The failed verification of a change (R124): E_KEY_CORRUPT. -/
def State.checkFail (s : State) (c : Cmd) (check : EmberCheck) (e : Effect) : Option Fail :=
  (s.pairWritten e).bind fun _ =>
    need (!checkFails check e) eKeyCorrupt (match e with | .keyPut _ h _ _ _ | .keyAttr _ h _ => c.entry.slotOf h | _ => 0xFFFF)

/-- A check that the commit point makes of a change: a key has the room its owner's quota leaves (R102, R147) and a root to be sealed under
(R122), a new pitch its pools (R98), a twin command its state (Table 3-7), and those of R62, R317, R331, R337, R391 and R427. -/
def State.commitFail (s : State) (d : Nat) (c : Cmd) : Effect → Option Fail
  | .keyPut o h _ v fresh =>
    firstFail [if fresh then s.keyRoom c.placedAt o h v.length else none, need (s.root o).isSome eKeyCorrupt (c.entry.slotOf h)]
  | .keyAttr o h _ => need (s.root o).isSome eKeyCorrupt (c.entry.slotOf h)
  | .cfImage p i x =>
    need (x.state != .loaded || (s.dom p).mramUsed + roundUp x.image.length 4096 ≤ roundUp ((s.dom p).image i).image.length 4096 +
      (s.confSeen p c.placedAt).mramQuota * 1024) eCfSpace 0
  | .cfAccept p i x =>
    let im := Tab.get (s.dom p).cfImages {} i
    firstFail [need (im.state = .loaded) eCfState im.state.code, need (im.digest == x) eCfDigest 0]
  | .queueDelete q => need ((s.dom d).queueEmpty q) eQueueNotEmpty 0
  | .setWrite k _ _ => s.writeFail k
  | .setPend k _ _ => s.commitSetFail d k
  | .setNow k => firstFail [s.commitSetFail d k, s.instantFail k (s.stage k).image]
  | .setDrop k => s.dropSetFail d k
  | .timeSet t => need (!s.clock.trusted || s.clock.nextSecond ≤ t) eTimeBackward 0
  | .tamperClear m => (s.tamper.activeIn m).map fun n => (eTamperActive, n)
  | .logRotate sram mram => firstFail [need sram eLogMemory 1, need mram eLogMemory 2]
  | .pitchCreate p conf => firstFail [s.pitchIn p [.absent], s.createFail p conf]
  | .twin _ => if c.entry.opcode = 0x0B01 then (s.dom d).joinFail else (s.dom d).twin.inState c.entry.opcode
  | .twinDissolve | .twinHandover => (s.dom d).twin.inState c.entry.opcode
  | _ => none

/-- Changes that happen although the command fails: LOG_ROTATE's new chain (R427), and the record of a commit NOW that
failed (R337). -/
def Effect.always : Effect → Bool
  | .logRotate _ _ | .setNow _ => true
  | _ => false

/-- The command as its commit point finds it. -/
def State.judge (s : State) (d : Nat) (check : EmberCheck) (c : Cmd) : Cmd :=
  match firstFail (c.effects.map (s.commitFail d c) ++ c.effects.map (s.checkFail c check)) with
  | some f => { c with status := f.1, detail := f.2, output := [], resultLen := 0, effects := c.effects.filter Effect.always }
  | none => c

/-- Fields of the output that report the commit point (Tables 2-17, 15-9, 17-7); `before` is the state before the changes. -/
def Cmd.stamped (c : Cmd) (before after : State) (d : Nat) : Cmd :=
  if c.status != sOk then c
  else match c.entry.opcode with
  | 0x0103 => { c with output := overlay c.output 0 (leBytes 8 (before.dom d).seqNext) }
  | 0x0701 => { c with output := leBytes 8 (after.trail.nextSeq - 2) ++ leBytes 8 (after.trail.nextSeq - 1) }
  | 0x0A02 => { c with output := leBytes 8 after.tamper.sticky ++ zeros 8 }
  | _ => c

/-! ### The entries of refusals (R122, R412) -/

/-- A pair that the command needed is unreadable: the owner's root, an EMBER-resident key, a transport key, the attestation key that signs
KEY_TRANSPORT_INFO (R122, R457). -/
def State.pairUnread (s : State) (d : Nat) (c : Cmd) : Bool :=
  ([0x0402, 0x0404, 0x0409].contains c.entry.opcode && s.transport.isNone) || (c.entry.opcode = 0x0409 && (s.ember.side 259).isNone) ||
    ((List.range 4).any fun k => c.entry.valid k &&
      ((s.root (ownerOf d (c.entry.handle k))).isNone ||
        (inEmber (c.entry.handle k) && (s.ember.side (emberPair (c.entry.handle k))).isNone)))

/-- The number that the model gives to the entry of an unreadable pair (R122; log entry 22). -/
def codeKeyCorrupt : Nat := 0x1709

/-- The entry of a refusal that Table 17-2 names, and that of an unreadable EMBER pair (R122). -/
def State.refusalEntry (s : State) (d : Nat) (c : Cmd) : State :=
  if c.status = eUndeclaredAccess then
    s.log 0x1701 (domOrigin d) errorSeverity (leBytes 8 c.detail ++ zeros 8 ++ leBytes 8 c.seq)
  else if c.status = eKeyCorrupt && s.pairUnread d c then
    s.log codeKeyCorrupt (domOrigin d) security (leBytes 8 c.detail ++ zeros 8 ++ leBytes 8 c.seq)
  else s

/-! ### COMMIT_POINT and CHAIN_LINK -/

/-- Every earlier command that conflicts has reached its commit point (R24), and its own calls, which its delta counts, have been
generated (R80). Commands that take or free MRAM under one quota commit in SEQ order as well, so that the room each finds is that of the
serial order (R64, R102). -/
def Dom.mayCommit (D : Dom) (c : Cmd) : Bool :=
  c.phase = .computed && !c.awaits && D.cmds.all fun x =>
    x.id ≥ c.id || x.done || !(conflict x.entry c.entry || (takesRoom x.entry.opcode && takesRoom c.entry.opcode))

/-- A PITCH_CREATE waits while no seeds are ready for its pitch's DRBG (R243). -/
def State.createWaits (s : State) (c : Cmd) : Bool :=
  c.effects.any fun e => match e with | .pitchCreate p conf => (s.createPitch p conf).isNone | _ => false

/-- Output bytes counted on the command's region (Table 18-5). -/
def State.countOut (s : State) (d : Nat) (c : Cmd) : State :=
  if c.entry.mgmt then s else s.count 1 c.region 0x28 (some d) c.output.length

/-- A key as it stands; none where its record or its EMBER pair cannot be read. -/
def State.keyImage (s : State) (o h : Nat) : Option (Nat × Nat × Option (Attr × Bytes)) :=
  match s.lookKey o h with
  | .found a _ v => some (o, h, some (a, v))
  | .absent => some (o, h, none)
  | .corrupt => none

/-- The keys that a command declares, as they stand: what its execution again would read (R26). -/
def State.declaredKeys (s : State) (d : Nat) (e : Entry) : List (Nat × Nat × Option (Attr × Bytes)) :=
  ((List.range 4).filter e.valid).filterMap fun k => s.keyImage (ownerOf d (e.handle k)) (e.handle k)

/-- The key that a change names. -/
def Effect.keyNamed : Effect → Option (Nat × Nat)
  | .keyPut o h _ _ _ | .keyAttr o h _ | .keyDrop o h => some (o, h)
  | _ => none

/-- Keys that a command is about to change, kept as they stand by an earlier TWIN_ESTABLISH that has not sent the pitch (R21, R84). -/
def State.keepForTwin (s : State) (d : Nat) (c : Cmd) : State :=
  let l := (c.effects.filterMap Effect.keyNamed).filterMap fun x => s.keyImage x.1 x.2
  s.setDom d fun D => { D with cmds := D.cmds.map fun x =>
    if x.entry.opcode = 0x0B02 && x.id < c.id && x.establishing && x.stage = 0 then
      { x with preKeys := x.preKeys ++ l.filter fun y => !x.preKeys.any fun z => z.1 = y.1 && z.2.1 = y.2.1 }
    else x }

/-- A command executed again past its commit point: its result is held against its commit record, and nothing is applied (R76). Where
they agree its outputs go out, again if they must (R26), and its link and completion go on. A difference is a duplicate mismatch:
neither its output nor its completion leaves.
DESIGN CHOICE of the completion (log entry 64). -/
def State.recommit (s : State) (d : Nat) (c : Cmd) : State :=
  let same := c.commitRec.map (fun x => (x.1, x.2.1)) = some (c.status, c.deltaOf (s.dom d))
  let c := { c.settled with detail := c.detail, noPost := c.noPost || !same }
  let s := (s.setCmd d c.id fun _ => c).scrubJob d c.id
  let s := if same then s.writeOutput d c else s.mismatchReport c.region
  if c.digest.isNone then s
  else if (s.dom d).twin.holds && (s.dom d).twin.acked < c.seq && same then s.setCmd d c.id fun c => { c with phase := .held }
  else s.finishCmd d c

/-- A command passes its commit point: its commit record, its trail entries, its changes, the scrub of its job-scoped keys (R205), then its
output; a command outside the chain completes, and the others wait for their links. -/
def State.commit (s : State) (d : Nat) (check : EmberCheck) (c : Cmd) : State :=
  let abandoned := if check = .verified then [] else (c.effects.filter fun e => (s.checkFail c check e).isSome).filterMap s.pairWritten
  let c := s.judge d check c
  let delta := c.deltaOf (s.dom d)
  let c := { c with delta := delta, phase := .linking, commitRec := some (c.status, delta, c.output), preKeys := s.declaredKeys d c.entry }
  let before := s
  let s := s.setCmd d c.id fun _ => c
  let s := if c.entry.mgmt then (s.journal .commitRecord d c.seq (leBytes 2 c.status ++ delta)).ackJournal else s
  let s := (s.mgmtEntry d c).refusalEntry d c
  let s := abandoned.foldl (fun s x => s.abandonWrite x.1 check x.2) s
  let s := if (s.dom d).twin.establishing.isNone && c.effects.any (fun e => e.keyNamed.isSome) then s.keepForTwin d c else s
  let s := c.effects.foldl (fun s e => (s.journalEffect d c e).applyEffect d c e) s
  let s := s.scrubJob d c.id
  let c := c.stamped before s d
  let s := s.setCmd d c.id fun x => { c with posted := x.posted, noPost := x.noPost }
  let s :=
    if c.atBoundary then s
    else
      let s := (s.writeOutput d c).countOut d c
      if c.cls.chains then s else s.finishCmd d c
  if groupOf c.entry.opcode = 0x0B then (s.resumePlacement d).settle d else s.noteReady d

/-- COMMIT_POINT (R24, R75, R76); the operand says how the read-backs of an EMBER update come out (R124). In a gap the warden that computed a
management command is fenced: its write is dropped and counted (R352, R353). -/
def execCommitPoint (dom : Nat) (done : Committing) (s : State) : Answer :=
  match s.cmd dom done.id with
  | none => .next s
  | some c =>
    if s.working && (s.dom dom).mayCommit c && !s.createWaits c then
      if c.entry.mgmt && s.guy.holding then .next { s with guy := { s.guy with fenced := s.guy.fenced + 1 } }
      else .next (if c.redo then s.recommit dom c else s.commit dom done.check c)
    else .next s

/-- CHAIN_LINK (R21, R78). The links of commands that a STRIKE has aborted come after its reboot (R27). -/
def execChainLink (dom id : Nat) (s : State) : Answer :=
  match s.cmd dom id with
  | none => .next s
  | some c => if s.working && !(c.aborted && s.tamper.striking) && (s.dom dom).linkable c then .next (s.linkCmd dom c) else .next s

end Sys2Proof.Machine
end

