-- ==== Sys2Proof/Machine/Resets.lean ====
section
/-!
DEFINITION. Sys2Proof/Machine/Resets.lean: the warm reset, the function level reset, the host link's pins and the main supplies
(R440 to R443, R447 to R449, R453, R477, R478, R483).
-/

namespace Sys2Proof.Machine

/-- Number of the entry of a reset: kind, trigger, commands cancelled, entries discarded (R449; log entry 22). -/
def codeReset : Nat := 0x1210

def ResetKind.code : ResetKind → Nat
  | .cold => 0 | .warm => 1 | .device => 2 | .lifeCycle => 3 | .strike => 4

def State.resetEntry (s : State) (kind : ResetKind) (trigger cancelled discarded : Nat) : State :=
  s.trailAs codeReset (originOf 0 0) security 0
    (leBytes 1 kind.code ++ leBytes 1 trigger ++ leBytes 4 cancelled ++ leBytes 4 discarded) true 0

/-- Host-port state at its reset values (Table 19-3): the configuration space with its vectors, the SPDM and IDE sessions, and
writes not yet delivered. -/
def HostPort.reset (h : HostPort) : HostPort :=
  { sent := h.sent, perst := h.perst, linkUp := h.linkUp, unexpected := h.unexpected, attestDue := h.attestDue, chainKind := h.chainKind }

/-- Queues, order and dirty log of a domain at their defaults (R33, R38, R49, Table 19-3); a PITCH_RESET in progress ends. -/
def Dom.hostReset (D : Dom) : Dom :=
  { D with mode := if D.mode = .resetting then D.resetFrom else D.mode, queues := [], lastFetched := 15, seqNext := 0
           eventAck := 0, gapTimeout := 10000000, gapSince := none, waiting := [], dirty := {} }

/-- Every host command of a domain cancelled as by a PITCH_RESET, with no completion of any of them; BUSY follows the counts that remain
(R42, R442). -/
def State.cancelHost (s : State) (d : Nat) : State :=
  let s := s.setDom d fun D => { D.hostReset with cmds := (D.cmds.map fun c => if c.twinDigest.isSome then c else { (if c.redo then c.settled else c) with noPost := true }).filter
                                                    fun c => !(c.done && c.digest.isSome) }
  s.cancelDom d

/-- Block cores, invocation areas and region buffers cleared; the engines lose their jobs, and the contexts are scrubbed (R216, R279,
Table 19-3). -/
def State.clearBlocks (s : State) : State :=
  let s := s.dropJobs fun _ => true
  { s with cores := []
           regions := s.regions.map fun (p : Nat × Region) => (p.1, { p.2 with buffer := [], granules := [], cycleBase := 0, cycleSince := s.now }) }

/-- Commands that a reset cancels, and entries that it discards (R449). -/
def State.cancelCount (s : State) : Nat :=
  (s.doms.map fun p => (p.2.cmds.filter fun c => !c.done && c.twinDigest.isNone).length).sum

def State.discardCount (s : State) : Nat := (s.doms.map fun p => p.2.waiting.length).sum

/-- What a warm reset and a DEVICE_RESET do to the module (R442, Table 19-3). -/
def State.hostReset (s : State) (kind : ResetKind) (trigger : Nat) : State :=
  let cancelled := s.cancelCount
  let discarded := s.discardCount
  let s := (s.doms.map (·.1)).foldl State.cancelHost s
  let s := ((s.sets.map (·.1)).foldl State.dropSet s).clearBlocks.endDebug
  let s := { s with host := s.host.reset, guy := { s.guy with held := [] }, perf := Perf.cleared
                    trail := { s.trail with cursor := 0 } }
  s.resetEntry kind trigger cancelled discarded

/-- The reset reaches the module: a STRIKE in progress and a boot absorb it, but for PERST_N (trigger 0 of a warm reset), which resets the host
port in a boot (R441). -/
def State.hostResetNow (s : State) (kind : ResetKind) (trigger : Nat) : State :=
  if s.tamper.striking then s
  else if s.boot.state = .booting then (if kind = .warm && trigger = 0 then { s with host := s.host.reset } else s) else s.hostReset kind trigger

def WarmTrigger.code : WarmTrigger → Nat
  | .perst => 0 | .hotReset => 1 | .linkDown => 2 | .refclk => 3

/-- WARM_RESET (R440, R442, R453, R483). PERST_N keeps the link down until its release, and REFCLK until it is used again;
after a hot reset or a loss of link the link has trained again (log entry 28). -/
def execWarmReset (trigger : WarmTrigger) (s : State) : Answer :=
  if !s.running then .next (if trigger = .perst then { s with host := { s.host with perst := true } } else s)
  else
    let s := if trigger = .refclk then s.excursion 4 0 else s
    let s := s.hostResetNow .warm (WarmTrigger.code trigger)
    match trigger with
    | .perst => .next { s with host := { s.host with perst := true, linkUp := false } }
    | .refclk => .next { s with host := { s.host with linkUp := false }, supplies := { s.supplies with refclk := false } }
    | _ => .next s

/-- DEVICE_RESET (R442): a function level reset; the link stays trained. -/
def execDeviceReset (s : State) : Answer :=
  if s.running && s.host.linkUp then .next (s.hostResetNow .device 0) else .next s

/-! ### The host link's inputs (R445, R483) -/

/-- The link trains once PERST_N is released, REFCLK is used and the host port is ready. -/
def State.trainHost (s : State) : State :=
  if s.running && !s.host.perst && s.supplies.refclk && !(s.boot.state = .booting && s.boot.step < 3) then
    { s with host := { s.host with linkUp := true } }
  else s

/-- PERST_N_RELEASE (R445, R483). -/
def execPerstNRelease (s : State) : Answer :=
  .next ({ s with host := { s.host with perst := false } }).trainHost

/-- REFCLK_RESTORED (R483): in its window for 1 ms, the clock is used again. -/
def execRefclkRestored (s : State) : Answer :=
  if s.supplies.refclk then .next s
  else .next ({ s with supplies := { s.supplies with refclk := true } }).trainHost

/-! ### The main supplies (R477, R478) -/

/-- P12V_EXCURSION (R477): P12V reaches `millivolt` for `duration` ns, and is back in its window afterwards unless main power is
lost. -/
def execP12vExcursion (millivolt duration : Nat) (s : State) : Answer :=
  if 10800 ≤ millivolt && millivolt ≤ 13200 || !s.supplies.p12v then .next s
  else
    let main := s.running
    let lost := millivolt < 8000 || (millivolt < 10200 && duration > 1000000)
    let s := (if main then s.pass duration else s).excursion 1 millivolt
    if lost then .next ({ s with supplies := { s.supplies with p12v := false } }).losePower
    else if (millivolt < 10200 || millivolt > 13800) && main && s.tamper.emberMachine then .next ((s.alarm 2 0).alarmEnd 2 0)
    else .next s

/-- P3V3_AUX_LOSS (R478): P3V3_AUX leaves its window for `duration` ns; from 100 µs on it is absent. -/
def execP3v3AuxLoss (duration : Nat) (s : State) : Answer :=
  if !s.supplies.p3v3 then .next s
  else
    let s := (if s.running then s.pass duration else s).excursion 2 0
    if duration < 100000 then .next s
    else .next ({ s with supplies := { s.supplies with p3v3 := false } }).losePower

end Sys2Proof.Machine
end

