-- ==== Sys2Proof/Machine/Faults.lean ====
section
/-!
DEFINITION. Sys2Proof/Machine/Faults.lean: the quarantine of a block and the isolation of a region, with the commands they
put back to be executed again (R364, R365).
-/

namespace Sys2Proof.Machine

/-! ### Trail entries of unit faults (R412; the numbers are the model's, log entry 22) -/

def codeMismatch : Nat := 0x1300

def codeQuarantine : Nat := 0x1301

def codeRetired : Nat := 0x1302

def codeIsolated : Nat := 0x1303

def codeOverride : Nat := 0x1304

def codeReturned : Nat := 0x1305

def State.faultEntry (s : State) (code origin seq unit count : Nat) : State :=
  s.log code origin warning (leBytes 8 seq ++ leBytes 2 unit ++ leBytes 2 count)

/-- Times of a history that lie within the last second, with this instant. -/
def State.recent (s : State) (l : List Nat) : List Nat := (l.filter fun t => s.now < t + 1000000000) ++ [s.now]

/-! ### Commands executed again from their admitted inputs (R26, R75) -/

/-- A command back before its start; its random output and its reservation stand. -/
def Cmd.again (c : Cmd) (inside outside : Option Nat) : Cmd :=
  { c with phase := .ready, ran := false, redo := c.done, stage := 0, status := 0, detail := 0, output := [], resultLen := 0, effects := []
           rerunIn := inside, rerunOut := outside, rerunBlock := none, override := none, undeclared := false }

/-- A command that an isolation of its region sends back: one that has run there and has not committed (R75), or one past its commit
point whose completion write has not been issued, whose outputs the region's buffer held (R26, R76). A command that admission or its
conditions failed has run nowhere. -/
def Cmd.lostWith (c : Cmd) (r : Nat) : Bool :=
  !c.entry.mgmt && c.ran && c.region = r &&
    (c.phase = .running || c.phase = .computed || (c.phase.committed && !c.aborted && !c.posted && !c.noPost))

def State.rerun (s : State) (which : Cmd → Bool) (inside outside : Option Nat) : State :=
  { s with doms := s.doms.map fun (p : Nat × Dom) =>
      (p.1, { p.2 with cmds := p.2.cmds.map fun c => if which c then { c.again inside outside with readySince := some s.now } else c }) }

/-! ### What leaves with a block or a region -/

/-- The granules of a region buffer granted to a block prepared to colour 0, and their bytes to zero (R308). -/
def Region.clearBlock (R : Region) (b : Nat) : Region :=
  { R with granules := R.granules.filter fun (g : Nat × (Nat × Nat)) => g.2.2 != b
           buffer := R.buffer.filter fun (x : Host.Cell) => (Tab.get R.granules (0, 0) (x.1 / 16)).2 != b || Tab.get R.granules (0, 0) (x.1 / 16) == (0, 0) }

/-- A core as a core reset leaves it (R277, Table 11-11); CYCLE counts from here. -/
def State.resetCore (s : State) (k : Nat) : State :=
  s.setCore k fun _ => { cycle := 0 - BitVec.ofNat 64 (s.regionCycles (k / 12)) }

/-! ### Isolation (R365) -/

/-- Blocks of a region in service. -/
def State.blocksServing (s : State) (r : Nat) : Nat :=
  ((List.range 12).filter fun b => (s.block (12 * r + b)).state = .service).length

def State.noRegion (s : State) : Bool := (List.range 8).all fun r => (s.region r).service != .service

/-- The region reset: cache, pool, blinding DRBG, buffer, cores and counters; its sources stop. -/
def State.regionReset (s : State) (r : Nat) : State :=
  let s := s.dropJobs fun k => k / 12 = r
  let s := s.setRegion r fun R => { R with cache := [], buffer := [], granules := [], exiting := none, power := .active
                                           cycleBase := 0, cycleSince := s.now
                                           entropy := { R.entropy with pool := [], window := none, blinding := {}, blindSeed := none } }
  let s := (List.range 3).foldl (fun s i => if (s.source r i).state = .retired then s else s.setSource r i .off) s
  let s := { s with cores := s.cores.filter fun (p : Nat × Core) => p.1 / 12 != r
                    perf := { s.perf.clearRegion r with grants := [] } }
  s.endDebug

/-- A region is isolated: its jobs are executed again in other regions, the committed ones for their outputs (R26, R76), and with no region left in service the
module takes the LOCK response. -/
def State.isolateRegion (s : State) (r : Nat) : State :=
  if (s.region r).service != .service then s
  else
    let n := (s.region r).isolations + 1
    let s := s.rerun (fun c => c.lostWith r) none (some r)
    let s := (s.regionReset r).setRegion r fun R => { R with service := if n ≥ 3 then .retired else .quarantined, isolations := n, since := s.now }
    let s := (List.range 3).foldl (fun s i => s.endCapture r i) s
    let s := (s.faultEntry codeIsolated (originOf 3 r) 0 r n).regionEvent r 11
    if s.noRegion then s.lockCause lockRegions else s

/-- REGION_ISOLATE (R365): an uncorrectable error, a silent fabric channel or a failed self test on an exit. A boot absorbs it (R441). -/
def execRegionIsolate (region : Nat) (s : State) : Answer :=
  if s.running && s.boot.state != .booting then .next (s.isolateRegion region) else .next s

/-- REGION_SELF_TEST (R365): the 30 ms self test of an isolated region ends. A region with fewer than 3 blocks in service stays isolated. -/
def execRegionSelfTest (region : Nat) (pass : Bool) (s : State) : Answer :=
  if !s.running || (s.region region).service != .quarantined then .next s
  else if !pass || s.blocksServing region < 3 then .next (s.passTo ((s.region region).since + 30000000))
  else
    let s := s.passTo ((s.region region).since + 30000000)
    let s := s.setRegion region fun R => { R with service := .service, power := .active, cycleBase := 0, cycleSince := s.now }
    let s := (List.range 3).foldl (fun s i => if (s.source region i).state = .off then s.startSource region i else s) s
    .next ((s.faultEntry codeReturned (originOf 3 region) 0 region (s.region region).isolations).regionEvent region 12)

/-! ### Quarantine of a block (R364) -/

/-- Commands of a block executed again on another block (R75, R187, R364): the job that ran there, and with `all` those it has computed that have
not reached their commit point. -/
def State.rerunBlock (s : State) (k : Nat) (all : Bool) (inside outside : Option Nat) : State :=
  let mine := fun (c : Cmd) => !c.entry.mgmt && c.ran && (c.phase = .running || (all && c.phase = .computed)) && c.core = k
  { s with doms := s.doms.map fun (p : Nat × Dom) =>
      (p.1, { p.2 with cmds := p.2.cmds.map fun c => if mine c then { c.again inside outside with rerunBlock := some k } else c }) }

/-- A block (by its global number) is quarantined: its core halts, and every job it held that has not reached its commit point goes to another
block of a region, or to another region. -/
def State.quarantineBlock (s : State) (k : Nat) (inside outside : Option Nat) : State :=
  if (s.block k).state != .service then s
  else
    let r := k / 12
    let n := (s.block k).quarantines + 1
    let s := s.rerunBlock k true inside outside
    let s := (s.dropJobs fun x => x = k).setRegion r fun R => R.clearBlock k
    let s := s.setCore k fun K => { K with halted := true, jobs := [], invocations := [], span := none }
    let s := s.setBlock k fun x => { x with state := if n ≥ 4 then .retired else .quarantined, quarantines := n, since := s.now }
    let s := (s.faultEntry (if n ≥ 4 then codeRetired else codeQuarantine) (originOf 4 k) 0 k n).regionEvent r (if n ≥ 4 then 7 else 6)
    if s.blocksServing r < 3 then s.isolateRegion r else s

/-- A job of a management command. -/
def State.managed (s : State) (j : Job) : Bool :=
  match j.id.bind fun id => s.cmd j.dom id with | some c => c.entry.mgmt | none => false

/-- A job of a block ends ESCALATED (R187, R214, R366): two within a second quarantine the block. The command that held it is
executed again: after the cells on another block of the region, after an LIU or a hash engine in another region; a management command, which no block
holds, has its job issued in another region. -/
def State.escalate (s : State) (k : Nat) (kind : EngineKind) (j : Job) : State :=
  if s.managed j then s.setCmd j.dom (j.id.getD 0) fun c => c.again none (some (k / 12)) else
  let l := s.recent (s.block k).escalated
  let s := s.setBlock k fun x => { x with escalated := l }
  let inside := if kind = .cell then some (k / 12) else none
  let outside := if kind = .cell then none else some (k / 12)
  if l.length ≥ 2 then s.quarantineBlock k inside outside
  else
    let s := s.rerunBlock k false inside outside
    ((s.dropJobs fun x => x = k).setRegion (k / 12) fun R => R.clearBlock k).resetCore k

/-- A quarantined block after its self test: in service again or RETIRED, with its entry. -/
def State.blockTested (s : State) (block : Nat) (pass : Bool) : State :=
  let n := (s.block block).quarantines
  if pass then
    let s := (s.setBlock block fun x => { x with state := .service, escalated := [] }).resetCore block
    s.faultEntry codeReturned (originOf 4 block) 0 block n
  else
    let s := s.setBlock block fun x => { x with state := .retired }
    (s.faultEntry codeRetired (originOf 4 block) 0 block n).regionEvent (block / 12) 7

/-- BLOCK_SELF_TEST (R364): the 10 ms self test of a quarantined block ends, in a region in service or isolated. -/
def execBlockSelfTest (block : Nat) (pass : Bool) (s : State) : Answer :=
  if !s.running || (s.block block).state != .quarantined || (s.region (block / 12)).service = .retired then .next s
  else .next ((s.passTo ((s.block block).since + 10000000)).blockTested block pass)

end Sys2Proof.Machine
end

