-- ==== Sys2Proof/Machine/Transport.lean ====
section
/-!
DEFINITION. Sys2Proof/Machine/Transport.lean: the register pages, doorbells, and the timers of the queues (R30 to R42, R49,
R57, R417, R451, R456).
-/

namespace Sys2Proof.Machine

/-! ### What the registers read (R31 to R33, R349, R396, R385, R417) -/

/-- A bit of every queue for which a condition holds. -/
def Dom.queueBits (D : Dom) (f : Queue → Bool) : Nat :=
  (List.range 16).foldl (fun n q => n + 2 ^ q * b2n (f (D.queue q))) 0

/-- PITCH_STATUS (Table 2-3). -/
def State.pitchStatus (s : State) (p : Nat) : Nat :=
  let D := s.dom p
  D.mode.code + 2 ^ 24 * p + 2 ^ 32 * D.queueBits (fun q => q.state != .absent) + 2 ^ 48 * D.queueBits fun q => q.state = .error

/-- The doorbell register of a queue (Table 2-5): bits 47 to 32 hold CQ_TAIL on a pitch page and CQ_HEAD on the operator
page. -/
def State.sqTailReg (s : State) (d q : Nat) : Nat :=
  let Q := (s.dom d).queue q
  Q.sqTail + 2 ^ 16 * Q.sqHead + 2 ^ 32 * (if d < 256 then Q.cqTail else Q.cqHead) + 2 ^ 49 * b2n (s.queueBusy d q) +
    2 ^ 51 * b2n Q.admin + 2 ^ 52 * Q.errorCause + 2 ^ 56 * Q.sizeLog2 + 2 ^ 61 * Q.state.code

/-- CQ_HEAD (Table 2-6). -/
def State.cqHeadReg (s : State) (d q : Nat) : Nat :=
  let Q := (s.dom d).queue q
  Q.cqHead + 2 ^ 16 * Q.cqTail + 2 ^ 32 * b2n Q.phase

def DeviceState.code : DeviceState → Nat
  | .booting => 0 | .ready => 1 | .locked => 2 | .halted => 3 | .recovery => 4

/-- DEVICE_STATUS (Table 2-8). -/
def State.deviceStatus (s : State) : Nat :=
  s.boot.state.code + 2 ^ 33 * b2n s.boot.randomReady + 2 ^ 34 * s.trail.state +
    2 ^ 48 * (s.dom operator).queueBits fun q => q.state = .error

/-- The active warden has no MIRRORED standby (Table 14-2). -/
def State.unprotected (s : State) : Bool :=
  (s.warden s.activeWarden).state = .active && (s.warden (1 - s.activeWarden)).state != .mirrored

/-- WARDEN_STATUS (Table 14-2). -/
def State.wardenStatus (s : State) : Nat :=
  let g := s.guy
  s.activeWarden + 2 ^ 4 * (s.warden 0).state.code + 2 ^ 8 * (s.warden 1).state.code + 2 ^ 16 * b2n s.unprotected +
    2 ^ 17 * b2n g.pathWire + 2 ^ 18 * b2n g.pathFabric + 2 ^ 19 * b2n g.saturated + 2 ^ 20 * b2n g.takebackOff +
    2 ^ 32 * g.lastCause + 2 ^ 40 * g.awayFromA + 2 ^ 48 * g.failovers

/-- Eight bytes of a table entry of the MSI-X BAR, or of the pending-bit array (R451). -/
def State.msixReg (s : State) (o : Nat) : Nat :=
  if o < 0x8000 then
    let v := s.host.vector (o / 16)
    if o % 16 < 8 then v.addr else v.data + 2 ^ 32 * b2n v.masked
  else if o < 0x8100 then
    (List.range 64).foldl (fun n i => n + 2 ^ i * b2n (s.host.vector (8 * (o - 0x8000) + i)).pending) 0
  else 0

/-- The 64-bit register at a naturally aligned offset of a page; an undefined offset reads as zero (R12). -/
def State.register (s : State) (page : Page) (o : Nat) : Nat :=
  match page with
  | .pitch p =>
    if o = 0 then s.pitchStatus p
    else if o = 8 then (s.dom p).seqNext
    else if 0x100 ≤ o && o < 0x180 then s.sqTailReg p ((o - 0x100) / 8)
    else if 0x200 ≤ o && o < 0x280 then s.cqHeadReg p ((o - 0x200) / 8)
    else if o = 0x400 then (s.dom p).eventAck
    else 0
  | .operator =>
    if o = 0 then s.deviceStatus
    else if o = 8 then s.wardenStatus
    else if o = 0x10 then s.life.bits
    else if o = 0x18 then s.clock.tai
    else if o = 0x20 then s.clock.status
    else if o = 0x28 then (s.dom operator).seqNext
    else if 0x100 ≤ o && o < 0x180 then s.sqTailReg operator ((o - 0x100) / 8)
    else if o = 0x1000 then s.trail.cursor
    else if o = 0x1008 then s.trail.oldest
    else if o = 0x1010 then s.trail.newest
    else if 0x1040 ≤ o && o < 0x1080 then leNat (slice s.trail.window (o - 0x1040) 8)
    else if o = 0x2000 then s.perf.select
    else if o = 0x2008 then s.perfRead (selKind s.perf.select) (selUnit s.perf.select) (selIndex s.perf.select)
    else if o = 0x2010 then s.perf.configSelect
    else if o = 0x2018 then s.perfConfRead (selKind s.perf.configSelect) (selUnit s.perf.configSelect) (selIndex s.perf.configSelect)
    else if o = 0x3000 then s.tamper.sticky
    else if o = 0x3008 then s.tamperLive
    else 0
  | .msix => s.msixReg o

/-! ### Doorbells (R34, R37, R39, R41, R445) -/

/-- The page a domain's registers stand on, as trail entries name it. -/
def pageOrigin (d : Nat) : Nat := domOrigin d

/-- A tail moves (R39): a value that is not below the ring size is ignored. -/
def State.moveTail (s : State) (d q offset value t : Nat) : State :=
  let Q := (s.dom d).queue q
  if t < 2 ^ Q.sizeLog2 then (s.setDom d fun D => D.setQueue q fun Q => { Q with sqTail := t }).gapTimer d false
  else s.ignore (pageOrigin d) offset value

/-- A completion head moves (R34, R41): a value outside the span from the current head to the current tail is ignored. -/
def State.moveHead (s : State) (d q offset value h : Nat) : State :=
  let Q := (s.dom d).queue q
  let n := 2 ^ Q.sizeLog2
  if h < n && (h + n - Q.cqHead) % n ≤ Q.unconsumed then s.setDom d fun D => D.setQueue q fun Q => { Q with cqHead := h }
  else s.ignore (pageOrigin d) offset value

/-- Whether an access covers a 16-bit field at a byte offset of its register. -/
def covers (offset size field : Nat) : Bool := offset ≤ field && field + 2 ≤ offset + size

/-- A boot word (R37): queue 0 comes up, or the word is ignored. A message that an ERROR queue 0 still owed is dropped (DESIGN CHOICE,
log entry 62). -/
def State.bootQueue (s : State) (d value : Nat) : State :=
  let lg := value % 32
  if value / 32 % 128 = 0 && 4 ≤ lg && lg ≤ 16 then
    let base := value / 4096 * 4096
    let Q : Queue := { state := .active, admin := true, sizeLog2 := lg, sqAddr := base, cqAddr := base + roundUp (64 * 2 ^ lg) 4096
                       vector := if d < 256 then (s.dom d).conf.vectorBase else 0 }
    (s.setDom d fun D => D.setQueue 0 fun _ => Q).gapTimer d false
  else s.ignore (pageOrigin d) 0x100 value

/-- A queue 0 that takes a boot word: ABSENT, or in ERROR with no unfinished command (R37). -/
def Dom.bootable (D : Dom) : Bool :=
  (D.queue 0).state = .absent || ((D.queue 0).state = .error && D.inFlight 0 = 0)

/-- A write to a doorbell of a present domain. -/
def State.doorbell (s : State) (d q offset size value : Nat) : State :=
  let at_ := 0x100 + 8 * q + offset
  if q = 0 && offset = 0 && size = 8 && (s.dom d).bootable then s.bootQueue d value
  else if ((s.dom d).queue q).state = .absent then s.ignore (pageOrigin d) at_ value
  else
    let s := if covers offset size 0 then s.moveTail d q at_ value (value % 65536) else s
    if d ≥ 256 && covers offset size 4 then s.moveHead d q at_ value (value / 256 ^ (4 - offset) % 65536) else s

/-- A write to a page of a domain, at an offset from a register's base. -/
def State.pageWrite (s : State) (d base offset size value : Nat) (f : State → State) : Answer :=
  if d < 256 then s.pitchWrite d base offset size value f else s.opWrite base offset size value f

/-- A doorbell write or boot word before step 12 of the boot is ignored and counted (R445), and one of a RESETTING pitch is
ignored (R107). -/
def State.bell (s : State) (d base offset size value : Nat) (f : State → State) : Answer :=
  if s.barOpen && s.boot.state = .booting then .next { s with trail := { s.trail with bootIgnored := s.trail.bootIgnored + 1 } }
  else s.pageWrite d base offset size value fun s =>
    if d < 256 && (s.dom d).mode = .resetting then s.ignore (pageOrigin d) (base + offset) value else f s

/-- SQ_TAIL (R34, R39), and OP_DOORBELL. -/
def execSqTail (dom queue offset size value : Nat) (s : State) : Answer :=
  s.bell dom (0x100 + 8 * queue) offset size value fun s => s.doorbell dom queue offset size value

/-- BOOT_WORD (R37): an 8-byte write to the doorbell of queue 0. -/
def execBootWord (dom value : Nat) (s : State) : Answer :=
  s.bell dom 0x100 0 8 value fun s => s.doorbell dom 0 0 8 value

/-- A write of CQ_HEAD on a pitch page. -/
def State.headWrite (s : State) (d q offset size value : Nat) : State :=
  if ((s.dom d).queue q).state = .absent then s.ignore (pageOrigin d) (0x200 + 8 * q + offset) value
  else if covers offset size 0 then s.moveHead d q (0x200 + 8 * q + offset) value (value % 65536) else s

/-- CQ_HEAD (R34, R41); the operator page has it in its doorbells. -/
def execCqHead (dom queue offset size value : Nat) (s : State) : Answer :=
  if dom < 256 then s.bell dom (0x200 + 8 * queue) offset size value fun s => s.headWrite dom queue offset size value
  else s.bell dom (0x100 + 8 * queue) (4 + offset) size value fun s => s.doorbell dom queue (4 + offset) size value

/-! ### SEQ_NEXT, EVENT_ACK, TRAIL_CURSOR and the other offsets -/

/-- A write of SEQ_NEXT (Table 2-4): it takes effect only on an idle domain. -/
def State.writeSeqNext (s : State) (d base offset size value : Nat) : State :=
  let D := s.dom d
  if D.unfinished = 0 && D.drained then s.setDom d fun D => { D with seqNext := setBytes D.seqNext offset size value }
  else s.ignore (pageOrigin d) (base + offset) value

/-- SEQ_NEXT (R33): PITCH_SEQ_NEXT and OP_SEQ_NEXT. -/
def execSeqNext (dom offset size value : Nat) (s : State) : Answer :=
  let base := if dom < 256 then 8 else 0x28
  s.pageWrite dom base offset size value fun s => s.writeSeqNext dom base offset size value

/-- EVENT_ACK (Table 2-7): the bits written as 1 are cleared. -/
def State.ackEvents (s : State) (d offset size value : Nat) : State :=
  s.setDom d fun D => { D with eventAck := D.eventAck &&& (255 - setBytes 0 offset size value % 256) }

def execEventAck (dom offset size value : Nat) (s : State) : Answer :=
  if dom < 256 then s.pitchWrite dom 0x400 offset size value fun s => s.ackEvents dom offset size value else .next s

/-- TRAIL_CURSOR (R417). -/
def State.moveCursor (s : State) (offset size value : Nat) : State :=
  { s with trail := { s.trail with cursor := setBytes s.trail.cursor offset size value } }

def execTrailCursor (offset size value : Nat) (s : State) : Answer :=
  s.opWrite 0x1000 offset size value fun s => s.moveCursor offset size value

/-- A vector's message that waited for its mask (R456). -/
def State.sendPending (s : State) (v : Nat) : State :=
  let e := s.host.vector v
  if e.pending && !e.masked && !s.host.functionMask && s.host.msixEnable then
    (s.setVector v fun e => { e with pending := false }).message v
  else s

/-- A write to the MSI-X table: address, data and mask of a vector; the pending bits are read only (R451, R456). -/
def State.msixWrite (s : State) (o size value : Nat) : State :=
  if o < 0x8000 then
    let v := o / 16
    let k := o % 16
    let old := s.host.vector v
    let x := setBytes (old.addr + 2 ^ 64 * old.data + 2 ^ 96 * b2n old.masked) k size value
    (s.setVector v fun e => { e with addr := x % 2 ^ 64, data := x / 2 ^ 64 % 2 ^ 32, masked := bit x 96 }).sendPending v
  else s

/-- The register that a write to a page reaches; read-only registers and undefined offsets ignore it without side effect
(R10, R12). -/
def State.writeRegister (s : State) (page : Page) (o size value : Nat) : Answer :=
  let base := o / 8 * 8
  let k := o % 8
  match page with
  | .pitch p =>
    if base = 8 then execSeqNext p k size value s
    else if 0x100 ≤ base && base < 0x180 then execSqTail p ((base - 0x100) / 8) k size value s
    else if 0x200 ≤ base && base < 0x280 then execCqHead p ((base - 0x200) / 8) k size value s
    else if base = 0x400 then execEventAck p k size value s
    else s.pitchWrite p base k size value id
  | .operator =>
    if base = 0x28 then execSeqNext operator k size value s
    else if 0x100 ≤ base && base < 0x180 then execSqTail operator ((base - 0x100) / 8) k size value s
    else if base = 0x1000 then execTrailCursor k size value s
    else if base = 0x2000 then execPerfSelect k size value s
    else if base = 0x2008 then execPerfValueWrite k size value s
    else if base = 0x2010 then execPerfConfigSelect k size value s
    else if base = 0x2018 then execPerfConfig k size value s
    else s.opWrite base k size value id
  | .msix => s.opWrite base k size value fun s => s.msixWrite o size value

/-- REGISTER_WRITE (R30). -/
def execRegisterWrite (page : Page) (offset size value : Nat) (s : State) : Answer := s.writeRegister page offset size value

/-- MSIX_UNMASK (R456): the host clears a vector's Mask bit. -/
def execMsixUnmask (vector : Nat) (s : State) : Answer :=
  if s.barOpen then .next ((s.wakeModule.setVector vector fun e => { e with masked := false }).sendPending vector) else .next s

/-! ### Timers of the queues (R49, R57) -/

/-- SEQ_GAP_EXPIRY (R49): every waiting entry completes with E_SEQ_GAP. -/
def execSeqGapExpiry (dom : Nat) (s : State) : Answer :=
  let D := s.dom dom
  match D.gapSince with
  | none => .next s
  | some t =>
    if D.waiting = [] || (D.waits D.seqNext).isSome then .next s
    else
      let s := s.passTo (t + D.gapTimeout)
      let s := s.setDom dom fun D => { D with waiting := [], gapSince := none }
      let s := D.waiting.foldl (fun s w => s.refuse dom w.queue w.entry (eSeqGap, 0)) s
      .next ((s.busyTimer dom).pitchEvent dom evSeqGap)

/-- AGG_TIME_EXPIRY (R57): the message of the completions that wait; one owed under an earlier routing comes first (R62). -/
def execAggTimeExpiry (dom queue : Nat) (s : State) : Answer :=
  let Q := (s.dom dom).queue queue
  match Q.owed, Q.aggSince with
  | (v, t) :: l, _ => .next (((s.passTo t).setDom dom fun D => D.setQueue queue fun Q => { Q with owed := l }).message v)
  | [], none => .next s
  | [], some t =>
    if Q.aggTime = 0 || Q.aggWaiting = 0 then .next s
    else
      let s := s.passTo (t + Q.aggTime * 1000)
      .next ((s.setDom dom fun D => D.setQueue queue fun Q => { Q with aggWaiting := 0, aggSince := none }).message Q.vector)

/-- The code of an unexpected completion's entry (log entry 22). -/
def codeUnexpected : Nat := 0x1705

/-- UNEXPECTED_COMPLETION (R454): ignored, counted, logged and reported through AER. -/
def execUnexpectedCompletion (tag : Nat) (s : State) : Answer :=
  if s.boot.powered && s.host.linkUp then
    let s := { s with host := { s.host with unexpected := s.host.unexpected + 1, aer := s.host.aer ||| 1 } }
    .next (s.log codeUnexpected (originOf 0 0) errorSeverity (leBytes 8 tag))
  else .next s

end Sys2Proof.Machine
end

