-- ==== Sys2Proof/Machine/Fetch.lean ====
section
/-!
DEFINITION. Sys2Proof/Machine/Fetch.lean: the fetch of entries, the admission checks before placement, and the reads of the
structures that a command names (R39 to R53, R87, R454).
-/

namespace Sys2Proof.Machine

/-! ### Which queue is fetched next (R40, R42, R50, R62, R95) -/

/-- A placed QUEUE_DELETE or QUEUE_RECOVER stops the fetch of the queue it names (R62). -/
def Dom.fetchStopped (D : Dom) (q : Nat) : Bool :=
  D.cmds.any fun c => [0x0102, 0x0105].contains c.entry.opcode && c.assigned && !c.done && c.param.length > 0 &&
    byteAt c.param 0 = q && !(c.phase = .computed && c.status != sOk)

/-- A PITCH_DESTROY in progress stops a pitch's admission (R95). -/
def State.beingDestroyed (s : State) (p : Nat) : Bool :=
  (s.dom operator).cmds.any fun c => c.entry.opcode = 0x0202 && c.stage ≥ 1 && !c.done && byteAt c.param 0 = p

/-- Room for one more completion in a queue (R40). -/
def Dom.roomFor (D : Dom) (q : Nat) : Bool := D.inFlight q + (D.queue q).unconsumed < 2 ^ (D.queue q).sizeLog2 - 1

/-- A queue from which the module may fetch: its head entry, or one that it fetches again (R357). -/
def State.fetchable (s : State) (d q : Nat) : Bool :=
  let D := s.dom d
  (D.queue q).state = .active && !s.queueBusy d q && !D.fetchStopped q &&
    ((D.refetch q).isSome || ((D.queue q).sqHead != (D.queue q).sqTail && D.roomFor q))

/-- The next queue in round-robin order (R40). -/
def State.nextQueue (s : State) (d : Nat) : Option Nat :=
  ((List.range 16).map fun i => ((s.dom d).lastFetched + 1 + i) % 16).find? fun q => s.fetchable d q

/-- The admission depth is reached (R50); the operator domain has none. -/
def State.deep (s : State) (d : Nat) : Bool := d < 256 && (s.dom d).conf.admitDepth ≤ (s.dom d).unfinished

/-- No held command can run because SEQ_NEXT is missing (R50). -/
def Dom.stuck (D : Dom) : Bool :=
  D.waiting != [] && (D.waits D.seqNext).isNone && D.cmds.all fun c => c.posted || c.noPost

/-- The queue from which the next entry comes: in turn below the depth, and in queue-number order beyond it. Beyond it the module
fetches whenever SEQ_NEXT is missing, so it begins again where SEQ_NEXT is missing anew before occupancy has fallen below the depth; the
last sentence of R50 can be read against that, and a domain would then stand still.
DESIGN CHOICE (log entry 61). -/
def State.fetchFrom (s : State) (d : Nat) : Option Nat :=
  if !s.deep d then s.nextQueue d
  else if (s.dom d).stuck || (s.dom d).waiting.any Waiting.again then (List.range 16).find? fun q => s.fetchable d q && ((s.dom d).stuck || ((s.dom d).refetch q).isSome)
  else none

/-- Whether a domain's admission fetches at all; it stops at a staged instant in a gap (R358). -/
def State.admits (s : State) (d : Nat) : Bool :=
  s.working && !s.host.blocks d && !(s.dom d).paused && s.guy.due.isNone && !(d < 256 && s.beingDestroyed d) &&
    (d = operator || (s.dom d).mode = .active || (s.dom d).mode = .locked)

/-- A queue enters ERROR (R52, Table 2-5). -/
def State.queueError (s : State) (d q cause : Nat) : State :=
  (s.setDom d fun D => D.setQueue q fun Q => { Q with state := .error, errorCause := cause }).pitchEvent d evQueueError

/-- Both rings of a queue lie inside one permitted window each (R51). -/
def State.ringsIn (s : State) (d q : Nat) : Bool :=
  let Q := (s.dom d).queue q
  inWindows (s.windowsOf d) Q.sqAddr (64 * 2 ^ Q.sizeLog2) && inWindows (s.windowsOf d) Q.cqAddr (32 * 2 ^ Q.sizeLog2)

/-! ### Checks 1 to 4 (Table 2-11) -/

/-- Checks 1 to 3. -/
def State.check123 (s : State) (d q : Nat) (raw : Bytes) : Option Fail :=
  let e := parseEntry raw
  firstFail [
    need (e.queueNo = q) eQueueMismatch q,
    need (s.opcodeDefined d e.opcode) eOpcodeUndefined 0,
    need (e.mgmt = ((s.dom d).queue q).admin) eQueueKind 0,
    (entryReserved raw).map fun o => (eReserved, o)]

/-- Check 4 on a twin (R81, R87): a secondary takes SEQ_AUTO entries of class STATELESS or LOCAL, and none but LOCAL while
JOINING or DIVERGED. -/
def State.twinCheck (s : State) (d : Nat) (e : Entry) : Option Fail :=
  let t := (s.dom d).twin
  let draws := match (s.dom d).binding e.opcode with | some (g, _) => if isCustom e.opcode then g.drawCalls else 0 | none => 0
  let cls := classOf e draws
  if t.role != .secondary then none
  else
    firstFail [
      need e.seqAuto eTwinSeq 0,
      need (!(t.mode = .joining || t.mode = .diverged) || cls = .localOnly) eTwinState 0,
      need (!cls.chains) eTwinSecondary 0]

/-- Check 4 (R46). -/
def Dom.seqCheck (D : Dom) (e : Entry) : Option Fail :=
  if e.seqAuto then none
  else
    firstFail [
      need (D.seqNext ≤ e.seq) eSeqStale 0,
      need (D.waits e.seq).isNone eSeqDuplicate 0,
      need (e.seq < D.seqNext + 1048576 && e.seq != 0xFFFFFFFFFFFFFFFF) eSeqWindow 0]

/-- An entry that passes checks 1 to 4: placed, or made to wait (R46, R47). -/
def State.takeEntry (s : State) (d q slot : Nat) (raw : Bytes) : State :=
  let e := parseEntry raw
  if e.seqAuto || e.seq = (s.dom d).seqNext then s.place d q raw
  else
    let w : Waiting := { queue := q, raw := raw, entry := e, slot := slot }
    (s.setDom d fun D => { D with waiting := D.waiting ++ [w] }).gapTimer d false

/-- A fetched entry: checks 1 to 4, then its place. -/
def State.admitEntry (s : State) (d q slot : Nat) (raw : Bytes) : State :=
  let e := parseEntry raw
  match firstFail [s.check123 d q raw, s.twinCheck d e, (s.dom d).seqCheck e] with
  | some f => (s.refuse d q e f).gapTimer d false
  | none => (s.takeEntry d q slot raw).busyTimer d

/-- The ring slot that a queue's next fetch reads: that of an entry to be fetched again, else its head. -/
def Dom.nextSlot (D : Dom) (q : Nat) : Nat := match D.refetch q with | some w => w.slot | none => (D.queue q).sqHead

/-- The domain once an entry has been fetched: the head moves on, but for an entry fetched again. -/
def Dom.fetched (D : Dom) (q : Nat) : Dom :=
  match D.refetch q with
  | some w => { D with lastFetched := q, waiting := D.waiting.filter fun x => !(x.queue = q && x.again && x.slot = w.slot) }
  | none => ({ D with lastFetched := q } : Dom).setQueue q fun Q => { Q with sqHead := (Q.sqHead + 1) % 2 ^ Q.sizeLog2 }

/-- ENTRY_FETCHED (R40, R45, R51): the entry at the head of the queue whose turn it is, read under the PASID then configured; a ring outside the permitted windows puts
its queue into ERROR. -/
def execEntryFetched (dom queue : Nat) (bytes : Bytes) (s : State) : Answer :=
  if s.admits dom && s.fetchFrom dom = some queue then
    if !s.ringsIn dom queue then .next (s.queueError dom queue 5)
    else
      let slot := (s.dom dom).nextSlot queue
      let s := s.putRaw (.read dom (s.pasidOf dom) (((s.dom dom).queue queue).sqAddr + 64 * slot) 64)
      .next ((s.setDom dom fun D => D.fetched queue).admitEntry dom queue slot (slice bytes 0 64))
  else .next s

/-! ### Reads of structures and input (R45 check 8, R52, R53) -/

def Entry.partLen (e : Entry) : DmaPart → Nat
  | .param => e.paramLen
  | .inList => 16 * listCount e.inWord
  | .outList => 16 * listCount e.outLen
  | .approvals => e.approvalLen
  | .input => 0

/-- A structure that a command still has to read: its input is read once the others have passed and its calls are
assigned. -/
def Cmd.reads (c : Cmd) (p : DmaPart) : Bool :=
  c.phase = .reading && c.toRead.contains p && (p != .input || (c.admitted && c.assigned))

def Cmd.taken (c : Cmd) (p : DmaPart) (b : Bytes) : Cmd :=
  let c := { c with toRead := c.toRead.filter fun x => x != p }
  match p with
  | .param => { c with param := b }
  | .inList => { c with inList := b }
  | .outList => { c with outList := b }
  | .approvals => { c with approvals := b }
  | .input => { c with input := b, phase := if c.toRead = [] then .ready else c.phase }

/-- The host memory that a read of a structure or of the input covers. -/
def Cmd.ranges (c : Cmd) (p : DmaPart) : List (Nat × Nat) :=
  match p with
  | .param => [(c.entry.paramAddr, c.entry.paramLen)]
  | .inList => [(c.entry.inAddr, c.entry.partLen .inList)]
  | .outList => [(c.entry.outAddr, c.entry.partLen .outList)]
  | .approvals => [(c.entry.addr56, c.entry.partLen .approvals)]
  | .input => c.inBuffers

/-- The DMA reads of a command, under the PASID of its placement (R51, R106). -/
def State.readOut (s : State) (d : Nat) (c : Cmd) (p : DmaPart) : State :=
  (c.ranges p).foldl (fun s x => s.putRaw (.read d c.cond.pasid x.1 x.2)) s

/-- DMA_READ_DONE (R45, R52): a structure or the input of a placed command arrives. -/
def execDmaReadDone (dom id : Nat) (part : DmaPart) (bytes : Bytes) (s : State) : Answer :=
  match s.cmd dom id with
  | none => .next s
  | some c =>
    let n := if part = .input then c.inLen else c.entry.partLen part
    if c.reads part && !s.host.blocks dom && bytes.length = n then
      let s := s.readOut dom c part
      let s := if c.entry.mgmt then s.journal .inputs dom c.seq bytes else s
      .next ((s.setCmd dom id fun c => s.reclass dom (c.taken part bytes)).settle dom)
    else .next s

def readCause : DmaError → Nat
  | .timeout => 1 | .unsupported => 2 | .abort => 3 | .poisoned => 4

def readPart : DmaPart → Nat
  | .param => 1 | .inList => 2 | .outList => 2 | .approvals => 3 | .input => 4

/-- A read that fails, where the module has such a read to make (R52). -/
def State.readFailed (s : State) (what : ReadOf) (cause : DmaError) (index : Nat) : Option State :=
  match what with
  | .entry d q =>
    if s.admits d && s.fetchFrom d = some q then
      some ((s.putRaw (.read d (s.pasidOf d) (((s.dom d).queue q).sqAddr + 64 * (s.dom d).nextSlot q) 64)).queueError d q (readCause cause))
    else none
  | .part d id p =>
    match s.cmd d id with
    | none => none
    | some c =>
      if c.reads p && !s.host.blocks d then
        let detail := 4096 * readPart p + 256 * readCause cause + (if p = .input && isList c.entry.inWord then index % 256 else 0)
        some (((s.readOut d c p).setCmd d id fun c => c.failWith (eDmaRead, detail)).settle d)
      else none

/-- DMA_READ_FAIL (R52). -/
def execDmaReadFail (what : ReadOf) (cause : DmaError) (index : Nat) (s : State) : Answer :=
  .next ((s.readFailed what cause index).getD s)

/-- COMPLETION_TIMEOUT (R454): a read fails, at a list entry's index where a list names its buffers (R60), a bitmap's logging fails (R462), a DOE exchange ends; AER reports it. -/
def execCompletionTimeout (request : Request) (s : State) : Answer :=
  let aer := fun (s : State) => { s with host := { s.host with aer := s.host.aer ||| 4 } }
  match request with
  | .read what index => match s.readFailed what .timeout index with | some t => .next (aer t) | none => .next s
  | .atomic d w => if (Tab.find (s.dom d).dirty.sent w).isSome then .next (aer (s.dirtyFail d)) else .next s
  | .doe => if s.host.spdm.busy then .next (aer { s with host := { s.host with spdm := { s.host.spdm with busy := false, exchange := [] } } }) else .next s

end Sys2Proof.Machine
end

