-- ==== Sys2Proof/Machine/Symmetric.lean ====
section
/-!
DEFINITION. Sys2Proof/Machine/Symmetric.lean: group 0x10, the raw block, counter-feed, XTS, CBC and GCM commands
(R180 to R185, R194 to R199).
-/

namespace Sys2Proof.Machine

/-- The keyed cipher of a key's algorithm (Table 5-5). -/
def cipherOf (alg : Nat) (key : Bytes) : Block1 := if alg = 4 || alg = 5 then tdea key else aes key

def symKey (s : State) (d : Nat) (c : Cmd) (usage : Nat) (algs : List Nat) : Except Fail KeyUse :=
  s.useKey d c (keyRefAt c.param 0) 64 [usage] (serveAlg algs)

def aesTdea : List Nat := [1, 2, 3, 4, 5]

/-- Which of the fields of Table 7-8 an opcode uses; each other one must be zero (R195). -/
structure SymUse where
  width : Bool := false
  source : Bool := false
  tag : Bool := false
  sector : Bool := false
  unit_ : Bool := false
  aad : Bool := false
  start : Bool := false
  iv : Bool := false
  ctrStart : Bool := false

/-- The fields of the block that must be zero, with those in use judged by their ranges (R195, R196 check 1). -/
def symFields (p : Bytes) (u : SymUse) (size : Nat) (ranges : List (Nat × Bool)) : Option Fail :=
  let unused := fun (use : Bool) (o n : Nat) => if use then (o, true) else zeroAt p o n
  let of := fun (o : Nat) (x : Nat × Bool) => (o, x.2 && (ranges.all fun r => r.1 != o || r.2))
  fields eSymParam [
    of 16 (unused u.width 16 1), of 17 (unused u.source 17 1), of 18 (unused u.tag 18 1), of 19 (unused u.sector 19 1),
    of 20 (unused u.unit_ 20 4), of 24 (unused u.aad 24 4), of 28 (unused u.start 28 4),
    of 32 (if u.iv then (32, size != 8 || allZero (slice p 40 8)) else zeroAt p 32 16),
    of 48 (unused u.ctrStart 48 4)]

/-- R196 check 3 for a command that takes no reservation. -/
def noReserve (c : Cmd) : Option Fail := need (c.entry.reserveCount = 0) eReserveForm 3

/-- A positive multiple of the block size. -/
def wholeBlocks (n size : Nat) : Option Fail := need (0 < n && n % size = 0) eDataLength 0

/-- A cell call of the command's key: its OP, the bytes, CTR_WIDTH and the counter block (Tables 7-3, 7-4). -/
def symCall (op alg bytes width : Nat) (block : Bytes) : Call :=
  { func := op, alg := alg, bytes := bytes, control := width * 2 ^ 20, iv := beNat block, key := .ref 0 }

/-- The cell calls of a GCM command: H from a zero block, E(J0), and the payload from J0 + 1 (Chaining modes in software). -/
def gcmCalls (alg : Nat) (iv : Bytes) (n : Nat) : List Call :=
  [symCall 3 alg 16 3 (zeros 16), symCall 3 alg 16 3 (iv ++ [0, 0, 0, 1])] ++ (if n = 0 then [] else [symCall 3 alg n 1 (iv ++ [0, 0, 0, 2])])

/-- ECB and CBC: no field but the IV of CBC. CBC decryption is one job over independent blocks, CBC encryption a chain of one-block jobs. -/
def symBlocks (s : State) (d : Nat) (c : Cmd) (usage : Nat) (iv : Bool) (f : Block1 → Bytes → Bytes → Bytes) : Work :=
  match symKey s d c usage aesTdea with
  | .error e => .error e
  | .ok k =>
    let b := cipherOf k.attr.alg k.value
    checked [symFields c.param { iv := iv } b.size [], wholeBlocks c.input.length b.size, noReserve c]
      (.ok { out := f b (slice c.param 32 b.size) c.input
             calls := [{ symCall usage k.attr.alg c.input.length 0 [] with chain := iv && usage = 1 }] })

/-- The counter width of a code, in bytes. -/
def ctrBytes (w : Nat) : Nat := if w = 1 then 4 else if w = 2 then 8 else 16

/-- Counter feed with a counter block in IV (R180, R181). -/
def symCounter (s : State) (d : Nat) (c : Cmd) (usage : Nat) : Work :=
  match symKey s d c usage aesTdea with
  | .error e => .error e
  | .ok k =>
    let b := cipherOf k.attr.alg k.value
    let w := byteAt c.param 16
    let first := slice c.param 32 b.size
    let n := ceilDiv c.input.length b.size
    let at0 := beNat (first.drop (b.size - ctrBytes w))
    checked [
      symFields c.param { width := true, iv := true } b.size [(16, 1 ≤ w && w ≤ 3 && (b.size = 16 || w ≤ 2))],
      need (1 ≤ c.input.length) eDataLength 0, noReserve c,
      need (at0 + n ≤ 256 ^ ctrBytes w) eCounterWrap 0]
      (.ok { out := ctrMode b (ctrBytes w) first c.input, calls := [symCall 3 k.attr.alg c.input.length w first] })

/-- The segments of an input under CTR_SOURCE 1 (R196, R197). -/
def segments (m : Bytes) (n : Nat) : List Bytes := if n = 0 then [m] else chunks n m

/-- Counter feed from reserved values (R196, R197). -/
def symReserved (s : State) (d : Nat) (c : Cmd) : Work :=
  match symKey s d c 1 aesTdea with
  | .error e => .error e
  | .ok k =>
    let b := cipherOf k.attr.alg k.value
    let n := field c.param 20 4
    let first := field c.param 48 4
    let segs := segments c.input n
    let v := c.reserveStart.getD 0
    checked [
      symFields c.param { width := true, source := true, unit_ := true, ctrStart := true } 16
        [(16, byteAt c.param 16 = 1), (20, n = 0 || (n % 16 = 0 && 16 ≤ n && n ≤ 4194304))],
      need (1 ≤ c.input.length) eDataLength 0,
      need (1 ≤ c.entry.reserveCount) eReserveForm 1,
      need (c.entry.reserveSlot = byteAt c.param 0) eReserveForm 2,
      need (segs.length ≤ c.entry.reserveCount) eReserveForm 1,
      need (k.attr.alg ≤ 3) eCtrMode 0,
      (segs.findIdx? fun m => first + ceilDiv m.length 16 > 2 ^ 32).map fun i => (eCounterWrap, i)]
      (.ok { out := beBytes 12 v ++ leBytes 4 segs.length ++
               segs.zipIdx.flatMap fun p => ctrMode b 4 (beBytes 12 (v + p.2) ++ beBytes 4 first) p.1
             calls := segs.zipIdx.map fun p => symCall 3 k.attr.alg p.1.length 1 (beBytes 12 (v + p.2) ++ beBytes 4 first) })

/-- XTS over data units (R182 to R185). -/
def symXts (s : State) (d : Nat) (c : Cmd) (usage : Nat) (dec : Bool) : Work :=
  match symKey s d c usage [0x0A, 0x0B] with
  | .error e => .error e
  | .ok k =>
    let p := c.param
    let h := k.value.length / 2
    let k1 := aes (k.value.take h)
    let ul := field p 20 4
    let ub := ul / 16
    let start := field p 28 4
    let sector := field p 32 16
    let w := byteAt p 19
    let n := c.input.length / 16
    let units := ceilDiv (start + n) ub
    checked [
      symFields p { sector := true, unit_ := true, start := true, iv := true } 16
        [(19, w ≤ 1), (20, ul % 16 = 0 && 16 ≤ ul && ul ≤ 16777216)],
      wholeBlocks c.input.length 16, noReserve c,
      need (start < ub) eXtsUnit 0,
      need (sector + units ≤ 2 ^ (if w = 0 then 64 else 128) && (w != 0 || allZero (slice p 40 8))) eXtsSectorWrap 0,
      need (k.value.take h != k.value.drop h) eXtsKeyEqual (byteAt p 0)]
      (.ok { out := xtsRun (if dec then k1.dec else k1.enc) (aes (k.value.drop h)) ub (n + 1) start sector c.input
             calls := [{ func := if dec then 5 else 4, alg := k.attr.alg, bytes := c.input.length, start := start, iv := sector, key := .ref 0
                         control := (ub - 1) * 2 ^ 32 + w * 2 ^ 22 }] })

/-- GCM encryption under a reserved value (R198). -/
def symGcmSeal (s : State) (d : Nat) (c : Cmd) : Work :=
  match symKey s d c 1 [1, 2, 3] with
  | .error e => .error e
  | .ok k =>
    let t := byteAt c.param 18
    let n := field c.param 24 4
    let iv := beBytes 12 (c.reserveStart.getD 0)
    checked [
      symFields c.param { tag := true, aad := true } 16 [(18, 12 ≤ t && t ≤ 16)],
      need (n ≤ c.input.length) eDataLength 0,
      need (1 ≤ c.entry.reserveCount) eReserveForm 1,
      need (c.entry.reserveSlot = byteAt c.param 0) eReserveForm 2]
      (let r := gcmSeal (aes k.value) iv (c.input.take n) (c.input.drop n)
       .ok { out := iv ++ zeros 4 ++ r.1 ++ r.2.take t, calls := gcmCalls k.attr.alg iv (c.input.length - n) })

/-- GCM decryption with the tag compared whole (R198). -/
def symGcmOpen (s : State) (d : Nat) (c : Cmd) : Work :=
  match symKey s d c 2 [1, 2, 3] with
  | .error e => .error e
  | .ok k =>
    let t := byteAt c.param 18
    let n := field c.param 24 4
    let m := c.input.length
    let iv := slice c.param 32 12
    let ct := (c.input.take (m - t)).drop n
    let tag := c.input.drop (m - t)
    checked [
      symFields c.param { tag := true, aad := true, iv := true } 16 [(18, 12 ≤ t && t ≤ 16), (32, allZero (slice c.param 44 4))],
      need (n + t ≤ m) eDataLength 0, noReserve c]
      (if (gcmTag (aes k.value) iv (c.input.take n) ct).take t = tag then .ok { out := gcmCtr (aes k.value) iv ct, calls := gcmCalls k.attr.alg iv ct.length }
       else Work.failing (eTagMismatch, 0) (gcmCalls k.attr.alg iv ct.length))

/-- What an opcode of the group computes (Table 7-7). -/
def symWork (code : Nat) (s : State) (d : Nat) (c : Cmd) : Work :=
  match code with
  | 0x1001 => symBlocks s d c 1 false fun b _ m => ecbEnc b m
  | 0x1002 => symBlocks s d c 2 false fun b _ m => ecbDec b m
  | 0x1003 => if byteAt c.param 17 = 1 then symReserved s d c else symCounter s d c 1
  | 0x1004 => symCounter s d c 2
  | 0x1005 => symXts s d c 1 false
  | 0x1006 => symXts s d c 2 true
  | 0x1007 => symBlocks s d c 1 true fun b iv m => cbcEnc b iv m
  | 0x1008 => symBlocks s d c 2 true fun b iv m => cbcDec b iv m
  | 0x1009 => symGcmSeal s d c
  | _ => symGcmOpen s d c

/-- SYM_ECB_ENCRYPT (R194). -/
def execSymEcbEncrypt (dom id : Nat) (s : State) : Answer := s.runOp 0x1001 dom id fun s c => symWork 0x1001 s dom c

/-- SYM_ECB_DECRYPT (R194). -/
def execSymEcbDecrypt (dom id : Nat) (s : State) : Answer := s.runOp 0x1002 dom id fun s c => symWork 0x1002 s dom c

/-- SYM_CTR_ENCRYPT (R194, R197). -/
def execSymCtrEncrypt (dom id : Nat) (s : State) : Answer := s.runOp 0x1003 dom id fun s c => symWork 0x1003 s dom c

/-- SYM_CTR_DECRYPT (R194). -/
def execSymCtrDecrypt (dom id : Nat) (s : State) : Answer := s.runOp 0x1004 dom id fun s c => symWork 0x1004 s dom c

/-- XTS_ENCRYPT (R182). -/
def execXtsEncrypt (dom id : Nat) (s : State) : Answer := s.runOp 0x1005 dom id fun s c => symWork 0x1005 s dom c

/-- XTS_DECRYPT (R182). -/
def execXtsDecrypt (dom id : Nat) (s : State) : Answer := s.runOp 0x1006 dom id fun s c => symWork 0x1006 s dom c

/-- SYM_CBC_ENCRYPT (R194). -/
def execSymCbcEncrypt (dom id : Nat) (s : State) : Answer := s.runOp 0x1007 dom id fun s c => symWork 0x1007 s dom c

/-- SYM_CBC_DECRYPT (R194). -/
def execSymCbcDecrypt (dom id : Nat) (s : State) : Answer := s.runOp 0x1008 dom id fun s c => symWork 0x1008 s dom c

/-! ### The two computations of a GCM tag (R193) -/

/-- Whether the tag by Horner's rule and the tag by aggregated powers are equal, for the AAD and the ciphertext of a command. -/
def symTagsAgree (s : State) (d : Nat) (c : Cmd) (code : Nat) : Bool :=
  match symKey s d c (if code = 0x1009 then 1 else 2) [1, 2, 3] with
  | .error _ => true
  | .ok k =>
    let b := aes k.value
    let n := field c.param 24 4
    let iv := if code = 0x1009 then beBytes 12 (c.reserveStart.getD 0) else slice c.param 32 12
    let ct := if code = 0x1009 then gcmCtr b iv (c.input.drop n) else (c.input.take (c.input.length - byteAt c.param 18)).drop n
    gcmTag b iv (c.input.take n) ct = gcmTagGrouped b iv (c.input.take n) ct

/-- A command whose two computations disagree releases no output, and is executed again (R75). -/
def State.recompute (s : State) (code d id : Nat) : State :=
  match s.cmd d id with
  | none => s
  | some c =>
    if c.phase = .running && c.entry.opcode = code then (s.endFirmware d c).setCmd d id fun c => c.again none none else s

/-- The row of a GCM command: `agree` is false where a fault has made one of its two computations of the tag go wrong. -/
def State.runGcm (s : State) (code d id : Nat) (agree : Bool) : Answer :=
  match s.cmd d id with
  | none => .next s
  | some c =>
    if agree && symTagsAgree s d c code then s.runOp code d id fun s c => symWork code s d c else .next (s.recompute code d id)

/-- GCM_ENCRYPT (R193, R198). -/
def execGcmEncrypt (dom : Nat) (run : GcmRun) (s : State) : Answer := s.runGcm 0x1009 dom run.id run.agree

/-- GCM_DECRYPT (R193, R198). -/
def execGcmDecrypt (dom : Nat) (run : GcmRun) (s : State) : Answer := s.runGcm 0x100A dom run.id run.agree

end Sys2Proof.Machine
end

