-- ==== Sys2Proof/Machine/Start.lean ====
section
/-!
DEFINITION. Sys2Proof/Machine/Start.lean: when a placed command starts, and which job the region arbiter dispatches next
(R21, R48, R68, R73, R82, R100 to R103).
-/

namespace Sys2Proof.Machine

/-! ### What holds a command back (R48, R68, R73, R82) -/

/-- A STATE or RESERVE command declares an operator handle, or a key that is not twin-eligible. A handle that names no key yet is no key
without twin eligibility: a command that creates a key is not refused for the key it is to make.
DESIGN CHOICE (log entry 63). -/
def State.untwinnable (s : State) (d : Nat) (c : Cmd) : Bool :=
  c.cls.chains && c.twinDigest.isNone && (List.range 4).any fun k =>
    c.entry.valid k && (handleKind (c.entry.handle k) = 2 ||
      (match s.lookKey (ownerOf d (c.entry.handle k)) (c.entry.handle k) with
       | .found a _ _ => !bit a.flags 1
       | _ => false))

/-- Such a command of a twinned pitch is refused (R82). -/
def State.twinIneligible (s : State) (d : Nat) (c : Cmd) : Bool := (s.dom d).twin.mode != .none && s.untwinnable d c

/-- An unfinished command that decides whether its pitch is twinned: TWIN_JOIN, TWIN_ESTABLISH, TWIN_DISSOLVE. -/
def Cmd.decidesTwin (x : Cmd) : Bool :=
  (x.entry.opcode = 0x0B01 || x.entry.opcode = 0x0B02 || x.entry.opcode = 0x0B09) && !x.done && !(x.phase = .computed && x.status != sOk)

/-- Such a command stands behind one that decides whether the pitch is twinned. R21 lets it start at once, and R64 gives it the status of the
serial order, which is not known before: it waits, alone among operational commands.
DESIGN CHOICE (log entry 63). -/
def State.twinUndecided (s : State) (d : Nat) (c : Cmd) : Bool :=
  s.untwinnable d c && (s.dom d).cmds.any fun x => x.id < c.id && x.decidesTwin

/-- A command that may start. A secondary executes no record of its primary while it is LOCKED (R375).
DESIGN CHOICE (log entry 51). -/
def State.mayStart (s : State) (d : Nat) (c : Cmd) : Bool :=
  (s.dom d).mayStart c && !s.twinUndecided d c && !(c.twinDigest.isSome && s.boot.state = .locked)

/-- The wardens start management commands: one is ACTIVE, no gap is open and no takeback is being prepared (R353, R356,
R361). -/
def State.wardenStarts (s : State) : Bool :=
  (s.warden s.activeWarden).state = .active && !s.guy.holding && s.guy.preparing.isNone

/-! ### The region arbiter (R100, R101) -/

/-- Blocks of a region that run a domain's jobs. -/
def State.blocksUsed (s : State) (d r : Nat) : Nat :=
  ((s.dom d).cmds.filter fun c => c.phase = .running && !c.entry.mgmt && c.region = r).length

/-- A block with a job on it. -/
def State.blockBusy (s : State) (r b : Nat) : Bool :=
  s.doms.any fun p => p.2.cmds.any fun c => c.phase = .running && !c.entry.mgmt && c.region = r && c.block = b

/-- A block that the arbiter may give a job: in service, free, its core not halted. -/
def State.blockFree (s : State) (r b : Nat) : Bool :=
  b < 12 && (s.block (12 * r + b)).state = .service && !s.blockBusy r b && !(s.core (12 * r + b)).halted &&
    (s.core (12 * r + b)).invocations = []

/-- A region that runs jobs: ACTIVE and in service (R343, R365). -/
def State.regionRuns (s : State) (r : Nat) : Bool :=
  r < 8 && (s.region r).power = .active && (s.region r).service = .service && !s.boot.bivvy

/-- The engines a command needs, by its group and its block (R254 to R271, Tables 7-7, 8-8 and 8-10): an HMAC, a fill, a digest and a derived key need
hash engines, and a wrapped target needs cells. -/
def unitsNeeded (c : Cmd) : List EngineKind :=
  let p := fun o => byteAt c.param o
  match groupOf c.entry.opcode with
  | 0x10 | 0x14 | 0x19 => [.cell]
  | 0x11 => if p 16 = 4 then [.hash] else [.cell]
  | 0x12 => .cell :: (if c.entry.opcode = 0x1201 && p 33 != 0 then [.hash] else [])
  | 0x13 => .cell :: (if c.entry.opcode = 0x1301 && p 35 != 0 then [.hash] else [])
  | 0x15 => [.hash]
  | 0x16 => .liu :: (if p 16 ≤ 3 && p 18 = 0 then [.hash] else [])
  | 0x17 => .liu :: ((if p 64 = 2 || (p 64 = 1 && p 68 = 0) then [.hash] else []) ++ (if p 64 = 1 then [.cell] else []))
  | 0x1A => [.liu]
  | _ => []

/-- A cell in service (R188, R189). -/
def State.cellServes (s : State) (k : Nat) : Bool := (s.cell k).state != .quarantined && (s.cell k).state != .retired

def State.cellsServing (s : State) (b : Nat) : Nat := ((List.range 24).filter fun i => s.cellServes (24 * b + i)).length

/-- A block that is not degraded: at least 6 of its cells are in service (R189). -/
def State.whole (s : State) (b : Nat) : Bool := 6 ≤ s.cellsServing b

/-- A region in service has a unit of a kind in service (R365). -/
def State.hasUnit (s : State) (r : Nat) : EngineKind → Bool
  | .cell => (List.range 12).any fun b => (s.block (12 * r + b)).state = .service && s.whole (12 * r + b)
  | .liu => (List.range 4).any fun i => (s.liu (4 * r + i)).state = .service
  | .hash => (List.range 4).any fun i => (s.hash (4 * r + i)).state = .service

/-- Regions in service with the units a command needs. -/
def State.homes (s : State) (c : Cmd) : List Nat :=
  (List.range 8).filter fun r => (s.region r).service = .service && (unitsNeeded c).all (s.hasUnit r)

def State.inMask (s : State) (d r : Nat) : Bool := d ≥ 256 || bit (s.dom d).conf.regionMask r

/-- Regions to which a job may be dispatched (R26, R100, R106, R364, R365): those of the current mask; for a job executed again, where
its fault allows; the lowest region in service, under override, where the mask has none that is left. -/
def State.regionsFor (s : State) (d : Nat) (c : Cmd) : List Nat :=
  let up := s.homes c
  match up.filter (s.inMask d) with
  | [] => up.take 1
  | mine =>
    let inside := match c.rerunIn with | some r => if mine.contains r then [r] else mine | none => mine
    match c.rerunOut with
    | some r =>
      let other := inside.filter (· != r)
      if other != [] then other else if up.filter (· != r) != [] then (up.filter (· != r)).take 1 else inside
    | none => inside

/-- The head ready job of a domain in a region, in SEQ order (R100). -/
def State.headJob (s : State) (d r : Nat) : Option Cmd :=
  (s.dom d).cmds.find? fun c => !c.entry.mgmt && s.mayStart d c && (s.regionsFor d c).contains r

/-- The lowest region of a pitch's mask. -/
def lowestOf (mask : Nat) : Nat := ((List.range 8).find? fun r => bit mask r).getD 0

/-- A domain's weight in a region: under override its weight in the lowest region of its mask (R365); 64 for the operator domain
(log entry 12). -/
def State.weight (s : State) (d r : Nat) : Nat :=
  if d < 256 then (s.dom d).conf.weights.getD (if s.inMask d r then r else lowestOf (s.dom d).conf.regionMask) 1 else 64

/-- Quantum of a domain in a region: 64 ns times its weight. -/
def State.quantum (s : State) (d r : Nat) : Nat := 64 * s.weight d r

def State.capBlocks (s : State) (d : Nat) : Nat := if d < 256 then (s.dom d).conf.capBlocks else 12

/-- What the arbiter knows of a domain with a ready job: `open_` says that it is below its cap and an engine is free for it. -/
structure Candidate where
  dom : Nat
  cost : Nat
  deficit : Nat
  quantum : Nat
  open_ : Bool

/-- The estimate of a job's time, in ns (R100): for group 0x10 that of Table 7-6 for its cell jobs, none where its checks let none through; for the
others the core time of Table 10-11 for the operation and the parameters that the table tells apart (the PIN formats, the DUKPT variant, the MAC
algorithm, an ARPC, the length of a hashed message), and 2,000 ns for an operation that no table has.
DESIGN CHOICE of what the tables do not say (log entry 23). -/
def State.opCost (s : State) (d : Nat) (c : Cmd) : Nat :=
  if groupOf c.entry.opcode = 0x10 then
    match symWork c.entry.opcode s d c with
    | .ok r => (r.calls.map Call.time).sum
    | .error _ => 0
  else coreTime c

/-- The domains with a ready job in a region, in the order they are served: from the one after the last served. Each earns its weight in
every round; only one below its cap is served (R100). -/
def State.candidates (s : State) (r : Nat) : List Candidate :=
  ((List.range 257).map fun i => ((s.region r).lastBlockDom + 1 + i) % 257).filterMap fun d =>
    (s.headJob d r).map fun c =>
      { dom := d, cost := s.opCost d c, deficit := Tab.get (s.dom d).blockDeficit 0 r, quantum := s.quantum d r
        open_ := s.blocksUsed d r < s.capBlocks d }

/-- Rounds until a domain's deficit covers its job: none for the one last served while its deficit still does. -/
def Candidate.rounds (x : Candidate) (last : Nat) : Nat :=
  if x.dom = last && x.cost ≤ x.deficit then 0 else max 1 (ceilDiv (x.cost - x.deficit) x.quantum)

/-- The first candidate in the list with the fewest rounds, among those that can be served. -/
def served (last : Nat) : List Candidate → Option Candidate
  | [] => none
  | x :: xs =>
    match served last xs with
    | none => if x.open_ then some x else none
    | some y => if x.open_ && x.rounds last ≤ y.rounds last then some x else some y

/-- The deficits after the rounds that lead to a dispatch; a domain without a ready job has none. -/
def State.chargeDeficits (s : State) (r : Nat) (l : List Candidate) (x : Candidate) : State :=
  let k := x.rounds (s.region r).lastBlockDom
  let ahead := (l.takeWhile fun y => y.dom != x.dom).map Candidate.dom
  let gain := fun (y : Candidate) => if k = 0 then 0 else if y.dom = x.dom || ahead.contains y.dom then k * y.quantum else (k - 1) * y.quantum
  let s := l.foldl (fun s y => s.setDom y.dom fun D =>
    { D with blockDeficit := Tab.put D.blockDeficit 0 r (y.deficit + gain y - (if y.dom = x.dom then x.cost else 0)) }) s
  let idle := (s.doms.map (·.1)).filter fun d => (s.headJob d r).isNone && Tab.get (s.dom d).blockDeficit 0 r != 0
  let s := s.foldDoms idle fun s d => s.setDom d fun D => { D with blockDeficit := Tab.put D.blockDeficit 0 r 0 }
  s.setRegion r fun R => { R with lastBlockDom := x.dom }

/-- GENERATION of the key that a handle names. -/
def State.generationOf (s : State) (d h : Nat) : Nat :=
  match s.lookKey (ownerOf d h) h with | .found a _ _ => a.generation | _ => 0

/-- The declared keys a region's cache holds and lacks, and the entries that loading them evicts (Table 18-5). -/
def State.countCache (before after : State) (r d : Nat) (e : Entry) : State :=
  let keys := (List.range 4).filter fun k => e.valid k && handleValid d (e.handle k)
  let has := fun (s : State) (k : Nat) => (s.region r).cache.any fun x =>
    x.owner = ownerOf d (e.handle k) && x.handle = canonical (e.handle k) && x.path = [] && x.generation = s.generationOf d (e.handle k)
  let hits := (keys.filter (has before)).length
  let loaded := (keys.filter fun k => !has before k && has after k).length
  let out := (before.region r).cache.length + loaded - (after.region r).cache.length
  ((after.count 1 r 0x24 (some d) hits).count 1 r 0x25 (some d) (keys.length - hits)).count 1 r 0x26 (some d) out

end Sys2Proof.Machine
end

