-- ==== Sys2Proof/Machine/Traps.lean ====
section
/-!
DEFINITION. Sys2Proof/Machine/Traps.lean: how a block core takes a trap or an interrupt, how a custom-function invocation ends, and how
one instruction is fetched, runs and retires (R280, R292, R294, R300, R303, R304, R320, R321).
-/

namespace Sys2Proof.Machine

/-! ### Whose work a core does -/

/-- The domain whose job runs on a block. -/
def State.coreDom (s : State) (k : Nat) : Option Nat :=
  (s.doms.find? fun p => p.2.cmds.any fun c => c.phase = .running && !c.entry.mgmt && c.region = k / 12 && c.block = k % 12).map (·.1)

/-- The running command of a block. -/
def State.coreCmd (s : State) (k : Nat) : Option (Nat × Cmd) :=
  match s.coreDom k with
  | none => none
  | some d => ((s.dom d).cmds.find? fun c => c.phase = .running && !c.entry.mgmt && c.region = k / 12 && c.block = k % 12).map fun c => (d, c)

/-! ### Entering the handler (R300) -/

/-- TCAUSE (Table 11-11). -/
def causeWord (t : Trap) (interrupt : Bool) : BitVec 64 :=
  BitVec.ofNat 64 (t.errCode % 65536 * 2 ^ 16 + t.tag % 16 * 2 ^ 12 + b2n interrupt * 2 ^ 8 + t.cause % 256)

/-- The core at its handler: TPC, TCAUSE and TVAL written, MODE and IE saved, FIRMWARE mode with IE 0 and INTRAP 1. -/
def Core.enter (K : Core) (t : Trap) (interrupt : Bool) (resume : BitVec 64) : Core :=
  { K with tpc := resume, tcause := causeWord t interrupt, tval := t.tval
           tstatus := BitVec.ofNat 64 (16 * b2n K.function + 4 + 2 * b2n K.enabled), pc := K.tvec, span := none }

/-- A trap or an interrupt taken; while INTRAP is 1 it is a double trap, which halts the core and quarantines its block (R300, R364). -/
def State.take (s : State) (k : Nat) (t : Trap) (interrupt : Bool) (resume : BitVec 64) : State :=
  let s := s.count 0 k 0x13 (s.coreDom k) 1
  if (s.core k).inTrap then s.quarantineBlock k (some (k / 12)) none
  else s.setCore k fun K => K.enter t interrupt resume

/-- A machine check: block error handling takes the job over at once, without the handler (R279, R300, R364). -/
def State.machineCheck (s : State) (k a : Nat) : State :=
  let s := (s.count 0 k 0x13 (s.coreDom k) 1).setCore k fun K => { K with tpc := K.pc, tcause := causeWord { cause := 0x10 } false, tval := BitVec.ofNat 64 a }
  s.quarantineBlock k (some (k / 12)) none

/-! ### The end of an invocation (R308, R320, R321) -/

/-- The areas of an invocation return to colour 0 with EMPTY contents, its rules are cleared, and its engine jobs and job-scoped keys
are gone (R205, R308, R312). -/
def State.clearInvocation (s : State) (k : Nat) (i : Invocation) : State :=
  let s := i.areas.foldl (fun s a => s.prepare k 0 a.1 a.2) s
  (s.dropJobs fun x => x = k).setCore k fun K =>
    { K with invocations := K.invocations.drop 1, jobs := [], active := [], standby := [] }

/-- The running invocation of a core ends with a result for its command. -/
def State.endInvocation (s : State) (k : Nat) (i : Invocation) (w : Work) : State :=
  let s := s.clearInvocation k i
  match s.cmd i.pitch i.id with
  | some c =>
    if c.phase = .running then s.setCmd i.pitch i.id fun c => c.finish (if c.undeclared then .error (eUndeclaredAccess, 0xFFFF) else w) else s
  | none => s

/-- What a return at the stub gives (R320). -/
def State.returned (s : State) (k : Nat) (i : Invocation) : Work :=
  let K := s.core k
  let w1 := K.reg 1
  let w2 := K.reg 2
  if i.retired + 1 > i.budget then .error (eCfBudget, 0)
  else if w1.tag = .int && w1.val = 0 && w2.tag = .int && 0 ≤ w2.val.toInt && w2.val.toInt ≤ i.outLen then
    .ok { out := s.bytesAt k i.output w2.val.toNat }
  else if w1.tag = .int && 1 ≤ bits w1.val.toNat 15 12 && bits w1.val.toNat 15 12 ≤ 4 && 0x800 ≤ bits w1.val.toNat 11 0 then
    .error (w1.val.toNat % 65536, 0)
  else .error (eCfReturn, 0)

/-- The entry of an invocation that trapped: the offset of TPC in its code, TCAUSE, TVAL (R321). -/
def State.trapEntry (s : State) (i : Invocation) (K : Core) : State :=
  s.log 0x1702 (domOrigin i.pitch) errorSeverity
    (leBytes 8 (K.tpc.toNat - i.code) ++ leBytes 8 K.tcause.toNat ++ leBytes 8 K.tval.toNat)

/-- A trap of an instruction; ILLEGAL_TAG is reported to block error handling too (R276). Taken in FUNCTION mode it ends the invocation: PRIV at the return stub is its return (R320), any other
its failure (R321). -/
def State.trap (s : State) (k : Nat) (t : Trap) : State :=
  let K := s.core k
  let s := if t.cause = illegalTag then s.setBlock k fun b => { b with tagFaults := b.tagFaults + 1 } else s
  let s := s.take k t false K.pc
  if K.inTrap || !K.function then s
  else
    match K.invocations with
    | [] => s
    | i :: _ =>
      if t.cause = privCause && K.pc.toNat = i.code + i.codeLen then s.endInvocation k i (s.returned k i)
      else (s.trapEntry i (s.core k)).endInvocation k i (.error (eCfTrap, t.cause * 256))

/-! ### Retirement (R301, R320) -/

/-- An instruction or element retires: INSTRET, and, where it ran in FUNCTION mode, the invocation's count, which ends it when it reaches BUDGET. Efori
stops it at a counter interrupt, whose TVAL the spec leaves open. -/
def State.retire (s : State) (k : Nat) (function : Bool) : State :=
  let s := s.setCore k fun K => { K with instret := K.instret + 1, perfSkid := if K.ipend.getLsbD 2 then K.perfSkid + 1 else 0 }
  let K := s.core k
  if !function then s
  else
    match K.invocations with
    | [] => s
    | i :: is =>
      let j := { i with retired := i.retired + 1 }
      let s := s.setCore k fun K => { K with invocations := j :: is }
      if j.retired < j.budget then s
      else
        let (v, s) := s.fresh 8
        (s.take k { cause := 0x22, tval := BitVec.ofNat 64 (leNat v) } true K.pc).endInvocation k j (.error (eCfBudget, 0))

/-! ### One instruction (R280, R292, R303) -/

/-- A core runs: main power, the boot past step 6, its region ACTIVE and in service, its block in service and not halted. -/
def State.coreRuns (s : State) (k : Nat) : Bool :=
  s.boot.powered && !s.boot.held && !(s.boot.state = .booting && s.boot.step < 7) && s.regionRuns (k / 12) &&
    (s.block k).state = .service && !(s.core k).halted

/-- TIMER is pending (R301). -/
def State.timerPending (s : State) (k : Nat) : Bool := (s.core k).timecmp.toNat ≤ (s.cycleOf k).toNat

/-- An interrupt is taken only while IE is 1 and INTRAP is 0 (R303). -/
def Core.takes (K : Core) (n : Nat) : Bool := K.enabled && !K.inTrap && K.ien.getLsbD n

/-- The 32-bit word at an instruction address (R280). -/
def State.insnWord (s : State) (k a : Nat) : KWord × Nat :=
  let w := s.word k (a / 8 * 8)
  (w, if bit a 2 then bits w.val.toNat 63 32 else bits w.val.toNat 31 0)

/-- The fetch of the word that a row stands for: none where another word stands there. Efori's image, in the granules of colour 0, is
not modelled: in FIRMWARE mode its words are those of the rows that come (log entry 9). -/
def State.fetchInsn (s : State) (k a w : Nat) : Except Stop Bool :=
  if !s.allows k .fetch a 4 then .error (addrTrap accessCause a)
  else if !(s.core k).function && (s.granule k (a / 16)).1 = 0 then .ok true
  else if (s.insnWord k a).1.tag != .bits then .error (wordTrap illegalInsn (s.insnWord k a).2)
  else .ok ((s.insnWord k a).2 = w)

/-- The command of a core's work has been cut off: a custom function's, or an engine job's (R74). -/
def State.cancelDue (s : State) (k : Nat) : Bool :=
  let runs := fun (d id : Nat) => match s.cmd d id with | some c => decide (c.phase = .running) | none => false
  (s.core k).invocations.any (fun i => !runs i.pitch i.id) ||
    (s.core k).jobs.any (fun j => j.ended.isNone && (match j.id with | some x => !runs j.dom x | none => false))

/-- An interrupt that no instruction passes: CANCEL and TIMER, whose skid is zero, and PERF after 8 retirements (R303, R304). -/
def State.interruptFirst (s : State) (k : Nat) : Bool :=
  let K := s.core k
  (s.cancelDue k && !K.inTrap) || (K.takes 2 && K.ipend.getLsbD 2 && 8 ≤ K.perfSkid) || (K.takes 3 && s.timerPending k)

/-- A core cannot execute now: it does not run, or an interrupt is taken first (R303). -/
def State.coreWaits (s : State) (k : Nat) : Bool := !s.coreRuns k || s.interruptFirst k

/-- What an instruction answers: its new state, retired; its trap; or, while it waits, no change. -/
def State.complete (s : State) (k : Nat) (r : Except Stop State) : Answer :=
  match r with
  | .error (.trap t) => .next (s.trap k t)
  | .error .stall => .next s
  | .ok s' => .next (s'.retire k (s.core k).function)

/-- One instruction that is no stream instruction, with its encoded word: after a prefix it traps ILLEGAL_SPAN (R295). -/
def State.insn (s : State) (k w : Nat) (f : Except Stop State) : Answer :=
  if s.coreWaits k then .next s
  else
    let K := s.core k
    let a := K.pc.toNat + (if K.span.isSome then 4 else 0)
    match s.fetchInsn k a w with
    | .error (.trap t) => .next (s.trap k t)
    | .error .stall => .next s
    | .ok false => .next s
    | .ok true => if K.span.isSome then .next (s.trap k { cause := illegalSpan, tval := BitVec.ofNat 64 w }) else s.complete k f

/-- An instruction that changes only registers. -/
def State.insnCore (s : State) (k w : Nat) (f : Core → Except Stop Core) : Answer :=
  s.insn k w ((f (s.core k)).map fun K => s.setCore k fun _ => K)

/-! ### Encoding (R282 Table 11-4) -/

def wordR (op : Nat) (rd rs1 rs2 rs3 : BitVec 5) (fn : BitVec 4) : Nat :=
  op + 2 ^ 8 * rd.toNat + 2 ^ 13 * rs1.toNat + 2 ^ 18 * rs2.toNat + 2 ^ 23 * rs3.toNat + 2 ^ 28 * fn.toNat

def wordI (op : Nat) (rd rs1 : BitVec 5) (imm : BitVec 14) : Nat := op + 2 ^ 8 * rd.toNat + 2 ^ 13 * rs1.toNat + 2 ^ 18 * imm.toNat

def wordU (op : Nat) (rd : BitVec 5) (imm : BitVec 19) : Nat := op + 2 ^ 8 * rd.toNat + 2 ^ 13 * imm.toNat

def wordH (op : Nat) (rd : BitVec 5) (h : BitVec 2) (imm : BitVec 16) : Nat := op + 2 ^ 8 * rd.toNat + 2 ^ 13 * h.toNat + 2 ^ 15 * imm.toNat

def wordJ (op : Nat) (off : BitVec 24) : Nat := op + 2 ^ 8 * off.toNat

def wordS (op : Nat) (rd rs : BitVec 5) (width e : Bool) : Nat :=
  op + 2 ^ 8 * rd.toNat + 2 ^ 13 * rs.toNat + 2 ^ 18 * b2n width + 2 ^ 19 * b2n e

def wordP (op : Nat) (stop : BitVec 2) : Nat := op + 2 ^ 8 * stop.toNat

end Sys2Proof.Machine
end

