-- ==== Sys2Proof/Machine/Arithmetic.lean ====
section
/-!
DEFINITION. Sys2Proof/Machine/Arithmetic.lean: the KTW instructions that compute on registers: arithmetic, logic, shifts, immediates,
addresses and times, compares, SEL, MOV, RETAG, TAGOF, ERRCODE and carry-less products (R286 to R291, Table 11-6).
-/

namespace Sys2Proof.Machine

/-! ### Results -/

/-- A checked INT result (R287). -/
def intResult (pc : BitVec 64) (v : Int) : KWord :=
  if -(2 ^ 63) ≤ v ∧ v < 2 ^ 63 then kInt (BitVec.ofInt 64 v) else kErr errOvf pc

/-- A result checked over 0 to 2^64 - 1, with a tag. -/
def natResult (pc : BitVec 64) (mk : BitVec 64 → KWord) (v : Int) : KWord :=
  if 0 ≤ v ∧ v < 2 ^ 64 then mk (BitVec.ofInt 64 v) else kErr errOvf pc

/-- A function of one, two or three operand words. -/
def one (f : KWord → KWord) : List KWord → KWord
  | [a] => f a
  | _ => {}

def two (f : KWord → KWord → KWord) : List KWord → KWord
  | [a, b] => f a b
  | _ => {}

/-- INT operands by a checked operation, BITS operands by a wrapping one. -/
def arith (fi : Int → Int → Int) (fb : BitVec 64 → BitVec 64 → BitVec 64) (pc : BitVec 64) (a b : KWord) : KWord :=
  if a.tag = .int then intResult pc (fi a.val.toInt b.val.toInt) else kBits (fb a.val b.val)

/-- Division and remainder: a zero divisor gives DIVZ (Table 11-7). -/
def divide (fi : Int → Int → Int) (fb : BitVec 64 → BitVec 64 → BitVec 64) (pc : BitVec 64) (a b : KWord) : KWord :=
  if b.val = 0 then kErr errDivz pc else arith fi fb pc a b

/-- Logic on two words of one tag. -/
def logic (f : BitVec 64 → BitVec 64 → BitVec 64) (a b : KWord) : KWord := { tag := a.tag, val := f a.val b.val }

/-- The three shifts (R288). -/
inductive Shift where
  | left | right | arith
  deriving DecidableEq, Repr

def shiftBy (k : Shift) (v : BitVec 64) (c : Nat) : BitVec 64 :=
  match k with
  | .left => if c ≥ 64 then 0 else v <<< c
  | .right => if c ≥ 64 then 0 else v >>> c
  | .arith => if c ≥ 64 then (if v.getLsbD 63 then BitVec.allOnes 64 else 0) else v.sshiftRight c

def shift (k : Shift) (pc : BitVec 64) (a b : KWord) : KWord :=
  if b.tag = .int && b.val.toInt < 0 then kErr errRange pc
  else
    let c := if a.tag = .bits then b.val.toNat % 128 else b.val.toNat
    { tag := a.tag, val := shiftBy k a.val c }

/-- The carry-less product of two 64-bit words, as 127 bits (R289). -/
def carryless (a b : BitVec 64) : BitVec 128 :=
  (List.range 64).foldl (fun t i => if b.getLsbD i then t ^^^ (a.zeroExtend 128 <<< i) else t) 0

/-! ### Tag rules (Table 11-6) -/

def ruleArith : List (List Tag) := [[.int, .int], [.bits, .bits]]

def ruleBits2 : List (List Tag) := [[.bits, .bits]]

def ruleLogic : List (List Tag) := [[.bits, .bits], [.bool, .bool]]

def ruleShift : List (List Tag) := [[.int, .int], [.int, .bits], [.bits, .int], [.bits, .bits]]

def ruleEqual : List (List Tag) :=
  [[.bits, .bits], [.int, .int], [.bool, .bool], [.addr, .addr], [.handle, .handle], [.time, .time]]

/-! ### Shapes of instructions -/

/-- `rd` = a function of registers, which passes ERR words on. -/
def State.alu (s : State) (k w : Nat) (rd : BitVec 5) (rs : List (BitVec 5)) (rule : List (List Tag)) (f : BitVec 64 → List KWord → KWord) : Answer :=
  s.insnCore k w fun K => (propagate (K.operands rs) rule (f K.pc)).map fun x => (K.set rd x).advance

/-- `rd` = a BOOL of two registers, which consumes ERR words. -/
def State.compare (s : State) (k w : Nat) (rd rs1 rs2 : BitVec 5) (rule : List (List Tag)) (f : KWord → KWord → Bool) : Answer :=
  s.insnCore k w fun K => (consume (K.operands [rs1, rs2]) rule).map fun l =>
    (K.set rd (two (fun a b => kBool (f a b)) l)).advance

/-- `rd` = a constant. -/
def State.constant (s : State) (k w : Nat) (rd : BitVec 5) (f : BitVec 64 → KWord) : Answer :=
  s.insnCore k w fun K => .ok ((K.set rd (f K.pc)).advance)

def wordRR (op : Nat) (rd rs1 rs2 : BitVec 5) : Nat := wordR op rd rs1 rs2 0 0

/-! ### Arithmetic and logic -/

/-- ADD (R287). -/
def execAdd (core : Nat) (rd rs1 rs2 : BitVec 5) (s : State) : Answer :=
  s.alu core (wordRR 0x01 rd rs1 rs2) rd [rs1, rs2] ruleArith fun pc => two (arith (· + ·) (· + ·) pc)

/-- SUB (R287). -/
def execSub (core : Nat) (rd rs1 rs2 : BitVec 5) (s : State) : Answer :=
  s.alu core (wordRR 0x02 rd rs1 rs2) rd [rs1, rs2] ruleArith fun pc => two (arith (· - ·) (· - ·) pc)

/-- MUL (R287). -/
def execMul (core : Nat) (rd rs1 rs2 : BitVec 5) (s : State) : Answer :=
  s.alu core (wordRR 0x03 rd rs1 rs2) rd [rs1, rs2] ruleArith fun pc => two (arith (· * ·) (· * ·) pc)

/-- MULHU (R286). -/
def execMulhu (core : Nat) (rd rs1 rs2 : BitVec 5) (s : State) : Answer :=
  s.alu core (wordRR 0x04 rd rs1 rs2) rd [rs1, rs2] ruleBits2 fun _ => two fun a b =>
    kBits (BitVec.ofNat 64 (a.val.toNat * b.val.toNat / 2 ^ 64))

/-- DIV (R287). -/
def execDiv (core : Nat) (rd rs1 rs2 : BitVec 5) (s : State) : Answer :=
  s.alu core (wordRR 0x05 rd rs1 rs2) rd [rs1, rs2] ruleArith fun pc => two (divide Int.tdiv (· / ·) pc)

/-- REM (R287). -/
def execRem (core : Nat) (rd rs1 rs2 : BitVec 5) (s : State) : Answer :=
  s.alu core (wordRR 0x06 rd rs1 rs2) rd [rs1, rs2] ruleArith fun pc => two (divide Int.tmod (· % ·) pc)

/-- NEG (R287). -/
def execNeg (core : Nat) (rd rs1 : BitVec 5) (s : State) : Answer :=
  s.alu core (wordRR 0x07 rd rs1 0) rd [rs1] [[.int], [.bits]] fun pc => one fun a =>
    if a.tag = .int then intResult pc (-a.val.toInt) else kBits (-a.val)

/-- AND (R286). -/
def execAnd (core : Nat) (rd rs1 rs2 : BitVec 5) (s : State) : Answer :=
  s.alu core (wordRR 0x08 rd rs1 rs2) rd [rs1, rs2] ruleLogic fun _ => two (logic (· &&& ·))

/-- OR (R286). -/
def execOr (core : Nat) (rd rs1 rs2 : BitVec 5) (s : State) : Answer :=
  s.alu core (wordRR 0x09 rd rs1 rs2) rd [rs1, rs2] ruleLogic fun _ => two (logic (· ||| ·))

/-- XOR (R286). -/
def execXor (core : Nat) (rd rs1 rs2 : BitVec 5) (s : State) : Answer :=
  s.alu core (wordRR 0x0A rd rs1 rs2) rd [rs1, rs2] ruleLogic fun _ => two (logic (· ^^^ ·))

/-- NOT (R286). -/
def execNot (core : Nat) (rd rs1 : BitVec 5) (s : State) : Answer :=
  s.alu core (wordRR 0x0B rd rs1 0) rd [rs1] [[.bits], [.bool]] fun _ => one fun a =>
    if a.tag = .bool then kBool (a.val = 0) else kBits (~~~a.val)

/-- SHL (R288). -/
def execShl (core : Nat) (rd rs1 rs2 : BitVec 5) (s : State) : Answer :=
  s.alu core (wordRR 0x0C rd rs1 rs2) rd [rs1, rs2] ruleShift fun pc => two (shift .left pc)

/-- SHR (R288). -/
def execShr (core : Nat) (rd rs1 rs2 : BitVec 5) (s : State) : Answer :=
  s.alu core (wordRR 0x0D rd rs1 rs2) rd [rs1, rs2] ruleShift fun pc => two (shift .right pc)

/-- SAR (R288). -/
def execSar (core : Nat) (rd rs1 rs2 : BitVec 5) (s : State) : Answer :=
  s.alu core (wordRR 0x0E rd rs1 rs2) rd [rs1, rs2] ruleShift fun pc => two (shift .arith pc)

/-! ### Immediates -/

/-- ADDI (R287): the immediate is sign-extended. -/
def execAddi (core : Nat) (rd rs1 : BitVec 5) (imm : BitVec 14) (s : State) : Answer :=
  s.alu core (wordI 0x10 rd rs1 imm) rd [rs1] [[.int], [.bits]] fun pc => one fun a =>
    arith (· + ·) (· + ·) pc a { tag := a.tag, val := imm.signExtend 64 }

/-- ANDI (R286). -/
def execAndi (core : Nat) (rd rs1 : BitVec 5) (imm : BitVec 14) (s : State) : Answer :=
  s.alu core (wordI 0x11 rd rs1 imm) rd [rs1] [[.bits]] fun _ => one fun a => kBits (a.val &&& imm.signExtend 64)

/-- ORI (R286). -/
def execOri (core : Nat) (rd rs1 : BitVec 5) (imm : BitVec 14) (s : State) : Answer :=
  s.alu core (wordI 0x12 rd rs1 imm) rd [rs1] [[.bits]] fun _ => one fun a => kBits (a.val ||| imm.signExtend 64)

/-- XORI (R286). -/
def execXori (core : Nat) (rd rs1 : BitVec 5) (imm : BitVec 14) (s : State) : Answer :=
  s.alu core (wordI 0x13 rd rs1 imm) rd [rs1] [[.bits]] fun _ => one fun a => kBits (a.val ^^^ imm.signExtend 64)

/-- SHLI (R288): the immediate is an INT count. -/
def execShli (core : Nat) (rd rs1 : BitVec 5) (imm : BitVec 14) (s : State) : Answer :=
  s.alu core (wordI 0x14 rd rs1 imm) rd [rs1] [[.int], [.bits]] fun pc => one fun a => shift .left pc a (kInt (imm.signExtend 64))

/-- SHRI (R288). -/
def execShri (core : Nat) (rd rs1 : BitVec 5) (imm : BitVec 14) (s : State) : Answer :=
  s.alu core (wordI 0x15 rd rs1 imm) rd [rs1] [[.int], [.bits]] fun pc => one fun a => shift .right pc a (kInt (imm.signExtend 64))

/-- SARI (R288). -/
def execSari (core : Nat) (rd rs1 : BitVec 5) (imm : BitVec 14) (s : State) : Answer :=
  s.alu core (wordI 0x16 rd rs1 imm) rd [rs1] [[.int], [.bits]] fun pc => one fun a => shift .arith pc a (kInt (imm.signExtend 64))

/-- LI (R286): sign-extended. -/
def execLi (core : Nat) (rd : BitVec 5) (imm : BitVec 19) (s : State) : Answer :=
  s.constant core (wordU 0x18 rd imm) rd fun _ => kInt (imm.signExtend 64)

/-- LIB (R286): zero-extended. -/
def execLib (core : Nat) (rd : BitVec 5) (imm : BitVec 19) (s : State) : Answer :=
  s.constant core (wordU 0x19 rd imm) rd fun _ => kBits (imm.zeroExtend 64)

/-- LIH (R286): halfword `k` of `rd`, which is its operand too. -/
def execLih (core : Nat) (rd : BitVec 5) (k : BitVec 2) (imm : BitVec 16) (s : State) : Answer :=
  s.alu core (wordH 0x1A rd k imm) rd [rd] [[.bits]] fun _ => one fun a =>
    kBits (BitVec.ofNat 64 (setBytes a.val.toNat (2 * k.toNat) 2 imm.toNat))

/-- MKERR (R285, R286): a code outside 0x0100 to 0xFFFF is no instruction. -/
def execMkerr (core : Nat) (rd : BitVec 5) (imm : BitVec 19) (s : State) : Answer :=
  let w := wordU 0x1B rd imm
  if 0x100 ≤ imm.toNat && imm.toNat ≤ 0xFFFF then s.constant core w rd (kErr imm.toNat)
  else s.insnCore core w fun _ => .error (wordTrap illegalInsn w)

/-! ### Addresses and times -/

/-- ADDA (R286). -/
def execAdda (core : Nat) (rd rs1 rs2 : BitVec 5) (s : State) : Answer :=
  s.alu core (wordRR 0x1C rd rs1 rs2) rd [rs1, rs2] [[.addr, .int]] fun pc => two fun a b =>
    natResult pc kAddr (a.val.toNat + b.val.toInt)

/-- ADDAI (R286). -/
def execAddai (core : Nat) (rd rs1 : BitVec 5) (imm : BitVec 14) (s : State) : Answer :=
  s.alu core (wordI 0x1D rd rs1 imm) rd [rs1] [[.addr]] fun pc => one fun a => natResult pc kAddr (a.val.toNat + imm.toInt)

/-- SUBA (R286). -/
def execSuba (core : Nat) (rd rs1 rs2 : BitVec 5) (s : State) : Answer :=
  s.alu core (wordRR 0x1E rd rs1 rs2) rd [rs1, rs2] [[.addr, .addr]] fun pc => two fun a b =>
    intResult pc ((a.val.toNat : Int) - b.val.toNat)

/-- TADD (R286). -/
def execTadd (core : Nat) (rd rs1 rs2 : BitVec 5) (s : State) : Answer :=
  s.alu core (wordRR 0x1F rd rs1 rs2) rd [rs1, rs2] [[.time, .int]] fun pc => two fun a b =>
    natResult pc kTime (a.val.toNat + b.val.toInt)

/-- TSUB (R286). -/
def execTsub (core : Nat) (rd rs1 rs2 : BitVec 5) (s : State) : Answer :=
  s.alu core (wordRR 0x20 rd rs1 rs2) rd [rs1, rs2] [[.time, .time]] fun pc => two fun a b =>
    intResult pc ((a.val.toNat : Int) - b.val.toNat)

/-! ### Compares and choices (R290) -/

/-- CEQ (R290). -/
def execCeq (core : Nat) (rd rs1 rs2 : BitVec 5) (s : State) : Answer :=
  s.compare core (wordRR 0x28 rd rs1 rs2) rd rs1 rs2 ruleEqual fun a b => a.val = b.val

/-- CNE (R290). -/
def execCne (core : Nat) (rd rs1 rs2 : BitVec 5) (s : State) : Answer :=
  s.compare core (wordRR 0x29 rd rs1 rs2) rd rs1 rs2 ruleEqual fun a b => a.val != b.val

/-- CLT (R290): INT signed, TIME unsigned. -/
def execClt (core : Nat) (rd rs1 rs2 : BitVec 5) (s : State) : Answer :=
  s.compare core (wordRR 0x2A rd rs1 rs2) rd rs1 rs2 [[.int, .int], [.time, .time]] fun a b =>
    if a.tag = .int then a.val.toInt < b.val.toInt else a.val.toNat < b.val.toNat

/-- CLE (R290). -/
def execCle (core : Nat) (rd rs1 rs2 : BitVec 5) (s : State) : Answer :=
  s.compare core (wordRR 0x2B rd rs1 rs2) rd rs1 rs2 [[.int, .int], [.time, .time]] fun a b =>
    if a.tag = .int then a.val.toInt ≤ b.val.toInt else a.val.toNat ≤ b.val.toNat

/-- CLTU (R290). -/
def execCltu (core : Nat) (rd rs1 rs2 : BitVec 5) (s : State) : Answer :=
  s.compare core (wordRR 0x2C rd rs1 rs2) rd rs1 rs2 [[.bits, .bits], [.addr, .addr]] fun a b => a.val.toNat < b.val.toNat

/-- CLEU (R290). -/
def execCleu (core : Nat) (rd rs1 rs2 : BitVec 5) (s : State) : Answer :=
  s.compare core (wordRR 0x2D rd rs1 rs2) rd rs1 rs2 [[.bits, .bits], [.addr, .addr]] fun a b => a.val.toNat ≤ b.val.toNat

/-- SEL (R284, R290): an ERR condition is passed on; an ERR word that is selected is copied. -/
def execSel (core : Nat) (rd rs1 rs2 rs3 : BitVec 5) (s : State) : Answer :=
  s.insnCore core (wordR 0x2E rd rs1 rs2 rs3 0) fun K =>
    let l := K.operands [rs1, rs2, rs3]
    match checkHeld l with
    | .error e => .error e
    | .ok _ =>
      let c := K.reg rs1
      if c.tag = .err then .ok ((K.set rd c).advance)
      else if c.tag = .bool then .ok ((K.set rd (if c.val = 1 then K.reg rs2 else K.reg rs3)).advance)
      else .error (tagTrap tagCause 1 c)

/-- MOV (R284, R286). -/
def execMov (core : Nat) (rd rs1 : BitVec 5) (s : State) : Answer :=
  s.insnCore core (wordRR 0x30 rd rs1 0) fun K =>
    match checkHeld (K.operands [rs1]) with
    | .error e => .error e
    | .ok _ => .ok ((K.set rd (K.reg rs1)).advance)

/-! ### Tags (R291) -/

/-- What RETAG gives (Table 11-8); none for a conversion not listed. -/
def retagged (pc : BitVec 64) (function : Bool) (w : KWord) (t : Nat) : Except Bool KWord :=
  if w.tag.number = t then .ok w
  else
    match w.tag, t with
    | .bits, 1 => .ok (kInt w.val)
    | .int, 0 | .bool, 0 | .time, 0 | .addr, 0 => .ok (kBits w.val)
    | .bool, 1 => .ok (kInt w.val)
    | .bits, 2 | .int, 2 => .ok (if w.val = 0 || w.val = 1 then { tag := .bool, val := w.val } else kErr errRange pc)
    | .int, 5 => .ok (if 0 ≤ w.val.toInt then kTime w.val else kErr errRange pc)
    | .bits, 5 => .ok (kTime w.val)
    | .time, 1 | .addr, 1 => .ok (if w.val.toNat < 2 ^ 63 then kInt w.val else kErr errRange pc)
    | .bits, 3 => if function then .error true else .ok (kAddr w.val)
    | .int, 3 => if function then .error true else .ok (if 0 ≤ w.val.toInt then kAddr w.val else kErr errRange pc)
    | _, _ => .error false

/-- RETAG (R284, R291): a tag of 8 to 15 is no instruction. -/
def execRetag (core : Nat) (rd rs1 : BitVec 5) (t : BitVec 4) (s : State) : Answer :=
  let w := wordR 0x31 rd rs1 0 0 t
  s.insnCore core w fun K =>
    let l := K.operands [rs1]
    if t.toNat ≥ 8 then .error (wordTrap illegalInsn w)
    else
      match checkHeld l with
      | .error e => .error e
      | .ok _ =>
        let a := K.reg rs1
        if a.tag = .err then .ok ((K.set rd a).advance)
        else match retagged K.pc K.function a t.toNat with
          | .ok x => .ok ((K.set rd x).advance)
          | .error true => .error (wordTrap privCause w)
          | .error false => .error (tagTrap tagCause 1 a)

/-- TAGOF (R276, R284): EMPTY and ERR words too. -/
def execTagof (core : Nat) (rd rs1 : BitVec 5) (s : State) : Answer :=
  s.insnCore core (wordRR 0x32 rd rs1 0) fun K =>
    let a := K.reg rs1
    if a.tag.illegal then .error (tagTrap illegalTag 1 a)
    else .ok ((K.set rd (kInt (BitVec.ofNat 64 a.tag.number))).advance)

/-- ERRCODE (R284, R286). -/
def execErrcode (core : Nat) (rd rs1 : BitVec 5) (s : State) : Answer :=
  s.insnCore core (wordRR 0x33 rd rs1 0) fun K =>
    match checkHeld (K.operands [rs1]) with
    | .error e => .error e
    | .ok _ =>
      let a := K.reg rs1
      if a.tag = .err then .ok ((K.set rd (kInt (BitVec.ofNat 64 a.errCode))).advance) else .error (tagTrap tagCause 1 a)

/-- CLMUL (R289). -/
def execClmul (core : Nat) (rd rs1 rs2 : BitVec 5) (s : State) : Answer :=
  s.alu core (wordRR 0x36 rd rs1 rs2) rd [rs1, rs2] ruleBits2 fun _ => two fun a b => kBits ((carryless a.val b.val).truncate 64)

/-- CLMULH (R289). -/
def execClmulh (core : Nat) (rd rs1 rs2 : BitVec 5) (s : State) : Answer :=
  s.alu core (wordRR 0x37 rd rs1 rs2) rd [rs1, rs2] ruleBits2 fun _ => two fun a b => kBits ((carryless a.val b.val >>> 64).truncate 64)

end Sys2Proof.Machine
end

