-- ==== Sys2Proof/Machine/Entropy.lean ====
section
/-!
DEFINITION. Sys2Proof/Machine/Entropy.lean: entropy sources with their health tests, the conditioner, the seed pools, the
random start-up and the commands of groups 0x18 and 0x1F but SELF_TEST (R229 to R246).
-/

namespace Sys2Proof.Machine

/-! ### Health tests (R231) -/

/-- The last sample and its run of equal samples after more samples, and how many runs have reached the cutoff in them: each is one
failure. -/
def runsOf : Bool → Nat → Nat → List Bool → Bool × Nat × Nat
  | last, run, fails, [] => (last, run, fails)
  | last, run, fails, b :: bs =>
    let run := if b = last then run + 1 else 1
    runsOf b run (if run = 81 then fails + 1 else fails) bs

/-- Failures of the repetition count test in samples that follow a run. -/
def repetitions (x : Source) (l : List Bool) : Nat := (runsOf x.last x.run 0 l).2.2

def repetitionFails (x : Source) (l : List Bool) : Bool := 0 < repetitions x l

/-- The sample, counted from 1, with which a value has occurred in a window as often as a number says. -/
def occursAt (v : Bool) : Nat → Nat → List Bool → Option Nat
  | _, _, [] => none
  | left, i, b :: bs =>
    if b = v then if left ≤ 1 then some (i + 1) else occursAt v (left - 1) (i + 1) bs else occursAt v left (i + 1) bs

/-- The sample of a window with which the adaptive proportion test fails. -/
def adaptiveAt (l : List Bool) : Option Nat := occursAt (l.headD false) 824 0 l

/-- Whether the adaptive proportion test fails in a window. -/
def adaptiveFails (l : List Bool) : Bool := (l.filter (· = l.headD false)).length ≥ 824

/-- The last 1,024 samples. -/
def lastWindow (l : List Bool) : List Bool := l.drop (l.length - 1024)

/-- The source after samples. -/
def Source.sampled (x : Source) (l : List Bool) : Source :=
  let r := runsOf x.last x.run 0 l
  { x with last := r.1, run := r.2.1 }

/-- A source whose samples the health tests see: every one that is not OFF (R231). -/
def SourceState.runs (x : SourceState) : Bool := x != .off

/-- Whether a window that began at an instant reaches the cutoff at a sample within the capture in progress, at 250 ns a sample (Table 9-8). -/
def Source.reaches (x : Source) (from_ : Nat) (w : List Bool) : Bool :=
  x.startState.isSome && match adaptiveAt w with | some k => x.captureFrom < from_ + 250 * k | none => false

/-- A capture that is in progress on a source counts its failures (Table 9-8). -/
def Source.counted (x : Source) (rct : Nat) (apt : Bool) : Source :=
  if x.startState.isSome then { x with rctFails := x.rctFails + rct, aptFails := x.aptFails + b2n apt } else x

def State.setSrc (s : State) (r i : Nat) (f : Source → Source) : State := s.setEntropy r fun e => e.setSource i f

/-- A source fails a health test while it runs, and its window in progress is discarded (R232); one that is FAILED or RETIRED already only has
it counted. `w`: the samples of that window. -/
def State.healthFail (s : State) (r i : Nat) (l w : List Bool) : State :=
  let n := repetitions (s.source r i) l
  let s := s.setSrc r i fun x => { (x.sampled l).counted n (x.reaches x.windowFrom w) with windowFrom := s.now, broken := false }
  if (s.source r i).state = .failed || (s.source r i).state = .retired then s else s.failSource r i

/-- Samples that a window's row brings: 1,024, behind those of the window that the source discarded when it became ACTIVE. -/
def Source.windowFits (x : Source) (n : Nat) : Bool := if x.broken then 1024 ≤ n && n < 2048 else n = 1024

/-- REPETITION_COUNT_FAIL (R231): the samples since the last window's end, the last of which makes 81 equal ones. -/
def execRepetitionCountFail (region source : Nat) (samples : List Bool) (s : State) : Answer :=
  let x := s.source region source
  let r := runsOf x.last x.run 0 samples
  if x.state.runs && samples != [] && samples.length ≤ (if x.broken then 2047 else 1024) && r.2.1 = 81 then
    .next (s.healthFail region source samples samples)
  else .next s

/-- ADAPTIVE_WINDOW_END (R231, R232): a window of 1,024 samples ends 256 µs after it began, in every state but OFF, and while the oscillator
settles; a passed window of the ACTIVE source goes to the conditioner, and any other passed window is discarded. -/
def execAdaptiveWindowEnd (region source : Nat) (samples : List Bool) (s : State) : Answer :=
  let x := s.source region source
  if x.state.runs && x.windowFits samples.length then
    let s := s.passTo (x.windowFrom + 256000)
    let w := lastWindow samples
    let s :=
      if repetitionFails x samples || adaptiveFails w then s.healthFail region source samples w
      else
        let s := s.setSrc region source fun x => x.sampled samples
        if x.state = .active && x.capture.isNone && !(s.region region).entropy.conditionerOut then
          s.setEntropy region fun e => { e with window := some (w, x.windowFrom) }
        else s
    .next (s.setSrc region source fun x => { x with windowFrom := s.now, broken := false })
  else .next s

/-- A waiting capture begins, with the state of its source; its command fails where the source is RETIRED (R246). -/
def State.beginCapture (s : State) (r i : Nat) : State :=
  let x := s.source r i
  if x.capture.isNone || x.startState.isSome then s
  else if x.state = .retired then s.endCapture r i
  else s.setSrc r i fun x =>
    { x with startState := some x.state.code, wasActive := x.state = .active, rctFails := 0, aptFails := 0, captureFrom := s.now }

/-- Samples that a start-up test's row brings: those since the end of the source's last window, the last 1,024 of which are the test's, so
that a run of equal samples that began before the test still counts (R231). -/
def startFits (n : Nat) : Bool := 1024 ≤ n && n < 2048

/-- A start-up test on 1,024 samples: STANDBY, or ACTIVE where the region has none, or FAILED (R229, R230). -/
def State.startupTest (s : State) (r i : Nat) (l : List Bool) : State :=
  let s := if repetitionFails (s.source r i) l || adaptiveFails (lastWindow l) then s.healthFail r i l (lastWindow l)
    else (s.setSrc r i fun x => { x.sampled l with windowFrom := s.now, broken := false }).setSource r i .standby
  (s.beginCapture r i).chooseFirst r

/-- SOURCE_STARTUP_TEST (R229, R231): of a source that its region's start has put into STARTING. -/
def execSourceStartupTest (region source : Nat) (samples : List Bool) (s : State) : Answer :=
  let R := s.region region
  if startFits samples.length && R.service = .service && R.power != .rest && s.boot.powered && !s.boot.held &&
      (s.source region source).state = .starting then
    .next (s.startupTest region source samples)
  else .next s

/-- SOURCE_RETEST (R229, Table 9-11): it begins one second after a source entered FAILED and takes 256 µs; a retest that fails is an entry of
its own. -/
def execSourceRetest (region source : Nat) (samples : List Bool) (s : State) : Answer :=
  let x := s.source region source
  if x.state = .failed && startFits samples.length then
    let s := s.passTo (x.failedAt + 1000256000)
    let w := lastWindow samples
    let n := repetitions x samples
    if 0 < n || adaptiveFails w then
      let apt := x.reaches (x.failedAt + 1000000000) w
      .next ((s.setSrc region source fun x => (x.sampled samples).counted n apt).failSource region source)
    else .next ((s.setSrc region source fun x => { x.sampled samples with windowFrom := s.now, broken := false }).stood region source)
  else .next s

/-! ### Secrets that wait for seeds (R123, R235, R457) -/

/-- The EMBER store holds no mask seed: it has never been started, or a STRIKE or a collapse has cleared it. -/
def Ember.blank (e : Ember) : Bool := allZero e.seedA && allZero e.seedB

/-- The EMBER store takes values: a mask seed and a scramble seed stand (R123). -/
def Ember.ready (e : Ember) : Bool := !e.blank && !allZero e.scramble

/-- What stands at an address, masked anew. -/
def Ember.remask (e : Ember) (seed : Bytes) (old_ new_ : Nat) (v : Bytes) : Bytes :=
  match e.seedOf old_ with | some old => maskRow seed new_ (maskRow old old_ v) | none => v

/-- Every row rewritten under a fresh mask seed in the idle register, its epoch bit flipped, and the old seed cleared (R123). -/
def Ember.refresh (e : Ember) (seed : Bytes) : Ember :=
  let toB := !allZero e.seedA
  { e with seedA := if toB then zeros 48 else seed, seedB := if toB then seed else zeros 48
           epochs := if toB then List.range 4096 else [], refreshDue := false
           rows := e.rows.map fun x => (x.1, e.remask seed x.1 x.1 x.2) }

/-- Every row relocated under a new scramble seed with its epoch bit, masked for its new address; the old seed is gone (R123). -/
def Ember.relocate (e : Ember) (seed : Bytes) : Ember :=
  let move := fun (a : Nat) => scrambled seed (unscrambled e.scramble a)
  { e with scramble := seed, epochs := e.epochs.foldl (fun l a => insertNat l (move a)) []
           rows := e.rows.foldl (fun t x => Tab.insert t (move x.1) (e.remask ((e.seedOf x.1).getD []) x.1 (move x.1) x.2)) [] }

/-- The module's own keys that its EMBER store lacks: the operator root with the operator's K_DIG, the attestation key where none is due from
a seed, and the transport keys when they are due (R143). No rule says what they are generated from, so they are free values (log entry 2). -/
def State.firstKeys (s : State) : State :=
  let s := if (s.ember.read 256).isSome then s
    else
      let (a, s) := s.fresh 32
      let (g, s) := s.fresh 32
      ({ s with ember := s.ember.write 256 (slice a 0 32) }).setDom operator fun D => if D.kDig = [] then { D with kDig := slice g 0 32 } else D
  let s := if (s.ember.read 259).isSome || s.host.attestDue then s
    else
      let (k, s) := s.fresh 48
      { s with ember := s.ember.write 259 (slice k 0 48) }
  if s.ember.transportDue then
    let (b, s) := s.fresh 64
    let (c, s) := s.fresh 32
    { s with ember := { (s.ember.write 257 (slice b 0 64)).write 258 (slice c 0 32) with transportDue := false } }
  else s

/-- One secret that waits, given a seed: the mask seed, the scramble seed, a cache mask register, the attestation key. -/
def State.giveSecret (s : State) : Option State :=
  if s.ember.blank then
    s.secret.map fun (x, s) => { s with ember := { s.ember with seedA := x, refreshDue := false } }
  else if s.ember.refreshDue then s.secret.map fun (x, s) => { s with ember := s.ember.refresh x }
  else if allZero s.ember.scramble || s.boot.scrambleDue then
    s.secret.map fun (x, s) => ({ s with ember := s.ember.relocate x, boot := { s.boot with scrambleDue := false } }).firstKeys
  else
    match (List.range 8).find? fun r => allZero (s.region r).cacheMask with
    | some r => s.secret.map fun (x, s) => s.setRegion r fun R => { R with cacheMask := x.take 32 }
    | none =>
      if s.host.attestDue then
        s.secret.map fun (x, s) =>
          let d := beNat x % (curveP384.n - 1) + 1
          { s with ember := s.ember.write 259 (beBytes 48 d), host := { s.host with attestDue := false } }
      else none

/-- Secrets given as far as seeds last. -/
def State.giveSecrets : Nat → State → State
  | 0, s => s
  | n + 1, s => match s.giveSecret with | some s => giveSecrets n s | none => s

/-! ### Seeds (R232 to R234, R242) -/

/-- A domain whose DRBG has just started takes its root and K_DIG from calls 1 and 2 where it has none (R94, R151). -/
def State.rootAndDig (s : State) (d : Nat) : State :=
  let D := s.dom d
  if d < 256 && D.kDig = [] && D.drbg.inst then
    let (a, g) := D.drbg.generate 32 []
    let (b, g) := g.generate 32 []
    ({ s with ember := s.ember.write d a }).setDom d fun D => { D with drbg := { g with lastCall := max 2 D.drbg.lastCall }, kDig := b }
  else s

/-- Every region that runs has its blinding DRBG. -/
def State.blindAll (s : State) : Bool := (List.range 8).all fun r => !s.awake r || (s.region r).entropy.blinding.inst

/-- Every generator that is due is instantiated, in the order of Table 9-4, while seeds last: in the start-up window the others wait for the
blinding DRBGs (R242). -/
def State.startGenerators (s : State) : State :=
  if !s.ember.ready then s
  else
    let s := s.startBlindings (List.range 8)
    if !s.boot.randomReady && !s.blindAll then s
    else
      let s := s.startAll (operator :: List.range 256)
      s.foldDoms (List.range 256) State.rootAndDig

/-- What follows new seeds: secrets first, then generators that wait, then the calls of placed commands. -/
def State.seeded (s : State) : State :=
  let s := (State.giveSecrets 16 s).startGenerators
  s.foldDoms (allDoms.filter fun d => (s.dom d).cmds != []) fun s d => (s.draw d).noteReady d

/-- SEED_CONDITIONED (R233): the held window becomes a seed, which a full pool does not take. -/
def execSeedConditioned (region : Nat) (s : State) : Answer :=
  match (s.region region).entropy.window with
  | none => .next s
  | some (l, from_) =>
    let s := s.setEntropy region fun e =>
      { e with window := none
               pool := if e.pool.length < 16 then e.pool ++ [{ bytes := hashDf (packSamples l), windowFrom := from_ }] else e.pool }
    .next (((s.setBorrowing region false).count 1 region 0x29 none 1).seeded)

/-- SEED_BORROW (R234): a region with an empty pool and no ACTIVE source takes the oldest seed of the next region that
has one. -/
def execSeedBorrow (region : Nat) (s : State) : Answer :=
  if s.mayBorrow region then
    match s.lender region with
    | none => .next s
    | some q =>
      match s.pool q with
      | x :: rest =>
        let s := s.setEntropy q fun e => { e with pool := rest }
        let s := s.setEntropy region fun e => { e with pool := [x] }
        .next (((s.setBorrowing region true).count 1 region 0x2A none 1).seeded)
      | [] => .next s
  else .next s

/-- EMBER_MASK_REFRESH (R123): every 10 ms on main power a fresh seed re-masks the rows; without a seed it waits for
one. -/
def execEmberMaskRefresh (s : State) : Answer :=
  if s.boot.powered && !s.ember.blank then .next ({ s with ember := { s.ember with refreshDue := true } }).seeded
  else .next s

/-- RANDOM_READY (R242): the start-up window ends once every generator is instantiated; waits for entropy count from
here (R239). -/
def execRandomReady (s : State) : Answer :=
  let t := s.seeded
  let due := fun d => ((t.dom d).mode != .absent || d = operator) && !(t.dom d).drbg.inst
  if s.boot.powered && !s.boot.held && !s.boot.randomReady && t.ember.ready &&
      t.blindAll && !(allDoms.any due) then
    let t := { t with boot := { t.boot with randomReady := true } }
    .next (t.foldDoms (allDoms.filter fun d => (t.dom d).cmds != []) fun t d =>
      t.setDom d fun D => { D with cmds := D.cmds.map fun c => if c.waitFrom.isSome then { c with waitFrom := some t.now } else c })
  else .next s

/-- ENTROPY_WAIT_EXPIRY (R239): the command's calls are never generated. -/
def execEntropyWaitExpiry (dom id : Nat) (s : State) : Answer :=
  match s.cmd dom id with
  | none => .next s
  | some c =>
    match c.waitFrom with
    | none => .next s
    | some t =>
      if !c.awaits || !s.boot.randomReady || (c.entry.opcode = 0x1801 && c.toRead.contains .input) then .next s
      else
        let s := (s.passTo (t + c.waitLimit dom)).draw dom
        match s.cmd dom id with
        | none => .next s
        | some c =>
          if !c.awaits then .next s
          else
            let fail := fun (c : Cmd) => if c.aborted then c else c.failWith (eEntropy, 0)
            .next ((s.setCmd dom id fun c => { fail c with entropyFail := true, waitFrom := none }).draw dom)

/-! ### RANDOM_GENERATE, RAW_ENTROPY, ENTROPY_STATUS (R245, R246) -/

/-- RANDOM_GENERATE (R245). -/
def execRandomGenerate (dom id : Nat) (s : State) : Answer :=
  s.runOp 0x1801 dom id fun _ c =>
    let n := field c.param 0 4
    let a := field c.param 8 2
    checked [fields eRandomParam [(0, 1 ≤ n && n ≤ 4194304), (8, a ≤ 256 && a = c.input.length)]]
      (.ok { out := c.drawn.getD [] })

/-- The checks of RAW_ENTROPY. -/
def rawFail (s : State) (d : Nat) (c : Cmd) : Option Fail :=
  let r := byteAt c.param 0
  let i := byteAt c.param 1
  let n := field c.param 4 4
  let x := s.source r i
  firstFail [
    need (d = operator) eRawPrivilege 0,
    need c.cond.started eNotReady 0,
    fields eRandomParam [(0, r ≤ 7), (1, i ≤ 2), (4, 128 ≤ n && n ≤ 1048576 && n % 128 = 0)],
    need (x.state != .retired) eSourceUnavailable x.state.code,
    need (x.state != .off || (s.region r).service = .service) eSourceUnavailable x.state.code]

/-- RAW_ENTROPY (R246): the capture is set on its source, and begins at once unless the source is OFF or STARTING; a
region in REST is woken for it. The command ends with RAW_CAPTURE_END. DESIGN CHOICE: one that names a source under capture waits for that
capture's end (log entry 75). -/
def execRawEntropy (dom id : Nat) (s : State) : Answer :=
  match s.cmd dom id with
  | none => .next s
  | some c =>
    if c.phase = .running && c.entry.opcode = 0x1802 && c.stage = 0 then
      match rawFail s dom c with
      | some f => .next (s.setCmd dom id fun c => c.failWith f)
      | none =>
        let r := byteAt c.param 0
        let i := byteAt c.param 1
        let x := s.source r i
        if x.capture.isSome then .next s
        else
          let s := s.setCmd dom id fun c => { c with stage := 1 }
          let s := s.setSrc r i fun x => { x with capture := some (dom, id), startState := none }
          let s := if x.state = .off then s.setRegion r fun R => { R with exiting := some s.now } else s
          if x.state = .off || x.state = .starting then .next s
          else
            let s := s.beginCapture r i
            .next (if x.state = .active then (s.setSource r i .standby).succeed r i else s)
    else .next s

/-- A source is released from a capture, and is ACTIVE again where its region has no ACTIVE source (R246). -/
def State.releaseCapture (s : State) (r i : Nat) : State :=
  let s := s.setSrc r i fun x => { x with capture := none, startState := none, wasActive := false }
  if (s.source r i).state = .standby && (s.region r).entropy.active.isNone then s.activate r i else s

/-- RAW_CAPTURE_END (R246): the captured samples complete the command; the source returns to STANDBY, or to ACTIVE where
its region has no ACTIVE source. The health tests see the samples by their own rows, and their windows go on: one that has reached the cutoff
within the capture and has not ended yet is counted here (Table 9-8). A capture whose command has been
cut off ends at once. -/
def execRawCaptureEnd (region source : Nat) (samples : List Bool) (s : State) : Answer :=
  let x := s.source region source
  match x.capture, x.startState with
  | some (d, id), some st =>
    match s.cmd d id with
    | none => .next (s.releaseCapture region source)
    | some c =>
      if c.phase != .running then .next (s.releaseCapture region source)
      else if samples.length = 8 * field c.param 4 4 then
        let open_ := x.captureFrom ≤ x.windowFrom && x.reaches x.windowFrom (samples.drop ((x.windowFrom - x.captureFrom) / 250))
        let out := leBytes 1 region ++ leBytes 1 source ++ leBytes 1 st ++ zeros 1 ++ leBytes 4 x.rctFails ++
          leBytes 4 (x.aptFails + b2n open_) ++ zeros 4 ++ packSamples samples
        let s := s.passTo (x.captureFrom + samples.length * 250)
        let s := s.setCmd d id fun c => c.finish (.ok { out := out })
        .next (s.releaseCapture region source)
      else .next s
  | _, _ => .next s

/-- ENTROPY_STATUS (Table 9-9). -/
def execEntropyStatus (dom id : Nat) (s : State) : Answer :=
  s.runOp 0x1803 dom id fun s _ =>
    let g := (s.dom dom).drbg
    .ok { out := ((List.range 8).flatMap fun r =>
            let e := (s.region r).entropy
            ((List.range 3).flatMap fun i => leBytes 1 (e.source i).state.code) ++ leBytes 1 e.pool.length ++
              leBytes 1 (b2n e.borrowing + 2 * b2n e.conditionerOut) ++ zeros 3) ++
            leBytes 8 g.sinceReseed ++ leBytes 8 g.reseeds ++
            leBytes 1 (b2n g.inst + 2 * b2n g.stretched + 4 * b2n (g.sinceReseed ≥ 2 ^ 32)) ++ zeros 15 }

end Sys2Proof.Machine
end

