-- ==== Sys2Proof/Machine/SelfTest.lean ====
section
/-!
DEFINITION. Sys2Proof/Machine/SelfTest.lean: the known-answer tests of the conditioners and expanders (R244, R245).
-/

namespace Sys2Proof.Machine

/-- A region's result byte, cut to the tests that ran. -/
def selfTestByte (tests result : Nat) : Nat := result &&& (b2n (bit tests 0) + 6 * b2n (bit tests 1))

/-- A failure's trail entry, of severity SECURITY, and its region event (R244, R423). -/
def State.testFailed (s : State) (r kind : Nat) : State :=
  (s.log codeTestFail (originOf 3 r) security (leBytes 1 kind ++ leBytes 1 r ++ [0xFF])).regionEvent r 10

/-- The outcome of the conditioner test: a failed one is out of use, discards its sources' output and borrows; one that
passes is in use. -/
def State.conditionerTested (s : State) (r : Nat) (failed : Bool) : State :=
  if failed then
    ((s.setEntropy r fun e => { e with conditionerOut := true, window := none }).testFailed r 1).setBorrowing r true
  else
    let s := s.setEntropy r fun e => { e with conditionerOut := false }
    if (s.region r).entropy.active.isSome then s.setBorrowing r false else s

/-- The tests of one region. -/
def State.testRegion (s : State) (r tests result : Nat) : State :=
  let x := selfTestByte tests result
  let s := if bit tests 0 then s.conditionerTested r (bit x 0) else s
  if bit x 1 then (s.testFailed r 2).testFailed r 2 else if bit x 2 then s.testFailed r 2 else s

/-- SELF_TEST (R245): the operand gives, for each region, what its tests find. A second expander failure takes the LOCK
response (R244), which aborts this command too, as it has not committed. -/
def execSelfTest (dom id : Nat) (results : List Nat) (s : State) : Answer :=
  match s.cmd dom id with
  | none => .next s
  | some c =>
    if c.phase = .running && c.entry.opcode = 0x1F01 then
      let tests := byteAt c.param 0 % 4
      let mask := if byteAt c.param 1 = 0 then 255 else byteAt c.param 1
      let run := (List.range 8).filter fun r => bit mask r && (s.region r).service = .service
      if tests = 0 then .next (s.setCmd dom id fun c => c.failWith (eSelftestParam, 0))
      else if c.tooLong 16 then .next (s.setCmd dom id fun c => c.finish (.ok { out := zeros 16 }))
      else
        let out := (List.range 8).map fun r => BitVec.ofNat 8 (if run.contains r then selfTestByte tests (results.getD r 0) else 128)
        let s := run.foldl (fun s r => s.testRegion r tests (results.getD r 0)) s
        let s := s.setCmd dom id fun c => c.finish (.ok { out := out ++ zeros 8 })
        .next (if run.any fun r => bit (selfTestByte tests (results.getD r 0)) 1 then s.lockCause lockSelfTest else s)
    else .next s

end Sys2Proof.Machine
end

