-- ==== Sys2Proof/Machine/Boot.lean ====
section
/-!
DEFINITION. Sys2Proof/Machine/Boot.lean: the resets that run the boot sequence: cold, life-cycle and STRIKE; the boot's steps and
its end (R381, R384, R386, R440, R444 to R447).
-/

namespace Sys2Proof.Machine

/-! ### What a boot takes away (Table 19-3) -/

/-- A counter resumed at its stored ceiling (R136). -/
def Nonce.resumed (n : Nonce) : Nonce := { n with next := n.ceiling }

/-- A domain's counters that the resumption moves. -/
def Dom.skipped (D : Dom) : Nat := ((D.nonces ++ D.opNonces).filter fun p => p.2.next != p.2.ceiling).length

/-- A command that a tamper response has aborted and that has not linked: its link is computed after the reboot that the response
includes (R27), so a boot keeps its record. -/
def Cmd.linksLater (c : Cmd) : Bool := c.aborted && c.phase = .linking && c.cls.chains && c.status = eAbortedTamper && c.digest.isNone

/-- A domain after a boot. -/
def Dom.rebooted (D : Dom) : Dom :=
  { D.hostReset with mgmtBusy := false, cmds := (D.cmds.filter Cmd.linksLater).map fun c => { c with noPost := true, entropyFail := c.entropyFail || c.awaits }, drbg := {}, blockDeficit := [], liuDeficit := []
                     nonces := D.nonces.map fun p => (p.1, p.2.resumed), opNonces := D.opNonces.map fun p => (p.1, p.2.resumed)
                     twin := { D.twin with instSeed := [], establishing := none, lagPaused := false, peerPers := [] } }

/-- The trail's entry of the counters a domain advanced (R136; log entry 22). -/
def codeAdvanced : Nat := 0x1211

def State.advancedEntries (before s : State) : State :=
  (before.doms.filter fun p => p.2.skipped > 0).foldl (fun s p =>
    s.trailAs codeAdvanced (domOrigin p.1) security 0 (leBytes 4 p.2.skipped) true 0) s

/-- State that every boot returns to its defaults or loses: the host port, the engines and regions, the wardens and the arbiter, the
twin link, event latches, counters. -/
def State.rebooted (s : State) (kind : ResetKind) : State :=
  let life : Bool := kind = ResetKind.lifeCycle
  let clock : Clock := if kind = ResetKind.cold then { mono := s.clock.mono } else s.clock
  let newRegion : Region := { cycleSince := s.now }
  let w : Warden := { progress := s.now, wireLast := s.now, fabricLast := s.now, mirroredSince := s.now }
  { s with doms := s.doms.map fun (p : Nat × Dom) => (p.1, p.2.rebooted)
           host := { s.host.reset with linkUp := false }, link := {}, smb := {}, clock := clock
           chip := if life then {} else s.chip
           sets := [], regions := (List.range 8).foldl (fun t r => Tab.put t {} r newRegion) [], blocks := [], cores := [], cells := [], lius := [], hashes := [], wardens := [(0, w), (1, w)]
           guy := {}, perf := Perf.cleared, allBusy := false
           events := { s.events with latched := [] }
           trail := { s.trail with cursor := 0, bootIgnored := 0, writerFree := 0 }
           life := { s.life with extest := false, refusals := [] }
           recordIv := s.ivStored.value }

/-! ### Step 1: the EMBER domain (R386) -/

/-- Fields of the tamper logic that name the cold reset (Table 15-6); a response that a reset ends is over. -/
def Tamper.coldFields (t : Tamper) : Tamper :=
  { t with alarm := 0, detectorA := 0, detectorB := 0, pairs := [], since := [], inForce := .none, source := 0xFF, shed := false, shedSince := none, reports := []
           striking := false, machine := if t.machine = tamperShed then tamperNormal else if t.machine = tamperHalted then tamperLock else t.machine }

/-- Fields that name the life-cycle reset (Table 15-5, R388, R389). -/
def Tamper.lifeFields (t : Tamper) : Tamper :=
  { t.defaults with flags := 0, alarmCount := 0, firstSource := 0xFF, highest := .none, counts := [] }

/-- The table restored from its MRAM copy (R386). -/
def Tamper.restored (t : Tamper) : Tamper :=
  match t.mramCopy with
  | some (r, u, l, n) => { t with responses := r, upperTrip := u, lowerTrip := l, stormCount := n }
  | none => t

/-- The collapse test (R386): a STRIKE of unknown cause, the table restored from MRAM, the keys to be rebuilt. -/
def State.collapseTest (s : State) : State :=
  if s.tamper.emberMachine then s
  else
    let copy := s.tamper.mramCopy
    let t : Tamper := { mramCopy := copy, flags := 0x8000, strikePending := true }
    let s := { s with tamper := t.restored, boot := { s.boot with emberLost := true }, ember := { s.ember with transportDue := true }
                      host := { s.host with attestDue := true, chainKind := 2 } }
    { s with doms := s.doms.map fun (p : Nat × Dom) => (p.1, if p.1 < 256 then { p.2 with kDig := [] } else p.2) }

/-! ### Steps 2, 4 and 5 -/

/-- The log resumed after a loss of main power (R415): entries not in MRAM are lost, and LOG_RESUMED takes the reserved SEQ, before any held entry
(R421, DEDUCED, log entry 22). -/
def State.resumeLog (s : State) : State :=
  let t := s.trail
  if t.nextSeq ≤ 1 then s
  else
    let last := t.mram.getLast?
    let seq := match last with | some e => e.seq | none => 0
    let s := { s with trail := { t with sram := [], unflushed := 0, nextSeq := t.reserved, chain := last.map LogEntry.chain } }
    s.trailAs 7 (originOf 0 0) security 0 (leBytes 8 seq ++ leBytes 4 (t.reserved - seq - 1)) true 0

/-- The chip events of alarms raised before the trail ran (R372, R381). -/
def State.raiseOwed (s : State) : State :=
  (tamperSources.filter fun n => s.tamper.owedEvents.getLsbD n).foldl (fun s n => s.raise (0x180 + n)) (s.setTamper fun t => { t with owedEvents := 0 })

/-- The fuses voted and repaired, and a due wipe finished, with their entries (R404, R405). On the first entry into PROVISIONED the transport
key is due (R143). -/
def State.bootFuses (s : State) (fails : Option Nat) : State × List (Nat × Nat) × Option LifeCycle :=
  let (l, w) := s.life.boot fails
  let r := repairs s.life (s.life.repair fails)
  let entered := l.state = .provisioned && s.life.state != .provisioned
  let s := { s with life := l, ember := { s.ember with transportDue := s.ember.transportDue || entered } }
  (if w.isSome then s.wipe else s, r, w)

/-- A life-cycle state that a boot takes: its entry, which that of a wipe replaces, and its event (R399, R423). -/
def State.stateTaken (s : State) (was : LifeCycle) (wiped : Option LifeCycle) : State :=
  if wiped.isSome then s.raise 0x199
  else if s.life.state = was then s
  else (s.trailAs codeLifeCycle (originOf 0 0) security 0 (leBytes 1 was.code ++ leBytes 1 s.life.state.code) true 0).raise 0x199

/-- The Efori image: an installed one takes effect, one that fails its check gives way to the other; both failing is the recovery
boot in FIELD (R395, R409). -/
def State.bootFirmware (s : State) (fw0 fw1 : Bool) : State :=
  let l := s.life
  let ok := fun n => if n = 0 then fw0 else fw1
  let other := 1 - l.fwActive
  let active := if (l.fwNew || !ok l.fwActive) && ok other then other else l.fwActive
  { s with life := { l with fwActive := active, fwNew := false, recovery := !fw0 && !fw1 && l.state = .field } }

/-- The log's first entries after a reset: its memories are tested, then come LOG_RESUMED, what the last-gasp registers hold, the first entry of a log
state that the test has brought, the fuses' entries and the reset (R381, R404, R405, R415, R421, R444, R449). Conditions that still hold latch
their events again (R424). -/
def State.bootLog (s : State) (kind : ResetKind) (sram mram : Bool) (reps : List (Nat × Nat)) (wiped : Option LifeCycle)
    (cancelled discarded : Nat) : State :=
  let before := s.trail
  let s := { s with trail := s.trail.tested sram mram }
  let s := match wiped with
    | some x => s.trailAs codeLifeCycle (originOf 0 0) security 0 (leBytes 1 x.code ++ leBytes 1 x.code) true 0
    | none => if kind = ResetKind.cold then s.resumeLog else s
  let s := if s.trail.state = 2 then s else s.writeHeld
  let s := (s.logTested before).raiseOwed
  let s := s.holdingSources.foldl State.raise s
  let s := reps.foldl (fun s p => s.trailAs codeRepair (originOf 0 0) security 0 (leBytes 1 s.life.state.code ++ leBytes 1 p.1 ++ leBytes 1 p.2) true 0) s
  let s := s.resetEntry kind 0 cancelled discarded
  let by_ := s.tamper.struckBy
  let s := if kind = ResetKind.strike then
      (s.trailAs 0x1010 (originOf 0 0) critical 0 (leBytes 1 s.tamper.highest.code ++ leBytes 1 by_.1 ++ leBytes 8 by_.2) true 0).raise 0x18A
    else s
  if s.boot.emberLost then (s.trailAs 0x1011 (originOf 0 0) critical 0 (leBytes 1 4 ++ leBytes 1 0 ++ leBytes 8 0) true 0).raise 0x18B else s

/-- The regions start, and with them the entropy sources (step 7). -/
def State.startSources (s : State) : State :=
  ((List.range 8).flatMap fun r => (List.range 3).map fun i => (r, i)).foldl (fun s p =>
    s.startSource p.1 p.2) s

/-- A unit that a boot's self test retires, with its entry and the region event. -/
def State.unitRetired (s : State) (kind i r event : Nat) : State := (s.faultEntry codeRetired (originOf kind i) 0 i 0).regionEvent r event

/-- The self tests of a boot (R188, R215, R244, R364, R366): cells, LIUs, hash engines and blocks that fail theirs are RETIRED, a region left with fewer
than 3 blocks is isolated (R365), and the known-answer tests of conditioner and expander come out in each region as SELF_TEST reports them. -/
def State.bootTested (s : State) (t : BootTests) : State :=
  let s := t.cells.foldl (fun s i => (s.setCell i fun c => { c with state := .retired }).unitRetired 5 i (i / 288) 1) s
  let s := { s with blocks := (List.range 96).foldl (fun l k => Tab.put l {} k { s.block k with degraded := !s.whole k }) s.blocks }
  let s := t.lius.foldl (fun s l => (s.setLiu l fun u => { u with state := .retired }).unitRetired 6 l (l / 4) 3) s
  let s := t.hashes.foldl (fun s h => (s.setHash h fun u => { u with state := .retired }).unitRetired 7 h (h / 4) 5) s
  let s := (t.blocks.filter (· < 96)).foldl (fun s k => (s.setBlock k fun x => { x with state := .retired }).unitRetired 4 k (k / 12) 7) s
  let s := (List.range 8).foldl (fun s r => if s.blocksServing r < 3 then s.isolateRegion r else s) s
  let s := (List.range 8).foldl (fun s r => s.testRegion r 3 (t.kats.getD r 0)) s
  if (List.range 8).any fun r => bit (t.kats.getD r 0) 1 then s.lockCause lockSelfTest else s

/-- A boot up to step 8 (Table 19-2); the host port answers from step 3 on (R445). -/
def State.bootStart (s : State) (kind : ResetKind) (t : BootTests) : State :=
  let cancelled := s.cancelCount
  let discarded := s.discardCount
  let before := s
  let alarmed := s.tamper.emberLock
  let s := { s with trail := if kind = ResetKind.cold then s.trail else s.trail.flush }
  let s := (s.rebooted kind).setTamper fun t => let t := t.coldFields; if kind = ResetKind.lifeCycle then t.lifeFields else t
  let s := { s with boot := { state := .booting, step := 7, kind := kind, at_ := s.now, scrambleDue := true, alarmed := alarmed, held := false
                              powered := true } }
  let s := s.collapseTest
  let was := s.life.state
  let (s, reps, wiped) := s.bootFuses t.otp
  let s := (s.bootLog kind t.sram t.mram reps wiped cancelled discarded).bootFirmware t.fw0 t.fw1
  let s := s.stateTaken was wiped
  let s := (s.wardenTo 0 .selfTest).wardenTo 1 .selfTest
  let s := if s.tamper.strikePending then { s with doms := s.doms.map fun (p : Nat × Dom) => (p.1, { p.2 with keys := [] }) } else s
  let s := if wiped.isSome then s else State.advancedEntries before s
  (s.startSources.bootTested t).trainHost

/-- Main power stands. -/
def State.powerUp (s : State) : State :=
  { s with supplies := { s.supplies with p12v := true, p12vFrom := s.now, p3v3 := true, cell := true, emberSource := .aux } }

/-- The main domain waits in the reset that EXTEST held it in (R407; log entry 36). -/
def State.afterExtest (s : State) : Bool :=
  s.boot.powered && s.boot.held && !s.life.extest && s.boot.state != .halted && s.tamper.machine != tamperHalted

/-- A module just made, whose first boot has not begun (log entry 10). -/
def State.unbooted (s : State) : Bool := s.boot.state = .booting && s.boot.step = 0

/-- COLD_RESET (R440, R444): main power applied after its absence; the operand says how the self tests of the boot come out, the first boot of the
module among them. -/
def execColdReset (sram mram : Bool) (fw : Bool × Bool) (units : UnitTests) (s : State) : Answer :=
  if s.boot.powered && !s.afterExtest && !s.unbooted then .next s else .next (s.powerUp.bootStart .cold (.of sram mram fw units))

/-- LIFE_CYCLE_RESET (R399): within 1 ms of an IMMEDIATE transition; a STRIKE in progress absorbs it (R441). -/
def execLifeCycleReset (sram mram : Bool) (fw : Bool × Bool) (units : UnitTests) (s : State) : Answer :=
  if s.running && s.life.pendingReset && !s.tamper.striking then .next (s.bootStart .lifeCycle (.of sram mram fw units)) else .next s

/-- STRIKE_RESET (R377 stage 4): after stage 3 and the completions of the aborted commands, which link after it (R27). -/
def execStrikeReset (sram mram : Bool) (fw : Bool × Bool) (units : UnitTests) (s : State) : Answer :=
  if s.running && s.tamper.striking then
    let s := s.postAborted.setTamper fun t => { t with sequencer := strikeDone }
    .next (s.bootStart .strike (.of sram mram fw units))
  else .next s

/-! ### The end of the boot (R446) -/

/-- The boot's end in LOCKED. -/
def State.bootLocked (s : State) : Bool :=
  s.tamper.machine = tamperLock || s.tamper.machine = tamperStriking || s.boot.kind = .strike || s.boot.emberLost || s.boot.alarmed

/-- The wardens after their self tests (R348): the first that passes holds the grant. -/
def State.bootWardens (s : State) (a b : Bool) : State :=
  let beats := fun (w : Warden) => { w with progress := s.now, wireLast := s.now, fabricLast := s.now }
  let s := (s.setWarden 0 beats).setWarden 1 beats
  let s := { s with guy := { s.guy with code := if a then grantA else grantB } }
  (s.wardenTo 0 (if a then .active else .failed)).wardenTo 1 (if !b then .failed else if a then .syncing else .active)

/-- The pitches as the boot leaves them: LOCKED with the module, or where a PITCH_LOCK marks them. -/
def Dom.bootMode (D : Dom) (locked : Bool) : Dom :=
  if D.mode = .absent then D else { D with mode := if locked || D.lockedByCommand then .locked else .active }

/-- Entries of LOCK entered at the end of a boot. -/
def State.bootLock (s : State) : State :=
  let s := s.setTamper fun t => { t with machine := tamperLock, inForce := .lock, sequencer := strikeArmed }
  let s := s.setShed true
  (s.log 0x1012 (originOf 0 0) critical (leBytes 1 3 ++ s.firstAlarm 0xFF)).raise 0x18C

/-- The count of the doorbells and boot words ignored during the boot (R445). -/
def State.ignoredEntry (s : State) : State :=
  if s.trail.bootIgnored = 0 then s
  else
    let n := s.trail.bootIgnored
    ({ s with trail := { s.trail with bootIgnored := 0 } }).log 0x1700 (originOf 0 0) errorSeverity (leBytes 8 0 ++ leBytes 8 n)

/-- HALTED (R446): the cause is held in the last-gasp registers. -/
def State.bootHalted (s : State) : State :=
  let s := (s.wardenTo 0 .failed).wardenTo 1 .failed
  let e : LogEntry := { code := codeWarden, origin := originOf 9 0, flags := warning, data := s.wardenData 3 0, time := s.clock.tai }
  { s with boot := { s.boot with state := .halted, held := true }, trail := s.trail.hold e }

/-- The boot reaches step 12 with a warden. -/
def State.bootDone (s : State) (a b : Bool) : State :=
  let s := (s.bootWardens a b).ignoredEntry
  let locked := s.bootLocked
  let before := s
  let entered := fun (p : Nat) => (before.dom p).mode != .locked
  let s := { s with doms := s.doms.map fun (p : Nat × Dom) => (p.1, if p.1 < 256 then p.2.bootMode locked else p.2)
                    boot := { s.boot with step := 12, state := if locked then .locked else if s.life.recovery then .recovery else .ready } }
  let s := s.foldDoms ((List.range 256).filter fun p => (s.dom p).mode = .locked && entered p) fun s p => s.pitchEvent p evLocked
  let s := if locked then s.bootLock else s
  (s.setTamper fun t => { t with strikePending := false, emberLock := false }).trainHost

/-- BOOT_END (R446): the operands say which wardens pass their self tests. A module that has just been made runs the boot's first
steps here (log entry 10). -/
def execBootEnd (wardenA wardenB : Bool) (s : State) : Answer :=
  if s.boot.state = .booting && s.running then
    let s := if s.boot.step < 7 then s.bootStart .cold {} else s
    if !wardenA && !wardenB then .next s.bootHalted else .next (s.bootDone wardenA wardenB)
  else .next s

end Sys2Proof.Machine
end

