-- ==== Sys2Proof/Machine/Branches.lean ====
section
/-!
DEFINITION. Sys2Proof/Machine/Branches.lean: the branches and jumps of KTW, and LEAC (R282, R284, Table 11-6).
-/

namespace Sys2Proof.Machine

/-- An address `off` instructions from an instruction. -/
def target (pc : BitVec 64) (off : Int) : BitVec 64 := pc + BitVec.ofInt 64 (4 * off)

/-- A branch on a BOOL register. -/
def State.branch (s : State) (k w : Nat) (rd : BitVec 5) (off : Int) (on : Bool) : Answer :=
  s.insnCore k w fun K => (consume (K.operands [rd]) [[.bool]]).map fun l =>
    if l.any fun x => (x.val = 1) = on then { K with pc := target K.pc off } else K.advance

/-- BT (R290): taken if the BOOL is 1. -/
def execBt (core : Nat) (rd : BitVec 5) (imm : BitVec 19) (s : State) : Answer := s.branch core (wordU 0x50 rd imm) rd imm.toInt true

/-- BF (R290): taken if the BOOL is 0. -/
def execBf (core : Nat) (rd : BitVec 5) (imm : BitVec 19) (s : State) : Answer := s.branch core (wordU 0x51 rd imm) rd imm.toInt false

/-- J (R286). -/
def execJ (core : Nat) (off : BitVec 24) (s : State) : Answer :=
  s.insnCore core (wordJ 0x52 off) fun K => .ok { K with pc := target K.pc off.toInt }

/-- JAL (R286): LNK is the CODE of the next instruction. -/
def execJal (core : Nat) (off : BitVec 24) (s : State) : Answer :=
  s.insnCore core (wordJ 0x53 off) fun K => .ok { K.set wLnk (kCode (K.pc + 4)) with pc := target K.pc off.toInt }

/-- JR (R286): to a CODE word. -/
def execJr (core : Nat) (rs1 : BitVec 5) (s : State) : Answer :=
  s.insnCore core (wordR 0x54 0 rs1 0 0 0) fun K => (consume (K.operands [rs1]) [[.code]]).map fun _ =>
    { K with pc := (K.reg rs1).val }

/-- JALR (R286): the target is read before LNK is written. -/
def execJalr (core : Nat) (rs1 : BitVec 5) (s : State) : Answer :=
  s.insnCore core (wordR 0x55 0 rs1 0 0 0) fun K => (consume (K.operands [rs1]) [[.code]]).map fun _ =>
    { K.set wLnk (kCode (K.pc + 4)) with pc := (K.reg rs1).val }

/-- LEAC (R286). -/
def execLeac (core : Nat) (rd : BitVec 5) (imm : BitVec 19) (s : State) : Answer :=
  s.insnCore core (wordU 0x56 rd imm) fun K => .ok ((K.set rd (kCode (target K.pc imm.toInt))).advance)

end Sys2Proof.Machine
end

