-- ==== Sys2Proof/Machine/Power.lean ====
section
/-!
DEFINITION. Sys2Proof/Machine/Power.lean: known events and horizons, the power states of the regions, BIVVY, waking and thermal hold (R103,
R229, R240, R342 to R347, R436, R482).
-/

namespace Sys2Proof.Machine

/-! ### Known events (R342 Table 13-8) -/

/-- The earliest instant of a list. -/
def earliest : List Nat → Option Nat
  | [] => none
  | t :: ts => match earliest ts with | some u => some (min t u) | none => some t

/-- Instants at which a region is needed: self tests of quarantined cells and LIUs, retests of its failed sources. -/
def State.regionEvents (s : State) (r : Nat) : List Nat :=
  ((List.range 288).filterMap fun i =>
      if (s.cell (288 * r + i)).state = .quarantined then some ((s.cell (288 * r + i)).since + 1000000000) else none) ++
    ((List.range 4).filterMap fun i =>
      if (s.liu (4 * r + i)).state = .quarantined then some ((s.liu (4 * r + i)).since + 1000000000) else none) ++
    ((List.range 3).filterMap fun i => if (s.source r i).state = .failed then some ((s.source r i).failedAt + 1000000000) else none)

/-- The instant at which TIME_NOW reads a value still to come. -/
def State.atTai (s : State) (t : Nat) : Nat := s.now + s.clock.until t

/-- Instants that the wardens or the twin port are needed at. -/
def State.wardenEvents (s : State) : List Nat :=
  let sets := (chipSet :: tamperSet :: List.range 256).filterMap fun k =>
    if (s.stage k).state = .pending then some (s.atTai ((s.stage k).boundary * 1000000000)) else none
  let time := match s.clock.timeSet with | some _ => [s.atTai ((s.clock.tai / 1000000000 + 1) * 1000000000)] | none => []
  let edges := (s.doms.filter fun p => p.1 < 256).flatMap fun p => p.2.keys.flatMap fun k =>
    match s.lookKey p.1 k.1 with
    | .found a _ _ =>
      ((if a.notBefore = 0 then [] else [a.notBefore]) ++ (if a.notAfter = 0xFFFFFFFFFFFFFFFF then [] else [a.notAfter + 1])).filterMap fun t =>
        if s.clock.tai < t then some (s.atTai t) else none
    | _ => []
  let twins := s.doms.filter fun p => p.2.twin.mode = .attached
  let beats := if s.link.mode = .secure && twins != [] then [s.now + 20000] else []
  let timeouts := twins.map fun p => p.2.twin.lastHeard + p.2.twin.timeout * 1000
  let takeback := if s.activeWarden = 1 && (s.warden 0).state = .mirrored && !s.guy.takebackOff then
      [max (s.warden 0).mirroredSince s.guy.abandonedAt + s.chip.takeback * 100000000] else []
  sets ++ time ++ edges ++ beats ++ timeouts ++ takeback

/-- Instants that the queues and draws wait for. -/
def State.queueEvents (s : State) : List Nat :=
  s.doms.flatMap fun p =>
    (match p.2.gapSince with | some t => [t + p.2.gapTimeout] | none => []) ++
      (p.2.queues.flatMap fun q => q.2.owed.map (·.2) ++ (match q.2.aggSince with
        | some t => if q.2.aggTime != 0 && q.2.aggWaiting != 0 then [t + q.2.aggTime * 1000] else []
        | none => [])) ++
      p.2.cmds.filterMap fun c => match c.waitFrom with | some t => if c.awaits then some (t + c.waitLimit p.1) else none | none => none

/-- The instants of all known events. -/
def State.knownEvents (s : State) : List Nat := s.wardenEvents ++ s.queueEvents ++ (List.range 8).flatMap s.regionEvents

/-- H_r, in ns; none is unbounded. -/
def State.horizon (s : State) (r : Nat) : Option Nat := (earliest (s.regionEvents r)).map fun t => t - s.now

/-- The smaller of H_c and every H_r. -/
def State.chipHorizon (s : State) : Option Nat :=
  (earliest s.knownEvents).map fun t => t - s.now

/-! ### The choice of a state (R344) -/

/-- Depth and break-even of Table 13-9. -/
def PowerState.depth : PowerState → Nat
  | .active => 0 | .doze => 1 | .nap => 2 | .rest => 3

def PowerState.breakEven : PowerState → Nat
  | .active => 0 | .doze => 200 | .nap => 40000 | .rest => 5000000

/-- A limit on exit latency: the smaller of H − 10 µs and the budget. -/
def powerLimit (h : Option Nat) (budget : Nat) : Nat := match h with | some h => min (h - 10000) budget | none => budget

/-- The deepest state that the limits allow. -/
def State.choosePower (s : State) (r : Nat) : PowerState :=
  let h := s.horizon r
  let limit := powerLimit h (s.budget r)
  (([.rest, .nap, .doze] : List PowerState).find? fun p =>
    p.depth ≤ s.chip.deepest && p.exitNs ≤ limit && (match h with | some h => decide (p.breakEven ≤ h) | none => true)).getD .active

/-- A region holds no job, scrub or capture, and none of its output is outstanding. -/
def State.regionIdle (s : State) (r : Nat) : Bool :=
  !(s.doms.any fun p => p.2.cmds.any fun c => !c.entry.mgmt && c.region = r && (c.phase = .running || c.phase = .computed || c.phase = .linking)) &&
    !((List.range 257).any fun d => (s.headJob d r).isSome) &&
    !((List.range 4).any fun i => (s.liu (4 * r + i)).contexts.any fun x => x.2 != 0) && !((List.range 3).any fun i => (s.source r i).capture.isSome)

/-! ### Entering and leaving (R229, R240, R343, R436) -/

/-- The sources of a region OFF, or STARTING again, but for the RETIRED ones. -/
def State.sourcesTo (s : State) (r : Nat) (new : SourceState) : State :=
  (List.range 3).foldl (fun s i =>
    if (s.source r i).state = .retired then s
    else if new = .starting then s.startSource r i else s.setSource r i new) s

/-- A region enters a state, which ends any exit. REST keeps its cache, seed pool and core memories, and not its blinding DRBG, its window in
progress or its buffer. -/
def State.powerTo (s : State) (r : Nat) (p : PowerState) : State :=
  let base := s.regionCycles r
  let s := s.setRegion r fun R => { R with power := p, exiting := none, cycleBase := base, cycleSince := s.now }
  if p = .rest then
    let s := s.setRegion r fun R =>
      { R with buffer := [], granules := [], entropy := { R.entropy with window := none, blinding := {}, blindSeed := none } }
    s.sourcesTo r .off
  else s

/-- A region runs again: from REST or BIVVY with its counters at their reset values, its sources starting, and its blinding DRBG instantiated while
seeds last. -/
def State.regionUp (s : State) (r : Nat) (restarts : Bool) : State :=
  let s := s.powerTo r .active
  if restarts then
    let s := { s with perf := s.perf.clearRegion r }
    (s.sourcesTo r .starting).startBlindings [r]
  else s

/-- The governor works: the boot is over, the module is not in BIVVY or in thermal hold. -/
def State.governs (s : State) : Bool := s.running && s.boot.state != .booting && !s.boot.bivvy && !s.supplies.thermalHold

/-- GOVERNOR_DECISION (R103, R344): an idle region takes its state; a shallower one begins the exit. -/
def execGovernorDecision (region : Nat) (s : State) : Answer :=
  let R := s.region region
  if !s.governs || R.service != .service || R.exiting.isSome || !s.regionIdle region then .next s
  else
    let p := s.choosePower region
    if p = R.power then .next s
    else if R.power.depth < p.depth then .next (s.powerTo region p)
    else .next (s.setRegion region fun R => { R with exiting := some s.now })

/-- REGION_EXIT_START (R344): at the time of the known event − 10 µs − the exit latency; in BIVVY, the module's exit for a known event of any
kind. -/
def execRegionExitStart (region : Nat) (s : State) : Answer :=
  let R := s.region region
  if s.running && s.boot.bivvy then
    match earliest s.knownEvents with
    | some t =>
      if s.boot.waking.isSome then .next s
      else
        let s := s.passTo (t - 10000 - 3000000)
        .next { s with boot := { s.boot with waking := some s.now } }
    | none => .next s
  else match earliest (s.regionEvents region) with
  | none => .next s
  | some t =>
    if !s.governs || R.power = .active || R.exiting.isSome then .next s
    else
      let s := s.passTo (t - 10000 - R.power.exitNs)
      .next (s.setRegion region fun R => { R with exiting := some s.now })

/-- The smallest latency budget of the module (R345). -/
def State.moduleBudget (s : State) : Nat :=
  (s.doms.filter fun x => x.1 < 256 && x.2.mode != .absent).foldl (fun b x => min b x.2.conf.latencyBudget) s.chip.opBudget

/-- A management command that has been fetched and has not completed. -/
def Dom.managing (D : Dom) : Bool := D.cmds.any (·.entry.mgmt) || D.waiting.any (·.entry.mgmt)

/-- The conditions of R345. -/
def State.mayBivvy (s : State) : Bool :=
  let h := s.chipHorizon
  ((List.range 8).all fun r => (s.region r).service != .service || (s.regionIdle r && s.choosePower r = .rest)) &&
    !(s.doms.any fun p => p.2.managing) && s.chip.deepest = 4 &&
    3000000 ≤ powerLimit h s.moduleBudget && (match h with | some h => decide (2000000000 ≤ h) | none => true)

/-- BIVVY_ENTER (R345): as REST, and the core memories are lost. -/
def execBivvyEnter (s : State) : Answer :=
  if !s.governs || !s.mayBivvy then .next s
  else
    let s := (List.range 8).foldl (fun s r => s.powerTo r .rest) s
    .next { s with boot := { s.boot with bivvy := true, waking := none }, cores := [] }

/-! ### Waking (R346) -/

/-- The region that the arbiter wakes for a ready job where none of its regions is ACTIVE: the smallest exit latency, and the lowest number. -/
def State.wakeChoice (s : State) (l : List Nat) : Option Nat :=
  if l.any fun r => (s.region r).power = .active then none
  else l.find? fun r => l.all fun q => (s.region r).power.exitNs ≤ (s.region q).power.exitNs

/-- A ready job wakes a region: it is the arbiter's choice, or the job has waited longer than the region's exit latency. -/
def State.wakes (s : State) (r : Nat) : Bool :=
  s.doms.any fun p => p.2.cmds.any fun c => !c.entry.mgmt && s.mayStart p.1 c &&
    (let l := s.regionsFor p.1 c
     s.wakeChoice l = some r || (l.contains r && match c.readySince with | some t => t + (s.region r).power.exitNs < s.now | none => false))

/-- WAKE (R346): a ready job begins the exit of a region; an unknown event, that of the module (8) from BIVVY. -/
def execWake (region : Nat) (s : State) : Answer :=
  if !s.running then .next s
  else if s.boot.bivvy then
    if s.boot.waking.isSome then .next s else .next { s with boot := { s.boot with waking := some s.now } }
  else if region ≥ 8 || s.supplies.thermalHold || (s.region region).power = .active || (s.region region).exiting.isSome || !s.wakes region then
    .next s
  else .next (s.setRegion region fun R => { R with exiting := some s.now })

/-- POWER_STATE_EXIT (R343, R365): the exit latency of a region, or of the module (8), has passed; `failed` names the regions whose self test on
leaving REST or BIVVY fails. -/
def execPowerStateExit (region : Nat) (failed : List Nat) (s : State) : Answer :=
  if !s.running then .next s
  else if region ≥ 8 then
    match s.boot.waking with
    | none => .next s
    | some t =>
      if !s.boot.bivvy then .next s
      else
        let s := s.passTo (t + 3000000)
        let s := { s with boot := { s.boot with bivvy := false, waking := none } }
        .next ((List.range 8).foldl (fun s r =>
          if (s.region r).service != .service then s
          else
            let s := s.regionUp r true
            if failed.contains r then s.isolateRegion r else s) s)
  else
    match (s.region region).exiting with
    | none => .next s
    | some t =>
      if s.boot.bivvy || s.supplies.thermalHold then .next s
      else
        let from_ := (s.region region).power
        let s := (s.passTo (t + from_.exitNs)).regionUp region (from_ = .rest)
        .next (if from_ = .rest && failed.contains region then s.isolateRegion region else s)

/-! ### Thermal hold (R482) -/

/-- T_H, in °C. -/
def State.holdThreshold (s : State) : Int := min 105 (s.tamper.upperTrip - 5)

def codeThermalHold : Nat := 0x1380

def codeThermalRelease : Nat := 0x1381

/-- THERMAL_HOLD (R482): the hottest die is at T_H, or the flow (in mL/min) has stayed below 0.4 L/min for 1 s. Every region enters REST, and its
commands wait, to run again from their admitted inputs; a custom function ends by CANCEL, which a core in a trap handler does not take (R303). -/
def execThermalHold (die : Int) (flow : Nat) (s : State) : Answer :=
  if !s.running || s.supplies.thermalHold || !(s.holdThreshold ≤ die || flow < 400) then .next s
  else
    let s := { s with supplies := { s.supplies with thermalHold := true } }
    let s := s.log codeThermalHold (originOf 0 0) warning (zeros 8 ++ leBytes 2 0 ++ leBytes 2 1)
    let s := s.rerun (fun c => !c.entry.mgmt && (c.phase = .running || c.phase = .computed)) none none
    let s := s.dropJobs fun _ => true
    let s := (List.range 96).foldl (fun s k => match (s.core k).invocations with
      | i :: _ => (if (s.core k).inTrap then s else s.take k { cause := 0x20 } true (s.core k).pc).clearInvocation k i
      | [] => s) s
    .next ((List.range 8).foldl (fun s r => s.powerTo r .rest) s)

/-- THERMAL_RELEASE (R482): every die below T_H − 10 °C, and the flow at 0.8 L/min or more for 10 s. -/
def execThermalRelease (die : Int) (flow : Nat) (s : State) : Answer :=
  if !s.running || !s.supplies.thermalHold || !(die < s.holdThreshold - 10) || flow < 800 then .next s
  else
    let s := { s with supplies := { s.supplies with thermalHold := false } }
    .next (s.log codeThermalRelease (originOf 0 0) warning (zeros 8 ++ leBytes 2 0 ++ leBytes 2 1))

end Sys2Proof.Machine
end

