-- ==== Sys2Proof/Machine/Bus.lean ====
section
/-!
DEFINITION. Sys2Proof/Machine/Bus.lean: the management bus: SMBus, MCTP control messages, PLDM and the sensors (R424, R468 to R470, R483,
R490). The packets have the form of DSP0237, DSP0236, DSP0240 and DSP0248 (PRESUMED, log entry 35).
-/

namespace Sys2Proof.Machine

/-! ### Packets (R468, R469) -/

/-- The PEC of SMBus: CRC-8 with polynomial 0x07. -/
def crc8 (m : Bytes) : Byte :=
  let step := fun (c : Byte) => if c.getLsbD 7 then (c <<< 1) ^^^ 0x07#8 else c <<< 1
  m.foldl (fun c b => (List.range 8).foldl (fun c _ => step c) (c ^^^ b)) 0

def pecHolds (b : Bytes) : Bool := b != [] && b.getLast? == some (crc8 b.dropLast)

/-- Number of the entry of a packet with a bad PEC (log entry 22). -/
def codePec : Nat := 0x1708

/-- A packet with a bad PEC: ignored, counted and logged. -/
def State.badPec (s : State) : State :=
  ({ s with smb := { s.smb with badPec := s.smb.badPec + 1 } }).log codePec (originOf 0 0) errorSeverity []

/-- The interface answers: P3V3_AUX stands and the boot has reached step 3. -/
def State.busAnswers (s : State) : Bool :=
  s.supplies.p3v3 && s.running && s.boot.state != .halted && !(s.boot.state = .booting && s.boot.step < 3)

/-- A whole message, with the packet that ended it, where this packet ends one for the endpoint: pieces are put together by their start and
end flags. -/
def State.packetIn (s : State) (b : Bytes) : Option Bytes × State :=
  let p := slice b 8 (b.length - 9)
  let flags := byteAt b 7
  let dest := byteAt b 5
  let whole := b.length ≥ 10 && byteAt b 0 = 2 * s.smb.address && byteAt b 1 = 0x0F && byteAt b 2 + 4 = b.length &&
    byteAt b 4 = 1 && (dest = 0 || dest = s.smb.eid || dest = 255)
  if !whole then (none, s)
  else
    let m := if bit flags 7 then p else s.smb.incoming ++ p
    if bit flags 6 then (some m, { s with smb := { s.smb with incoming := [] } })
    else (none, { s with smb := { s.smb with incoming := m } })

/-- The packets of a message, 64 bytes at a time, to the sender of a request. -/
def State.packetsOut (s : State) (request m : Bytes) : State :=
  let ps := chunks 64 m
  ps.zipIdx.foldl (fun s p =>
    let flags := 128 * b2n (p.2 = 0) + 64 * b2n (p.2 + 1 = ps.length) + 16 * (p.2 % 4) + byteAt request 7 % 8
    let b := leBytes 1 (byteAt request 3 / 2 * 2) ++ [0x0F] ++ leBytes 1 (p.1.length + 5) ++ leBytes 1 (2 * s.smb.address + 1) ++ [1] ++
      leBytes 1 (byteAt request 6) ++ leBytes 1 s.smb.eid ++ leBytes 1 flags ++ p.1
    s.emit (.smbus (b ++ [crc8 b]))) s

/-- The command of a message: its type, PLDM type and code. -/
def commandOf (m : Bytes) : Nat × Nat × Nat :=
  if byteAt m 0 % 128 = 0 then (0, 0, byteAt m 2)
  else if byteAt m 0 % 128 = 1 then (1, byteAt m 2 % 64, byteAt m 3)
  else (byteAt m 0 % 128, 0, 0)

/-- The commands that the endpoint supports. -/
def busCommands : List (Nat × Nat × Nat) :=
  [(0, 0, 1), (0, 0, 2), (0, 0, 3), (0, 0, 4), (0, 0, 5), (1, 0, 2), (1, 0, 3), (1, 0, 4), (1, 0, 5), (1, 2, 0x11), (1, 2, 0x21), (1, 2, 0x50), (1, 2, 0x51)]

/-- The head of a response to a message. -/
def responseHead (m : Bytes) : Bytes :=
  if byteAt m 0 % 128 = 0 then [0] ++ leBytes 1 (byteAt m 1 % 32) ++ leBytes 1 (byteAt m 2)
  else leBytes 1 (byteAt m 0 % 128) ++ leBytes 1 (byteAt m 1 % 32) ++ leBytes 1 (byteAt m 2) ++ leBytes 1 (byteAt m 3)

/-- The error completion of a message that no supported command is: 5 for the command, 0x20 for a PLDM type that the endpoint has none of. -/
def unsupported (m : Bytes) : Byte :=
  let (t, p, _) := commandOf m
  if t = 1 && p != 0 && p != 2 then 0x20 else 5

/-- The row of a command: its packet is checked, and its message answered with a completion code and data; a message of no supported command
gets the error completion of its standard (R469). -/
def State.busRow (s : State) (command : Nat × Nat × Nat) (b : Bytes) (f : State → Bytes → Bytes × State) : Answer :=
  if !s.busAnswers then .next s
  else if !pecHolds b then .next s.badPec
  else
    match s.wakeModule.packetIn b with
    | (none, s) => .next s
    | (some m, t) =>
      if commandOf m = command then
        let (r, t) := f t m
        .next (t.packetsOut b (responseHead m ++ r))
      else if busCommands.contains (commandOf m) then .next s
      else .next (t.packetsOut b (responseHead m ++ [unsupported m]))

/-! ### MCTP control messages (R469) -/

/-- SET_ENDPOINT_ID (R469): the bus owner assigns or forces the EID. -/
def execSetEndpointId (packet : Bytes) (s : State) : Answer :=
  s.busRow (0, 0, 1) packet fun s m =>
    let e := byteAt m 4
    if byteAt m 3 % 4 ≥ 2 || e = 0 || e = 255 then ([2], s)
    else ([0, 0] ++ leBytes 1 e ++ [0], { s with smb := { s.smb with eid := e } })

/-- GET_ENDPOINT_ID (R469): no EID reads as 0. -/
def execGetEndpointId (packet : Bytes) (s : State) : Answer :=
  s.busRow (0, 0, 2) packet fun s _ => ([0] ++ leBytes 1 s.smb.eid ++ [0, 0], s)

/-- GET_ENDPOINT_UUID (R469). -/
def execGetEndpointUuid (packet : Bytes) (s : State) : Answer :=
  s.busRow (0, 0, 3) packet fun s _ => ([0] ++ slice Config.uuid 0 16, s)

/-- GET_MCTP_VERSION_SUPPORT (R469): MCTP 1.3, and PLDM over it. -/
def execGetMctpVersionSupport (packet : Bytes) (s : State) : Answer :=
  s.busRow (0, 0, 4) packet fun s m =>
    let t := byteAt m 3
    if t = 0 || t = 255 then ([0, 1, 0xF1, 0xF3, 0xFF, 0], s) else if t = 1 then ([0, 1, 0xF1, 0xF0, 0xFF, 0], s) else ([0x80], s)

/-- GET_MESSAGE_TYPE_SUPPORT (R469): PLDM, beside control messages. -/
def execGetMessageTypeSupport (packet : Bytes) (s : State) : Answer :=
  s.busRow (0, 0, 5) packet fun s _ => ([0, 1, 1], s)

/-! ### PLDM, type 0 (R469) -/

/-- GET_TID (R469). -/
def execGetTid (packet : Bytes) (s : State) : Answer :=
  s.busRow (1, 0, 2) packet fun s _ => ([0] ++ leBytes 1 s.smb.tid, s)

def pldmType (t : Nat) : Bool := t = 0 || t = 2

/-- GET_PLDM_VERSION (R469); the version of a type is a value that the spec leaves open. -/
def execGetPldmVersion (packet : Bytes) (s : State) : Answer :=
  s.busRow (1, 0, 3) packet fun s m =>
    if pldmType (byteAt m 9) then
      let (v, s) := s.fresh 4
      ([0] ++ zeros 4 ++ [5] ++ v ++ leBytes 4 (crc32 v), s)
    else ([0x83], s)

/-- GET_PLDM_TYPES (R469): types 0 and 2. -/
def execGetPldmTypes (packet : Bytes) (s : State) : Answer :=
  s.busRow (1, 0, 4) packet fun s _ => ([0, 5] ++ zeros 7, s)

/-- The commands of a PLDM type, one bit each. -/
def pldmCommands (t : Nat) : Bytes :=
  leBytes 32 ((busCommands.filter fun c => c.1 = 1 && c.2.1 = t).map fun c => 2 ^ c.2.2).sum

/-- GET_PLDM_COMMANDS (R469). -/
def execGetPldmCommands (packet : Bytes) (s : State) : Answer :=
  s.busRow (1, 0, 5) packet fun s m => if pldmType (byteAt m 4) then ([0] ++ pldmCommands (byteAt m 4), s) else ([0x83], s)

/-! ### Sensors (R470, R490) -/

/-- Thousandths of a unit in a step of a numeric sensor (Table 20-7). -/
def sensorStep (n : Nat) : Int :=
  match n with
  | 1 => 500 | 2 | 3 | 7 => 100 | 4 => 50 | 5 | 6 | 8 => 10 | 9 => 1 | _ => 1000

/-- Thresholds of a numeric sensor in thousandths: lower critical and warning, upper warning and critical (Table 21-13). -/
def State.thresholds (s : State) (n : Nat) : Option Int × Option Int × Option Int × Option Int :=
  match n with
  | 1 => (none, none, some 95000, some (1000 * s.holdThreshold))
  | 2 => (none, none, some 45000, some 50000)
  | 3 => (none, none, some 50000, some 55000)
  | 4 => (some 400, some 800, none, none)
  | 5 => (some 10200, some 10800, some 13200, some 13800)
  | 6 => (none, none, some 15600, some 16000)
  | 7 => (none, none, some 168000, some 180000)
  | 8 => (some 3036, some 3135, some 3465, some 3564)
  | 9 => (some 3300, some 3400, none, none)
  | _ => (some 10000, some 25000, none, none)

/-- The state of a numeric sensor at a reading: normal, lower warning and critical, upper warning and critical. -/
def State.sensorLevel (s : State) (n : Nat) (reading : Int) : Nat :=
  let v := reading * sensorStep n
  let (lc, lw, uw, uc) := s.thresholds n
  let below := fun (x : Option Int) => match x with | some x => decide (v < x) | none => false
  let above := fun (x : Option Int) => match x with | some x => decide (v > x) || (n ≤ 3 && v = x) | none => false
  if below lc then 6 else if above uc then 9 else if below lw then 5 else if above uw then 8 else 1

def numericSensor (n : Nat) : Bool := 1 ≤ n && n ≤ 10

def stateSensor (n : Nat) : Bool := 20 ≤ n && n ≤ 23

/-- Sensors report from boot step 12 on (R469). -/
def State.sensorsReady (s : State) : Bool := s.boot.step ≥ 12

/-- What a sensor reported last becomes what it reports now. -/
def State.setLevel (s : State) (n v : Nat) : State := { s with smb := { s.smb with levels := Tab.put s.smb.levels 1 n v } }

/-- GET_SENSOR_READING (R470): `reading` is what the sensor measures, in its own steps. -/
def execGetSensorReading (packet : Bytes) (reading : Int) (s : State) : Answer :=
  s.busRow (1, 2, 0x11) packet fun s m =>
    let n := field m 4 2
    if !numericSensor n then ([0x80], s)
    else if !s.sensorsReady then
      let (v, s) := s.fresh 4
      ([0, 5, 2, 0, 0, 0, 0] ++ v, s)
    else
      let x := s.sensorLevel n reading
      ([0, 5, 0, 0] ++ leBytes 1 x ++ leBytes 1 (Tab.get s.smb.levels 1 n) ++ leBytes 1 x ++ leBytes 4 (Int.toNat (reading % 4294967296)), s.setLevel n x)

/-- The reading of a state sensor (Table 20-7); PLDM numbers states from 1. -/
def State.stateReading (s : State) (n : Nat) : Nat :=
  match n with
  | 20 => s.boot.state.code + 1
  | 21 => if s.boot.bivvy then 3 else if (List.range 8).any (fun r => (s.region r).power != .active) then 2 else 1
  | 22 => if s.unprotected then 2 else 1
  | _ => s.trail.state + 1

/-- GET_STATE_SENSOR_READINGS (R470). -/
def execGetStateSensorReadings (packet : Bytes) (s : State) : Answer :=
  s.busRow (1, 2, 0x21) packet fun s m =>
    let n := field m 4 2
    if !stateSensor n then ([0x80], s)
    else if !s.sensorsReady then ([0, 1, 2, 0, 0, 0], s)
    else
      let x := s.stateReading n
      ([0, 1, 0] ++ leBytes 1 x ++ leBytes 1 (Tab.get s.smb.levels 1 n) ++ leBytes 1 x, s.setLevel n x)

/-- The sensors, in the order of their records. -/
def sensorList : List Nat := [1, 2, 3, 4, 5, 6, 7, 8, 9, 10, 20, 21, 22, 23]

/-- A sensor's record: the fields that the spec does not give, then its thresholds, lower critical first; an absent one is all ones. -/
def State.pdr (s : State) (n : Nat) : Bytes :=
  let t := fun (x : Option Int) => match x with | some x => leBytes 4 (Int.toNat ((x / sensorStep n) % 4294967296)) | none => leBytes 4 0xFFFFFFFF
  let (lc, lw, uw, uc) := s.thresholds n
  Config.pdrHead n ++ leBytes 2 n ++ (if numericSensor n then t lc ++ t lw ++ t uw ++ t uc else [])

/-- GET_PDR_REPOSITORY_INFO (R469): the records' count and sizes; their times are values that the spec leaves open. -/
def execGetPdrRepositoryInfo (packet : Bytes) (s : State) : Answer :=
  s.busRow (1, 2, 0x50) packet fun s _ =>
    let (times, s) := s.fresh 26
    let l := sensorList.map fun n => (s.pdr n).length
    ([0, 0] ++ times ++ leBytes 4 l.length ++ leBytes 4 l.sum ++ leBytes 4 (l.foldl max 0) ++ [0], s)

/-- GET_PDR (R470, R490): the record of a handle, from 1; handle 0 is the first. -/
def execGetPdr (packet : Bytes) (s : State) : Answer :=
  s.busRow (1, 2, 0x51) packet fun s m =>
    let h := max 1 (field m 4 4)
    match sensorList[h - 1]? with
    | none => ([0x82], s)
    | some n =>
      let r := (s.pdr n).take (field m 13 2)
      ([0] ++ leBytes 4 (if h < sensorList.length then h + 1 else 0) ++ zeros 4 ++ [5] ++ leBytes 2 r.length ++ r, s)

/-! ### SMBus itself (R424, R468, R483) -/

/-- SMBUS_ARP (R468): Assign Address, for this module's identifier. -/
def execSmbusArp (packet : Bytes) (s : State) : Answer :=
  if !s.busAnswers then .next s
  else if !pecHolds packet then .next s.badPec
  else if packet.length = 21 && slice packet 0 3 = [0xC2, 0x04, 17] && slice packet 3 16 = slice Config.udid 0 16 then
    .next { s.wakeModule with smb := { s.smb with address := byteAt packet 19 / 2 } }
  else .next s

/-- SMB_CLK_TIMEOUT (R468, R483): the bus is released and the interface resets itself. -/
def execSmbClkTimeout (s : State) : Answer := .next { s with smb := { s.smb with incoming := [] } }

/-- SMB_DAT_TIMEOUT (R483): the interface releases the bus. -/
def execSmbDatTimeout (s : State) : Answer := .next { s with smb := { s.smb with incoming := [] } }

/-- ALERT_RESPONSE_ADDRESS (R468): while SMB_ALERT_N is low, the module replies with its address. -/
def execAlertResponseAddress (s : State) : Answer :=
  if s.busAnswers && s.smbAlertLow then
    let b := leBytes 1 (2 * s.smb.address)
    .next (s.emit (.smbus (b ++ [crc8 b])))
  else .next s

end Sys2Proof.Machine
end

