-- ==== Sys2Proof/Machine/CoreSystem.lean ====
section
/-!
DEFINITION. Sys2Proof/Machine/CoreSystem.lean: the CSRs, RSWAP and ERET, the TIMER and PERF interrupts, words that are no instruction, and
the entry of a custom function (R280, R282, R300 to R304, R312, R318 to R320, R433).
-/

namespace Sys2Proof.Machine

/-! ### CSRs (R301 Table 11-11) -/

/-- CSR numbers with the tag of their words. -/
def csrTag (n : Nat) : Option Tag :=
  match n with
  | 0x000 | 0x002 | 0x003 | 0x005 | 0x006 | 0x008 | 0x010 | 0x011 => some .bits
  | 0x001 => some .code
  | 0x004 => some .addr
  | _ => none

/-- IPEND: bit 0 CANCEL, bit 1 WATCHDOG, bit 2 PERF, bit 3 TIMER (Table 11-12). -/
def State.pendingBits (s : State) (k : Nat) : BitVec 64 :=
  BitVec.ofNat 64 (b2n (s.cancelDue k) + 2 * b2n ((s.core k).ipend.getLsbD 1) + 4 * b2n ((s.core k).ipend.getLsbD 2) + 8 * b2n (s.timerPending k))

/-- The value of a CSR. -/
def State.csr (s : State) (k n : Nat) : BitVec 64 :=
  let K := s.core k
  match n with
  | 0x000 => K.tstatus
  | 0x001 => K.tpc
  | 0x002 => K.tcause
  | 0x003 => K.tval
  | 0x004 => K.tvec
  | 0x005 => K.ien
  | 0x006 => s.pendingBits k
  | 0x008 => K.timecmp
  | 0x010 => s.cycleOf k
  | _ => K.instret

/-- A CSR after a write: MODE and the RO registers keep their values, and bits 0 and 1 of IEN read 1. -/
def Core.setCsr (K : Core) (n : Nat) (v : BitVec 64) : Core :=
  match n with
  | 0x000 => { K with tstatus := (v &&& 0x17) ||| (K.tstatus &&& 0x8) }
  | 0x001 => { K with tpc := v }
  | 0x004 => { K with tvec := v }
  | 0x005 => { K with ien := (v &&& 0xC) ||| 3 }
  | 0x008 => { K with timecmp := v }
  | _ => K

/-- Whether FUNCTION mode may read a CSR (R301, R437). -/
def State.mayRead (s : State) (k n : Nat) : Bool :=
  (n = 0x010 || n = 0x011) && (match (s.core k).invocations with | i :: _ => s.counterAccess i.pitch | [] => false)

/-- CSRR (R301, R437). -/
def execCsrr (core : Nat) (rd : BitVec 5) (csr : BitVec 14) (s : State) : Answer :=
  let w := wordI 0x90 rd 0 csr
  s.insnCore core w fun K =>
    match csrTag csr.toNat with
    | none => .error (wordTrap illegalInsn w)
    | some t =>
      if K.function && !s.mayRead core csr.toNat then .error (wordTrap privCause w)
      else .ok ((K.set rd { tag := t, val := s.csr core csr.toNat }).advance)

/-- CSRW (R284, R301): the RD field names its source. -/
def execCsrw (core : Nat) (rd : BitVec 5) (csr : BitVec 14) (s : State) : Answer :=
  let w := wordI 0x91 rd 0 csr
  s.insnCore core w fun K =>
    match csrTag csr.toNat with
    | none => .error (wordTrap illegalInsn w)
    | some t =>
      if K.function then .error (wordTrap privCause w)
      else (consume (K.operands [rd]) [[t]]).map fun _ => (K.setCsr csr.toNat (K.reg rd).val).advance

/-- RSWAP (R312): the standby set becomes active, and the former active set is cleared. -/
def execRswap (core : Nat) (s : State) : Answer :=
  let w := wordR 0x92 0 0 0 0 0
  s.insnCore core w fun K =>
    if K.function then .error (wordTrap privCause w)
    else .ok ({ K with active := K.standby, standby := [] } : Core).advance

/-- ERET (R300). -/
def execEret (core : Nat) (s : State) : Answer :=
  let w := wordR 0x93 0 0 0 0 0
  s.insnCore core w fun K =>
    if K.function then .error (wordTrap privCause w)
    else
      let m := K.tstatus.getLsbD 4
      let ie := K.tstatus.getLsbD 1
      .ok { K with pc := K.tpc, tstatus := BitVec.ofNat 64 (16 * b2n m + 8 * b2n m + 2 * b2n ie + b2n ie) }

/-! ### Words that are no instruction (R280, R282) -/

/-- Opcodes of Table 11-6 with the bits of their words that may be set. -/
def insnMask (op : Nat) : Option Nat :=
  if op ∈ [0x01, 0x02, 0x03, 0x04, 0x05, 0x06, 0x08, 0x09, 0x0A, 0x0C, 0x0D, 0x0E, 0x1C, 0x1E, 0x1F, 0x20, 0x28, 0x29, 0x2A, 0x2B, 0x2C,
      0x2D, 0x36, 0x37] then some 0x007FFFFF
  else if op ∈ [0x07, 0x0B, 0x30, 0x32, 0x33, 0x80, 0x81, 0x82, 0x84] then some 0x0003FFFF
  else if op ∈ [0x10, 0x11, 0x12, 0x13, 0x14, 0x15, 0x16, 0x1D, 0x40, 0x41, 0x42, 0x43] then some 0xFFFFFFFF
  else if op ∈ [0x18, 0x19, 0x1B, 0x50, 0x51, 0x56] then some 0xFFFFFFFF
  else if op = 0x1A then some 0x7FFFFFFF
  else if op = 0x2E then some 0x0FFFFFFF
  else if op = 0x31 then some 0xF003FFFF
  else if op = 0x52 || op = 0x53 then some 0xFFFFFFFF
  else if op = 0x54 || op = 0x55 then some 0x0003E0FF
  else if op ∈ [0x68, 0x69, 0x6A, 0x6B, 0x6C, 0x6D] then some 0x000FFFFF
  else if op = 0x6F then some 0x000003FF
  else if op = 0x85 then some 0x00001FFF
  else if op = 0x90 || op = 0x91 then some 0xFFFC1FFF
  else if op = 0x92 || op = 0x93 then some 0x000000FF
  else none

/-- A word with a defined opcode and no bit set that its format does not use. -/
def validWord (w : Nat) : Bool :=
  match insnMask (w % 256) with
  | some m => w &&& m = w
  | none => false

/-- ILLEGAL_INSN (R280, R282): the word at the core's instruction address is not tagged BITS, or is no instruction, behind a SPAN prefix as
well: R295's ILLEGAL_SPAN is of words that are instructions (DEDUCED; log entry 30). -/
def execIllegalInsn (core : Nat) (word : BitVec 32) (s : State) : Answer :=
  if validWord word.toNat then
    if s.coreWaits core then .next s
    else
      let K := s.core core
      match s.fetchInsn core (K.pc.toNat + (if K.span.isSome then 4 else 0)) word.toNat with
      | .error (.trap t) => .next (s.trap core t)
      | _ => .next s
  else if s.coreWaits core then .next s
  else
    match s.fetchInsn core ((s.core core).pc.toNat + (if (s.core core).span.isSome then 4 else 0)) word.toNat with
    | .error (.trap t) => .next (s.trap core t)
    | .ok true => .next (s.trap core { cause := illegalInsn, tval := BitVec.ofNat 64 word.toNat })
    | _ => .next s

/-! ### Interrupts (R301 to R304, R433) -/

/-- PERF is pending and may be taken. -/
def State.perfDue (s : State) (k : Nat) : Bool := (s.core k).takes 2 && (s.core k).ipend.getLsbD 2

/-- TIMER (R301, R303): CYCLE has reached TIMECMP, and no lower interrupt is taken before it. -/
def execTimer (core : Nat) (s : State) : Answer :=
  if s.coreRuns core && (s.core core).takes 3 && s.timerPending core && !s.cancelDue core && !s.perfDue core then
    .next (s.take core { cause := 0x23, tval := s.cycleOf core } true (s.core core).pc)
  else .next s

/-- The WATCHDOG interrupt, which is not maskable: its handler is entered unless INTRAP or a CANCEL, which is the lower bit, holds it pending, and
the block is quarantined (R303, R364). -/
def State.watchdog (s : State) (k : Nat) : State :=
  let s :=
    if (s.core k).inTrap || s.cancelDue k then s.setCore k fun K => { K with ipend := K.ipend ||| 2#64 }
    else s.take k { cause := 0x21 } true (s.core k).pc
  s.quarantineBlock k (some (k / 12)) none

/-- WATCHDOG (R279, R364): a core has retired nothing for 20 µs outside an engine wait or has overrun its handler; or its memory's ECC
corrects and counts an error of one bit, or finds one of two, a machine check. -/
def execWatchdog (report : BlockReport) (s : State) : Answer :=
  let k := report.core
  if s.coreRuns k then
    match report.event with
    | .overrun => .next (s.watchdog k)
    | .memoryError _ false => .next ((s.count 0 k 0x14 (s.coreDom k) 1).setCore k fun K => { K with corrected := K.corrected + 1 })
    | .memoryError a true => .next (s.machineCheck k a)
  else .next s

/-- The sample that Efori records (R433, Table 18-6). -/
def State.sampleOf (s : State) (k : Nat) : Sample :=
  let K := s.core k
  { pc := K.pc, pitch := (match s.coreDom k with | some d => if d < 256 then d else 0xFF | none => 0xFF), mode := b2n K.function
    index := K.perfNumber, cycle := (s.cycleOf k).toNat % 2 ^ 32 }

/-- The core after Efori has taken the PERF interrupt and returned. -/
def Core.perfTaken (K : Core) : Core :=
  let e := K.enter { cause := 0x22, tval := BitVec.ofNat 64 K.perfNumber } true K.pc
  { e with pc := K.pc, ipend := K.ipend &&& ~~~(4#64), perfSkid := 0
           tstatus := BitVec.ofNat 64 (16 * b2n K.function + 8 * b2n K.function + 2 * b2n K.enabled + b2n K.enabled) }

/-- PERF (R304, R433): a counter of the block has overflowed; Efori writes a sample and returns. -/
def execPerfInterrupt (core : Nat) (s : State) : Answer :=
  if s.coreRuns core && s.perfDue core && !s.cancelDue core then
    let x := s.sampleOf core
    let s := ({ s with perf := s.perf.sample core x }).setCore core Core.perfTaken
    .next (s.count 0 core 0x13 (s.coreDom core) 1)
  else .next s

/-! ### The entry of a custom function (R318 to R320) -/

/-- An area of an invocation: base, length, and its permissions X, W, R. -/
structure Area where
  base : Nat
  len : Nat
  x : Bool := false
  w : Bool := false
  r : Bool := true

/-- The areas of Table 12-4, at the addresses that the arbiter chose. -/
def cfAreas (c : Cmd) (image : Bytes) (draws : Nat) (bases : List Nat) : List Area :=
  let b := fun (i : Nat) => bases.getD i 0
  [ { base := b 0, len := imageCode image + 8, x := true },
    { base := b 1, len := c.param.length },
    { base := b 2, len := imageData image + imageBss image, w := true },
    { base := b 3, len := imageStack image, w := true },
    { base := b 4, len := c.input.length },
    { base := b 5, len := c.outSpace, w := true },
    { base := b 6, len := 48 * draws } ]

/-- A free area of the right memory on granule boundaries. -/
def State.areaFree (s : State) (k i : Nat) (a : Area) : Bool :=
  a.len = 0 || (a.base % 16 = 0 && (if i < 4 then inLocal a.base a.len else inWindow a.base a.len) &&
    (granulesOf a.base a.len).all fun g => (s.granule k g).1 = 0)

def Area.apart (a b : Area) : Bool := !rangesMeet a.base (roundUp a.len 16) b.base (roundUp b.len 16)

def areasApart : List Area → Bool
  | [] => true
  | a :: as => as.all a.apart && areasApart as

/-- The rules of an invocation (Table 12-4); an area without bytes has none. -/
def cfRules (colour : Nat) (l : List Area) : Tab Rule :=
  (l.zipIdx.filter fun p => p.1.len != 0).map fun p =>
    (p.2, { colour := colour, x := p.1.x, w := p.1.w, r := p.1.r, startG := p.1.base / 16, endG := (p.1.base + p.1.len - 1) / 16 })

/-- The entry registers (Table 12-5). -/
def cfRegs (c : Cmd) (image : Bytes) (draws : Nat) (bases : List Nat) : List (Nat × KWord) :=
  let b := fun (i : Nat) => BitVec.ofNat 64 (bases.getD i 0)
  let n := fun (v : Nat) => kInt (BitVec.ofNat 64 v)
  let v := c.reserveStart.getD 0
  let reserves := c.entry.reserveCount != 0 && c.reserveStart.isSome
  [(1, kAddr (b 1)), (2, n c.param.length)] ++
    (if c.input = [] then [] else [(3, kAddr (b 4))]) ++ [(4, n c.input.length), (5, kAddr (b 5)), (6, n c.outSpace)] ++
    ((List.range 4).filter c.entry.valid).map (fun i => (7 + i, kHandle (c.entry.handle i))) ++
    [(11, kTime (BitVec.ofNat 64 c.cond.stamp)), (12, kBits (BitVec.ofNat 64 c.seq)), (13, n (c.entry.opcode % 256))] ++
    (if draws = 0 then [] else [(14, kAddr (b 6))]) ++
    (if reserves then [(15, kBits (BitVec.ofNat 64 v)), (16, kBits (BitVec.ofNat 64 (v / 2 ^ 64)))] else []) ++
    [(17, n (if reserves then c.entry.reserveCount else 0)), (18, kAddr (b 2)), (30, kCode (b 0 + BitVec.ofNat 64 (imageCode image))),
     (31, kAddr (b 3 + BitVec.ofNat 64 (imageStack image)))]

/-- The memory of an invocation: image, parameter block, BSS as BITS 0, input and random area (R308, R314, R319). -/
def State.cfMemory (s : State) (k colour : Nat) (c : Cmd) (image : Bytes) (l : List Area) (bases : List Nat) : State :=
  let b := fun (i : Nat) => bases.getD i 0
  let s := l.foldl (fun s a => s.prepare k colour a.base a.len) s
  let s := s.loadBits k (b 0) (slice image 128 (imageCode image) ++ leBytes 8 0x92)
  let s := s.loadBits k (b 1) c.param
  let s := s.loadBits k (b 2) (slice image (128 + imageCode image) (imageData image) ++ zeros (imageBss image))
  let s := s.setRegion (k / 12) fun R => { R with buffer := putBytes R.buffer (b 4 - windowBase) c.input }
  s.setRegion (k / 12) fun R => { R with buffer := putBytes R.buffer (b 6 - windowBase) (c.drawn.getD []) }

/-- CF_INVOKE (R318, R319): the arbiter gives the invocation a colour and its areas, and Efori enters the function. -/
def execCfInvoke (dom id colour : Nat) (areas : List Nat) (s : State) : Answer :=
  match s.cmd dom id with
  | none => .next s
  | some c =>
    let k := 12 * c.region + c.block
    let K := s.core k
    if !(c.phase = .running && isCustom c.entry.opcode && c.stage = 0 && s.coreRuns k && !K.function && K.invocations = [] &&
        1 ≤ colour && colour ≤ 14) then .next s
    else
      match (List.range 4).find? fun i => c.entry.valid i && c.entry.writes i with
      | some i => .next (s.setCmd dom id fun c => c.failWith (eCfDeclare, i))
      | none =>
        match c.cond.cfImage, c.cond.cfGroup with
        | some image, some (_, draws, budget) =>
          let l := cfAreas c image draws areas
          if !(areas.length = 7 && areasApart (l.filter fun a => a.len != 0) && (l.zipIdx.all fun p => s.areaFree k p.2 p.1)) then .next s
          else
            let s := s.cfMemory k colour c image l areas
            let start := BitVec.ofNat 64 (areas.getD 0 0 + imageEntry image (c.entry.opcode % 256))
            let i : Invocation := { pitch := dom, seq := c.seq, colour := colour, code := areas.getD 0 0, codeLen := imageCode image
                                    output := areas.getD 5 0, outLen := c.outSpace, budget := budget, id := id
                                    areas := (l.filter fun a => a.len != 0).map fun a => (a.base, a.len) }
            let s := s.setCore k fun K =>
              { K with regs := (cfRegs c image draws areas).foldl (fun t p => Tab.put t {} p.1 p.2) [], active := cfRules colour l
                       standby := [], tpc := start, pc := start, tstatus := 27, span := none, invocations := [i] }
            .next (s.setCmd dom id fun c => { c with stage := 1 })
        | _, _ => .next s

end Sys2Proof.Machine
end

