-- ==== Sys2Proof/Machine/Engines.lean ====
section
/-!
DEFINITION. Sys2Proof/Machine/Engines.lean: engine calls of the block cores: descriptors, tickets, the keys that a descriptor names, and the
two waits (R69, R177, R205, R296 to R299, R311).
-/

namespace Sys2Proof.Machine

/-! ### RESULT codes (Tables 7-5, 8-2; R299) -/

def resForm : Nat := 0x01

def resCancelled : Nat := 0x05

def resEscalated : Nat := 0x06

/-! ### The key that a descriptor names (R69, R177, R205) -/

/-- What a HANDLE word leads to: no declared key, no key value, a key (a job-scoped one or a child among them), or a job-scoped secret result
of usage DERIVE. -/
inductive KeyNamed where
  | undeclared
  | absent
  | stored (attr : Attr) (value : Bytes)
  | scoped (value : Bytes)

def State.keyNamed (s : State) (k h : Nat) : KeyNamed :=
  match s.scopedEntry k h with
  | some e =>
    match e.attr with
    | some a => .stored a (s.entryValue (k / 12) e)
    | none => .scoped (s.entryValue (k / 12) e)
  | none =>
    match s.coreCmd k with
    | none => .undeclared
    | some (d, c) =>
      if (List.range 4).any fun i => c.entry.valid i && handleValid d (c.entry.handle i) && canonical (c.entry.handle i) = canonical h &&
          (d ≥ 256 || handleKind (c.entry.handle i) != 2 || c.cond.grants.contains i) then
        match s.lookKey (ownerOf d h) h with
        | .found a _ v => .stored a v
        | _ => .absent
      else .undeclared

/-! ### Descriptors and tickets (R296, R297) -/

/-- Words W0 to W6 of a descriptor. -/
def State.descriptor (s : State) (k a : Nat) : List KWord := (List.range 7).map fun i => s.word k (a + 8 * i)

/-- What an engine makes of a descriptor: the RESULT that ends the job at once, 0 where it runs; whether the guard refused a key; its
estimate; its blocks and runs, and the input that stood at SRC (log entry 47); the random values it draws. -/
structure Judged where
  result : Nat := 0
  undeclared : Bool := false
  cost : Nat := 0
  blocks : Nat := 0
  runs : List (Nat × Nat × Nat) := []
  input : Bytes := []
  blinds : List Nat := []

/-- The first failing check of a descriptor. -/
def firstResult : List (Bool × Nat) → Nat
  | [] => 0
  | (bad, r) :: l => if bad then r else firstResult l

def ticketOf (slot gen : Nat) : Nat := slot + 256 * gen

/-- A job ends: its STATUS word is written to W7, and its slot holds it until EWAIT. A job of Efori's for a command of its own is over. -/
def State.endJob (s : State) (k slot status : Nat) : State :=
  match s.job k slot with
  | none => s
  | some j =>
    if j.firmware then s.setCore k fun K => { K with jobs := K.jobs.filter fun x => x.slot != slot }
    else
    let s := s.setWord k (j.desc + 56) (kBits (BitVec.ofNat 64 status))
    let n := (s.core k).endings
    let s := s.setJob k slot fun j => { j with ended := some n, status := BitVec.ofNat 64 status, waiting := [] }
    s.setCore k fun K => { K with endings := n + 1 }

/-- The job of an engine instruction takes a free slot, whose choice the spec leaves open, and its ticket goes to rd. -/
def State.issue (s : State) (k : Nat) (kind : EngineKind) (rd : BitVec 5) (a : Nat) (d : List KWord) (x : Judged) : State :=
  let slots := (List.range 32).filter fun i => (s.core k).jobs.all fun j => j.slot != i
  let (v, s) := s.fresh 1
  let slot := slots.getD (leNat v % slots.length) 0
  let gen := Tab.get (s.core k).gens 0 slot
  let cmd := s.coreCmd k
  let j : Job := { kind := kind, slot := slot, gen := gen, desc := a, words := d, function := (s.core k).function, cost := x.cost
                   blocks := x.blocks, waiting := x.runs, runs := x.runs.length, input := x.input, blinds := x.blinds, lastUnit := 3, since := s.now
                   dom := (cmd.map (·.1)).getD operator, id := cmd.map (·.2.id) }
  let s := s.count 0 k 0x12 (cmd.map (·.1)) 1
  let s := s.setCore k fun K => (({ K with jobs := K.jobs ++ [j] } : Core).set rd (kBits (BitVec.ofNat 64 (ticketOf slot gen)))).advance
  let s := match cmd with
    | some (d, c) => if x.undeclared then s.setCmd d c.id fun c => { c with undeclared := true } else s
    | none => s
  if x.result = 0 then s else s.endJob k slot x.result

/-- ENQC, ENQL and ENQH up to the engine's own judgement (R296, R311). -/
def State.enqueue (s : State) (k op : Nat) (kind : EngineKind) (rd rs1 : BitVec 5) (judge : List KWord → Judged) (feed : State → State) :
    Answer :=
  s.insn k (wordR op rd rs1 0 0 0)
    (let K := s.core k
     match consume (K.operands [rs1]) [[.addr]] with
     | .error e => .error e
     | .ok _ =>
       let a := (K.reg rs1).val.toNat
       if a % 64 != 0 then .error (addrTrap alignCause a)
       else if !inLocal a 64 || !s.allows k .read a 64 then .error (addrTrap accessCause a)
       else
         let d := s.descriptor k a
         match (descRanges kind d).find? fun x => !s.allows k x.2.2 x.1 x.2.1 with
         | some x => .error (addrTrap accessCause x.1)
         | none =>
           if K.jobs.length ≥ 32 then .error (.trap { cause := engineFull })
           else .ok (feed (s.issue k kind rd a d (judge d))))

/-! ### Waiting (R297) -/

/-- EWAIT: the ticket's STATUS, once its job has ended; the slot is free again, with its next generation. -/
def execEwait (core : Nat) (rd rs1 : BitVec 5) (s : State) : Answer :=
  s.insnCore core (wordR 0x84 rd rs1 0 0 0) fun K =>
    match consume (K.operands [rs1]) [[.bits]] with
    | .error e => .error e
    | .ok _ =>
      let t := (K.reg rs1).val.toNat
      match K.jobs.find? fun j => !j.firmware && ticketOf j.slot j.gen = t with
      | none => .error (.trap { cause := engineTicket, tval := (K.reg rs1).val })
      | some j =>
        if j.ended.isNone then .error .stall
        else
          let K' := { K with jobs := K.jobs.filter fun x => x.slot != j.slot, gens := Tab.put K.gens 0 j.slot ((j.gen + 1) % 256) }
          .ok (K'.set rd (kBits j.status)).advance

/-- The ended job of a core that ended first. -/
def Core.oldestEnded (K : Core) : Option Job :=
  (K.jobs.filter fun j => !j.firmware).foldl (fun (b : Option Job) j => match j.ended, b.bind Job.ended with
    | some x, some y => if x < y then some j else b
    | some _, none => some j
    | none, _ => b) none

/-- EWAITA: the ticket of the job that ended first; its slot stays. -/
def execEwaita (core : Nat) (rd : BitVec 5) (s : State) : Answer :=
  s.insnCore core (wordR 0x85 rd 0 0 0 0) fun K =>
    match K.oldestEnded with
    | none => .error .stall
    | some j => .ok (K.set rd (kBits (BitVec.ofNat 64 (ticketOf j.slot j.gen)))).advance

/-! ### Job-scoped results (R205, R299) -/

/-- The owner of the key that a descriptor's handle names: that of a job-scoped entry, or that of a declared handle. -/
def State.ownerNamed (s : State) (k h : Nat) : Nat :=
  match s.scopedEntry k h, s.coreCmd k with
  | some e, _ => e.owner
  | none, some (d, _) => ownerOf d h
  | none, none => operator

/-- A secret result becomes a job-scoped entry in the share of the owner of its KEY, of usage DERIVE, and its handle is written to the
descriptor. -/
def State.scope (s : State) (k slot : Nat) (value : Bytes) : State :=
  match s.job k slot with
  | some j =>
    let owner := if tagAt j.words 1 = .handle then s.ownerNamed k (valAt j.words 1) else j.dom
    let (h, s) := s.scopeKey k (j.dom, j.id.getD 0) owner none [] value
    s.setWord k (j.desc + 48) (kHandle h)
  | none => s

end Sys2Proof.Machine
end

