-- ==== Sys2Proof/Machine/Cells.lean ====
section
/-!
DEFINITION. Sys2Proof/Machine/Cells.lean: the cell dispatcher and the cipher cells: descriptor checks, runs, retries, quarantine
(R172, R175 to R189).
-/

namespace Sys2Proof.Machine

/-! ### The descriptor (Table 7-3) -/

def cellOp (w : List KWord) : Nat := bits (valAt w 0) 7 0

def cellAlg (w : List KWord) : Nat := bits (valAt w 0) 15 8

def cellWidth (w : List KWord) : Nat := bits (valAt w 0) 21 20

def cellLen (w : List KWord) : Nat := bits (valAt w 4) 22 0

def cellK1 (w : List KWord) : Bool := bit (valAt w 0) 23

/-- Blocks of an XTS data unit; the first block's place in its unit. -/
def cellUnit (w : List KWord) : Nat := bits (valAt w 0) 51 32 + 1

def cellStart (w : List KWord) : Nat := bits (valAt w 4) 51 32

/-- IV_HI ‖ IV_LO. -/
def cellIv (w : List KWord) : Nat := valAt w 6 * 2 ^ 64 + valAt w 5

def cellXts (w : List KWord) : Bool := cellOp w = 4 || cellOp w = 5

def cellSize (w : List KWord) : Nat := if cellAlg w = 4 || cellAlg w = 5 then 8 else 16

def cellBlocks (w : List KWord) : Nat := ceilDiv (cellLen w) (cellSize w)

/-- The counter block C_0 of a CTR job (R180). -/
def cellCounter (w : List KWord) : Bytes := if cellSize w = 8 then beBytes 8 (valAt w 5) else beBytes 16 (cellIv w)

/-! ### Checks (Tables 7-4 and 7-5) -/

/-- Usages that allow an operation (Table 7-4). -/
def cellUsages (op : Nat) : List Nat :=
  match op with
  | 1 => [1, 3, 5, 6, 7, 8, 9]
  | 2 => [2, 4, 6, 7, 8, 9]
  | 3 => [1, 2]
  | 4 => [1]
  | 5 => [2]
  | _ => []

/-- Check 1, but for the key. -/
def cellFormed (w : List KWord) : Bool :=
  let op := cellOp w
  let alg := cellAlg w
  tagAt w 0 = .bits && tagAt w 1 = .handle && tagAt w 2 = .addr && tagAt w 3 = .addr && tagAt w 4 = .bits && tagAt w 5 = .bits &&
    tagAt w 6 = .bits && bits (valAt w 0) 63 52 = 0 && bits (valAt w 0) 31 24 = 0 && bits (valAt w 0) 19 16 = 0 &&
    bits (valAt w 4) 63 52 = 0 && bits (valAt w 4) 31 23 = 0 &&
    (if op = 4 || op = 5 then alg = 0x0A || alg = 0x0B else (op = 1 || op = 2 || op = 3) && 1 ≤ alg && alg ≤ 5) &&
    1 ≤ cellLen w && cellLen w ≤ 4194304 && (op = 3 || cellLen w % cellSize w = 0) && ((cellWidth w != 0) == decide (op = 3)) &&
    (op != 3 || cellSize w = 16 || (cellWidth w ≤ 2 && valAt w 6 = 0))

/-- Check 4: the counter field wraps (R181). -/
def cellWraps (w : List KWord) : Bool :=
  cellOp w = 3 && beNat ((cellCounter w).drop (cellSize w - ctrBytes (cellWidth w))) + cellBlocks w > 256 ^ ctrBytes (cellWidth w)

/-- Check 5: the XTS limits (R184, R185). -/
def cellXtsOver (w : List KWord) : Bool :=
  let wide := bit (valAt w 0) 22
  let units := (cellStart w + cellBlocks w - 1) / cellUnit w + 1
  cellXts w && (cellStart w ≥ cellUnit w || (!wide && valAt w 6 != 0) || cellIv w + units > (if wide then 2 ^ 128 else 2 ^ 64))

/-- Check 6: the halves of an XTS key are equal (R174). -/
def halvesEqual (v : Bytes) : Bool := v.take (v.length / 2) = v.drop (v.length / 2)

/-- A key value as the key register holds it (R170): a two-key TDEA key is loaded as K1 ‖ K2 ‖ K1. -/
def registerForm (w : List KWord) (v : Bytes) : Bytes := if cellAlg w = 4 then v ++ v.take 8 else v

/-- The key value of a cell job, as its record holds it. -/
def State.cellKey (s : State) (k : Nat) (w : List KWord) : Bytes :=
  match s.keyNamed k (valAt w 1) with
  | .stored _ v => v
  | .scoped v => v
  | _ => []

/-- Runs of 64 blocks, which never cross a data-unit boundary (R175): number, first block, blocks. -/
def cutRuns (unit : Option Nat) (start total : Nat) : Nat → Nat → Nat → List (Nat × Nat × Nat)
  | 0, _, _ => []
  | fuel + 1, no, first =>
    if first ≥ total then []
    else
      let room := match unit with | some u => u - (start + first) % u | none => 64
      let n := min 64 (min room (total - first))
      (no, first, n) :: cutRuns unit start total fuel (no + 1) (first + n)

def cellRuns (w : List KWord) : List (Nat × Nat × Nat) :=
  cutRuns (if cellXts w then some (cellUnit w) else none) (cellStart w) (cellBlocks w) (cellBlocks w) 0 0

/-- The dispatcher's checks of a descriptor, in the order of Table 7-5. -/
def State.judgeCell (s : State) (k : Nat) (w : List KWord) : Judged :=
  let key := s.keyNamed k (valAt w 1)
  let alg := match key with
    | .stored a _ => decide (a.alg = cellAlg w)
    | .scoped v => (lengthsOf (cellAlg w)).contains (8 * v.length)
    | .absent => false
    | .undeclared => true
  let usage := match key with | .stored a _ => a.usage | _ => 5
  let und := match key with | .undeclared => true | _ => false
  let formed := cellFormed w && alg
  { undeclared := formed && und, blocks := cellBlocks w, runs := cellRuns w
    input := if formed then s.bytesAt k (valAt w 2) (cellLen w) else []
    result := firstResult [
      (!formed, resForm), (und, 0x04),
      (!(cellUsages (cellOp w)).contains usage || (cellK1 w && !(cellSize w = 8 && (usage = 6 || usage = 7))), 0x08),
      (cellWraps w, 0x02), (cellXtsOver w, 0x03), (cellXts w && halvesEqual (s.cellKey k w), 0x07)] }

/-! ### The dispatcher (R172, R175, R186) -/

/-- Cycles before a run's first block: for XTS the computation of T and of α^j (R183). -/
def leadCycles (w : List KWord) : Nat := if cellXts w then blockCycles (cellAlg w) + 40 else 0

/-- Idle cells of a block, from the one after the cell used last. -/
def State.idleCells (s : State) (k : Nat) : List Nat :=
  ((List.range 24).map fun i => ((s.block k).lastCell + 1 + i) % 24).filter fun i => s.cellState (24 * k + i) = .idle

/-- The cell a run goes to: the next free one, other than the cell that it failed on last. -/
def State.cellFor (s : State) (k : Nat) (j : Job) (run : Nat) : Option Nat :=
  let last := ((j.tried.filter fun x => x.1 = run).getLast?).map (·.2)
  (s.idleCells k).find? fun i => last != some i

/-- The runs of a block that may go to cells: of the oldest job first; of a chain of runs, the next once the one before it has ended. -/
def State.runsReady (s : State) (k : Nat) : List (Job × Nat × Nat × Nat) :=
  ((s.core k).jobs.filter fun j => j.kind = .cell && j.ended.isNone).flatMap fun j =>
    if j.serial && s.cellsOf k j.slot != [] then [] else j.waiting.map fun x => (j, x)

/-- The state with the working copy of a job's key in the region's cache, loaded again if it has left it, and the key's value there (R102,
R119, R172); a job that names no handle is one of the domain's DRBG (R235). -/
def State.keyForRun (s : State) (k : Nat) (w : List KWord) : Option Bytes × State :=
  let h := valAt w 1
  if tagAt w 1 = .bits then ((s.coreCmd k).map fun x => (s.dom x.1).drbg.key, s) else
  match s.scopedEntry k h, s.coreCmd k with
  | some e, _ => (some (s.entryValue (k / 12) e), s)
  | none, some (d, c) =>
    let s := if c.override.isSome then s else s.loadCached (k / 12) (k % 12) (ownerOf d h) h
    match s.lookKey (ownerOf d h) h with
    | .found a _ _ => (s.workingCopy k (ownerOf d h) h a.generation, s)
    | _ => (none, s)
  | none, none => (none, s)

/-- One run that is ready goes to its cell, which loads the job's key from the region key cache. -/
def State.feedCell (s : State) (k : Nat) : State :=
  match (s.runsReady k).find? fun p => (s.cellFor k p.1 p.2.1).isSome with
  | none => s
  | some (j, x) =>
    match s.cellFor k j x.1, s.keyForRun k j.words with
    | some i, (some v, s) =>
      let s := s.setCell (24 * k + i) fun c =>
        { c with state := .loading, until_ := s.now + s.cellNs (loadCycles (cellAlg j.words)), key := registerForm j.words v, core := k, job := j.slot
                 run := x.1, from_ := x.2.1, blocks := x.2.2 }
      let s := s.setJob k j.slot fun j => { j with waiting := j.waiting.filter (· != x) }
      s.setBlock k fun b => { b with lastCell := i }
    | _, _ => s

/-- Where a run waits and no cell is free, the clearing of a cell under way comes to its end. -/
def State.awaitClear (s : State) (k : Nat) : State :=
  let ends := ((List.range 24).filter fun i => (s.cell (24 * k + i)).state = .clearing).map fun i => (s.cell (24 * k + i)).until_
  match s.runsReady k, s.idleCells k, ends with
  | _ :: _, [], t :: ts => s.passTo (ts.foldl min t)
  | _, _, _ => s

def State.feedCells (s : State) (k : Nat) : State := (List.range 24).foldl (fun s _ => s.feedCell k) (s.awaitClear k)

/-- ENQC (R177 to R179, R296). -/
def execEnqc (core : Nat) (rd rs1 : BitVec 5) (s : State) : Answer :=
  s.enqueue core 0x80 .cell rd rs1 (s.judgeCell core) fun s => s.feedCells core

/-! ### Ends of runs and jobs -/

/-- A block at work: its core's island runs. -/
def State.islandRuns (s : State) (k : Nat) : Bool := s.running && s.regionRuns (k / 12)

/-- The output of a cell job over its input (R178, R180, R182), under the key of the key register. -/
def cellOutput (w : List KWord) (key m : Bytes) : Bytes :=
  let b := cipherOf (cellAlg w) (if cellK1 w then key.take 8 ++ key.take 8 ++ key.take 8 else key)
  let h := key.length / 2
  match cellOp w with
  | 1 => ecbEnc b m
  | 2 => ecbDec b m
  | 3 => ctrMode b (ctrBytes (cellWidth w)) (cellCounter w) m
  | 4 => xtsRun (aes (key.take h)).enc (aes (key.drop h)) (cellUnit w) (cellBlocks w) (cellStart w) (cellIv w) m
  | _ => xtsRun (aes (key.take h)).dec (aes (key.drop h)) (cellUnit w) (cellBlocks w) (cellStart w) (cellIv w) m

/-- The first `n` blocks of a cell's run, checked, are written to DST (R171, R179). -/
def State.deliver (s : State) (cell n : Nat) : State :=
  let c := s.cell cell
  match s.job c.core c.job with
  | none => s
  | some j =>
    if j.firmware then s
    else
      let size := cellSize j.words
      let out := ((cellOutput j.words c.key j.input).drop (size * c.from_)).take (size * n)
      s.putBytesAt c.core (valAt j.words 3 + size * c.from_) out

/-- Cell cycles of the run's job up to some point after its key load; the descriptor of the cell's job. -/
def State.jobWords (s : State) (cell : Nat) : List KWord :=
  match s.job (s.cell cell).core (s.cell cell).job with | some j => j.words | none => []

/-- Cycles of `n` block times of a cell's run. -/
def State.blockTimes (s : State) (cell n : Nat) : Nat := n * blockCycles (cellAlg (s.jobWords cell))

/-- A cell at work is RUNNING once its key load is over; it has been so for some cycles (R171, R192). -/
def State.runFor (s : State) (cell cycles : Nat) : State :=
  let t := if (s.cell cell).state = .loading then (s.cell cell).until_ + s.cellNs cycles else s.now
  (s.passTo t).setCell cell fun c => { c with state := .running }

/-- CELL_RUN_END (R172, R175): the run's blocks stand at DST; the cell clears its key register, and free cells take the runs that wait. -/
def execCellRunEnd (cell : Nat) (s : State) : Answer :=
  let k := cell / 24
  if !s.islandRuns k || !s.atWork cell then .next s
  else
    let c := s.cell cell
    let s := (s.runFor cell (leadCycles (s.jobWords cell) + s.blockTimes cell (c.blocks + 1))).count 0 k 0x10 (s.coreDom k) c.blocks
    let s := (s.deliver cell c.blocks).setJob k c.job fun j =>
      { j with runs := j.runs - 1, waiting := if j.serial && j.runs > 1 then j.waiting ++ [(c.run + 1, c.from_ + c.blocks, 1)] else j.waiting }
    .next ((s.setCell cell fun c => c.cleared (s.now + s.cellNs 4)).feedCells k)

/-- CELL_JOB_END (R177): every run has ended; STATUS is written to W7. -/
def execCellJobEnd (core slot : Nat) (s : State) : Answer :=
  match s.job core slot with
  | none => .next s
  | some j =>
    if !s.islandRuns core || j.kind != .cell || j.ended.isSome || j.runs != 0 then .next s
    else .next (s.endJob core slot (j.blocks % 2 ^ 32 * 2 ^ 32 + j.retries % 2 ^ 16 * 2 ^ 16))

/-! ### Mismatches, quarantine, self test (R176, R186 to R189) -/

/-- A cell leaves service: trail entry and region event; the block is degraded below six cells. -/
def State.quarantineCell (s : State) (i : Nat) : State :=
  let n := (s.cell i).quarantines + 1
  let r := i / 288
  let s := s.setCell i fun c => { c.freed with state := if n ≥ 4 then .retired else .quarantined, quarantines := n, since := s.now }
  let s := ((s.journalTimer operator s.now).faultEntry (if n ≥ 4 then codeRetired else codeQuarantine) (originOf 5 i) 0 i n).regionEvent r (if n ≥ 4 then 1 else 0)
  s.setBlock (i / 24) fun b => { b with degraded := !s.whole (i / 24) }

/-- A block of a run has failed its inverse check, or was aged out: the blocks before it stand, and the rest of the run goes to another
cell; on the third cell the job is ESCALATED. -/
def State.cellFails (s : State) (i block : Nat) (aged : Bool) : State :=
  let c := s.cell i
  let k := i / 24
  let misses := s.recent c.misses
  let ages := if aged then s.recent c.ages else c.ages
  let s := (s.deliver i block).count 0 k 0x10 (s.coreDom k) block
  let s := s.mismatchReport (k / 12)
  let seq := match s.coreCmd k with | some (_, c) => c.seq | none => 0
  let s := s.faultEntry codeMismatch (originOf 5 i) seq i misses.length
  let s := s.setCell i fun c => { c.cleared (s.now + s.cellNs 4) with misses := misses, ages := ages }
  let s := if misses.length ≥ 3 || (aged && ages.length ≥ 2) then s.quarantineCell i else s
  let s := s.setJob k c.job fun j => { j with tried := j.tried ++ [(c.run, i % 24)] }
  match s.job k c.job with
  | none => s
  | some j =>
    if ((List.range 24).filter fun x => j.tried.contains (c.run, x)).length ≥ 3 then
      let done := j.blocks - s.blocksLeft k j - (c.blocks - block)
      (s.endJob k c.job (done % 2 ^ 32 * 2 ^ 32 + j.retries % 2 ^ 16 * 2 ^ 16 + resEscalated)).escalate k .cell j
    else
      let s := s.setJob k c.job fun j =>
        { j with waiting := (c.run, c.from_ + block, c.blocks - block) :: j.waiting, retries := j.retries + 1 }
      (s.count 0 k 0x11 (s.coreDom k) 1).feedCells k

/-- CELL_MISMATCH (R186 to R188): a block of the run, numbered from the run's first, fails its inverse check. -/
def execCellMismatch (cell block : Nat) (s : State) : Answer :=
  if !s.islandRuns (cell / 24) || !s.atWork cell || block ≥ (s.cell cell).blocks then .next s
  else .next ((s.runFor cell (leadCycles (s.jobWords cell) + s.blockTimes cell (block + 2))).cellFails cell block false)

/-- CELL_AGE_OUT (R176, R188): no checked block within four block times of the one before, or of the key load. -/
def execCellAgeOut (cell block : Nat) (s : State) : Answer :=
  if !s.islandRuns (cell / 24) || !s.atWork cell || block ≥ (s.cell cell).blocks then .next s
  else
    let wait := if block = 0 then s.blockTimes cell 4 else leadCycles (s.jobWords cell) + s.blockTimes cell (block + 5)
    .next ((s.runFor cell wait).cellFails cell block true)

/-- A cell after its self test: IDLE again or RETIRED, with its entry. -/
def State.cellTested (s : State) (cell : Nat) (pass : Bool) : State :=
  let n := (s.cell cell).quarantines
  let s := s.setCell cell fun c => if pass then { c with state := .idle, misses := [], ages := [] } else { c with state := .retired }
  let s := s.faultEntry (if pass then codeReturned else codeRetired) (originOf 5 cell) 0 cell n
  let s := if pass then s else s.regionEvent (cell / 288) 1
  (s.setBlock (cell / 24) fun b => { b with degraded := !s.whole (cell / 24) }).feedCells (cell / 24)

/-- CELL_SELF_TEST (R188): 12,000 cycles, from 1 s after the cell entered quarantine. -/
def execCellSelfTest (cell : Nat) (pass : Bool) (s : State) : Answer :=
  if !s.running || (s.cell cell).state != .quarantined then .next s
  else .next ((s.passTo ((s.cell cell).since + 1000008000)).cellTested cell pass)

end Sys2Proof.Machine
end

