-- ==== Sys2Proof/Machine/LongInteger.lean ====
section
/-!
DEFINITION. Sys2Proof/Machine/LongInteger.lean: groups 0x16 signing and verification, 0x17 KEM and agreement, and 0x1A
raw long-integer arithmetic (R220 to R228).
-/

namespace Sys2Proof.Machine

/-! ### Keys by reference or inline (R221, R225) -/

/-- A key of a command: algorithm, length, value, whether it is inline, and the failure of an inline key's checks, which its LIU makes (R211). -/
structure PkKey where
  alg : Nat
  length : Nat
  value : Bytes
  inline : Bool
  refused : Option Fail := none

/-- An LIU job of a function under a key. -/
def PkKey.call (k : PkKey) (func : Nat) : Call := liuCall func k.alg k.length

/-- An inline key: its fields at parameter offsets, its bytes at an input offset, and its number among the command's
keys. Its fields and a length that does not fit are judged before any LIU checks a key (R211). -/
def inlineKey (c : Cmd) (algAt lenAt sizeAt inputAt no : Nat) (serves : Nat → Bool) : Except Fail PkKey :=
  let alg := byteAt c.param algAt
  let length := field c.param lenAt 2
  let n := field c.param sizeAt 4
  let v := slice c.input inputAt n
  match firstFail [
      need (alg ≥ 0x10 && lengthsOf alg != []) ePkParam algAt, need ((lengthsOf alg).contains length) ePkParam lenAt,
      need (serves alg) eKeyAlgorithm 0xFFFF,
      need (inputAt + n ≤ c.input.length) ePkLength 0,
      need (!(alg = 0x25 || alg = 0x26 || alg = 0x30 || alg = 0x31) || n = publicLen alg length) ePkLength (1 + no)] with
  | some f => .error f
  | none => .ok { alg := alg, length := length, value := v, inline := true, refused := (publicCheck alg length v).map fun st => (st, no) }

/-- A stored key: of kind 01 where the operation takes a public key, else not. No path serves these groups: a valid one fails with
E_DERIVE_PARENT under R138, whose row of Table 5-8 has DETAIL 1 (R221, R225).
DESIGN CHOICE of that DETAIL (log entry 39): the path itself breaks no condition of the table. -/
def storedKey (s : State) (d : Nat) (c : Cmd) (at_ fixed : Nat) (usage : Nat) (pub : Bool) (serves : Nat → Bool) :
    Except Fail PkKey :=
  let r := keyRefAt c.param at_
  let h := c.entry.handle r.slot
  if c.entry.valid r.slot && handleValid d h && (handleKind h = 1) != pub && usage = 12 then .error (eKeyHandle, r.slot)
  else
    match s.findKey d c r fixed with
    | .error f => .error f
    | .ok x =>
      if r.pathLen > 0 then .error (eDeriveParent, 1)
      else
        match useFail c r.slot x.1 [usage] (fun a => serves a.alg) with
        | some f => .error f
        | none => .ok { alg := x.1.alg, length := x.1.length, value := x.2, inline := false }

/-- Whether the 16 bytes of a key reference are zero. -/
def noRef (c : Cmd) (at_ : Nat) : Bool := allZero (slice c.param at_ 16)

/-! ### Group 0x16 (R220 to R223) -/

/-- Algorithms a scheme serves (R222). -/
def schemeServes (scheme alg : Nat) : Bool :=
  match scheme with
  | 1 | 2 => alg = 0x10
  | 3 => isCurveAlg alg
  | 4 => alg = 0x23 || alg = 0x24
  | 5 => alg = 0x31
  | _ => true

/-- The combination rules of R222 for a command (`sign` or verify) and its key's algorithm. -/
def signFields (c : Cmd) (sign : Bool) (alg : Nat) : Option Fail :=
  let p := c.param
  let scheme := byteAt p 16
  let h := byteAt p 17
  let f := byteAt p 19
  let inline := bit f 1
  fields ePkParam [
    (0, !inline || noRef c 0), (16, 1 ≤ scheme && scheme ≤ 5),
    (17, if scheme ≤ 3 then 1 ≤ h && h ≤ 6 else h = 0),
    (18, if scheme ≤ 3 then byteAt p 18 ≤ 1 else byteAt p 18 = 0),
    (19, if sign then !inline && (!bit f 0 || scheme = 2 || scheme = 3 || scheme = 5) else !bit f 0),
    (20, if scheme = 2 then byteAt p 20 ≤ hashLen h else byteAt p 20 = 0),
    (21, scheme = 5 || (scheme = 4 && alg = 0x24) || byteAt p 21 = 0),
    (24, inline || byteAt p 24 = 0), (26, inline || field p 26 2 = 0), (28, inline || field p 28 4 = 0)]

/-- The digest of a message part, or the part itself for schemes 4 and 5; none where a digest has a wrong length. -/
def signInput (p m : Bytes) : Option Bytes :=
  let h := byteAt p 17
  if byteAt p 16 ≥ 4 then some m
  else if byteAt p 18 = 1 then (if m.length = hashLen h then some m else none)
  else some (hashOf h m)

/-- The hash job of a message that the module hashes; schemes 4 and 5, and a digest, take none. -/
def signHash (p m : Bytes) : List Call :=
  if byteAt p 16 ≥ 4 || byteAt p 18 = 1 then [] else [hashCall (byteAt p 17) m.length]

/-- PK_SIGN up to its output. -/
def pkSignWork (s : State) (d : Nat) (c : Cmd) : Work :=
  let p := c.param
  let scheme := byteAt p 16
  let hedged := bit (byteAt p 19) 0
  match storedKey s d c 0 64 10 false (schemeServes scheme) with
  | .error f => .error f
  | .ok k =>
    match signFields c true k.alg with
    | some f => .error f
    | none =>
      let saltLen := if scheme = 2 && !hedged then byteAt p 20 else 0
      let ctxLen := byteAt p 21
      let r := streamOf (c.drawn.getD [])
      let salt := if hedged then (r.take (byteAt p 20)).1 else c.input.take saltLen
      match if saltLen + ctxLen ≤ c.input.length then signInput p (c.input.drop (saltLen + ctxLen)) else none with
      | none => .error (ePkLength, 0)
      | some m =>
        .ok { out := signWith k.alg k.length k.value
                { scheme := scheme, hash := byteAt p 17, ctx := slice c.input saltLen ctxLen, salt := salt, m := m }
                (if hedged then some r else none)
              calls := signHash p (c.input.drop (saltLen + ctxLen)) ++ [k.call 0x01] }

/-- PK_SIGN (R220, R223). -/
def execPkSign (dom id : Nat) (s : State) : Answer := s.runOp 0x1601 dom id fun s c => pkSignWork s dom c

/-- PK_VERIFY up to its verdict. -/
def pkVerifyWork (s : State) (d : Nat) (c : Cmd) : Work :=
  let p := c.param
  let scheme := byteAt p 16
  let inline := bit (byteAt p 19) 1
  let ctxLen := byteAt p 21
  let pick (k : PkKey) : Work :=
    let o := ctxLen + (if k.inline then field p 28 4 else 0)
    let n := signatureLen k.alg k.length
    let calls := signHash p (c.input.drop (o + n)) ++ [k.call 0x02]
    let part := if o + n ≤ c.input.length then signInput p (c.input.drop (o + n)) else none
    let short : Fail := (ePkLength, if o ≤ c.input.length && c.input.length < o + n then 3 else 0)
    match k.refused, part with
    | some f, _ => Work.failing f calls
    | none, none => Work.failing short calls
    | none, some m =>
      let r := verdictReason k.alg k.length k.value (slice c.input o n)
        { scheme := scheme, hash := byteAt p 17, ctx := c.input.take ctxLen, salt := [], m := m } (byteAt p 20)
      .ok { out := leBytes 1 (b2n (r = 0)) ++ leBytes 1 r ++ zeros 14, detail := b2n (r = 0) * 256 + r, calls := calls }
  if inline then
    match signFields c false (byteAt p 24) with
    | some f => .error f
    | none =>
      match inlineKey c 24 26 28 ctxLen 0 (schemeServes scheme) with
      | .error f => .error f
      | .ok k => pick k
  else
    match storedKey s d c 0 64 11 true (schemeServes scheme) with
    | .error f => .error f
    | .ok k =>
      match signFields c false k.alg with
      | some f => .error f
      | none => pick k

/-- PK_VERIFY (R220, R213). -/
def execPkVerify (dom id : Nat) (s : State) : Answer := s.runOp 0x1602 dom id fun s c => pkVerifyWork s dom c

/-! ### Group 0x17 (R224 to R226) -/

/-- Which parts of Table 8-11 an opcode uses. -/
structure KemUse where
  inline1 : Bool := false
  inline2 : Bool := false
  key2 : Bool := false
  oaep : Bool := false
  targets : List Nat := [1]

/-- The conditions of Table 8-11 (R225, R226). -/
def kemFields (c : Cmd) (u : KemUse) : Option Fail :=
  let p := c.param
  let f := byteAt p 67
  let t := byteAt p 64
  let i1 := bit f 0
  let i2 := bit f 1
  let kdf := t = 1 && !u.oaep || t = 2
  let child := attrAt (zeros 8 ++ slice p 32 32 ++ zeros 24) 0
  let childOk := 1 ≤ child.alg && child.alg ≤ 0x0B && child.depth = 0
  firstFail [
    fields ePkParam [
      (0, !i1 || noRef c 0), (16, if u.key2 && !i2 then true else noRef c 16),
      (32, if kdf || !u.targets.contains t then childOk || (!kdf && allZero (slice p 32 32)) else allZero (slice p 32 32)),
      (64, u.targets.contains t), (65, t = 1 || byteAt p 65 = 0), (66, byteAt p 66 ≤ 64),
      (67, (!i1 || u.inline1) && (!i2 || u.inline2)),
      (68, if u.oaep then 1 ≤ byteAt p 68 && byteAt p 68 ≤ 6 else byteAt p 68 = 0),
      (72, i1 || field p 72 4 = 0), (76, i2 || field p 76 4 = 0), (80, i1 || byteAt p 80 = 0), (82, i1 || field p 82 2 = 0),
      (84, i2 || byteAt p 84 = 0), (86, i2 || field p 86 2 = 0), (96, allZero (slice p (96 + byteAt p 66) (64 - byteAt p 66)))],
    if kdf then (tableFail 0 child).map fun o => (eKeyAlgorithm, o + 24) else none]

/-- The WRAP key of TARGET 1; none for the other targets. -/
def wrapKey (s : State) (d : Nat) (c : Cmd) : Except Fail (Option KeyUse) :=
  if byteAt c.param 64 = 1 then
    match s.useKey d c ⟨65, byteAt c.param 65, 0, 0⟩ 160 [3] (serveAlg [1, 2, 3]) with
    | .error f => .error f
    | .ok k => .ok (some k)
  else .ok none

/-- The target output formed from a secret (R226). -/
def targetOf (c : Cmd) (wrap : Option KeyUse) (ki : Bytes) : Bytes :=
  let p := c.param
  let v := kdfHmac ki (slice p 96 (byteAt p 66)) (slice p 32 32) (field p 34 2)
  match wrap with | some k => kwpWrap (aes k.value) v | none => v

/-- The engine calls that form the target output (R226): one HMAC-SHA-384 for each 384 bits of the derived key, and the wrap of some bytes. -/
def targetCalls (c : Cmd) (wrap : Option KeyUse) (kdf : Bool) (n : Nat) : List Call :=
  let p := c.param
  (if kdf then List.replicate (ceilDiv (field p 34 2) 384) (hashCall 0x17 (41 + byteAt p 66)) else []) ++
    (match wrap with | some k => [wrapCall false k.attr.alg (.slot (byteAt p 65)) n] | none => [])

/-- A secret result of an LIU as a job-scoped entry of usage DERIVE, in the share of the owner of the key in a slot, or of the domain for an inline
key (R205). -/
def secretHeld (d : Nat) (c : Cmd) (k : PkKey) (o : Nat) (z : Bytes) : Held :=
  held (if k.inline then d else ownerOf d (c.entry.handle (keyRefAt c.param o).slot)) 5 0 z

/-- The keys of a group 0x17 command: KEY, KEY2 where it has one, and the WRAP key, with the bytes of input the inline
keys took. -/
structure KemKeys where
  key : PkKey
  key2 : PkKey
  wrap : Option KeyUse
  taken : Nat

/-- How a command takes one of its keys: its usage, whether it is public, and the algorithms that serve. -/
structure KeyWay where
  usage : Nat
  pub : Bool
  serves : Nat → Bool

def absentKey : PkKey := { alg := 0, length := 0, value := [], inline := false }

/-- The failure of the inline keys' checks, in their order. -/
def KemKeys.refused (k : KemKeys) : Option Fail := firstFail [k.key.refused, k.key2.refused]

/-- The target output of a secret, with the calls that form it and the job-scoped entries of the secret results. -/
def KemKeys.target (k : KemKeys) (c : Cmd) (head ki : Bytes) (calls : List Call) (secrets : List Held) : Work :=
  .ok { out := head ++ targetOf c k.wrap ki, calls := calls ++ targetCalls c k.wrap true (field c.param 34 2 / 8), held := secrets }

/-- Key-use checks on stored keys, the parameter checks, then the fields of inline keys (R152, R211, R225). -/
def kemKeys (s : State) (d : Nat) (c : Cmd) (u : KemUse) (w1 : KeyWay) (w2 : Option (PkKey → KeyWay)) : Except Fail KemKeys :=
  let p := c.param
  let i1 := bit (byteAt p 67) 0
  let i2 := bit (byteAt p 67) 1
  let n1 := if i1 then field p 72 4 else 0
  let n2 := if i2 then field p 76 4 else 0
  let lazy1 : Except Fail PkKey := if i1 then .ok { alg := byteAt p 80, length := field p 82 2, value := [], inline := true } else storedKey s d c 0 160 w1.usage w1.pub w1.serves
  match lazy1 with
  | .error f => .error f
  | .ok k1 =>
    let lazy2 : Except Fail PkKey := match w2 with
      | none => .ok absentKey
      | some w => if i2 then .ok absentKey else storedKey s d c 16 160 (w k1).usage (w k1).pub (w k1).serves
    match lazy2 with
    | .error f => .error f
    | .ok k2 =>
      match wrapKey s d c with
      | .error f => .error f
      | .ok wrap =>
        match kemFields c u with
        | some f => .error f
        | none =>
          match if i1 then inlineKey c 80 82 72 0 0 w1.serves else .ok k1 with
          | .error f => .error f
          | .ok k1 =>
            let second : Except Fail PkKey := match w2 with
              | none => .ok k2
              | some w => if i2 then inlineKey c 84 86 76 n1 1 (w k1).serves else .ok k2
            match second with
            | .error f => .error f
            | .ok k2 => .ok ⟨k1, k2, wrap, n1 + n2⟩

def isKem (alg : Nat) : Bool := alg = 0x30

def isRsa (alg : Nat) : Bool := alg = 0x10

/-- KEM_ENCAPSULATE and HYBRID_ENCAPSULATE up to their output. HYBRID_ENCAPSULATE takes an inline KEY2 too, as Table 8-11 lays it out, where Table
8-10 names no inline form.
DESIGN CHOICE (log entry 39). -/
def encapsulateWork (s : State) (d : Nat) (c : Cmd) (hybrid : Bool) : Work :=
  match kemKeys s d c { inline1 := true, inline2 := hybrid, key2 := hybrid, targets := [1, 2] } ⟨1, true, isKem⟩
      (if hybrid then some fun _ => ⟨12, true, isAgree⟩ else none) with
  | .error f => .error f
  | .ok k =>
    let calls := k.key.call 0x07 :: (if hybrid then [k.key2.call 0x06] else [])
    if c.input.length != k.taken then .error (ePkLength, 0)
    else match k.refused with
    | some f => Work.failing f calls
    | none =>
      let r := streamOf (c.drawn.getD [])
      let (m, r) := r.take 32
      let (ss, ct) := kemEncaps k.key.length k.key.value m
      let one := secretHeld d c k.key 0 ss
      if hybrid then
        let e := ephemeral k.key2.alg r
        match agreeZ k.key2.alg e k.key2.value with
        | none => Work.failing (eSharedZero, 0) calls
        | some z => k.target c (ct ++ publicOf k.key2.alg k.key2.length e) (ss ++ z) calls [one, secretHeld d c k.key2 16 z]
      else k.target c ct ss calls [one]

/-- KEM_ENCAPSULATE (R224). -/
def execKemEncapsulate (dom id : Nat) (s : State) : Answer := s.runOp 0x1701 dom id fun s c => encapsulateWork s dom c false

/-- HYBRID_ENCAPSULATE (R224). -/
def execHybridEncapsulate (dom id : Nat) (s : State) : Answer := s.runOp 0x1705 dom id fun s c => encapsulateWork s dom c true

/-- KEM_DECAPSULATE up to its output. -/
def decapsulateWork (s : State) (d : Nat) (c : Cmd) : Work :=
  match kemKeys s d c {} ⟨13, false, isKem⟩ none with
  | .error f => .error f
  | .ok k =>
    let calls := [k.key.call 0x08]
    if c.input.length != kemCtLen k.key.length then Work.failing (ePkLength, 4) calls
    else
      let ss := kemDecaps k.key.length k.key.value c.input
      k.target c [] ss calls [secretHeld d c k.key 0 ss]

/-- KEM_DECAPSULATE (R224). -/
def execKemDecapsulate (dom id : Nat) (s : State) : Answer := s.runOp 0x1702 dom id fun s c => decapsulateWork s dom c

/-- HYBRID_DECAPSULATE up to its output. -/
def hybridDecapsulateWork (s : State) (d : Nat) (c : Cmd) : Work :=
  match kemKeys s d c { key2 := true } ⟨13, false, isKem⟩ (some fun _ => ⟨12, false, isAgree⟩) with
  | .error f => .error f
  | .ok k =>
    let n := kemCtLen k.key.length
    let peer := c.input.drop n
    let calls := [k.key.call 0x08, k.key2.call 0x05]
    if c.input.length != n + classicLen k.key2.alg then .error (ePkLength, 0)
    else match publicCheck k.key2.alg k.key2.length peer with
    | some st => Work.failing (st, 2) calls
    | none =>
      let ss := kemDecaps k.key.length k.key.value (c.input.take n)
      match agreeZ k.key2.alg k.key2.value peer with
      | none => Work.failing (eSharedZero, 0) calls
      | some z => k.target c [] (ss ++ z) calls [secretHeld d c k.key 0 ss, secretHeld d c k.key2 16 z]

/-- HYBRID_DECAPSULATE (R224). -/
def execHybridDecapsulate (dom id : Nat) (s : State) : Answer := s.runOp 0x1706 dom id fun s c => hybridDecapsulateWork s dom c

/-- AGREE_STATIC up to its output. -/
def agreeStaticWork (s : State) (d : Nat) (c : Cmd) : Work :=
  match kemKeys s d c { key2 := true, inline2 := true } ⟨12, false, isAgree⟩ (some fun k => ⟨12, true, fun a => a = k.alg⟩) with
  | .error f => .error f
  | .ok k =>
    let calls := [k.key.call 0x05]
    if c.input.length != k.taken then .error (ePkLength, 0)
    else match k.refused with
    | some f => Work.failing f calls
    | none =>
      match agreeZ k.key.alg k.key.value k.key2.value with
      | none => Work.failing (eSharedZero, 0) calls
      | some z => k.target c [] z calls [secretHeld d c k.key 0 z]

/-- AGREE_STATIC (R224). -/
def execAgreeStatic (dom id : Nat) (s : State) : Answer := s.runOp 0x1703 dom id fun s c => agreeStaticWork s dom c

/-- AGREE_EPHEMERAL up to its output. -/
def agreeEphemeralWork (s : State) (d : Nat) (c : Cmd) : Work :=
  match kemKeys s d c { inline1 := true, targets := [1, 2] } ⟨12, true, isAgree⟩ none with
  | .error f => .error f
  | .ok k =>
    let calls := [k.key.call 0x06]
    if c.input.length != k.taken then .error (ePkLength, 0)
    else match k.refused with
    | some f => Work.failing f calls
    | none =>
      let e := ephemeral k.key.alg (streamOf (c.drawn.getD []))
      match agreeZ k.key.alg e k.key.value with
      | none => Work.failing (eSharedZero, 0) calls
      | some z => k.target c (publicOf k.key.alg k.key.length e) z calls [secretHeld d c k.key 0 z]

/-- AGREE_EPHEMERAL (R224). -/
def execAgreeEphemeral (dom id : Nat) (s : State) : Answer := s.runOp 0x1704 dom id fun s c => agreeEphemeralWork s dom c

/-- An RSA representative out of range or trivial (Table 8-6). -/
def representativeFail (m n : Nat) : Option Fail :=
  firstFail [need (m < n) eInputRange 0, need (2 ≤ m && m + 1 != n) eInputTrivial 0]

/-- RSA_OAEP_ENCRYPT up to its output. -/
def oaepEncryptWork (s : State) (d : Nat) (c : Cmd) : Work :=
  match kemKeys s d c { inline1 := true, oaep := true, targets := [0] } ⟨1, true, isRsa⟩ none with
  | .error f => .error f
  | .ok k =>
    let h := byteAt c.param 68
    let len := k.key.length / 8
    let m := c.input.drop k.taken
    let calls := [k.key.call 0x04]
    match k.refused, rsaPublic k.key.value with
    | some f, _ => Work.failing f calls
    | none, none => Work.failing (eInvalidKey, 0) calls
    | none, some (n, e) =>
      let em := oaepEncode h len m ((streamOf (c.drawn.getD [])).take (hashLen h)).1
      match firstFail [need (m.length + 2 * hashLen h + 2 ≤ len) ePkLength 0, representativeFail (beNat em) n] with
      | some f => Work.failing f calls
      | none => .ok { out := rsaApply k.key.length e n em, calls := calls }

/-- RSA_OAEP_ENCRYPT (R224). -/
def execRsaOaepEncrypt (dom id : Nat) (s : State) : Answer := s.runOp 0x1707 dom id fun s c => oaepEncryptWork s dom c

/-- RSA_OAEP_DECRYPT up to its output. A ciphertext whose padding does not decode fails; no rule names its status, which is
a free value (log entry 2). -/
def oaepDecryptWork (s : State) (d : Nat) (c : Cmd) : Work :=
  match kemKeys s d c { oaep := true, targets := [0, 1] } ⟨2, false, isRsa⟩ none with
  | .error f => .error f
  | .ok k =>
    let h := byteAt c.param 68
    let len := k.key.length / 8
    match rsaPrivate k.key.value with
    | none => .error (eKeyCorrupt, byteAt c.param 0)
    | some (n, _, e) =>
      let calls := [k.key.call 0x03]
      match firstFail [need (c.input.length = len) ePkLength 4, representativeFail (beNat c.input) n] with
      | some f => Work.failing f calls
      | none =>
        match oaepDecode h len (rsaApply k.key.length e n c.input) with
        | none => Work.failing (field (Config.free s.free 2) 0 2, 0) calls
        | some m =>
          match k.wrap with
          | none => .ok { out := m, calls := calls }
          | some w =>
            if 16 ≤ m.length && m.length ≤ 64 then .ok { out := kwpWrap (aes w.value) m, calls := calls ++ targetCalls c k.wrap false m.length }
            else Work.failing (ePkLength, 0) calls

/-- RSA_OAEP_DECRYPT (R224). -/
def execRsaOaepDecrypt (dom id : Nat) (s : State) : Answer :=
  (s.freed 0x1708 dom id).runOp 0x1708 dom id fun s c => oaepDecryptWork s dom c

/-! ### Group 0x1A (R227) -/

/-- What every command of the group checks on its block and on the length of its input; then what its LIU checks, n and each operand
below n (R211); `f` has n, the operands and the exponent. -/
def liWork (c : Cmd) (operands : Nat) (exp : Bool) (f : Nat → List Nat → Nat → Except Fail Nat) : Work :=
  let p := c.param
  let calls : List Call := [{ kind := .liu, func := c.entry.opcode - 0x1A01 + 0x10, length := field p 0 2, control := field p 2 2 }]
  let len := field p 0 2
  let el := field p 2 2
  let n := beNat (slice c.input 0 len)
  let ops := (List.range operands).map fun i => beNat (slice c.input (len * (i + 1)) len)
  let e := beNat (slice c.input (len * (operands + 1)) el)
  match firstFail [
      need (c.entry.access % 16 = 0) ePkParam 0xFFFF,
      fields ePkParam [(0, 1 ≤ len && len ≤ 1024), (2, if exp then 1 ≤ el && el ≤ 1024 else el = 0)],
      need (c.input.length = len * (operands + 1) + el) ePkLength 0] with
  | some x => .error x
  | none =>
    match firstFail [
        need (n % 2 = 1 && 3 ≤ n && c.input.headD 0 != 0) eModulus 0,
        (ops.findIdx? fun x => x ≥ n).map fun i => (eInputRange, i)] with
    | some x => Work.failing x calls
    | none =>
      match f n ops e with
      | .error x => Work.failing x calls
      | .ok v => .ok { out := beBytes len v, calls := calls }

/-- What the LIU gives for LI_MOD_INV (R212). -/
def modInverse (n : Nat) (ops : List Nat) : Except Fail Nat :=
  match invMod (ops.getD 0 0) n with
  | some v => .ok v
  | none => .error (eNotInvertible, 0)

/-- What an opcode of the groups 0x16, 0x17 and 0x1A computes. -/
def pkWork (code : Nat) (s : State) (d : Nat) (c : Cmd) : Work :=
  match code with
  | 0x1601 => pkSignWork s d c
  | 0x1602 => pkVerifyWork s d c
  | 0x1701 => encapsulateWork s d c false
  | 0x1702 => decapsulateWork s d c
  | 0x1703 => agreeStaticWork s d c
  | 0x1704 => agreeEphemeralWork s d c
  | 0x1705 => encapsulateWork s d c true
  | 0x1706 => hybridDecapsulateWork s d c
  | 0x1707 => oaepEncryptWork s d c
  | 0x1708 => oaepDecryptWork s d c
  | 0x1A01 => liWork c 1 true fun n ops e => .ok (powMod (ops.getD 0 0) e n)
  | 0x1A02 => liWork c 2 false fun n ops _ => .ok (ops.getD 0 0 * ops.getD 1 0 % n)
  | 0x1A03 => liWork c 2 false fun n ops _ => .ok ((ops.getD 0 0 + ops.getD 1 0) % n)
  | 0x1A04 => liWork c 2 false fun n ops _ => .ok (subMod (ops.getD 0 0) (ops.getD 1 0) n)
  | _ => liWork c 1 false fun n ops _ => modInverse n ops

/-- LI_MOD_EXP (R227). -/
def execLiModExp (dom id : Nat) (s : State) : Answer :=
  s.runOp 0x1A01 dom id fun _ c => liWork c 1 true fun n ops e => .ok (powMod (ops.getD 0 0) e n)

/-- LI_MOD_MUL (R227). -/
def execLiModMul (dom id : Nat) (s : State) : Answer :=
  s.runOp 0x1A02 dom id fun _ c => liWork c 2 false fun n ops _ => .ok (ops.getD 0 0 * ops.getD 1 0 % n)

/-- LI_MOD_ADD (R227). -/
def execLiModAdd (dom id : Nat) (s : State) : Answer :=
  s.runOp 0x1A03 dom id fun _ c => liWork c 2 false fun n ops _ => .ok ((ops.getD 0 0 + ops.getD 1 0) % n)

/-- LI_MOD_SUB (R227). -/
def execLiModSub (dom id : Nat) (s : State) : Answer :=
  s.runOp 0x1A04 dom id fun _ c => liWork c 2 false fun n ops _ => .ok (subMod (ops.getD 0 0) (ops.getD 1 0) n)

/-- LI_MOD_INV (R227, R212). -/
def execLiModInv (dom id : Nat) (s : State) : Answer :=
  s.runOp 0x1A05 dom id fun _ c => liWork c 1 false fun n ops _ =>
    modInverse n ops

end Sys2Proof.Machine
end

