-- ==== Sys2Proof/Machine/LiuJobs.lean ====
section
/-!
DEFINITION. Sys2Proof/Machine/LiuJobs.lean: LIU jobs: descriptor checks, dispatch, segments, results, retries and scrubs (R202 to R216, R219).
-/

namespace Sys2Proof.Machine

/-! ### The descriptor (Tables 8-2 and 8-3) -/

def liuFunc (w : List KWord) : Nat := bits (valAt w 0) 7 0

def liuAlg (w : List KWord) : Nat := bits (valAt w 0) 15 8

def liuIn (w : List KWord) : Nat := bits (valAt w 5) 31 0

def liuMax (w : List KWord) : Nat := bits (valAt w 5) 63 32

/-- AUX: the length of a PSS salt or of a context string. -/
def liuAux (w : List KWord) : Nat := bits (valAt w 0) 47 32

def liuHash (w : List KWord) : Nat := bits (valAt w 0) 31 24

def liuSch (w : List KWord) : Nat := bits (valAt w 0) 23 16

/-- The DRBG call that DRAW names, from 1; 0 none. -/
def liuDraw (w : List KWord) : Nat := valAt w 6

def noKeyWord (w : List KWord) (i : Nat) : Bool := tagAt w i = .bits && valAt w i = 0

def keyWord (w : List KWord) (i : Nat) : Bool := tagAt w i = .handle || noKeyWord w i

/-- Algorithms of a function (Table 8-3, Table 5-5). -/
def liuServes (func alg : Nat) : Bool :=
  match func with
  | 0x01 | 0x02 => alg = 0x10 || (0x20 ≤ alg && alg ≤ 0x24) || alg = 0x31
  | 0x03 | 0x04 => alg = 0x10
  | 0x05 | 0x06 => isAgree alg
  | 0x07 | 0x08 => alg = 0x30
  | 0x09 | 0x0A => alg ≥ 0x10 && lengthsOf alg != []
  | 0x10 | 0x11 | 0x12 | 0x13 | 0x14 => true
  | _ => false

/-- Functions that need a stored key, and functions that take none. -/
def liuNeedsKey (func : Nat) : Bool := func = 0x01 || func = 0x03 || func = 0x05 || func = 0x08 || func = 0x0A

def liuNoKey (func : Nat) : Bool := func = 0x09 || func ≥ 0x10

/-- Usage of KEY (Table 8-3). -/
def liuUsage (func : Nat) : Nat :=
  match func with
  | 0x01 => 10 | 0x02 => 11 | 0x03 => 2 | 0x04 => 1 | 0x05 | 0x06 => 12 | 0x07 => 1 | 0x08 => 13 | _ => 0

/-- Functions whose stored key is a public key of kind 01. -/
def liuPublic (func : Nat) : Bool := func = 0x02 || func = 0x04 || func = 0x06 || func = 0x07

/-- Whether SCHEME and HASH combine with the algorithm (R222); RSA decryption and encryption take an OAEP hash (R224), or none. -/
def liuScheme (w : List KWord) : Bool :=
  let h := liuHash w
  if liuFunc w = 1 || liuFunc w = 2 then schemeServes (liuSch w) (liuAlg w) && (if liuSch w ≤ 3 then 1 ≤ h && h ≤ 6 else h = 0)
  else if liuFunc w = 3 || liuFunc w = 4 then h ≤ 6
  else true

/-- Functions that need a DRBG call: AGREE_EPHEMERAL, ENCAPSULATE, and ENCRYPT with an OAEP hash (R224). -/
def liuDraws (w : List KWord) : Bool := liuFunc w = 0x06 || liuFunc w = 0x07 || (liuFunc w = 0x04 && liuHash w != 0)

def liuFormed (w : List KWord) : Bool :=
  let f := liuFunc w
  tagAt w 0 = .bits && keyWord w 1 && keyWord w 2 && tagAt w 3 = .addr && tagAt w 4 = .addr && tagAt w 5 = .bits && tagAt w 6 = .bits &&
    bits (valAt w 0) 63 48 = 0 && liuServes f (liuAlg w) && liuScheme w && (!liuNeedsKey f || tagAt w 1 = .handle) &&
    (!liuNoKey f || noKeyWord w 1) && (f = 0x05 || noKeyWord w 2) && (!liuDraws w || liuDraw w != 0)

/-! ### Estimates (R206, R219 Table 8-7), in ns -/

/-- The place of a length among the parameter sets of an algorithm; the first for a key that fits none. -/
def sizeIndex (alg length : Nat) : Nat := ((lengthsOf alg).findIdx? (· = length)).getD 0

def liuTimes (func alg : Nat) : List Nat :=
  match func, alg with
  | 0x01, 0x10 | 0x03, 0x10 => [80000, 270000, 551700, 1862000, 4414000]
  | 0x02, 0x10 | 0x04, 0x10 => [1600, 3400, 5800, 12500, 22000]
  | 0x01, 0x20 => [35560] | 0x01, 0x21 => [84210] | 0x01, 0x22 => [200000]
  | 0x02, 0x20 => [22860] | 0x02, 0x21 => [54000] | 0x02, 0x22 => [128000]
  | 0x01, 0x23 => [29090] | 0x01, 0x24 => [72730]
  | 0x02, 0x23 => [20000] | 0x02, 0x24 => [50000]
  | 0x05, 0x20 | 0x06, 0x20 => [26670] | 0x05, 0x21 | 0x06, 0x21 => [64000] | 0x05, 0x22 | 0x06, 0x22 => [152400]
  | 0x05, 0x25 | 0x06, 0x25 => [21330] | 0x05, 0x26 | 0x06, 0x26 => [53330]
  | 0x07, _ => [7110, 10670, 16000]
  | 0x08, _ => [8890, 13330, 20000]
  | 0x01, 0x31 => [80000, 123100, 160000]
  | 0x02, 0x31 => [22860, 35560, 60000]
  | _, _ => []

/-- Check times of public keys (Table 8-6). -/
def liuCheckTimes (alg : Nat) : List Nat :=
  match alg with
  | 0x10 => [600, 800, 1000, 1500, 2000]
  | 0x20 => [400] | 0x21 => [600] | 0x22 => [900] | 0x23 => [300] | 0x24 => [500] | 0x25 => [200] | 0x26 => [300]
  | 0x30 => [200, 300, 400] | 0x31 => [300, 400, 500] | _ => [0]

/-- A modular function on operands of n bytes, with an exponent of x bytes (R219): its check time and twice its products at 2.0 GHz; for MOD_ADD and
MOD_SUB twice k + 8 cycles.
DESIGN CHOICE (log entry 73): R219 does not say whether the doubling of Table 8-5 is in their k + 8 cycles. -/
def modTime (func n x : Nat) : Nat :=
  let k := ceilDiv n 8
  let product := ceilDiv (2 * k * k) 16 + 8
  let cycles := match func with
    | 0x10 => (16 * x + 4) * product
    | 0x11 => 3 * product
    | 0x14 => 16 * n * product
    | _ => k + 8
  (if n ≤ 256 then 500 else if n ≤ 512 then 1000 else 2000) + cycles

/-- Bytes of a modulus and of an exponent (log entry 47): MOD_EXP's result has the length of its modulus, and the exponent takes the rest. -/
def modLens (w : List KWord) : Nat × Nat :=
  match liuFunc w with
  | 0x10 => (liuMax w, liuIn w - 2 * liuMax w)
  | 0x14 => (liuIn w / 2, 0)
  | _ => (liuIn w / 3, 0)

/-- The estimate of a job, for a key of a length. -/
def liuCost (w : List KWord) (length : Nat) : Nat :=
  let f := liuFunc w
  if f ≥ 0x10 then modTime f (modLens w).1 (modLens w).2
  else
    let l := if f = 0x09 then liuCheckTimes (liuAlg w) else liuTimes f (liuAlg w)
    l.getD (sizeIndex (liuAlg w) length) 0

/-! ### Inline keys (Table 8-3; log entry 47) -/

/-- The bytes of a DER item, its header with it. -/
def derItem (b : Bytes) : Nat :=
  let n := byteAt b 1
  if n < 0x80 then 2 + n else if n = 0x81 then 3 + byteAt b 2 else 4 + beNat (slice b 2 2)

/-- Bytes of a context string that stands before an inline key. -/
def liuContext (w : List KWord) : Nat := if liuFunc w ≤ 2 && liuSch w ≥ 4 then liuAux w else 0

/-- The status of a public key that fails its checks (Table 8-6). -/
def inlineFault (alg : Nat) : Nat := if alg = 0x10 || alg = 0x30 || alg = 0x31 then eInvalidKey else eInvalidPoint

/-- An inline public key at an offset of SRC: its LENGTH and its bytes, or the status that refuses it. The key is all that follows for AGREE,
AGREE_EPHEMERAL, ENCAPSULATE and PUBLIC_CHECK, and has the length of one parameter set; the DER form of an RSA key ends itself, and its modulus
gives LENGTH. An ML-DSA key of VERIFY stands before its signature and a message of any length: which of the sets that fit is meant, a descriptor
does not say, and Config chooses (log entry 47). -/
def inlineAt (func alg : Nat) (src : Bytes) (o : Nat) : Except Nat (Nat × Bytes) :=
  let key := fun n => slice src o (if alg = 0x10 then derItem (src.drop o) else publicLen alg n)
  let whole := func = 0x05 || func = 0x06 || func = 0x07 || func = 0x09
  let fits := fun n =>
    let e := o + (if alg = 0x10 then derItem (src.drop o) else publicLen alg n)
    if whole then e = src.length else e + (if alg = 0x31 then signatureLen alg n else 0) ≤ src.length
  let sets := (lengthsOf alg).filter fun n => fits n && (alg != 0x10 || (publicCheck alg n (key n)).isNone)
  match sets.getD (Config.inlineSet src.length % sets.length) 0 with
  | 0 => .error (if (alg = 0x30 || alg = 0x31) && func != 0x09 then ePkLength else inlineFault alg)
  | n => match publicCheck alg n (key n) with
    | some st => .error st
    | none => .ok (n, key n)

/-! ### Checks -/

/-- The key that a descriptor names, or its inline key: LENGTH and value, or the status that refuses it. -/
def State.liuKeyOf (s : State) (k : Nat) (w : List KWord) (i : Nat) : Except Nat (Nat × Bytes) :=
  if tagAt w i = .handle then
    match s.keyNamed k (valAt w i) with
    | .stored a v => .ok (a.length, v)
    | _ => .error eInvalidKey
  else inlineAt (liuFunc w) (liuAlg w) (s.bytesAt k (valAt w 3) (liuIn w)) (liuContext w)

/-- The LENGTH of that key, 0 where there is none. -/
def State.liuLength (s : State) (k : Nat) (w : List KWord) (i : Nat) : Nat := match s.liuKeyOf k w i with | .ok x => x.1 | .error _ => 0

/-- FORM, GUARD and USAGE of one key word: whether its algorithm differs, whether it is undeclared, whether its usage forbids the
function. -/
def State.liuKey (s : State) (k : Nat) (w : List KWord) (i usage : Nat) (pub : Bool) : Bool × Bool × Bool :=
  if tagAt w i != .handle then (false, false, false)
  else
    match s.keyNamed k (valAt w i) with
    | .undeclared => (false, true, false)
    | .absent => (true, false, false)
    | .scoped _ => (false, false, true)
    | .stored a _ => (a.alg != liuAlg w, false, a.usage != usage || (handleKind (valAt w i) = 1) != pub)

/-- FORM, GUARD and USAGE, in that order (R204). KEYGEN serves KEY_GENERATE and KEY_REPLACE alone (R205). -/
def State.judgeLiu (s : State) (k : Nat) (w : List KWord) : Judged :=
  let f := liuFunc w
  let a := s.liuKey k w 1 (liuUsage f) (liuPublic f)
  let b := s.liuKey k w 2 12 true
  let draws := match s.coreCmd k with | some (_, c) => (c.drawn.getD []).length / 48 | none => 0
  let formed := liuFormed w && !a.1 && !b.1 && liuDraw w ≤ draws
  { undeclared := formed && (a.2.1 || b.2.1), cost := if formed then liuCost w (s.liuLength k w 1) else 0
    blinds := if formed then blindValues f (liuAlg w) (s.liuLength k w 1) else []
    result := firstResult [(!formed, resForm), (a.2.1 || b.2.1, 0x02), (f = 0x0A || a.2.2 || b.2.2, 0x03)] }

/-! ### Dispatch (R100, R206) -/

/-- LIUs of a region that hold a job of a domain. -/
def State.liusUsed (s : State) (r d : Nat) : Nat :=
  ((List.range 4).filter fun i => (List.range 4).any fun x =>
    Tab.get (s.liu (4 * r + i)).contexts 0 x = 1 &&
      (match s.job (Tab.get (s.liu (4 * r + i)).owners (0, 0) x).1 (Tab.get (s.liu (4 * r + i)).owners (0, 0) x).2 with
       | some j => decide (j.dom = d) | none => false)).length

def State.capLius (s : State) (d : Nat) : Nat := if d < 256 then (s.dom d).conf.capLius else 4

/-- A context of an LIU for a job: a free one; at most three long jobs on one LIU. -/
def State.contextFor (s : State) (l : Nat) (j : Job) : Option Nat :=
  if (s.liu l).state != .service then none
  else if !j.short && ((s.residents l).filter fun x => !x.2.2.short).length ≥ 3 then none
  else (List.range 4).find? fun x => Tab.get (s.liu l).contexts 0 x = 0

def State.liuFor (s : State) (r : Nat) (j : Job) : Option (Nat × Nat) :=
  j.units.findSome? fun u => (s.contextFor (4 * r + u) j).map fun x => (u, x)

/-- Domains with a waiting LIU job, in the order they are served; one at its cap, without a context for its job, or whose private-key job waits for
the blinding DRBG (R240) only earns (R100). -/
def State.liuCandidates (s : State) (r : Nat) : List Candidate :=
  let l := s.jobsWaiting r .liu
  ((List.range 257).map fun i => ((s.region r).lastLiuDom + 1 + i) % 257).filterMap fun d =>
    (headOf l d).map fun p =>
      { dom := d, cost := p.2.cost, deficit := Tab.get (s.dom d).liuDeficit 0 r, quantum := s.quantum d r
        open_ := s.liusUsed r d < s.capLius d && (s.liuFor r p.2).isSome && (!liuPrivate (liuFunc p.2.words) || s.blindReady r p.2.blinds.length) }

/-- The LIU-time deficits after the rounds that lead to a dispatch (R100). -/
def State.chargeLiu (s : State) (r : Nat) (l : List Candidate) (x : Candidate) : State :=
  let k := x.rounds (s.region r).lastLiuDom
  let ahead := (l.takeWhile fun y => y.dom != x.dom).map Candidate.dom
  let gain := fun (y : Candidate) => if k = 0 then 0 else if y.dom = x.dom || ahead.contains y.dom then k * y.quantum else (k - 1) * y.quantum
  let ready := (s.jobsWaiting r .liu).map fun p => p.2.dom
  let s := l.foldl (fun s y => s.setDom y.dom fun D =>
    { D with liuDeficit := Tab.put D.liuDeficit 0 r (y.deficit + gain y - (if y.dom = x.dom then x.cost else 0)) }) s
  let idle := (s.doms.map (·.1)).filter fun d => !ready.contains d && Tab.get (s.dom d).liuDeficit 0 r != 0
  let s := s.foldDoms idle fun s d => s.setDom d fun D => { D with liuDeficit := Tab.put D.liuDeficit 0 r 0 }
  s.setRegion r fun R => { R with lastLiuDom := x.dom }

/-! ### Contexts and segments (R206, R207) -/

/-- The region arbiter gives one waiting LIU job its context. Its randomised representations are drawn afresh (R209); what its operands and
temporaries make of the context, whose layout the spec does not give, is a free value. -/
def State.feedLiu (s : State) (r : Nat) : State :=
  let l := s.liuCandidates r
  match served (s.region r).lastLiuDom l with
  | none => s
  | some x =>
    match headOf (s.jobsWaiting r .liu) x.dom with
    | none => s
    | some (k, j) =>
      match s.liuFor r j with
      | none => s
      | some (u, ctx) =>
        let s := (s.chargeLiu r l x).setJob k j.slot fun j => { j with started := true, lastUnit := u, context := ctx, since := s.now }
        let s := (s.blind r j.blinds).2
        let (m, s) := s.fresh contextBytes
        let s := s.setLiu (4 * r + u) fun v =>
          { v with contexts := Tab.put v.contexts 0 ctx 1, owners := Tab.put v.owners (0, 0) ctx (k, j.slot), memory := Tab.put v.memory [] ctx m }
        if (s.liu (4 * r + u)).running.isNone then s.chooseWork (4 * r + u) else s

def State.feedLius (s : State) (r : Nat) : State := (List.range 16).foldl (fun s _ => s.feedLiu r) s

/-- ENQL (R204, R296). -/
def execEnql (core : Nat) (rd rs1 : BitVec 5) (s : State) : Answer :=
  s.enqueue core 0x81 .liu rd rs1 (s.judgeLiu core) fun s => s.feedLius (core / 12)

/-- The cluster of an LIU at work. -/
def State.liuRuns (s : State) (l : Nat) : Bool := s.running && s.regionRuns (l / 4)

/-- The job in the context that an LIU's array serves: its context, core and record. -/
def State.serving (s : State) (l : Nat) : Option (Nat × Nat × Job) :=
  match (s.liu l).running with
  | none => none
  | some x => (s.residents l).find? fun p => p.1 = x

/-- LIU_SEGMENT_END (R207): a short job goes on; a long one begins to wait, and the LIU chooses. -/
def execLiuSegmentEnd (liu : Nat) (s : State) : Answer :=
  match s.serving liu with
  | none => .next s
  | some (_, k, j) =>
    if !s.liuRuns liu then .next s
    else
      let s := s.count 1 (liu / 4) 0x22 (some j.dom) 1
      if j.short then .next s else .next ((s.setJob k j.slot fun j => { j with since := s.now }).chooseWork liu)

/-! ### Results (Tables 8-1 to 8-3, 8-6) -/

/-- What a function gives: refused with a command status; or its public output, its secret result, its verdict and reason. -/
inductive LiuResult where
  | refused (status : Nat)
  | done (out : Bytes) (secret : Option Bytes) (verdict reason : Nat)

/-- Bytes of the command's assigned DRBG call. -/
def State.liuSeed (s : State) (k : Nat) (w : List KWord) : Bytes :=
  match s.coreCmd k with
  | some (_, c) => slice (c.drawn.getD []) (48 * (liuDraw w - 1)) 48
  | none => []

/-- What SRC holds besides an inline key (DEDUCED from Table 8-8 and R224; log entry 47). SIGN: the PSS salt of a signature that draws none, the
context string, then the digest (the message for schemes 4 and 5). VERIFY: the context string, the key, the signature, the digest or message. -/
def liuForm (w : List KWord) (src : Bytes) (hedged : Bool) : SignForm × Nat :=
  let salt := if liuSch w = 2 && !hedged && liuFunc w = 1 then liuAux w else 0
  let ctx := liuContext w
  ({ scheme := liuSch w, hash := liuHash w, ctx := slice src salt ctx, salt := src.take salt, m := src.drop (salt + ctx) }, salt + ctx)

/-- A digest part has the length of its hash. -/
def liuDigestOk (w : List KWord) (m : Bytes) : Bool := liuSch w ≥ 4 || m.length = hashLen (liuHash w)

/-- SIGN. -/
def State.liuSign (s : State) (k : Nat) (w : List KWord) (src : Bytes) : LiuResult :=
  match s.liuKeyOf k w 1 with
  | .error st => .refused st
  | .ok (n, v) =>
    let hedged := liuDraw w != 0
    let r := streamOf (s.liuSeed k w)
    let (f, o) := liuForm w src hedged
    let f := if hedged && liuSch w = 2 then { f with salt := (r.take (liuAux w)).1 } else f
    if o > src.length || !liuDigestOk w f.m then .refused ePkLength
    else .done (signWith (liuAlg w) n v f (if hedged then some r else none)) none 0 0

/-- VERIFY. -/
def State.liuVerify (s : State) (k : Nat) (w : List KWord) (src : Bytes) : LiuResult :=
  match s.liuKeyOf k w 1 with
  | .error st => .refused st
  | .ok (n, v) =>
    let (f, o) := liuForm w src false
    let o := o + (if tagAt w 1 = .handle then 0 else v.length)
    let sig := signatureLen (liuAlg w) n
    let f := { f with m := src.drop (o + sig) }
    if o + sig > src.length || !liuDigestOk w f.m then .refused ePkLength
    else
      let r := verdictReason (liuAlg w) n v (slice src o sig) f (liuAux w)
      .done [] none (b2n (r = 0)) r

/-- DECRYPT: SRC is the ciphertext; the recovered message is the OAEP message under HASH, or, with HASH 0, the representative. A ciphertext whose
padding does not decode is refused with a status that no rule names, a free value (log entry 2). -/
def State.liuDecrypt (s : State) (k : Nat) (w : List KWord) (src : Bytes) : LiuResult :=
  match s.liuKeyOf k w 1 with
  | .error st => .refused st
  | .ok (len, v) =>
    match rsaPrivate v with
    | none => .refused eInvalidKey
    | some (n, _, d) =>
      match firstFail [need (src.length = len / 8) ePkLength 4, representativeFail (beNat src) n] with
      | some x => .refused x.1
      | none =>
        let em := rsaApply len d n src
        if liuHash w = 0 then .done em none 0 0
        else match oaepDecode (liuHash w) (len / 8) em with
          | some m => .done m none 0 0
          | none => .refused (field (Config.free s.free 2) 0 2)

/-- ENCRYPT: the inline key, then the message, padded by OAEP under HASH, or, with HASH 0, the representative itself. -/
def State.liuEncrypt (s : State) (k : Nat) (w : List KWord) (src : Bytes) : LiuResult :=
  match s.liuKeyOf k w 1 with
  | .error st => .refused st
  | .ok (len, v) =>
    match rsaPublic v with
    | none => .refused eInvalidKey
    | some (n, e) =>
      let m := if tagAt w 1 = .handle then src else src.drop v.length
      let h := liuHash w
      let fits := if h = 0 then m.length = len / 8 else m.length + 2 * hashLen h + 2 ≤ len / 8
      let em := if h = 0 then m else oaepEncode h (len / 8) m ((streamOf (s.liuSeed k w)).take (hashLen h)).1
      match firstFail [need fits ePkLength 0, representativeFail (beNat em) n] with
      | some x => .refused x.1
      | none => .done (rsaApply len e n em) none 0 0

/-- The modular functions: n, then a, then b or e (R227), with the checks of Table 8-6. -/
def liuModular (w : List KWord) (src : Bytes) : LiuResult :=
  let (len, x) := modLens w
  let f := liuFunc w
  let n := beNat (slice src 0 len)
  let a := beNat (slice src len len)
  let b := beNat (slice src (2 * len) len)
  let e := beNat (slice src (2 * len) x)
  let total := if f = 0x14 then 2 * len else if f = 0x10 then 2 * len + x else 3 * len
  let limits := if f = 0x10 then 1 ≤ x && x ≤ 1024 else true
  let value : Option Nat := match f with
    | 0x10 => some (powMod a e n)
    | 0x11 => some (a * b % n)
    | 0x12 => some ((a + b) % n)
    | 0x13 => some (subMod a b n)
    | _ => invMod a n
  match firstFail [
      need (1 ≤ len && len ≤ 1024 && limits && src.length = total) ePkLength 0,
      need (n % 2 = 1 && 3 ≤ n && src.headD 0 != 0) eModulus 0,
      need (a < n && (f = 0x10 || f = 0x14 || b < n)) eInputRange 0] with
  | some y => .refused y.1
  | none => match value with | some v => .done (beBytes len v) none 0 0 | none => .refused eNotInvertible

/-- What a function gives (Tables 8-3 and 8-6). -/
def State.liuCompute (s : State) (k : Nat) (w : List KWord) : LiuResult :=
  let src := s.bytesAt k (valAt w 3) (liuIn w)
  let alg := liuAlg w
  match liuFunc w with
  | 0x01 => s.liuSign k w src
  | 0x02 => s.liuVerify k w src
  | 0x03 => s.liuDecrypt k w src
  | 0x04 => s.liuEncrypt k w src
  | 0x05 =>
    match s.liuKeyOf k w 1, s.liuKeyOf k w 2 with
    | .ok (_, a), .ok (_, b) =>
      (match agreeZ alg a b with
       | none => .refused eSharedZero
       | some z => .done [] (some z) 0 0)
    | .error st, _ | _, .error st => .refused st
  | 0x06 =>
    match s.liuKeyOf k w 1 with
    | .error st => .refused st
    | .ok (n, b) =>
      let e := ephemeral alg (streamOf (s.liuSeed k w))
      (match agreeZ alg e b with
       | none => .refused eSharedZero
       | some z => .done (publicOf alg n e) (some z) 0 0)
  | 0x07 =>
    match s.liuKeyOf k w 1 with
    | .error st => .refused st
    | .ok (n, ek) =>
      let r := kemEncaps n ek ((streamOf (s.liuSeed k w)).take 32).1
      .done r.2 (some r.1) 0 0
  | 0x08 =>
    match s.liuKeyOf k w 1 with
    | .error st => .refused st
    | .ok (n, v) => if src.length = kemCtLen n then .done [] (some (kemDecaps n v src)) 0 0 else .refused ePkLength
  | 0x09 => match inlineAt 0x09 alg src 0 with | .ok _ => .done [] none 0 0 | .error st => .refused st
  | _ => liuModular w src

/-- The secret results of a job of Efori's become job-scoped entries (R205). -/
def State.holdSecrets (s : State) (k : Nat) (j : Job) : State :=
  match j.id.bind fun id => s.cmd j.dom id with
  | none => s
  | some c =>
    match pkWork c.entry.opcode (s.before c) j.dom c with
    | .ok r => s.holdKeys k (j.dom, c.id) r.held
    | .error _ => s

/-- LIU_JOB_END (R204, R205, R210): the result of the job in a context has passed its check. -/
def execLiuJobEnd (liu context : Nat) (s : State) : Answer :=
  match s.serving liu with
  | none => .next s
  | some (x, k, j) =>
    if !s.liuRuns liu || x != context then .next s
    else
      let w := j.words
      let res := if j.firmware then .done [] none 0 0 else s.liuCompute k w
      let s := { s with free := s.free + 1 }
      let retries := j.retries % 256 * 256
      let s := s.count 1 (liu / 4) 0x22 (some j.dom) 1
      let s := if j.firmware then (s.holdSecrets k j).endJob k j.slot 0 else match res with
        | .refused st => s.endJob k j.slot (st % 2 ^ 16 * 2 ^ 32 + retries + 0x04)
        | .done out secret verdict reason =>
          let s := s.putBytesAt k (valAt w 4) (out.take (liuMax w))
          let s := match secret with | some z => s.scope k j.slot z | none => s
          s.endJob k j.slot (out.length % 2 ^ 32 * 2 ^ 32 + verdict * 2 ^ 24 + reason * 2 ^ 16 + retries)
      .next (((s.leaveContext liu x).chooseWork liu).feedLius (liu / 4))

/-! ### Check failures, quarantine, scrubs (R214 to R216, R366) -/

/-- The commands of a region whose cores have jobs for a kind of engine that no unit of the region serves any more, executed again in
other regions. -/
def State.evict (s : State) (r : Nat) (kind : EngineKind) : State :=
  if s.hasUnit r kind then s
  else
    let ks := ((List.range 12).map fun b => 12 * r + b).filter fun k => (s.core k).jobs.any fun j => j.kind = kind && j.ended.isNone
    let s := s.rerun (fun c => !c.entry.mgmt && c.phase = .running && c.region = r && ks.contains (12 * r + c.block)) none (some r)
    let s := s.dropJobs ks.contains
    ks.foldl (fun s k => (s.setRegion r fun R => R.clearBlock k).resetCore k) s

/-- An LIU leaves service; the jobs in its contexts are discarded and run on others. -/
def State.quarantineLiu (s : State) (l : Nat) : State :=
  let n := (s.liu l).quarantines + 1
  let r := l / 4
  let res := s.residents l
  let s := res.foldl (fun s x => (s.setJob x.2.1 x.2.2.slot fun j => { j with started := false }).leaveContext l x.1) s
  let s := s.setLiu l fun u =>
    { u with state := if n ≥ 4 then .retired else .quarantined, quarantines := n, since := s.now, running := none, shorts := 0 }
  let s := ((s.journalTimer operator s.now).faultEntry (if n ≥ 4 then codeRetired else codeQuarantine) (originOf 6 l) 0 l n).regionEvent r (if n ≥ 4 then 3 else 2)
  s.evict r .liu

/-- The running job's result fails its check: it is discarded and runs on another LIU; on the third LIU it is ESCALATED. -/
def State.liuFails (s : State) (l x k : Nat) (j : Job) : State :=
  let fails := s.recent (s.liu l).fails
  let seq := match s.coreCmd k with | some (_, c) => c.seq | none => 0
  let s := (s.mismatchReport (l / 4)).faultEntry codeMismatch (originOf 6 l) seq l fails.length
  let s := (s.leaveContext l x).setLiu l fun u => { u with fails := fails }
  let tried := j.tried ++ [(0, l)]
  let three := ((List.range 4).filter fun i => tried.contains (0, 4 * (l / 4) + i)).length ≥ 3
  let s := s.setJob k j.slot fun j => { j with tried := tried, retries := j.retries + 1, started := false }
  let s := if fails.length ≥ 3 then s.quarantineLiu l else s.chooseWork l
  let s := if three then (s.endJob k j.slot (j.retries % 256 * 256 + resEscalated)).escalate k .liu j else s
  s.feedLius (l / 4)

/-- LIU_CHECK_FAIL (R214, R215, R366): a result fails its check, a segment overruns by 4 µs, or (`ecc`) operand memory has an uncorrectable
error. -/
def execLiuCheckFail (liu : Nat) (ecc : Bool) (s : State) : Answer :=
  if !s.liuRuns liu || (s.liu liu).state != .service then .next s
  else if ecc then .next ((s.quarantineLiu liu).feedLius (liu / 4))
  else
    match s.serving liu with
    | none => .next s
    | some (x, k, j) => .next (s.liuFails liu x k j)

/-- LIU_SCRUB_END (R216): the zeros of the second pass stand, and the read-back verifies them; or it fails, which quarantines the LIU and repeats the
scrub from its first pass. -/
def execLiuScrubEnd (liu context : Nat) (ok : Bool) (s : State) : Answer :=
  if !s.liuRuns liu || Tab.get (s.liu liu).contexts 0 context != 2 then .next s
  else if ok then
    .next ((s.setLiu liu fun u => { u with contexts := Tab.put u.contexts 0 context 0, owners := Tab.put u.owners (0, 0) context (0, 0)
                                           memory := Tab.put u.memory [] context [] }).feedLius (liu / 4))
  else if (s.liu liu).state = .service then .next (((s.leaveContext liu context).quarantineLiu liu).feedLius (liu / 4))
  else .next (s.leaveContext liu context)

/-- An LIU after its self test: in service again or RETIRED, with its entry. -/
def State.liuTested (s : State) (liu : Nat) (pass : Bool) : State :=
  let n := (s.liu liu).quarantines
  let s := s.setLiu liu fun u => if pass then { u with state := .service, fails := [] } else { u with state := .retired }
  let s := s.faultEntry (if pass then codeReturned else codeRetired) (originOf 6 liu) 0 liu n
  let s := if pass then s else s.regionEvent (liu / 4) 3
  s.feedLius (liu / 4)

/-- LIU_SELF_TEST (R215): 2 ms, from 1 s after the LIU entered quarantine. -/
def execLiuSelfTest (liu : Nat) (pass : Bool) (s : State) : Answer :=
  if !s.running || (s.liu liu).state != .quarantined then .next s
  else .next ((s.passTo ((s.liu liu).since + 1002000000)).liuTested liu pass)

end Sys2Proof.Machine
end

