-- ==== Sys2Proof/Machine/HashJobs.lean ====
section
/-!
DEFINITION. Sys2Proof/Machine/HashJobs.lean: hash jobs: descriptor checks, results, lane mismatches, quarantine (R299, R366).
-/

namespace Sys2Proof.Machine

/-! ### The descriptor (Table 11-10) -/

def hashAlg (w : List KWord) : Nat := bits (valAt w 0) 7 0

def hashKind (w : List KWord) : Nat := bits (valAt w 0) 15 8

def hashIn (w : List KWord) : Nat := bits (valAt w 4) 31 0

def hashOut (w : List KWord) : Nat := bits (valAt w 4) 63 32

def isHmac (alg : Nat) : Bool := alg = 0x16 || alg = 0x17 || alg = 0x18

/-- The HASH code under an algorithm. -/
def hashCode (alg : Nat) : Nat := if isHmac alg then alg - 0x15 else alg

/-- Bytes of an input block (Table 10-9). -/
def blockOf (alg : Nat) : Nat := if alg = 7 then 168 else if alg = 8 then 136 else hashBlock (hashCode alg)

/-- OUT_LEN in its range. -/
def hashOutOk (w : List KWord) : Bool :=
  let n := hashOut w
  if hashAlg w = 7 || hashAlg w = 8 then 1 ≤ n && n ≤ 4194304
  else if hashKind w = 2 then 4 ≤ n && n ≤ hashLen (hashCode (hashAlg w))
  else n = hashLen (hashCode (hashAlg w))

/-- A key's usage for OUT_KIND; a DERIVE key gives a public output only in FIRMWARE mode. -/
def hashUsage (kind usage : Nat) (function : Bool) : Bool :=
  match kind with
  | 0 => usage = 6 || (usage = 5 && !function)
  | 1 => usage = 5
  | _ => usage = 7

/-- The engine's checks, in the order of the offsets. -/
def State.judgeHash (s : State) (k : Nat) (w : List KWord) : Judged :=
  let alg := hashAlg w
  let key := s.keyNamed k (valAt w 1)
  let named := tagAt w 1 = .handle
  let head := tagAt w 0 = .bits && bits (valAt w 0) 63 16 = 0 && hashKind w ≤ 2 && ((1 ≤ alg && alg ≤ 8) || isHmac alg)
  let keyed := if isHmac alg then named else noKeyWord w 1
  let und := named && (match key with | .undeclared => true | _ => false)
  let serves := !named || (match key with | .stored a _ => decide (a.alg = alg - 0x10) | .absent => false | _ => true)
  let usage := match key with | .stored a _ => a.usage | _ => 5
  { undeclared := head && keyed && und
    result := firstResult [
      (!head, resForm), (!keyed, resForm), (und, 0x04), (!serves, resForm), (named && !hashUsage (hashKind w) usage (s.core k).function, 0x08),
      (tagAt w 2 != .addr || tagAt w 3 != .addr, resForm),
      (tagAt w 4 != .bits || !hashOutOk w || hashIn w > 4194304, resForm),
      (!noKeyWord w 5 || !noKeyWord w 6, resForm)] }

/-- ENQH (R296, R299). -/
def execEnqh (core : Nat) (rd rs1 : BitVec 5) (s : State) : Answer :=
  s.enqueue core 0x82 .hash rd rs1 (s.judgeHash core) fun s => s.feedHashes (core / 12)

/-! ### Results -/

/-- The digest, XOF output or MAC of a job. -/
def hashResult (w : List KWord) (key m : Bytes) : Bytes :=
  let alg := hashAlg w
  if alg = 7 then shake128 m (hashOut w)
  else if alg = 8 then shake256 m (hashOut w)
  else if isHmac alg then hmacCode (hashCode alg) key m
  else hashOf alg m

/-- A hash engine at work. -/
def State.hashRuns (s : State) (h : Nat) : Bool := s.running && s.regionRuns (h / 4)

/-- HASH_JOB_END (R299): the result goes to DST, to a job-scoped entry, or into the verdict; a job of Efori's for a command of its own is
over. -/
def execHashJobEnd (hash : Nat) (s : State) : Answer :=
  match (s.hash hash).busy with
  | none => .next s
  | some (k, slot) =>
    match s.job k slot with
    | none => .next s
    | some j =>
      if !s.hashRuns hash then .next s
      else
        let w := j.words
        let key := match s.keyNamed k (valAt w 1) with | .stored _ v => v | .scoped v => v | _ => []
        let out := hashResult w key (s.bytesAt k (valAt w 2) (hashIn w))
        let s := s.count 1 (hash / 4) 0x23 (some j.dom) (if j.firmware then j.blocks else ceilDiv (hashIn w) (blockOf (hashAlg w)))
        let s := s.setHash hash HashEngine.freed
        let s :=
          if j.firmware then s.endJob k slot 0
          else if hashKind w = 0 then (s.putBytesAt k (valAt w 3) out).endJob k slot (out.length * 2 ^ 32)
          else if hashKind w = 1 then (s.scope k slot out).endJob k slot 0
          else s.endJob k slot (2 ^ 24 * b2n (out.take (hashOut w) = s.bytesAt k (valAt w 3) (hashOut w)))
        .next (s.feedHashes (hash / 4))

/-! ### Faults (R366) -/

/-- A hash engine leaves service. -/
def State.quarantineHash (s : State) (h : Nat) : State :=
  let n := (s.hash h).quarantines + 1
  let s := s.setHash h fun u => { u with state := if n ≥ 4 then .retired else .quarantined, quarantines := n, since := s.now }
  let s := (s.faultEntry (if n ≥ 4 then codeRetired else codeQuarantine) (originOf 7 h) 0 h n).regionEvent (h / 4) (if n ≥ 4 then 5 else 4)
  s.evict (h / 4) .hash

/-- HASH_LANE_MISMATCH (R366): the lanes disagree or stall for 2 µs; the job runs on another engine, and on the third it is ESCALATED. -/
def execHashLaneMismatch (hash : Nat) (s : State) : Answer :=
  match (s.hash hash).busy with
  | none => .next s
  | some (k, slot) =>
    match s.job k slot with
    | none => .next s
    | some j =>
      if !s.hashRuns hash then .next s
      else
        let fails := s.recent (s.hash hash).fails
        let seq := match s.coreCmd k with | some (_, c) => c.seq | none => 0
        let s := (s.mismatchReport (hash / 4)).faultEntry codeMismatch (originOf 7 hash) seq hash fails.length
        let s := s.setHash hash fun u => { u.freed with fails := fails }
        let tried := j.tried ++ [(0, hash)]
        let three := ((List.range 4).filter fun i => tried.contains (0, 4 * (hash / 4) + i)).length ≥ 3
        let s := s.setJob k slot fun j => { j with tried := tried, retries := j.retries + 1, started := false }
        let s := if fails.length ≥ 3 then s.quarantineHash hash else s
        let s := if three then (s.endJob k slot resEscalated).escalate k .hash j else s
        .next (s.feedHashes (hash / 4))

/-- A hash engine after its self test: in service again or RETIRED, with its entry. -/
def State.hashTested (s : State) (hash : Nat) (pass : Bool) : State :=
  let n := (s.hash hash).quarantines
  let s := s.setHash hash fun u => if pass then { u with state := .service, fails := [] } else { u with state := .retired }
  let s := s.faultEntry (if pass then codeReturned else codeRetired) (originOf 7 hash) 0 hash n
  let s := if pass then s else s.regionEvent (hash / 4) 5
  s.feedHashes (hash / 4)

/-- HASH_SELF_TEST (R366): 1 ms, from 1 s after the engine entered quarantine. -/
def execHashSelfTest (hash : Nat) (pass : Bool) (s : State) : Answer :=
  if !s.running || (s.hash hash).state != .quarantined then .next s
  else .next ((s.passTo ((s.hash hash).since + 1001000000)).hashTested hash pass)

end Sys2Proof.Machine
end

