-- ==== Sys2Proof/Machine/Cancel.lean ====
section
/-!
DEFINITION. Sys2Proof/Machine/Cancel.lean: the CANCEL interrupt of a core, and what the engines leave of the jobs it gives up (R74, R109,
R179, R303).
-/

namespace Sys2Proof.Machine

/-- The runs of a cancelled cell job stop where they are: of each a number of blocks, which the spec leaves open, is checked and stands at
DST. -/
def State.stopRuns (s : State) (k : Nat) (j : Job) : Nat × State :=
  (s.cellsOf k j.slot).foldl (fun p n =>
    let (v, s) := p.2.fresh 4
    let done := leNat v % ((s.cell n).blocks + 1)
    (p.1 + done, (s.deliver n done).count 0 k 0x10 (some j.dom) done)) (0, s)

/-- The jobs of a core end CANCELLED; BLOCKS_DONE counts the checked blocks (R179). -/
def State.cancelJobs (s : State) (k : Nat) : State :=
  ((s.core k).jobs.filter fun j => j.ended.isNone).foldl (fun s j =>
    match j.kind with
    | .cell =>
      let standing := j.blocks - s.blocksLeft k j
      let (n, s) := s.stopRuns k j
      s.endJob k j.slot ((standing + n) % 2 ^ 32 * 2 ^ 32 + j.retries % 2 ^ 16 * 2 ^ 16 + resCancelled)
    | .liu => s.endJob k j.slot (j.retries % 256 * 256 + resCancelled)
    | .hash => s.endJob k j.slot resCancelled) s

/-- CANCEL (R74, R303): the command of a core has been cancelled; the interrupt is taken at a yield point, outside a trap handler, the
engines give up its jobs, and the buffer areas granted for it are cleared (R109). -/
def execCancel (core : Nat) (s : State) : Answer :=
  if !s.coreRuns core || !s.cancelDue core || (s.core core).inTrap then .next s
  else
    let s := s.take core { cause := 0x20 } true (s.core core).pc
    let s := (s.cancelJobs core).dropJobs fun k => k = core
    match (s.core core).invocations with
    | i :: _ => .next (s.clearInvocation core i)
    | [] => .next (s.setRegion (core / 12) fun R => R.clearBlock core)

end Sys2Proof.Machine
end

