-- ==== Sys2Proof/Machine/Debug.lean ====
section
/-!
DEFINITION. Sys2Proof/Machine/Debug.lean: the debug TAP and the debug master (R313, R407, R483).
-/

namespace Sys2Proof.Machine

/-! ### Levels (R407 Table 16-5) -/

/-- The level that a TAP instruction needs. -/
def tapNeeds (i : TapInstr) (level : Nat) : Bool :=
  match i with
  | .bypass | .idcode => true
  | .debug => level = 2 || level = 3
  | _ => level ≥ 1

def customerState (x : LifeCycle) : Bool := x = .provisioned || x = .development || x = .field

/-! ### The TAP (R407, R483) -/

/-- EXTEST is left: the main domain stays in reset until it boots again (log entry 36). -/
def State.leaveExtest (s : State) : State := { s with life := { s.life with extest := false } }

/-- EXTEST is selected: the main domain is held in reset, while the EMBER domain and the tamper logic stay armed. -/
def State.enterExtest (s : State) : State :=
  { s with life := { s.life with extest := true }, boot := { s.boot with held := true }, host := { s.host with linkUp := false }
           trail := { s.trail with sram := [], unflushed := 0 } }

/-- A value shifted out. -/
def State.shiftOut (s : State) (b : Bytes) : State := s.putRaw (.tap b)

/-- The entry of a refused access; while the main domain is held in reset it waits in the last-gasp registers. -/
def State.refusedEntry (s : State) : State :=
  let d := leBytes 1 s.life.state.code ++ leBytes 1 s.life.debugLevel
  if s.trailRuns then s.log codeRefused (originOf 0 0) security d
  else { s with trail := s.trail.hold { code := codeRefused, origin := originOf 0 0, flags := security, data := d, time := s.clock.tai } }

/-- TAP_INSTRUCTION (R407): an instruction and the data shifted in behind it; while TRST_N is low the TAP stays in reset. -/
def execTapInstruction (ir : TapInstr) (data : Bytes) (trst : Bool) (s : State) : Answer :=
  if !s.boot.powered || trst then .next s
  else
    let s := { s with tap := { s.tap with trst := false, inReset := false } }
    let ok := tapNeeds ir s.life.debugLevel
    let s := if ok then s else s.refusedEntry
    let ir := if ok then ir else .bypass
    let s := { s with tap := { s.tap with ir := ir } }
    let s := if s.life.extest && ir != .extest then s.leaveExtest else s
    match ir with
    | .bypass => .next (s.shiftOut data)
    | .idcode => .next (s.shiftOut (slice Config.idcode 0 4))
    | .sample =>
      let (v, s) := s.fresh data.length
      .next (s.shiftOut v)
    | .preload => .next { s with tap := { s.tap with boundary := data } }
    | .extest => .next (if s.boot.held then s else s.enterExtest)
    | .debug => .next s

/-- TRST_N_ASSERT (R483): the TAP is held in Test-Logic-Reset, which selects IDCODE. -/
def execTrstNAssert (s : State) : Answer :=
  let s := { s with tap := { s.tap with trst := true, inReset := true, ir := .idcode } }
  .next (if s.life.extest then s.leaveExtest else s)

/-! ### The debug master (R313) -/

/-- The regions that customer states lock. -/
def debugLocked (t : DebugTarget) : Bool :=
  match t with
  | .keyCell _ | .keyCache _ _ | .liuMemory _ _ | .drbg _ | .warden _ _ | .ember _ => true
  | _ => false

/-- The certificate's pitch runs FUNCTION-mode code on a core. -/
def State.traced (s : State) (k : Nat) : Bool :=
  (s.core k).function && match (s.core k).invocations with | i :: _ => i.pitch = s.life.debugPitch | [] => false

/-- TRACE reaches the instruction trace of FUNCTION-mode code, and words of the granules of colours 1 to 14 that an invocation of the certificate's
pitch holds, and does not write them. -/
def State.traceReaches (s : State) (t : DebugTarget) : Bool :=
  match t with
  | .trace k => s.traced k
  | .core k a =>
    let c := (s.granule k (a / 16)).1
    inLocal (a / 8 * 8) 8 && 1 ≤ c && c ≤ 14 &&
      (s.core k).invocations.any fun i => i.pitch = s.life.debugPitch && i.areas.any fun r => r.1 ≤ a && a < r.1 + r.2
  | _ => false

/-- Key registers and LIU contexts, which no debug access reads (R172, R208). -/
def neverRead (t : DebugTarget) : Bool :=
  match t with
  | .keyCell _ | .liuMemory _ _ => true
  | _ => false

/-- Whether an access is served. What R172 and R208 except from every debug access is excepted from FULL's reach too: DEDUCED (log entry 52). -/
def State.debugServes (s : State) (t : DebugTarget) (write : Bool) : Bool :=
  if debugLocked t && customerState s.life.state then false
  else if neverRead t && !write then false
  else if s.life.debugLevel = 3 then true
  else s.life.debugLevel = 2 && !write && s.traceReaches t

/-- The 32 bytes of an OTP copy of the life-cycle state. -/
def LifeCycleReg.copy (l : LifeCycleReg) (n : Nat) : BitVec 256 := l.copies.getD n 0

/-- A word burned into an OTP copy: ones are set and none is cleared. -/
def LifeCycleReg.burnRaw (l : LifeCycleReg) (n : Nat) (v : BitVec 256) : LifeCycleReg :=
  { l with copy0 := if n = 0 then l.copy0 ||| v else l.copy0, copy1 := if n = 1 then l.copy1 ||| v else l.copy1
           copy2 := if n = 2 then l.copy2 ||| v else l.copy2 }

/-- What a read returns: of the instruction trace the address and the word of the instruction that comes next; memories whose contents or layout the
state does not hold return a free value. -/
def State.debugRead (s : State) (t : DebugTarget) : Bytes × State :=
  match t with
  | .core k a => (leBytes 8 (s.word k (a / 8 * 8)).val.toNat, s)
  | .buffer r a => ((List.range 8).map fun i => Tab.get (s.region r).buffer 0 (a / 8 * 8 + i), s)
  | .keyCache r i => (match (s.region r).cache[i]? with | some e => e.masked | none => [], s)
  | .drbg d => ((s.dom d).drbg.key ++ (s.dom d).drbg.v, s)
  | .ember n => (Tab.get s.ember.rows (zeros 64) n, s)
  | .register p o => (leBytes 8 (s.register p (o / 8 * 8)), s)
  | .coreReg k i => (leBytes 8 ((s.core k).reg (BitVec.ofNat 5 i)).val.toNat ++ leBytes 1 ((s.core k).reg (BitVec.ofNat 5 i)).tag.number, s)
  | .csr k i => (leBytes 8 (s.csr k i).toNat, s)
  | .trace k => (leBytes 8 (s.core k).pc.toNat ++ leBytes 4 (s.insnWord k (s.core k).pc.toNat).2, s)
  | .otp n => (leBytes 32 (s.life.copy n).toNat, s)
  | .keyCell _ | .liuMemory _ _ => ([], s)
  | .warden _ _ | .mram _ => s.fresh 8

/-- What a write changes. Wardens' memories and the layout of MRAM are none of the state's: nothing that it holds changes (log entry 52). -/
def State.debugWrite (s : State) (t : DebugTarget) (b : Bytes) : Answer :=
  match t with
  | .core k a => .next (s.setWord k (a / 8 * 8) (kBits (BitVec.ofNat 64 (field b 0 8))))
  | .buffer r a => .next (s.setRegion r fun R => { R with buffer := putBytes R.buffer (a / 8 * 8) (slice b 0 8) })
  | .keyCell n => .next (s.setCell n fun c => { c with key := b })
  | .keyCache r i => .next (s.setRegion r fun R => { R with cache := R.cache.modify i fun e => { e with masked := b } })
  | .drbg d => .next (s.setDom d fun D => { D with drbg := { D.drbg with key := slice b 0 32, v := slice b 32 16 } })
  | .ember n => .next { s with ember := { s.ember with rows := Tab.put s.ember.rows (zeros 64) n (slice b 0 64) } }
  | .register p o => s.writeRegister p (o / 8 * 8) 8 (field b 0 8)
  | .liuMemory l a =>
    let x := a / contextBytes % 4
    .next (s.setLiu l fun u => { u with memory := Tab.put u.memory [] x (overlay (Tab.get u.memory (zeros contextBytes) x) (a % contextBytes / 8 * 8) (slice b 0 8)) })
  | .coreReg k i => .next (s.setCore k fun K => K.set (BitVec.ofNat 5 i) (kBits (BitVec.ofNat 64 (field b 0 8))))
  | .csr k i => .next (s.setCore k fun K => K.setCsr i (BitVec.ofNat 64 (field b 0 8)))
  | .otp n => .next { s with life := s.life.burnRaw n (BitVec.ofNat 256 (leNat (slice b 0 32))) }
  | .trace _ | .warden _ _ | .mram _ => .next s

/-- A refused access: an error response, an entry, and DEBUG_PROBE for more than 16 within one second. -/
def State.debugRefuse (s : State) : State :=
  let l := (s.life.refusals.filter fun t => s.now < t + 1000000000) ++ [s.now]
  let s := { s with life := { s.life with refusals := l } }
  let d := leBytes 1 s.life.state.code ++ leBytes 1 s.life.debugLevel
  let s := s.refusedEntry.shiftOut []
  if l.length > 16 then (s.log codeProbe (originOf 0 0) security d).raise 0x195 else s

/-- DEBUG_ACCESS (R313, R407): a read, or a write of some bytes. -/
def execDebugAccess (target : DebugTarget) (write : Option Bytes) (s : State) : Answer :=
  if !s.running then .next s
  else if !s.debugServes target write.isSome then .next s.debugRefuse
  else
    match write with
    | some b => s.debugWrite target b
    | none =>
      let (b, s) := s.debugRead target
      .next (s.shiftOut b)

end Sys2Proof.Machine
end

