-- ==== Sys2Proof/Machine/Host.lean ====
section
/-!
DEFINITION. Sys2Proof/Machine/Host.lean: the controls of the configuration space, and the completions of the dirty-page bitmap (R453,
R456, R461, R462, R492).
-/

namespace Sys2Proof.Machine

/-! ### Configuration requests (R453, R492) -/

/-- A control of the configuration space takes a value. -/
def HostPort.configure (h : HostPort) (f : ConfigField) (v : Nat) : HostPort :=
  match f with
  | .memorySpace => { h with memSpace := v % 2 = 1 }
  | .busMaster => { h with busMaster := v % 2 = 1 }
  | .pasidEnable => { h with pasidEnable := v % 2 = 1 }
  | .atomicRequester => { h with atomicReq := v % 2 = 1 }
  | .msixEnable => { h with msixEnable := v % 2 = 1 }
  | .functionMask => { h with functionMask := v % 2 = 1 }
  | .d3hot => { h with d3hot := v % 2 = 1 }
  | .deviceControl2 => { h with devCtl2 := v % 16 }
  | .read _ => h

/-- Every pending vector that the new controls leave unmasked sends its message (R456). -/
def State.sendAllPending (s : State) : State := (s.host.vectors.map (·.1)).foldl State.sendPending s

/-- The word that a configuration read returns: Device ID and Vendor ID, Class Code and revision (R450); words that the spec does not lay out are
free values. -/
def State.configWord (s : State) (offset : Nat) : Nat × State :=
  let (b, s) := s.fresh 4
  (if offset = 0 then 0x96250000 + field b 0 2 else if offset = 8 then 0x10800000 + byteAt b 0 else field b 0 4, s)

/-- A configuration request is answered with a successful completion (R445). -/
def State.configReply (s : State) : ConfigField → State
  | .read o => (s.configWord o).2.putRaw (.configuration (s.configWord o).1)
  | _ => s.putRaw (.configuration 0)

/-- PCIE_CONFIG_REQUEST (R445, R453, R492): answered from boot step 3 on; what waited goes on as far as the controls let it. -/
def execPcieConfigRequest (field : ConfigField) (value : Nat) (s : State) : Answer :=
  if !(s.running && s.host.linkUp) then .next s
  else
    let s := ({ s with host := s.host.configure field value }).configReply field
    .next (match field with
      | .memorySpace | .atomicRequester | .deviceControl2 | .read _ => s
      | .msixEnable | .functionMask => s.sendAllPending
      | _ => s.release)

/-! ### The dirty-page bitmap (R461, R462) -/

/-- A CAS that swapped: the word is known, and its bits are visible. -/
def Dirty.swapped (y : Dirty) (w k m : Nat) : Dirty :=
  { y with sent := Tab.erase y.sent w, known := Tab.put y.known 0 w (k ||| m), fails := Tab.erase y.fails w
           flush := Tab.put y.flush 0 w (Tab.get y.flush 0 w &&& (2 ^ 64 - 1 - (m % 2 ^ 64))) }

/-- A CAS that found another value: nothing was written, and its bits still wait. -/
def Dirty.missed (y : Dirty) (w m v : Nat) : Dirty :=
  { y with sent := Tab.erase y.sent w, known := Tab.put y.known 0 w v, fails := Tab.put y.fails 0 w (Tab.get y.fails 0 w + 1)
           wanted := Tab.put y.wanted 0 w (Tab.get y.wanted 0 w ||| m) }

/-- Whether the CAS of a bitmap word still waits to be issued. -/
def State.casWaits (s : State) (d w : Nat) : Bool :=
  s.host.waiting.any fun o => match o with | .cas x a _ _ => x = d && a = (s.dom d).dirty.bitmap + 8 * w | _ => false

/-- DIRTY_BITMAP_CAS (R461, R462). -/
def execDirtyBitmapCas (dom word : Nat) (result : CasResult) (s : State) : Answer :=
  let y := (s.dom dom).dirty
  if !s.running || y.mode != .running || s.casWaits dom word then .next s
  else
    match Tab.find y.sent word, result with
    | none, _ => .next s
    | some _, .failed _ => .next (s.dirtyFail dom)
    | some (k, m), .original v =>
      if v % 2 ^ 64 = k then
        .next ((s.setDom dom fun D => { D with dirty := y.swapped word k m }).dirtyIssue dom word)
      else
        let y := y.missed word m (v % 2 ^ 64)
        let s := s.setDom dom fun D => { D with dirty := y }
        .next (if Tab.get y.fails 0 word ≥ 64 then s.dirtyFail dom else s.dirtyIssue dom word)

end Sys2Proof.Machine
end

