-- ==== Sys2Proof/Machine/Payment.lean ====
section
/-!
DEFINITION. Sys2Proof/Machine/Payment.lean: the catalogue groups 0x11 MAC, 0x12 PIN, 0x13 DUKPT, 0x14 card cryptograms
and 0x15 hash (R248 to R269).
-/

namespace Sys2Proof.Machine

/-- R249: no catalogue command takes a reservation. -/
def noCount (c : Cmd) (status : Nat) : Option Fail := need (c.entry.reserveCount = 0) status 0xFFFF

/-- A verdict with its 16-byte block (R252); `x` is the command's own result, at bytes 8 to 15. -/
def verdict (ok : Bool) (x : Bytes) : Result :=
  { out := (if ok then [1, 0] else [0, 3]) ++ zeros 6 ++ slice x 0 8, detail := if ok then 0x100 else 3 }

/-! ### Message authentication codes (R254, R255) -/

/-- Padding methods 1 and 2 of ISO 9797-1, or none. -/
def macPad (pad size : Nat) (m : Bytes) : Bytes :=
  if pad = 1 then (if m = [] then zeros size else padTo size m)
  else if pad = 2 then padTo size (m ++ [0x80]) else m

/-- CBC-MAC with a zero IV. -/
def cbcMac (c : Block1) (m : Bytes) : Bytes := (chunks c.size m).foldl (fun x b => c.enc (xorBytes x b)) (zeros c.size)

/-- ISO 9797-1 MAC algorithm 3 under a two-key TDEA key: single DES under K1, and the full key on the last block. -/
def retailMac (key m : Bytes) : Bytes :=
  let k1 := desKeys (slice key 0 8)
  let n := m.length - 8
  let x := (chunks 8 (m.take n)).foldl (fun x b => desRun k1 (xorBytes x b)) (zeros 8)
  tdeaEnc key (xorBytes x (m.drop n))

/-- The hash of an HMAC key's algorithm. -/
def hmacOf (alg : Nat) (key m : Bytes) : Bytes :=
  if alg = 6 then hmacSha256 key m else if alg = 7 then hmacSha384 key m else hmacSha512 key m

/-- A MAC under an algorithm of Table 10-2, whole. -/
def macValue (macAlg pad alg : Nat) (key m : Bytes) : Bytes :=
  let b := cipherOf alg key
  match macAlg with
  | 1 => cmac b m
  | 2 => cbcMac b (macPad pad b.size m)
  | 3 => retailMac key (macPad pad 8 m)
  | _ => hmacOf alg key m

/-- The engine calls of a MAC over a message of some bytes (Chaining modes in software): for CMAC the zero block, then the chain; for algorithm 3 all
blocks but the last under K1 alone (DES_K1ONLY), the last under the full key; an HMAC is one hash job. -/
def macCalls (macAlg pad alg : Nat) (key : CallKey) (n : Nat) : List Call :=
  let size := cipherSize alg
  let blocks := max 1 (ceilDiv (if pad = 2 then n + 1 else n) size)
  match macAlg with
  | 1 => [ecbCall false alg key 1, chainCall false alg key blocks]
  | 2 => [chainCall false alg key blocks]
  | 3 => (if blocks = 1 then [] else [{ chainCall false alg key (blocks - 1) with control := 2 ^ 23 }]) ++ [ecbCall false alg key 1]
  | _ => [{ hashCall (0x10 + alg) n with key := key }]

/-- Key algorithms of a MAC algorithm (Table 10-2). -/
def macServes (macAlg : Nat) (a : Attr) : Bool :=
  match macAlg with
  | 1 | 2 => 1 ≤ a.alg && a.alg ≤ 5
  | 3 => a.alg = 4
  | 4 => 6 ≤ a.alg && a.alg ≤ 8
  | _ => true

/-- The longest MAC of an algorithm. -/
def macMax (macAlg alg : Nat) : Nat :=
  if macAlg = 4 then (if alg = 6 then 32 else if alg = 7 then 48 else 64)
  else if macAlg = 3 || alg = 4 || alg = 5 then 8 else 16

/-- The padding a MAC algorithm allows. -/
def macPadOk (macAlg pad : Nat) : Bool := if macAlg = 2 || macAlg = 3 then pad ≤ 2 else pad = 0

/-- The message an unpadded algorithm 2 or 3 accepts. -/
def macDataOk (macAlg pad alg : Nat) (m : Bytes) : Bool :=
  let size := if alg = 4 || alg = 5 then 8 else 16
  !((macAlg = 2 || macAlg = 3) && pad = 0) || (m != [] && m.length % size = 0)

/-- Group 0x11, up to the computation on the message from an offset of the input. -/
def macWork (s : State) (d : Nat) (c : Cmd) (usage : Nat) (check : Bool) : Work :=
  let p := c.param
  let a := byteAt p 16
  let n := byteAt p 18
  match s.useKey d c (keyRefAt p 0) 64 [usage] (macServes a) with
  | .error e => .error e
  | .ok k =>
    let m := if check then c.input.drop n else c.input
    checked [
      noCount c eMacParam,
      fields eMacParam [(16, 1 ≤ a && a ≤ 4), (17, macPadOk a (byteAt p 17)), (18, 4 ≤ n && n ≤ macMax a k.attr.alg)],
      need ((!check || n ≤ c.input.length) && macDataOk a (byteAt p 17) k.attr.alg m) eMacDataLength 0]
      (let v := (macValue a (byteAt p 17) k.attr.alg k.value m).take n
       Work.calling (.ok (if check then verdict (v = c.input.take n) [] else { out := v })) (macCalls a (byteAt p 17) k.attr.alg (.ref 0) m.length))

/-- MAC_COMPUTE (R254). -/
def execMacCompute (dom id : Nat) (s : State) : Answer := s.runOp 0x1101 dom id fun s c => macWork s dom c 6 false

/-- MAC_CHECK (R254). -/
def execMacCheck (dom id : Nat) (s : State) : Answer := s.runOp 0x1102 dom id fun s c => macWork s dom c 7 true

/-! ### PIN blocks (R253, R256 to R261) -/

def nibbles (bs : Bytes) : List Nat := bs.flatMap fun b => [b.toNat / 16, b.toNat % 16]

def packNibbles (l : List Nat) : Bytes := (pieces 2 l.length l).map fun p => BitVec.ofNat 8 (p.getD 0 0 * 16 + p.getD 1 0)

/-- A list of digits left-padded with 0, or cut from the left, to `n`. -/
def rightDigits (n : Nat) (l : List Nat) : List Nat := List.replicate (n - l.length) 0 ++ l.drop (l.length - n)

/-- The first bad byte of a PAN field at an offset (R253). -/
def panFail (p : Bytes) (o n status : Nat) : Option Fail :=
  ((List.range 24).find? fun i =>
    let b := byteAt p (o + i)
    if i < n then !(0x30 ≤ b && b ≤ 0x39) else b != 0).map fun i => (status, o + i)

def panDigits (p : Bytes) (o n : Nat) : List Nat := (List.range n).map fun i => byteAt p (o + i) - 0x30

/-- The fill key of a domain, and the fill material of a command (R257). -/
def fillKey (kDig : Bytes) : Bytes := kdfHmac kDig (ascii "KALLAN-PIN-FILL") [] 384

def fillOf (kDig : Bytes) (c : Cmd) : Bytes := hmacSha384 (fillKey kDig) (leBytes 8 c.seq ++ leBytes 2 c.entry.opcode)

/-- The fill key as a job-scoped entry (R251). -/
def State.heldFill (s : State) (d : Nat) : Held := held d 6 7 (fillKey (s.dom d).kDig)

/-- The PIN field of a format (Table 10-3). -/
def pinField (format : Nat) (pin : List Nat) (fill : Bytes) : Bytes :=
  let head := format :: pin.length :: pin
  let rest := List.range (16 - head.length)
  let f := fun j => (fill.getD j 0).toNat
  packNibbles (head ++ rest.map fun j =>
    match format with | 0 => 15 | 1 => f j % 16 | 3 => 10 + f j % 6 | _ => 10) ++
    (if format = 4 then slice fill 24 8 else [])

/-- The PAN field of a format (Table 10-3). -/
def panField (format : Nat) (pan : List Nat) : Bytes :=
  match format with
  | 1 => zeros 8
  | 4 => packNibbles (((pan.length - 12) :: rightDigits (max 12 pan.length) pan) ++ List.replicate (31 - max 12 pan.length) 0)
  | _ => packNibbles ([0, 0, 0, 0] ++ rightDigits 12 pan.dropLast)

def pinEncipher (format : Nat) (b : Block1) (pin pan : Bytes) : Bytes :=
  if format = 4 then b.enc (xorBytes (b.enc pin) pan) else b.enc (xorBytes pin pan)

def pinDecipher (format : Nat) (b : Block1) (block pan : Bytes) : Bytes :=
  if format = 4 then b.dec (xorBytes (b.dec block) pan) else xorBytes (b.dec block) pan

/-- The one-block jobs that encipher or decipher a PIN block (R256): two for format 4. -/
def pinCalls (format : Nat) (dec : Bool) (alg : Nat) (key : CallKey) : List Call :=
  List.replicate (if format = 4 then 2 else 1) (ecbCall dec alg key 1)

/-- The hash jobs of the fill of a format: K_FILL, then F (R257); format 0 takes none. -/
def fillCalls (format : Nat) : List Call := if format = 0 then [] else [hashCall 0x17 24, hashCall 0x17 10]

/-- The PIN digits of a PIN field that passes R258. -/
def pinDigits (format : Nat) (f : Bytes) : Option (List Nat) :=
  let l := nibbles (f.take 8)
  let n := l.getD 1 0
  let pin := (l.drop 2).take n
  let fill := l.drop (2 + n)
  if l.getD 0 0 = format && 4 ≤ n && n ≤ 12 && pin.all (· ≤ 9) &&
    (match format with | 0 => fill.all (· = 15) | 3 => fill.all (· ≥ 10) | 4 => fill.all (· = 10) | _ => true)
  then some pin else none

def isFormat (f : Nat) : Bool := [0, 1, 3, 4].contains f

/-- The cipher a format needs (R256). -/
def formatServes (f : Nat) (a : Attr) : Bool :=
  if f = 4 then 1 ≤ a.alg && a.alg ≤ 3 else !isFormat f || a.alg = 4 || a.alg = 5

/-- The format pairs R259 allows, by the algorithm of the output key. -/
def formatPair (i o alg : Nat) : Bool := (o != 1 || i = 1) && (!(i = 4 && (o = 0 || o = 3)) || alg = 5)

def formatLen (f : Nat) : Nat := if f = 4 then 16 else 8

/-- A PIN block passed from one key and format to another (R258, R259): the check is reported once every job has been computed (R251). -/
def pinTranslate (i o : Nat) (pan : List Nat) (kin kout : Block1) (block fill : Bytes) : Work :=
  match pinDigits i (pinDecipher i kin block (panField i pan)) with
  | none => Work.failing (ePinBlock, 0) []
  | some pin => .ok { out := pinEncipher o kout (pinField o pin fill) (panField o pan) }

/-- PIN_BLOCK_TRANSLATE up to the computation. -/
def pinBlockWork (s : State) (d : Nat) (c : Cmd) : Work :=
  let p := c.param
  let i := byteAt p 32
  let o := byteAt p 33
  let n := byteAt p 34
  match s.useKey d c (keyRefAt p 0) 64 [8] (formatServes i), s.useKey d c (keyRefAt p 16) 64 [8] (formatServes o) with
  | .error e, _ => .error e
  | _, .error e => .error e
  | .ok k1, .ok k2 =>
    checked [
      noCount c ePinParam,
      fields ePinParam [(32, isFormat i), (33, isFormat o), (34, if i = 1 && o = 1 then n = 0 else 8 ≤ n && n ≤ 19),
        zeroAt p 35 1, zeroAt p 36 1],
      panFail p 40 n ePinParam,
      need (formatPair i o k2.attr.alg) ePinFormat 0,
      need (c.input.length = formatLen i) ePinParam 32]
      (((pinTranslate i o (panDigits p 40 n) (cipherOf k1.attr.alg k1.value) (cipherOf k2.attr.alg k2.value) c.input
        (fillOf (s.dom d).kDig c)).keep [s.heldFill d]).calling
          (pinCalls i true k1.attr.alg (.ref 0) ++ pinCalls o false k2.attr.alg (.ref 16) ++ fillCalls o))

/-- PIN_BLOCK_TRANSLATE (R259). -/
def execPinBlockTranslate (dom id : Nat) (s : State) : Answer := s.runOp 0x1201 dom id fun s c => pinBlockWork s dom c

/-- The reference comparison of PIN_CHECK (R260). -/
def pinReference (p : Bytes) (b : Block1) (method : Nat) (pan pin : List Nat) : Bool :=
  let ref := fun n => (List.range n).map fun i => byteAt p (88 + i) - 0x30
  if method = 1 then
    let n := byteAt p 35
    let v := (nibbles (b.enc (slice p 80 8))).map fun x => byteAt p (64 + x) - 0x30
    let want := List.zipWith (fun a r => (a + r) % 10) (v.take n) (ref n)
    n ≤ pin.length && want == pin.take n
  else
    let l := rightDigits 11 pan.dropLast ++ [byteAt p 36] ++ pin.take 4
    let v := nibbles (b.enc (packNibbles l))
    let digits := (v.filter (· ≤ 9)) ++ ((v.filter (· ≥ 10)).map (· - 10))
    digits.take 4 == ref 4

/-- PIN_CHECK up to the computation. -/
def pinCheckWork (s : State) (d : Nat) (c : Cmd) : Work :=
  let p := c.param
  let i := byteAt p 32
  let m := byteAt p 33
  let n := byteAt p 34
  let digits := if m = 1 then byteAt p 35 else 4
  let isDigit := fun o => 0x30 ≤ byteAt p o && byteAt p o ≤ 0x39
  match s.useKey d c (keyRefAt p 0) 112 [8] (formatServes i), s.useKey d c (keyRefAt p 16) 112 [9] (serveAlg [4, 5]) with
  | .error e, _ => .error e
  | _, .error e => .error e
  | .ok k1, .ok k2 =>
    checked [
      noCount c ePinParam,
      fields ePinParam [(32, isFormat i), (33, m = 1 || m = 2), (34, 8 ≤ n && n ≤ 19),
        (35, if m = 1 then 4 ≤ byteAt p 35 && byteAt p 35 ≤ 12 else byteAt p 35 = 0),
        (36, if m = 2 then byteAt p 36 ≤ 9 else byteAt p 36 = 0)],
      panFail p 40 n ePinParam,
      fields ePinParam [
        (64, if m = 1 then (List.range 16).all (fun x => isDigit (64 + x) && (x > 9 || byteAt p (64 + x) = 0x30 + x)) else allZero (slice p 64 16)),
        (80, m = 1 || allZero (slice p 80 8)),
        (88, (List.range 12).all fun x => if x < digits then isDigit (88 + x) else byteAt p (88 + x) = 0)],
      need (c.input.length = formatLen i) ePinParam 32]
      (let b := cipherOf k1.attr.alg k1.value
       Work.calling (match pinDigits i (pinDecipher i b c.input (panField i (panDigits p 40 n))) with
         | none => Work.failing (ePinBlock, 0) []
         | some pin => .ok (verdict (pinReference p (cipherOf k2.attr.alg k2.value) m (panDigits p 40 n) pin) []))
         (pinCalls i true k1.attr.alg (.ref 0) ++ [ecbCall false k2.attr.alg (.ref 16) 1]))

/-- PIN_CHECK (R260). -/
def execPinCheck (dom id : Nat) (s : State) : Answer := s.runOp 0x1202 dom id fun s c => pinCheckWork s dom c

/-! ### Derived unique key per transaction (ANSI X9.24-3, R262 to R264) -/

/-- The variant constant of the non-reversible key generation. -/
def dukptMask : Bytes := [0xC0, 0xC0, 0xC0, 0xC0, 0, 0, 0, 0]

/-- The key serial number without its 21 counter bits. -/
def ksnBase (ksn : Bytes) : Bytes := beBytes 10 (beNat (ksn.take 10) / 2 ^ 21 * 2 ^ 21)

/-- The initial key of the TDEA variant. -/
def dukptInitial (bdk ksn : Bytes) : Bytes :=
  let x := (ksnBase ksn).take 8
  tdeaEnc bdk x ++ tdeaEnc (xorBytes bdk (dukptMask ++ dukptMask)) x

/-- One step of the TDEA variant for one counter bit. -/
def dukptStep (key r : Bytes) : Bytes :=
  let half := fun (k : Bytes) =>
    let kr := slice k 8 8
    xorBytes (desEnc (slice k 0 8) (xorBytes r kr)) kr
  half (xorBytes key (dukptMask ++ dukptMask)) ++ half key

/-- Counter bits that are one, the highest first. -/
def counterBits (n v : Nat) : List Nat := ((List.range n).reverse).filter fun i => v.testBit i

/-- The keys of a chain of steps, one for each counter bit that is one, from a first key: `step` makes the next key from one and from the counter as
far as it has been built up. -/
def dukptChain (step : Bytes → Nat → Bytes) : List Nat → Bytes → Nat → List Bytes
  | [], key, _ => [key]
  | i :: l, key, v => key :: dukptChain step l (step key (v + 2 ^ i)) (v + 2 ^ i)

/-- The initial key and that of each step of the TDEA variant; the last is the transaction key. -/
def dukptKeys (bdk ksn : Bytes) : List Bytes :=
  dukptChain (fun key v => dukptStep key (beBytes 8 v)) (counterBits 21 (beNat (ksn.take 10) % 2 ^ 21)) (dukptInitial bdk ksn)
    (beNat ((ksnBase ksn).drop 2))

/-- The transaction key of the TDEA variant. -/
def dukptTransaction (bdk ksn : Bytes) : Bytes := (dukptKeys bdk ksn).getLastD []

/-- A key under the variant mask of its half. -/
def dukptMasked (key : Bytes) : Bytes := xorBytes key (dukptMask ++ dukptMask)

/-- A variant of the transaction key: 0 PIN, 1 MAC request, 2 data request. -/
def dukptVariant (bdk ksn : Bytes) (use_ : Nat) : Bytes :=
  let m : Bytes := match use_ with
    | 0 => [0, 0, 0, 0, 0, 0, 0, 0xFF]
    | 1 => [0, 0, 0, 0, 0, 0, 0xFF, 0]
    | _ => [0, 0, 0, 0, 0, 0xFF, 0, 0]
  xorBytes (dukptTransaction bdk ksn) (m ++ m)

/-- The working keys of the TDEA variant: the variants themselves, but for the data key, which is the data variant enciphered under itself. -/
def dukptWorkT (bdk ksn : Bytes) (use_ : Nat) : Bytes :=
  let v := dukptVariant bdk ksn use_
  if use_ = 2 then tdeaEnc v (slice v 0 8) ++ tdeaEnc v (slice v 8 8) else v

/-- Algorithm indicator and length in bits of a derived key (X9.24-3). -/
def dukptKind (alg : Nat) : Nat × Nat :=
  match alg with | 4 => (0, 128) | 5 => (1, 192) | 1 => (2, 128) | 2 => (3, 192) | _ => (4, 256)

/-- A key derived by the AES variant from derivation data whose second byte counts. -/
def dukptDerive (key : Bytes) (usage alg : Nat) (tail : Bytes) : Bytes :=
  let (ind, len) := dukptKind alg
  ((List.range (ceilDiv len 128)).flatMap fun i =>
    (aes key).enc ([1] ++ leBytes 1 (i + 1) ++ beBytes 2 usage ++ beBytes 2 ind ++ beBytes 2 len ++ tail)).take (len / 8)

def dukptInitialA (bdk : Bytes) (alg : Nat) (ksn : Bytes) : Bytes := dukptDerive bdk 0x8001 alg (slice ksn 0 8)

/-- The initial key and that of each step of the AES variant; the last is the transaction key. -/
def dukptKeysA (bdk : Bytes) (alg : Nat) (ksn : Bytes) : List Bytes :=
  dukptChain (fun key v => dukptDerive key 0x8000 alg (slice ksn 4 4 ++ beBytes 4 v)) (counterBits 32 (beNat (slice ksn 8 4)))
    (dukptInitialA bdk alg ksn) 0

/-- The transaction key of the AES variant. -/
def dukptTransactionA (bdk : Bytes) (alg : Nat) (ksn : Bytes) : Bytes := (dukptKeysA bdk alg ksn).getLastD []

/-- A working key of the AES variant for a usage of the standard. -/
def dukptWorkA (bdk : Bytes) (alg : Nat) (ksn : Bytes) (usage workAlg : Nat) : Bytes :=
  dukptDerive (dukptTransactionA bdk alg ksn) usage workAlg (slice ksn 4 4 ++ slice ksn 8 4)

/-- The key length of an algorithm in bits, as Table 10-5 compares it. -/
def algBits (alg : Nat) : Nat := (dukptKind alg).2

def dukptCounter (variant : Nat) (ksn : Bytes) : Nat :=
  if variant = 1 then beNat (ksn.take 10) % 2 ^ 21 else beNat (slice ksn 8 4)

/-- R263. -/
def ksnFail (variant : Nat) (ksn : Bytes) : Option Fail :=
  let v := dukptCounter variant ksn
  firstFail [need (v != 0) eKsn 1,
    need ((counterBits 32 v).length ≤ (if variant = 1 then 10 else 16)) eKsn 2]

/-- The working key of a use: 0 PIN, 1 MAC, 2 data. -/
def dukptWork (variant workAlg : Nat) (k : KeyUse) (ksn : Bytes) (use_ : Nat) : Bytes :=
  if variant = 1 then dukptWorkT k.value ksn use_
  else dukptWorkA k.value k.attr.alg ksn (if use_ = 0 then 0x1000 else if use_ = 1 then 0x2001 else 0x3001) workAlg

/-- A derivation of the group: the domain and command, the variant, WORK_ALG, the base derivation key, the key serial number, the use and the usage of
the working key. -/
structure Derivation where
  d : Nat
  c : Cmd
  variant : Nat
  workAlg : Nat
  k : KeyUse
  ksn : Bytes
  use_ : Nat
  usage : Nat

/-- The derivation that a command's block asks for. -/
def derivation (d : Nat) (c : Cmd) (k : KeyUse) (use_ usage : Nat) : Derivation :=
  { d := d, c := c, variant := byteAt c.param 32, workAlg := byteAt c.param 33, k := k, ksn := slice c.param 40 12, use_ := use_, usage := usage }

def Derivation.work (x : Derivation) : Bytes := dukptWork x.variant x.workAlg x.k x.ksn x.use_

/-- The initial key and that of each step. -/
def Derivation.keys (x : Derivation) : List Bytes :=
  if x.variant = 1 then dukptKeys x.k.value x.ksn else dukptKeysA x.k.value x.k.attr.alg x.ksn

/-- An intermediate key of the derivation, and the working key, as job-scoped entries (R251, R262). -/
def Derivation.hold (x : Derivation) (v : Bytes) : Held := held (ownerOf x.d (x.c.entry.handle (byteAt x.c.param 0))) 5 x.k.attr.alg v

def Derivation.holdWork (x : Derivation) : Held := held (ownerOf x.d (x.c.entry.handle (byteAt x.c.param 0))) x.usage x.workAlg x.work

/-- The intermediate keys: under the TDEA variant each key that derives stands under its variant mask too, and the data key's variant besides. -/
def Derivation.held (x : Derivation) : List Held :=
  let steps := x.keys.dropLast
  (if x.variant = 1 then
    (dukptMasked x.k.value :: x.keys ++ steps.map dukptMasked ++ (if x.use_ = 2 then [dukptVariant x.k.value x.ksn 2] else [])).map x.hold
  else x.keys.map x.hold) ++ [x.holdWork]

/-- The cell jobs that derive the initial key (ANSI X9.24-3). -/
def Derivation.initialCalls (x : Derivation) : List Call :=
  if x.variant = 1 then [ecbCall false 4 (.ref 0) 1, ecbCall false 4 (.held (x.hold (dukptMasked x.k.value))) 1]
  else [ecbCall false x.k.attr.alg (.ref 0) (ceilDiv (algBits x.k.attr.alg) 128)]

/-- The cell jobs of a derivation: the initial key, one step for each counter bit that is one, then the working key (R262). -/
def Derivation.calls (x : Derivation) : List Call :=
  let steps := x.keys.dropLast
  if x.variant = 1 then
    x.initialCalls ++ steps.flatMap (fun v => [dukptMasked v, v].map fun v => { ecbCall false 4 (.held (x.hold v)) 1 with control := 2 ^ 23 }) ++
      (if x.use_ = 2 then [ecbCall false 4 (.held (x.hold (dukptVariant x.k.value x.ksn 2))) 2] else [])
  else
    x.initialCalls ++ steps.map (fun v => ecbCall false x.k.attr.alg (.held (x.hold v)) (ceilDiv (algBits x.k.attr.alg) 128)) ++
      [ecbCall false x.k.attr.alg (.held (x.hold (x.keys.getLastD []))) (ceilDiv (algBits x.workAlg) 128)]

/-- Fields of Table 10-7 that every command of the group judges, with those an opcode leaves unused. -/
def dukptFields (p : Bytes) (k : KeyUse) (key2 pins mac pan iv : Bool) : List (Nat × Bool) :=
  let v := byteAt p 32
  let w := byteAt p 33
  [(16, key2 || allZero (slice p 16 16)), (32, v = 1 || v = 2),
   (33, if v = 1 then w = 4 else 1 ≤ w && w ≤ 5 && algBits w ≤ algBits k.attr.alg),
   (34, pins || byteAt p 34 = 0), (35, pins || byteAt p 35 = 0),
   (36, if mac then byteAt p 36 = (if v = 1 then 3 else 1) else byteAt p 36 = 0),
   (37, if mac then 4 ≤ byteAt p 37 && byteAt p 37 ≤ macMax (byteAt p 36) w else byteAt p 37 = 0),
   (38, pan || byteAt p 38 = 0), (39, if mac then macPadOk (byteAt p 36) (byteAt p 39) else byteAt p 39 = 0),
   (40, v != 1 || allZero (slice p 50 2)), (56, pan || allZero (slice p 56 24)),
   (80, if iv then v != 1 && (w = 1 || w = 2 || w = 3) || allZero (slice p 88 8) else allZero (slice p 80 16))]

/-- The base derivation key with the usage its DERIVE_TO must allow (R262). -/
def dukptKey (s : State) (d : Nat) (c : Cmd) (usage : Nat) : Except Fail KeyUse :=
  let v := byteAt c.param 32
  match s.useKey d c (keyRefAt c.param 0) 96 [5] (fun a => if v = 1 then a.alg = 4 else if v = 2 then 1 ≤ a.alg && a.alg ≤ 3 else true) with
  | .error e => .error e
  | .ok k => if bit k.attr.deriveTo (usage - 1) then .ok k else .error (eDeriveParent, 3)

def ksnOf (c : Cmd) : Bytes := slice c.param 40 12

/-- DUKPT_PIN_TRANSLATE up to the computation. -/
def dukptPinWork (s : State) (d : Nat) (c : Cmd) : Work :=
  let p := c.param
  let i := byteAt p 34
  let o := byteAt p 35
  let n := byteAt p 38
  match dukptKey s d c 8, s.useKey d c (keyRefAt p 16) 96 [8] (formatServes o) with
  | .error e, _ => .error e
  | _, .error e => .error e
  | .ok k, .ok k2 =>
    checked [
      noCount c eDukptParam,
      fields eDukptParam ((dukptFields p k true true false true false).take 3 ++
        [((34, isFormat i) : Nat × Bool), (35, isFormat o)] ++ ((dukptFields p k true true false true false).drop 5).take 2 ++
        [((38, if i = 1 && o = 1 then decide (n = 0) else decide (8 ≤ n ∧ n ≤ 19)) : Nat × Bool)] ++
        ((dukptFields p k true true false true false).drop 8).take 2),
      panFail p 56 n eDukptParam, fields eDukptParam [zeroAt p 80 16],
      ksnFail (byteAt p 32) (ksnOf c),
      need (formatServes i { alg := byteAt p 33 }) eKeyAlgorithm (byteAt p 0),
      need (formatPair i o k2.attr.alg) ePinFormat 0,
      need (c.input.length = formatLen i) eDukptParam 34]
      (let x := derivation d c k 0 8
       ((pinTranslate i o (panDigits p 56 n) (cipherOf x.workAlg x.work) (cipherOf k2.attr.alg k2.value) c.input (fillOf (s.dom d).kDig c)).keep
          (s.heldFill d :: x.held)).calling
        (x.calls ++ pinCalls i true x.workAlg (.held x.holdWork) ++ pinCalls o false k2.attr.alg (.ref 16) ++ fillCalls o))

/-- DUKPT_PIN_TRANSLATE (R264). -/
def execDukptPinTranslate (dom id : Nat) (s : State) : Answer := s.runOp 0x1301 dom id fun s c => dukptPinWork s dom c

/-- DUKPT_MAC_CHECK up to the computation. -/
def dukptMacWork (s : State) (d : Nat) (c : Cmd) : Work :=
  let p := c.param
  match dukptKey s d c 7 with
  | .error e => .error e
  | .ok k =>
    let n := byteAt p 37
    let w := byteAt p 33
    let m := c.input.drop n
    checked [
      noCount c eDukptParam, fields eDukptParam (dukptFields p k false false true false false),
      ksnFail (byteAt p 32) (ksnOf c),
      need (n ≤ c.input.length && macDataOk (byteAt p 36) (byteAt p 39) w m) eDukptDataLength 0]
      (let x := derivation d c k 1 7
       let v := macValue (byteAt p 36) (byteAt p 39) w x.work m
       (Work.keep (.ok (verdict (v.take n = c.input.take n) [])) x.held).calling
         (x.calls ++ macCalls (byteAt p 36) (byteAt p 39) w (.held x.holdWork) m.length))

/-- DUKPT_MAC_CHECK (R264). -/
def execDukptMacCheck (dom id : Nat) (s : State) : Answer := s.runOp 0x1302 dom id fun s c => dukptMacWork s dom c

/-- DUKPT_DECRYPT up to the computation. -/
def dukptDataWork (s : State) (d : Nat) (c : Cmd) : Work :=
  let p := c.param
  match dukptKey s d c 2 with
  | .error e => .error e
  | .ok k =>
    let x := derivation d c k 2 2
    let b := cipherOf x.workAlg x.work
    checked [
      noCount c eDukptParam, fields eDukptParam (dukptFields p k false false false false true),
      ksnFail (byteAt p 32) (ksnOf c),
      need (c.input != [] && c.input.length % b.size = 0) eDukptDataLength 0]
      ((Work.keep (.ok { out := cbcDec b (slice p 80 b.size) c.input }) x.held).calling
        (x.calls ++ [ecbCall true x.workAlg (.held x.holdWork) (c.input.length / b.size)]))

/-- DUKPT_DECRYPT (R264). -/
def execDukptDecrypt (dom id : Nat) (s : State) : Answer := s.runOp 0x1303 dom id fun s c => dukptDataWork s dom c

/-- The strength of a key in bits (R271). -/
def strengthOf (a : Attr) : Nat :=
  match a.alg with
  | 1 | 0x0A => 128 | 2 => 192 | 3 | 0x0B => 256 | 4 => 80 | 5 => 112 | _ => 256

/-- DUKPT_IK_WRAP up to the computation. DESIGN CHOICE: an input, which Table 10-6 gives it none of, is ignored (log entry 76). -/
def dukptIkWork (s : State) (d : Nat) (c : Cmd) : Work :=
  let p := c.param
  match dukptKey s d c 5, s.useKey d c (keyRefAt p 16) 96 [3] (serveAlg [1, 2, 3]) with
  | .error e, _ => .error e
  | _, .error e => .error e
  | .ok k, .ok k2 =>
    checked [
      noCount c eDukptParam, fields eDukptParam (dukptFields p k true false false false false),
      need (bit k.attr.flags 0) eKeyNotExportable (byteAt p 0),
      need (strengthOf k.attr ≤ k2.attr.length) eWrapStrength 0]
      (let x := derivation d c k 0 5
       let ik := x.keys.headD []
       (Work.keep (.ok { out := kwpWrap (aes k2.value) ik })
         ((if x.variant = 1 then [x.hold (dukptMasked k.value)] else []) ++ [x.hold ik])).calling
           (x.initialCalls ++ [wrapCall false k2.attr.alg (.ref 16) ik.length]))

/-- DUKPT_IK_WRAP (R264). -/
def execDukptIkWrap (dom id : Nat) (s : State) : Answer := s.runOp 0x1304 dom id fun s c => dukptIkWork s dom c

/-! ### Card cryptograms (R265 to R268) -/

/-- A TDEA key with odd parity in every byte. -/
def oddParity (k : Bytes) : Bytes := k.map fun b =>
  let ones := ((List.range 7).filter fun i => b.getLsbD (i + 1)).length
  (b &&& 0xFE) ||| (if ones % 2 = 0 then 1 else 0)

/-- The card master key by option A of EMV Book 2, annex A1.4. -/
def cardMaster (alg : Nat) (key : Bytes) (pan : List Nat) (psn : Nat) : Bytes :=
  let b := cipherOf alg key
  let y := packNibbles (rightDigits (2 * b.size) (rightDigits 16 (pan ++ [psn / 16, psn % 16])))
  let z := b.enc y ++ b.enc (y.map (~~~ ·))
  if alg = 4 then oddParity z else z.take key.length

/-- The common session key of annex A1.3 under an application transaction counter. -/
def cardSession (alg : Nat) (mk atc : Bytes) : Bytes :=
  let b := cipherOf alg mk
  let r := fun (x : Byte) => b.enc (atc ++ [x] ++ zeros (b.size - 3))
  if mk.length = b.size then r 0 else (r 0xF0 ++ r 0x0F).take mk.length

/-- The MAC of R266, or with padding method 2 that of R267, under AES too. -/
def cardMac (alg pad : Nat) (key m : Bytes) : Bytes :=
  if alg = 4 then retailMac key (macPad pad 8 m) else (cmac (aes key) (macPad pad 16 m)).take 8

/-- Its cell jobs over a message of some bytes. -/
def cardMacCalls (alg pad : Nat) (key : CallKey) (n : Nat) : List Call :=
  if alg = 4 then macCalls 3 pad alg key n else macCalls 1 pad alg key n

/-- The cell jobs of an ARPC. -/
def cardArpcCalls (p : Bytes) (alg : Nat) (key : CallKey) : List Call :=
  if byteAt p 34 = 1 then [ecbCall false alg key 1] else cardMacCalls alg 2 key (12 + byteAt p 74)

/-- The ARPC (R267). -/
def cardArpc (p : Bytes) (alg : Nat) (sk : Bytes) : Bytes :=
  if byteAt p 34 = 1 then
    let b := cipherOf alg sk
    (b.enc (xorBytes (slice (slice p 64 8) 0 b.size) (slice (slice p 72 2) 0 b.size))).take 8
  else (cardMac alg 2 sk (slice p 64 8 ++ slice p 76 4 ++ slice p 80 (byteAt p 74))).take 4 ++ zeros 4

/-- Group 0x14 up to the computation. -/
def cardWork (s : State) (d : Nat) (c : Cmd) (usage : Nat) (check : Bool) : Work :=
  let p := c.param
  match s.useKey d c (keyRefAt p 0) 96 [5] (serveAlg [1, 2, 3, 4]) with
  | .error e => .error e
  | .ok k =>
    let alg := k.attr.alg
    let n := byteAt p 35
    let psn := byteAt p 36
    checked [
      need (bit k.attr.deriveTo (usage - 1)) eDeriveParent 3,
      noCount c eCardParam,
      fields eCardParam [(32, byteAt p 32 = 1), (33, byteAt p 33 ≤ 1),
        (34, (check || 1 ≤ byteAt p 34) && byteAt p 34 ≤ 2), (35, 8 ≤ n && n ≤ 19),
        (36, psn / 16 ≤ 9 && psn % 16 ≤ 9),
        (37, if !check then byteAt p 37 = 0 else if alg = 4 then byteAt p 37 = 1 || byteAt p 37 = 2 else byteAt p 37 = 0)],
      panFail p 40 n eCardParam,
      fields eCardParam [(74, byteAt p 74 ≤ 8), (80, allZero ((slice p 80 8).drop (byteAt p 74)))],
      need (if check then 1 ≤ c.input.length && c.input.length ≤ 1024 else c.input = []) eCardDataLength 0]
      (let mk := cardMaster alg k.value (panDigits p 40 n) psn
       let sk := if byteAt p 33 = 1 then cardSession alg mk (slice p 38 2) else mk
       let owner := ownerOf d (c.entry.handle (byteAt p 0))
       let hmk := held owner 5 alg mk
       let hsk := held owner usage alg sk
       let keys := ecbCall false alg (.ref 0) 2 :: (if byteAt p 33 = 1 then [ecbCall false alg (.held hmk) (if mk.length = cipherSize alg then 1 else 2)] else [])
       let arpc := cardArpcCalls p alg (.held hsk)
       (Work.keep (if check then
         let ok := cardMac alg (byteAt p 37) sk c.input = slice p 64 8
         let more := ok && byteAt p 34 != 0
         Work.calling (.ok (verdict ok (if more then cardArpc p alg sk else [])))
           (keys ++ cardMacCalls alg (byteAt p 37) (.held hsk) c.input.length ++ (if more then arpc else []))
       else .ok { out := cardArpc p alg sk, calls := keys ++ arpc }) [hmk, hsk]))

/-- CARD_ARQC_CHECK (R266). -/
def execCardArqcCheck (dom id : Nat) (s : State) : Answer := s.runOp 0x1401 dom id fun s c => cardWork s dom c 7 true

/-- CARD_ARPC_COMPUTE (R267). -/
def execCardArpcCompute (dom id : Nat) (s : State) : Answer := s.runOp 0x1402 dom id fun s c => cardWork s dom c 6 false

/-! ### Hashing (R269) -/

/-- HASH_COMPUTE up to its output. DESIGN CHOICE: handles in the entry, of which it declares none, are ignored (log entry 76). -/
def hashWork (c : Cmd) : Work :=
  let h := byteAt c.param 0
  let n := field c.param 4 4
  checked [
    noCount c eHashParam,
    fields eHashParam [(0, 1 ≤ h && h ≤ 8), (4, if h ≥ 7 then 1 ≤ n && n ≤ 4194304 else n = 0)]]
    (.ok { out := if h = 7 then shake128 c.input n else if h = 8 then shake256 c.input n else hashOf h c.input, calls := [hashCall h c.input.length] })

/-- HASH_COMPUTE (R269). -/
def execHashCompute (dom id : Nat) (s : State) : Answer := s.runOp 0x1501 dom id fun _ c => hashWork c

end Sys2Proof.Machine
end

