-- ==== Sys2Proof/Machine/KeyWrap.lean ====
section
/-!
DEFINITION. Sys2Proof/Machine/KeyWrap.lean: group 0x19, key wrap and unwrap (R270 to R272).
-/

namespace Sys2Proof.Machine

/-- KEY_WRAP up to its output. DESIGN CHOICE: an input, which it has no use for, is ignored (log entry 76). -/
def keyWrapWork (s : State) (d : Nat) (c : Cmd) : Work :=
  let p := c.param
  let t := keyRefAt p 16
  let aesAlg := serveAlg [1, 2, 3]
  match s.useKey d c (keyRefAt p 0) 48 [3] aesAlg, s.useKey d c t 48 [1, 2, 3, 4, 5, 6, 7, 8, 9, 10, 11, 12, 13] (fun _ => true) with
  | .error e, _ => .error e
  | _, .error e => .error e
  | .ok k, .ok x =>
    let mode := byteAt p 32
    let content := byteAt p 33
    let m := (if content = 1 then x.attr.block else []) ++ x.value
    checked [
      noCount c eWrapParam, fields eWrapParam [(32, mode = 1 || mode = 2), (33, content ≤ 1)],
      need (bit x.attr.flags 0) eKeyNotExportable t.slot,
      need (isSymmetric x.attr.alg) eWrapTarget 0,
      need (strengthOf x.attr ≤ k.attr.length) eWrapStrength 0,
      need (mode = 2 || m.length % 8 = 0) eWrapParam 32]
      (.ok { out := if mode = 1 then kwWrap (aes k.value) m else kwpWrap (aes k.value) m
             calls := [wrapCall false k.attr.alg (.ref 0) m.length] })

/-- KEY_WRAP (R271). -/
def execKeyWrap (dom id : Nat) (s : State) : Answer := s.runOp 0x1901 dom id fun s c => keyWrapWork s dom c

/-- The first byte of the attribute block, at its record offset, where a record differs from a recovered one (R272). -/
def unwrapDiff (rec block : Bytes) : Option Nat :=
  (List.range 32).find? (fun i =>
    let a := byteAt rec i
    let b := byteAt block i
    if i = 4 then !(a / 16 = b / 16 && (a % 4 &&& b % 4) = a % 4) else a != b) |>.map (8 + ·)

/-- KEY_UNWRAP up to its effect: the checks of KEY_GENERATE on its record precede the computation (R250, R272). -/
def keyUnwrapWork (s : State) (d : Nat) (c : Cmd) : Work :=
  let p := c.param
  let mode := byteAt p 16
  let slot := byteAt p 18
  let h := c.entry.handle slot
  let a := c.attrFor 32 h
  match s.useKey d c (keyRefAt p 0) 96 [4] (serveAlg [1, 2, 3]) with
  | .error e => .error e
  | .ok k =>
    match firstFail [
        noCount c eWrapParam, fields eWrapParam [(16, mode = 1 || mode = 2), (17, byteAt p 17 = 1), (18, slot ≤ 3)],
        need (c.entry.valid slot) eUndeclaredAccess 0xFFFF, need (c.entry.writes slot) eUndeclaredAccess slot,
        need (handleValid d h && handleKind h != 1 && (handleKind h = 0 || d = operator)) eKeyHandle slot,
        recordFail h a, need (!s.keyPresent (ownerOf d h) h) eKeyExists 0, s.keyRoom c.placedAt (ownerOf d h) h (a.length / 8)] with
    | some f => .error f
    | none =>
      let steps := [wrapCall true k.attr.alg (.ref 0) (c.input.length - 8)]
      match if mode = 1 then kwUnwrap (aes k.value) c.input else kwpUnwrap (aes k.value) c.input with
      | none => Work.failing (eUnwrapIntegrity, 0) steps
      | some m =>
        match firstFail [
          need (m.length = 32 + a.length / 8) eUnwrapLength 0,
          (unwrapDiff (slice p 40 32) (m.take 32)).map fun o => (eUnwrapAttr, o)] with
        | some f => Work.failing f steps
        | none => .ok { effects := [.keyPut (ownerOf d h) (canonical h) { a with flags := originFlags a.flags 0 } (m.drop 32) true], calls := steps }

/-- KEY_UNWRAP (R272). -/
def execKeyUnwrap (dom id : Nat) (s : State) : Answer := s.runOp 0x1902 dom id fun s c => keyUnwrapWork s dom c

end Sys2Proof.Machine
end

