-- ==== Sys2Proof/Machine/Launch.lean ====
section
/-!
DEFINITION. Sys2Proof/Machine/Launch.lean: the dispatch of a command to its block: its keys are loaded, and Efori hands its engine jobs to
the cells, long-integer units and hash engines (R102, R194, R220, R269, R365).
-/

namespace Sys2Proof.Machine

/-! ### The engine jobs of a command (log entry 69) -/

/-- A job that Efori issues for a command: its words, its cost, its blocks and runs, and the random values it draws. -/
structure Plan where
  kind : EngineKind
  words : List KWord := []
  cost : Nat := 0
  blocks : Nat := 0
  runs : List (Nat × Nat × Nat) := []
  serial : Bool := false
  blinds : List Nat := []

/-- RANDOM_GENERATE's computation, and that of every other operational command, with the engine calls it makes. -/
def opWork (s : State) (d : Nat) (c : Cmd) : Work :=
  match c.entry.opcode with
  | 0x1101 => macWork s d c 6 false
  | 0x1102 => macWork s d c 7 true
  | 0x1201 => pinBlockWork s d c
  | 0x1202 => pinCheckWork s d c
  | 0x1301 => dukptPinWork s d c
  | 0x1302 => dukptMacWork s d c
  | 0x1303 => dukptDataWork s d c
  | 0x1304 => dukptIkWork s d c
  | 0x1401 => cardWork s d c 7 true
  | 0x1402 => cardWork s d c 6 false
  | 0x1501 => hashWork c
  | 0x1901 => keyWrapWork s d c
  | 0x1902 => keyUnwrapWork s d c
  | x =>
    let g := groupOf x
    if g = 0x10 then symWork x s d c else if g = 0x16 || g = 0x17 || g = 0x1A then pkWork x s d c else .ok {}

/-- AES steps of one generate call of CTR_DRBG (R235): the output, the update, and with additional input its derivation and one update more. -/
def drawBlocks (add n : Nat) : Nat := ceilDiv n 16 + 3 + (if add = 0 then 0 else 3 * (ceilDiv (9 + add) 16 + 1) + 6)

/-- The AES steps of a command's generate calls, which run on cipher cells (R235). -/
def drawCalls (c : Cmd) : List Call :=
  let add := if c.entry.opcode = 0x1801 then c.input.length else 0
  if c.draws = [] || c.drawn.isNone then [] else [chainCall false 3 .drbg (c.draws.map (drawBlocks add)).sum]

/-- The engine calls of an operational command: none of its own where its checks fail before it computes (R194, R220, R250). -/
def State.callsOf (s : State) (d : Nat) (c : Cmd) : List Call :=
  drawCalls c ++ (match opWork (s.before c) d c with | .ok r => r.calls | .error _ => [])

/-- The handle by which the jobs of a command name the key of a reference: the declared one, or the job-scoped one of the child (R177). -/
def State.jobHandle (s : State) (k d : Nat) (c : Cmd) (o : Nat) : Nat :=
  match s.childOf d c o with
  | some x =>
    (((s.region (k / 12)).cache.find? fun e => e.scope = some k && e.job = (d, c.id) && e.attr.isSome && e.path = x.path).map (·.handle)).getD 0
  | none => c.entry.handle (keyRefAt c.param o).slot

/-- The KEY word of a call's descriptor. -/
def State.callKey (s : State) (k d : Nat) (c : Cmd) : CallKey → KWord
  | .ref o => kHandle (s.jobHandle k d c o)
  | .slot i => kHandle (c.entry.handle i)
  | .held x => kHandle (((s.heldEntry k (d, c.id) x).map (·.handle)).getD 0)
  | .none | .drbg => kBits 0

/-- The job of an engine call: a cell job's descriptor (Table 7-3) cut into runs (R175), an LIU job with its estimate (R206, R219) and the values of
Table 8-4, a hash job by its blocks (Table 10-9). -/
def State.planOf (s : State) (k d : Nat) (c : Cmd) (x : Call) : Plan :=
  match x.kind with
  | .cell =>
    let w := [kBits (BitVec.ofNat 64 (x.func + 256 * x.alg + x.control)), s.callKey k d c x.key, kAddr 0, kAddr 0,
      kBits (BitVec.ofNat 64 (x.bytes + x.start * 2 ^ 32)), kBits (BitVec.ofNat 64 x.iv), kBits (BitVec.ofNat 64 (x.iv / 2 ^ 64))]
    { kind := .cell, words := w, blocks := cellBlocks w, runs := if x.chain then [(0, 0, 1)] else cellRuns w, serial := x.chain }
  | .liu =>
    { kind := .liu, words := [kBits (BitVec.ofNat 64 (x.func + 256 * x.alg))], blinds := blindValues x.func x.alg x.length
      cost := if x.func ≥ 0x10 then modTime x.func x.length x.control else (liuTimes x.func x.alg).getD (sizeIndex x.alg x.length) 0 }
  | .hash => { kind := .hash, blocks := ceilDiv x.bytes (blockOf x.func) }

/-- Jobs beyond the 32 slots of a core wait for one: their runs follow in the last slot. -/
def fitSlots (l : List Plan) : List Plan :=
  if l.length ≤ 32 then l
  else
    let rest := l.drop 31
    let runs := (rest.flatMap fun x => x.runs).zipIdx.map fun x => (x.2, x.1.2.1, x.1.2.2)
    l.take 31 ++ (rest.take 1).map fun x => { x with blocks := (rest.map Plan.blocks).sum, runs := runs }

/-- One engine job of Efori's takes a free slot, whose choice the spec leaves open. -/
def State.issueFirmware (s : State) (k d id : Nat) (p : Plan) : State :=
  let slots := (List.range 32).filter fun i => (s.core k).jobs.all fun j => j.slot != i
  let (v, s) := s.fresh 1
  let slot := slots.getD (leNat v % slots.length) 0
  let j : Job := { kind := p.kind, slot := slot, gen := Tab.get (s.core k).gens 0 slot, words := p.words, firmware := true, serial := p.serial, cost := p.cost
                   blocks := p.blocks, waiting := p.runs, runs := if p.serial then p.blocks else p.runs.length, blinds := p.blinds, lastUnit := 3
                   since := s.now, dom := d, id := some id }
  s.setCore k fun K => { K with jobs := K.jobs ++ [j] }

/-- The intermediate keys that calls name. -/
def heldKeys (l : List Call) : List Held := l.filterMap fun x => match x.key with | .held h => some h | _ => none

/-- Some engine calls issued on a core for a command, and taken by the engines; their intermediate keys stand as job-scoped entries (R251). -/
def State.issueCalls (s : State) (k d : Nat) (c : Cmd) (l : List Call) : State :=
  let s := s.holdKeys k (d, c.id) (heldKeys l)
  let s := (fitSlots (l.map (s.planOf k d c))).foldl (fun s p => s.issueFirmware k d c.id p) s
  ((s.feedCells k).feedLius (k / 12)).feedHashes (k / 12)

/-- Efori issues the engine jobs of a command. -/
def State.launch (s : State) (k d : Nat) (c : Cmd) : State :=
  let l := s.callsOf d c
  (s.count 0 k 0x12 (some d) l.length).issueCalls k d c l

/-- The KEYGEN job of a management command (R205), once its approvals pass. -/
def State.keygenOf (s : State) (d : Nat) (c : Cmd) : List Call :=
  let w : Work := match c.entry.opcode with
    | 0x0401 => keyGenerateWork s d c
    | 0x0404 => if byteAt c.param 0 = 0 then keyReplaceWork s d c [] else .ok {}
    | _ => .ok {}
  match s.checkApprovals d c, c.ownChecks w with
  | .ok _, .ok r => r.calls
  | _, _ => []

/-- The region that runs a KEYGEN job: the lowest of the domain's mask with an LIU in service, other than the one where it was ESCALATED.
DESIGN CHOICE of that region, whose block 0 the job is held under (log entry 69). -/
def State.keygenRegion (s : State) (d : Nat) (c : Cmd) : Option Nat :=
  (List.range 8).find? fun r => s.regionRuns r && s.inMask d r && s.hasUnit r .liu && c.rerunOut != some r

/-- A management command starts, with its KEYGEN job where it has one. -/
def State.startManaged (s : State) (d : Nat) (c : Cmd) : State :=
  let l := s.keygenOf d c
  match if l = [] then none else s.keygenRegion d c with
  | none => s.setCmd d c.id fun c => { c with phase := .running, ran := true }
  | some r => (s.setCmd d c.id fun c => { c with phase := .running, ran := true, region := r, block := 0 }).issueCalls (12 * r) d c l

/-! ### Dispatch and start -/

/-- A job dispatched to a block of a region: its keys are loaded (R102, R141) and its engine jobs issued. Under override the keys go to
job-scoped entries in the operator's share, and a trail entry and the region event record it (R365). -/
def State.dispatch (s : State) (d r b : Nat) (c : Cmd) : State :=
  let excess := !s.inMask d r
  let k := 12 * r + b
  let s := s.setCmd d c.id fun c => { c with phase := .running, ran := true, region := r, block := b, override := if excess then some r else none }
  let s := s.countCache ((if excess then s.loadOverride k d c else s.loadKeys r b d c.entry).loadChildren k d c excess) r d c.entry
  let s := (s.count 1 r 0x20 (some d) 1).count 1 r 0x27 (some d) (c.param.length + c.input.length)
  let s := if excess then (s.faultEntry codeOverride (domOrigin d) c.seq r 1).regionEvent r 13 else s
  s.launch k d c

/-- COMMAND_START (R21, R48, R68, R100): a management command starts on the active warden, an operational command on the
block that the region arbiter gives it when its domain is served. A key to be loaded waits for a cell that unwraps it (R102, R119). -/
def execCommandStart (dom id region block : Nat) (s : State) : Answer :=
  match s.cmd dom id with
  | none => .next s
  | some c =>
    if !s.working || !s.mayStart dom c then .next s
    else if s.twinIneligible dom c then .next (s.setCmd dom id fun c => c.failWith (eTwinIneligible, 0))
    else if c.entry.mgmt then
      if s.wardenStarts then .next (s.startManaged dom c) else .next s
    else
      let l := s.candidates region
      match served (s.region region).lastBlockDom l, s.headJob dom region with
      | some x, some h =>
        if x.dom = dom && h.id = id && s.regionRuns region && s.blockFree region block &&
            c.rerunBlock != some (12 * region + block) && (!(unitsNeeded c).contains .cell || s.whole (12 * region + block)) &&
            (!s.mustLoad region dom c.entry || (s.unwrapCell region block).isSome) then
          .next ((s.chargeDeficits region l x).dispatch dom region block c)
        else .next s
      | _, _ => .next s

end Sys2Proof.Machine
end

