-- ==== Sys2Proof/Machine/LoadStore.lean ====
section
/-!
DEFINITION. Sys2Proof/Machine/LoadStore.lean: the loads and stores of KTW (R278, R279, R284, Table 11-6).
-/

namespace Sys2Proof.Machine

/-- The address that `imm(rs1)` names; one outside 0 to 2^64 - 1 lies outside the map. -/
def effective (w : KWord) (imm : BitVec 14) : Except Stop Nat :=
  let a : Int := w.val.toNat + imm.toInt
  if 0 ≤ a ∧ a < 2 ^ 64 then .ok a.toNat else .error (.trap { cause := accessCause, tval := BitVec.ofInt 64 a })

/-- The address operand of a load or store, checked with the other operands (R283, R284). -/
def Core.address (K : Core) (rs1 : BitVec 5) (others : List (BitVec 5)) (imm : BitVec 14) : Except Stop Nat :=
  let l := K.operands (rs1 :: others)
  match checkHeld l with
  | .error e => .error e
  | .ok _ =>
    match checkErr l with
    | .error e => .error e
    | .ok _ =>
      match checkTags [[.addr]] (K.operands [rs1]) with
      | .error e => .error e
      | .ok _ => effective (K.reg rs1) imm

/-- LDW (R279): a word with its tag. -/
def execLdw (core : Nat) (rd rs1 : BitVec 5) (imm : BitVec 14) (s : State) : Answer :=
  s.insn core (wordI 0x40 rd rs1 imm)
    (((s.core core).address rs1 [] imm).bind fun a => (s.loadWord core a).map fun x =>
      s.setCore core fun K => (K.set rd x).advance)

/-- STW (R279): any tag but ERR and EMPTY; the window takes BITS alone. -/
def execStw (core : Nat) (rd rs1 : BitVec 5) (imm : BitVec 14) (s : State) : Answer :=
  s.insn core (wordI 0x41 rd rs1 imm)
    (((s.core core).address rs1 [rd] imm).bind fun a => (s.mayStore core a 2 ((s.core core).reg rd)).map fun _ =>
      (s.setWord core a ((s.core core).reg rd)).setCore core Core.advance)

/-- LDB (R279): a byte of a BITS word, zero-extended. -/
def execLdb (core : Nat) (rd rs1 : BitVec 5) (imm : BitVec 14) (s : State) : Answer :=
  s.insn core (wordI 0x42 rd rs1 imm)
    (((s.core core).address rs1 [] imm).bind fun a => (s.loadByte core a).map fun x =>
      s.setCore core fun K => (K.set rd (kBits (x.zeroExtend 64))).advance)

/-- STB (R279): bits 7 to 0 of a BITS register. -/
def execStb (core : Nat) (rd rs1 : BitVec 5) (imm : BitVec 14) (s : State) : Answer :=
  s.insn core (wordI 0x43 rd rs1 imm)
    (((s.core core).address rs1 [rd] imm).bind fun a =>
      let x := (s.core core).reg rd
      if x.tag != .bits then .error (tagTrap tagCause 2 x)
      else (s.mayStoreByte core a).map fun _ => (s.setByte core a (x.val.truncate 8)).setCore core Core.advance)

end Sys2Proof.Machine
end

