-- ==== Sys2Proof/Machine/Spdm.lean ====
section
/-!
DEFINITION. Sys2Proof/Machine/Spdm.lean: the SPDM 1.2 responder of the DOE mailbox, its measurements and secured session, and
IDE (R457 to R460). The objects have the form of DSP0274, DSP0277 and the PCIe base specification (PRESUMED, log entry 33).
-/

namespace Sys2Proof.Machine

/-! ### Objects of the mailbox -/

/-- A data object of a type (1 SPDM, 2 secured SPDM), padded to whole double words. -/
def doeObject (type : Nat) (m : Bytes) : Bytes :=
  let m := padTo 4 m
  leBytes 2 1 ++ leBytes 1 type ++ [0] ++ leBytes 4 (2 + m.length / 4) ++ m

/-- The type and the content of an object with a whole header. -/
def doeContent (b : Bytes) : Option (Nat × Bytes) :=
  if b.length ≥ 8 && field b 0 2 = 1 && 4 * field b 4 4 = b.length then some (byteAt b 2, b.drop 8) else none

def spdmError (code : Nat) : Bytes := [0x12, 0x7F] ++ leBytes 1 code ++ [0]

/-! ### Keys of a session -/

def hkdfExpand (key info : Bytes) (n : Nat) : Bytes := (hmacSha384 key (info ++ [1])).take n

/-- The information string of a derivation. -/
def spdmInfo (n : Nat) (label : String) (ctx : Bytes) : Bytes := leBytes 2 n ++ ascii "spdm1.2 " ++ ascii label ++ ctx

def spdmDerive (key : Bytes) (label : String) (ctx : Bytes) (n : Nat := 48) : Bytes := hkdfExpand key (spdmInfo n label ctx) n

/-- The MAC of a side's finished message under its handshake secret. -/
def spdmVerifyData (secret digest : Bytes) : Bytes := hmacSha384 (spdmDerive secret "finished" []) digest

/-- The initialisation vector of a record. -/
def recordIv (secret : Bytes) (seq : Nat) : Bytes := xorBytes (spdmDerive secret "iv" [] 12) (leBytes 12 seq)

/-- The secured message that carries a plaintext, and a received one's plaintext (DSP0277). -/
def sealRecord (secret : Bytes) (id seq : Nat) (m : Bytes) : Bytes :=
  let p := leBytes 2 m.length ++ m
  let head := leBytes 4 id ++ leBytes 2 (p.length + 16)
  let (ct, tag) := gcmSeal (aes (spdmDerive secret "key" [] 32)) (recordIv secret seq) head p
  head ++ ct ++ tag

def openRecord (secret : Bytes) (seq : Nat) (b : Bytes) : Option Bytes :=
  let n := field b 4 2
  if n < 18 || b.length < 6 + n then none
  else (gcmOpen (aes (spdmDerive secret "key" [] 32)) (recordIv secret seq) (b.take 6) (slice b 6 (n - 16)) (slice b (n - 10) 16)).map
    fun p => slice p 2 (field p 0 2)

/-! ### Attestation (R457, R459) -/

/-- The attestation public key. -/
def State.attestPub (s : State) : Bytes :=
  match s.ember.read 259 with
  | some k => curveP384.encode (curveP384.mul (beNat (k.take 48)) curveP384.base)
  | none => []

/-- The certificate chain of slot 0. -/
def State.chain (s : State) : Bytes := Config.chain s.host.chainKind s.attestPub

/-- The text that a signature of a message covers: a prefix with its context, and the digest of the transcript. -/
def spdmSigned (context : String) (transcript : Bytes) : Bytes :=
  let c := ascii context
  ((List.replicate 4 (ascii "dmtf-spdm-v1.2.*")).flatten) ++ zeros (36 - c.length) ++ c ++ sha384 transcript

/-- Measurement block values (Table 20-4), with the kind of each: 0 and 1 digests, raw from 0x80. -/
def State.measured (s : State) (i : Nat) : Nat × Bytes :=
  match i with
  | 1 => (0, slice Config.romDigest 0 48)
  | 2 => (1, match Tab.find s.life.fwCopies s.life.fwActive with | some x => sha384 x | none => slice Config.imageDigest 0 48)
  | 3 => (0x82, leBytes 1 (s.life.bits % 256) ++ leBytes 1 s.life.debugLevel)
  | 4 => (0x82, leBytes 2 s.life.fuseOff.toNat)
  | 5 => (0x82, leBytes 8 s.tamper.sticky)
  | _ => (0x82, leBytes 1 s.host.chainKind)

def State.measurement (s : State) (i : Nat) : Bytes :=
  let (t, v) := s.measured i
  leBytes 1 i ++ [1] ++ leBytes 2 (3 + v.length) ++ leBytes 1 t ++ leBytes 2 v.length ++ v

def measurementBlocks : List Nat := [1, 2, 3, 4, 5, 6]

/-- The digest of every block, where a request asks for the summary. -/
def State.summary (s : State) (kind : Nat) : Bytes := if kind = 0 then [] else sha384 (measurementBlocks.flatMap s.measurement)

/-! ### Requests outside a session (R458) -/

/-- A response, with the responder after it. -/
abbrev Reply := Bytes × Spdm

def getVersion (x : Spdm) (m : Bytes) : Reply :=
  let r : Bytes := [0x10, 0x04, 0, 0, 0, 1, 0x00, 0x12]
  (r, { x with stage := .versioned, vca := m ++ r, challenged := [], measured := [], session := .none })

def getCapabilities (x : Spdm) (m : Bytes) : Reply :=
  let r : Bytes := [0x12, 0x61, 0, 0, 0, 20, 0, 0] ++ leBytes 4 0x62D6 ++ leBytes 4 Config.spdmMessage ++ leBytes 4 Config.spdmMessage
  (r, { x with stage := .capable, vca := x.vca ++ m ++ r })

/-- The one algorithm of a kind, where the request offers it. -/
def offered (mask bit : Nat) : Nat := if mask &&& bit = 0 then 0 else bit

def negotiateAlgorithms (x : Spdm) (m : Bytes) : Reply :=
  let table := fun (type bit : Nat) =>
    match (List.range (byteAt m 2)).find? fun i => byteAt m (32 + 4 * i) = type with
    | some i => offered (field m (34 + 4 * i) 2) bit
    | none => 0
  let item := fun (type bit : Nat) => leBytes 1 type ++ [0x20] ++ leBytes 2 (table type bit)
  let r : Bytes := [0x12, 0x63, 4, 0] ++ leBytes 2 52 ++ leBytes 1 (offered (byteAt m 6) 1) ++ leBytes 1 (offered (byteAt m 7) 2) ++
    leBytes 4 4 ++ leBytes 4 (offered (field m 8 4) 0x80) ++ leBytes 4 (offered (field m 12 4) 2) ++ zeros 16 ++
    item 2 0x10 ++ item 3 2 ++ item 4 0 ++ item 5 1
  (r, { x with stage := .negotiated, vca := x.vca ++ m ++ r })

def getDigests (s : State) (x : Spdm) (m : Bytes) : Reply :=
  let r := [0x12, 0x01, 0, 1] ++ sha384 s.chain
  (r, { x with challenged := x.challenged ++ m ++ r })

def getCertificate (s : State) (x : Spdm) (m : Bytes) : Reply :=
  let c := s.chain
  let o := field m 4 2
  if byteAt m 2 % 16 != 0 || o ≥ c.length then (spdmError 1, x)
  else
    let n := min (field m 6 2) (c.length - o)
    let r := [0x12, 0x02, 0, 0] ++ leBytes 2 n ++ leBytes 2 (c.length - o - n) ++ slice c o n
    (r, { x with challenged := x.challenged ++ m ++ r })

/-- CHALLENGE_AUTH; `nonce` is a free value. -/
def challenge (s : State) (nonce : Bytes) (x : Spdm) (m : Bytes) : Reply :=
  if byteAt m 2 != 0 then (spdmError 1, x)
  else
    let r := [0x12, 0x03, 0, 1] ++ sha384 s.chain ++ nonce ++ s.summary (byteAt m 3) ++ leBytes 2 0
    let sig := s.attest (spdmSigned "responder-challenge_auth signing" (x.vca ++ x.challenged ++ m ++ r))
    (r ++ sig, { x with challenged := [] })

/-- MEASUREMENTS: the number of blocks, one block, or all of them; signed where the request asks for the signature. -/
def getMeasurements (s : State) (nonce : Bytes) (x : Spdm) (m : Bytes) : Reply :=
  let op := byteAt m 3
  let signed := bit (byteAt m 2) 0
  let blocks := if op = 0 then [] else if op = 255 then measurementBlocks else [op]
  if 7 ≤ op && op != 255 then (spdmError 1, x)
  else
    let rec_ := blocks.flatMap s.measurement
    let r := [0x12, 0x60] ++ leBytes 1 (if op = 0 then 6 else 0) ++ [0] ++ leBytes 1 blocks.length ++ leBytes 3 rec_.length ++ rec_ ++ nonce ++ leBytes 2 0
    let l := x.measured ++ m ++ r
    if signed then (r ++ s.attest (spdmSigned "responder-measurements signing" (x.vca ++ l)), { x with measured := [] })
    else (r, { x with measured := l })

/-- KEY_EXCHANGE: the secrets of a session's handshake; `own` gives the responder's ephemeral key. -/
def keyExchange (s : State) (own nonce : Bytes) (x : Spdm) (m : Bytes) : Reply :=
  let d := beNat own % (curveP384.n - 1) + 1
  match curveP384.mul d (curveP384.decode (0x04 :: slice m 40 96)) with
  | none => (spdmError 1, x)
  | some (zx, _) =>
    if byteAt m 3 != 0 then (spdmError 1, x)
    else if x.session != .none then (spdmError 0x0A, x)
    else
      let rspId := leNat (nonce.drop 32)
      let r := [0x12, 0x64] ++ leBytes 1 Config.spdmHeartbeat ++ [0] ++ leBytes 2 rspId ++ [0, 0] ++ nonce.take 32 ++
        (curveP384.encode (curveP384.mul d curveP384.base)).drop 1 ++ s.summary (byteAt m 2) ++ leBytes 2 0
      let th := x.vca ++ sha384 s.chain ++ m ++ r
      let r := r ++ s.attest (spdmSigned "responder-key_exchange_rsp signing" th)
      let th := x.vca ++ sha384 s.chain ++ m ++ r
      let hs := hmacSha384 (zeros 48) (beBytes 48 zx)
      let rsp := spdmDerive hs "rsp hs data" (sha384 th)
      let r2 := spdmVerifyData rsp (sha384 th)
      (r ++ r2, { x with session := .handshake, sessionId := field m 4 2 + 65536 * rspId, handshake := hs, transcript := th ++ r2
                         reqSecret := spdmDerive hs "req hs data" (sha384 th), rspSecret := rsp, reqSeq := 0, rspSeq := 0 })

/-! ### Requests inside a session (R458) -/

/-- FINISH: the requester's MAC verified; the session is established. -/
def finishSession (x : Spdm) (m : Bytes) : Reply :=
  let th := x.transcript ++ m.take 4
  if slice m 4 48 = spdmVerifyData x.reqSecret (sha384 th) then
    let r : Bytes := [0x12, 0x65, 0, 0]
    let th2 := sha384 (x.transcript ++ m.take 52 ++ r)
    let master := hmacSha384 (spdmDerive x.handshake "derived" []) (zeros 48)
    (r, { x with session := .established, transcript := [], handshake := [], reqSecret := spdmDerive master "req app data" th2
                 rspSecret := spdmDerive master "rsp app data" th2, reqSeq := 0, rspSeq := 0 })
  else (spdmError 6, x)

/-- KEY_UPDATE: the requester's secret, or both, move on; a verification only answers. -/
def keyUpdate (x : Spdm) (m : Bytes) : Reply :=
  let op := byteAt m 2
  let r : Bytes := [0x12, 0x69] ++ leBytes 1 op ++ leBytes 1 (byteAt m 3)
  let x1 := { x with reqSecret := spdmDerive x.reqSecret "traffic upd" [], reqSeq := 0 }
  if op = 1 then (r, x1)
  else if op = 2 then (r, { x1 with rspSecret := spdmDerive x.rspSecret "traffic upd" [], rspSeq := 0 })
  else if op = 3 then (r, x)
  else (spdmError 1, x)

def endSession (x : Spdm) (_m : Bytes) : Reply :=
  ([0x12, 0x6C, 0, 0], { x with session := .none, sessionId := 0, reqSecret := [], rspSecret := [], handshake := [], transcript := [] })

/-! ### IDE (R460) -/

/-- KEY_UPDATE moves every stream to its other key set, where that one is installed. -/
def IdeStream.toggled (x : IdeStream) : IdeStream :=
  if x.sets.any fun p => p.1 % 2 != x.current then { x with current := 1 - x.current } else x

/-- An IDE_KM message: KEY_PROG installs a key (by key set, direction and sub-stream), K_SET_GO takes a key set into use, K_SET_STOP ends
the stream's Secure state. -/
def ideMessage (t : Tab IdeStream) (m : Bytes) : Bytes × Tab IdeStream :=
  let b := m.drop 11
  let id := byteAt b 3
  let sub := byteAt b 5
  let x := Tab.get t {} id
  let reply := fun (code status : Nat) => [0x12, 0x7E, 0, 0] ++ slice m 4 5 ++ leBytes 2 8 ++ leBytes 1 code ++ zeros 2 ++ leBytes 1 id ++ leBytes 1 status ++
    leBytes 1 sub ++ leBytes 1 (byteAt b 6) ++ [0]
  if id ≥ 5 then (reply 3 3, t)
  else match byteAt b 0 with
  | 2 => (reply 3 0, Tab.put t {} id { x with sets := Tab.insert x.sets sub (slice b 7 40) })
  | 4 => (reply 6 0, Tab.put t {} id { x with current := sub % 2, secure := x.sets.any fun p => p.1 % 2 = sub % 2 })
  | 5 => (reply 6 0, Tab.put t {} id { x with secure := false })
  | _ => (spdmError 1, t)

/-! ### Answering (R458) -/

/-- The least length of a request of each code. -/
def requestLen (code : Nat) : Nat :=
  match code with
  | 0xE1 => 20 | 0xE3 => 32 | 0x82 => 8 | 0x83 => 36 | 0xE4 => 138 | 0xE5 => 52 | 0xFE => 18 | _ => 4

/-- Requests that only a session carries. -/
def inSession (code : Nat) : Bool := [0xE5, 0xE8, 0xE9, 0xEC, 0xFE].contains code

/-- The stage that a request needs. -/
def stageFor (x : Spdm) (code : Nat) : Bool :=
  match code with
  | 0x84 => true
  | 0xE1 => x.stage = .versioned
  | 0xE3 => x.stage = .capable
  | 0xE5 => x.session = .handshake
  | 0xE8 | 0xE9 | 0xEC | 0xFE => x.session = .established
  | _ => x.stage = .negotiated

def knownRequest (code : Nat) : Bool := [0x84, 0xE1, 0xE3, 0x81, 0x82, 0x83, 0xE0, 0xE4, 0xE5, 0xE8, 0xE9, 0xEC, 0xFE].contains code

/-- A response sent, and whether it is an error; the responder goes on from it. -/
def State.withReply (s : State) (r : Reply) : Bytes × Bool × State :=
  (r.1, byteAt r.1 1 == 0x7F, { s with host := { s.host with spdm := r.2 } })

/-- A request's answer, and the module after it; a malformed one is answered with an error and counted (R458). -/
def State.answer (s : State) (m : Bytes) (secured : Bool) : Bytes × Bool × State :=
  let x := s.host.spdm
  let code := byteAt m 1
  let version := if code = 0x84 then 0x10 else 0x12
  if m.length < requestLen code || byteAt m 0 != version || (code = 0xE0 && bit (byteAt m 2) 0 && m.length < 37) then
    (spdmError 1, true, s)
  else if !knownRequest code then (spdmError 7, true, s)
  else if !stageFor x code || (inSession code && !secured) then (spdmError 4, true, s)
  else match code with
  | 0x84 => s.withReply (getVersion x m)
  | 0xE1 => s.withReply (getCapabilities x m)
  | 0xE3 => s.withReply (negotiateAlgorithms x m)
  | 0x81 => s.withReply (getDigests s x m)
  | 0x82 => s.withReply (getCertificate s x m)
  | 0x83 => let (n, s) := s.fresh 32; s.withReply (challenge s n x m)
  | 0xE0 => let (n, s) := s.fresh 32; s.withReply (getMeasurements s n x m)
  | 0xE4 => let (d, s) := s.fresh 56; let (n, s) := s.fresh 34; s.withReply (keyExchange s d n x m)
  | 0xE5 => s.withReply (finishSession x m)
  | 0xE8 => ([0x12, 0x68, 0, 0], false, s)
  | 0xE9 =>
    let (r, e, s) := s.withReply (keyUpdate x m)
    (r, e, if e || byteAt m 2 = 3 then s else { s with host := { s.host with ide := s.host.ide.map fun (p : Nat × IdeStream) => (p.1, p.2.toggled) } })
  | 0xEC => s.withReply (endSession x m)
  | _ => let (r, t) := ideMessage s.host.ide m; (r, byteAt r 1 == 0x7F, { s with host := { s.host with ide := t } })

/-- Number of the entry of a malformed object (log entry 22). -/
def codeDoe : Nat := 0x1706

/-- The answer to an object, put into the mailbox; an error is counted and logged. -/
def State.reply (s : State) (type : Nat) (r : Bytes) (malformed : Bool) : State :=
  let s := if malformed then
      ({ s with host := { s.host with spdm := { s.host.spdm with malformed := s.host.spdm.malformed + 1 } } }).log codeDoe (originOf 0 0) errorSeverity (r.take 4)
    else s
  s.putRaw (.doe (doeObject type r))

/-- An object answered: in the clear, or as a record of the session, whose answer goes back under the secret that holds after it; the answer
to FINISH goes back under the handshake secret. -/
def State.answerObject (s : State) (b : Bytes) : State :=
  let x := s.host.spdm
  match doeContent b with
  | none => s.reply 1 (spdmError 1) true
  | some (1, m) =>
    let (r, bad, s) := s.answer m false
    s.reply 1 r bad
  | some (2, c) =>
    let opened := if x.session = .none || field c 0 4 != x.sessionId then none else openRecord x.reqSecret x.reqSeq c
    match opened with
    | none => s.reply 1 (spdmError 6) true
    | some m =>
      let s := { s with host := { s.host with spdm := { x with reqSeq := x.reqSeq + 1 } } }
      let (r, bad, s) := s.answer m true
      let y := s.host.spdm
      let old := x.session = .handshake || y.session = .none
      let secret := if old then x.rspSecret else y.rspSecret
      let seq := if old then x.rspSeq else y.rspSeq
      let moved := y.session = .established && x.session = .handshake
      let s := { s with host := { s.host with spdm := { y with rspSeq := if moved then 0 else y.rspSeq + 1 } } }
      s.reply 2 (sealRecord secret x.sessionId seq r) bad
  | _ => s.reply 1 (spdmError 7) true

/-- The request of an object, where it can be read. -/
def State.requestCode (s : State) (b : Bytes) : Option Nat :=
  let x := s.host.spdm
  match doeContent b with
  | some (1, m) => some (byteAt m 1)
  | some (2, c) => if x.session = .none then none else (openRecord x.reqSecret x.reqSeq c).map fun m => byteAt m 1
  | _ => none

/-- The mailbox takes an object while no exchange is in progress; during a warden gap the exchange stays in progress (R458). An
object of another request is another row's. -/
def State.doeRow (s : State) (code : Nat) (b : Bytes) : Answer :=
  let mine := match s.requestCode b with | some c => c = code | none => true
  if !(s.boot.powered && !s.boot.held && s.host.linkUp && s.boot.state != .booting && s.boot.state != .halted) || s.host.spdm.busy || !mine then .next s
  else if s.guy.holding then .next { s with host := { s.host with spdm := { s.host.spdm with busy := true, exchange := b } } }
  else .next (s.answerObject b)

/-- An exchange that a gap left unanswered is answered by the new warden, from its start (R458). -/
def State.answerHeld (s : State) : State :=
  if s.host.spdm.busy && !s.guy.holding then
    let b := s.host.spdm.exchange
    ({ s with host := { s.host with spdm := { s.host.spdm with busy := false, exchange := [] } } }).answerObject b
  else s

/-- GET_VERSION (R458). -/
def execGetVersion (object : Bytes) (s : State) : Answer := s.doeRow 0x84 object

/-- GET_CAPABILITIES (R458). -/
def execGetCapabilities (object : Bytes) (s : State) : Answer := s.doeRow 0xE1 object

/-- NEGOTIATE_ALGORITHMS (R458): ECDSA P-384, SHA-384, secp384r1 and AES-256-GCM. -/
def execNegotiateAlgorithms (object : Bytes) (s : State) : Answer := s.doeRow 0xE3 object

/-- GET_DIGESTS (R458): slot 0 alone holds a chain. -/
def execGetDigests (object : Bytes) (s : State) : Answer := s.doeRow 0x81 object

/-- GET_CERTIFICATE (R458). -/
def execGetCertificate (object : Bytes) (s : State) : Answer := s.doeRow 0x82 object

/-- CHALLENGE (R458). -/
def execChallenge (object : Bytes) (s : State) : Answer := s.doeRow 0x83 object

/-- GET_MEASUREMENTS (R459). -/
def execGetMeasurements (object : Bytes) (s : State) : Answer := s.doeRow 0xE0 object

/-- KEY_EXCHANGE (R458). -/
def execKeyExchange (object : Bytes) (s : State) : Answer := s.doeRow 0xE4 object

/-- FINISH (R458). -/
def execFinish (object : Bytes) (s : State) : Answer := s.doeRow 0xE5 object

/-- HEARTBEAT of SPDM (R458). -/
def execSpdmHeartbeat (object : Bytes) (s : State) : Answer := s.doeRow 0xE8 object

/-- KEY_UPDATE (R458, R460). -/
def execKeyUpdate (object : Bytes) (s : State) : Answer := s.doeRow 0xE9 object

/-- END_SESSION (R458). -/
def execEndSession (object : Bytes) (s : State) : Answer := s.doeRow 0xEC object

/-- IDE_KM (R460): over a secured session only. -/
def execIdeKm (object : Bytes) (s : State) : Answer := s.doeRow 0xFE object

/-- DOE_ABORT (R458). -/
def execDoeAbort (s : State) : Answer :=
  .next { s with host := { s.host with spdm := { s.host.spdm with busy := false, exchange := [] } } }

/-- Number of the entry of a failed integrity check (log entry 22). -/
def codeIde : Nat := 0x1707

/-- IDE_INTEGRITY_FAIL (R460): the TLP is discarded; its stream is Insecure until new keys are installed. -/
def execIdeIntegrityFail (stream : Nat) (s : State) : Answer :=
  let x := Tab.get s.host.ide {} stream
  if s.boot.powered && !s.boot.held && x.secure then
    .next (({ s with host := { s.host with aer := s.host.aer ||| 2, ide := Tab.put s.host.ide {} stream { x with secure := false, sets := [] } } }).log codeIde
      (originOf 0 0) errorSeverity (leBytes 1 stream))
  else .next s

end Sys2Proof.Machine
end

