-- ==== Sys2Proof/Machine/Session.lean ====
section
/-!
DEFINITION. Sys2Proof/Machine/Session.lean: the twin link's training and the key exchange of its session (R463, R465, R466). The payloads
of HELLO, KEY_SETUP and REKEY frames are laid out as log entry 34 says.
-/

namespace Sys2Proof.Machine

/-! ### Training (R463) -/

def State.linkRuns (s : State) : Bool := s.boot.powered && !s.boot.held && s.boot.state != .halted

/-- This module's HELLO: serial, life-cycle state and chain. -/
def State.helloFrame (s : State) : Bytes := plainFrame 1 1 (slice Config.serial 0 16 ++ leBytes 1 s.life.state.code ++ s.chain)

/-- LINK_TRAINED (R463, R465): the link is UP, on four lanes or two, and the session begins with this side's HELLO. -/
def execLinkTrained (half : Bool) (s : State) : Answer :=
  if !s.linkRuns || s.boot.state = .booting || !(s.link.mode = .down || s.link.mode = .training) then .next s
  else
    let s := s.passTo s.link.retryAt
    let s := { s with link := { s.link with mode := .up, half := half, txNo := 2, rxNo := 1, lastFrame := s.now, transcript := s.helloFrame } }
    .next (s.putRaw (.frame s.link.transcript))

/-- Number of the entry of a lane failure (log entry 22). -/
def codeLane : Nat := 0x1603

/-- LANE_FAIL (R463): the link retrains on two lanes. -/
def execLaneFail (s : State) : Answer :=
  if !s.linkRuns || s.link.mode = .down then .next s
  else
    let s := s.retrain .training
    .next (({ s with link := { s.link with half := true } }).log codeLane (originOf 0 0) warning [])

/-- FRAME_TIMEOUT (R463): FEC alignment is lost, or 1 ms has passed without a valid frame. -/
def execFrameTimeout (fec : Bool) (s : State) : Answer :=
  if !s.linkRuns || !(s.link.mode = .up || s.link.mode = .secure) then .next s
  else .next ((if fec then s else s.passTo (s.link.lastFrame + 1000000)).retrain .training)

/-! ### The key exchange (R465) -/

/-- A refused session: the link is trained again after 1 s. -/
def State.refuseSession (s : State) : State :=
  let s := s.retrain .training
  { s with link := { s.link with retryAt := s.now + 1000000000 } }

/-- A frame of epoch 0 that is the next of its type. -/
def State.plainNext (s : State) (type : Nat) (b : Bytes) : Option Bytes :=
  match parseFrame b with
  | none => none
  | some f => if f.type = type && f.no = s.link.rxNo then f.plain else none

/-- A peer that this module forms a session with. -/
def State.peerFits (s : State) (serial : Bytes) (state : Nat) (chain : Bytes) : Bool :=
  let own := s.life.state.code
  Config.chainValid chain && serial != slice Config.serial 0 16 && (2 ≤ state && state ≤ 4) &&
    (state = own || ((state = 3 || state = 4) && (own = 3 || own = 4)))

/-- 32 bytes of a conditioned seed's expansion. -/
def seedBytes (seed : Bytes) : Bytes := ((streamOf seed).take 32).1

/-- The initiator's half of an exchange: an ML-KEM-1024 key and an X25519 key from two conditioned seeds; it keeps both secrets. -/
def State.openExchange (s : State) : Option (Bytes × State) :=
  (s.takeTwo (List.range 8)).map fun (a, b, s) =>
    let (d, r) := (streamOf a).take 32
    let (ek, dk) := kemKeyGen 1024 d (r.take 32).1
    let x := seedBytes b
    (ek ++ x25519 x (xBase 0x25), { s with link := { s.link with kemKey := dk ++ x } })

/-- The responder's half: the ciphertext and its X25519 key, with K ‖ Z. -/
def State.answerExchange (s : State) (p : Bytes) : Option (Bytes × Bytes × State) :=
  (s.takeTwo (List.range 8)).map fun (a, b, s) =>
    let (k, ct) := kemEncaps 1024 (p.take 1568) (seedBytes a)
    let x := seedBytes b
    (ct ++ x25519 x (xBase 0x25), k ++ x25519 x (slice p 1568 32), s)

/-- K ‖ Z at the initiator. -/
def TwinLink.closeExchange (l : TwinLink) (p : Bytes) : Bytes :=
  kemDecaps 1024 (l.kemKey.take 3168) (p.take 1568) ++ x25519 (l.kemKey.drop 3168) (slice p 1568 32)

/-- The four keys of an epoch. -/
def TwinLink.deriveKeys (l : TwinLink) (kz : Bytes) (epoch : Nat) : List Bytes :=
  let own := slice Config.serial 0 16
  let (a, b) := if l.initiator then (own, l.peerSerial) else (l.peerSerial, own)
  (chunks 32 (kdfHmac kz (ascii "KALLAN-TWINLINK") (a ++ b ++ sha384 l.transcript ++ leBytes 4 epoch) 1024)).take 4

/-- The session's first keys, and this side's KEY_CONFIRM under them. -/
def State.keysReady (s : State) (kz : Bytes) : State :=
  let l := s.link
  let sig := s.attest l.transcript
  let s := { s with link := { l with keys := l.deriveKeys kz 1, epoch := 1, txNo := 1, rxNo := 1, kemKey := [], confirmOut := true } }
  s.sendFrame 3 sig

/-- A frame of epoch 0 sent by this side, which joins the transcript. -/
def State.sendPlain (s : State) (type : Nat) (p : Bytes) : State :=
  let f := plainFrame type s.link.txNo p
  ({ s with link := { s.link with txNo := s.link.txNo + 1, transcript := s.link.transcript ++ f } }).putRaw (.frame f)

/-- HELLO (R465): the peer is judged; the initiator goes on with KEY_SETUP. -/
def execHello (bytes : Bytes) (s : State) : Answer :=
  if !s.linkRuns || s.link.mode != .up || s.link.helloIn then .next s
  else
    match s.plainNext 1 bytes with
    | none => .next s.dropFrame
    | some p =>
      let serial := slice p 0 16
      let chain := p.drop 17
      let initiator := decide (beNat (slice Config.serial 0 16) < beNat serial)
      let l := s.link
      let s := { s with link := { l with helloIn := true, rxNo := l.rxNo + 1, lastFrame := s.now, initiator := initiator, peerSerial := serial
                                         peerState := byteAt p 16, peerChain := chain
                                         transcript := if initiator then l.transcript ++ bytes else bytes ++ l.transcript } }
      if !s.peerFits serial (byteAt p 16) chain then .next s.refuseSession
      else if initiator then
        match s.openExchange with
        | some (p, s) => .next (s.sendPlain 2 p)
        | none => .next s
      else .next s

/-- KEY_SETUP (R465): the responder answers it, and the initiator takes the answer; each then sends its KEY_CONFIRM. -/
def execKeySetup (bytes : Bytes) (s : State) : Answer :=
  if !s.linkRuns || s.link.mode != .up || !s.link.helloIn || s.link.keys != [] then .next s
  else
    match s.plainNext 2 bytes with
    | none => .next s.dropFrame
    | some p =>
      let l := s.link
      let heard := { s with link := { l with rxNo := l.rxNo + 1, lastFrame := s.now, transcript := l.transcript ++ bytes } }
      if l.initiator then
        if l.kemKey = [] || p.length != 1600 then .next s.dropFrame else .next (heard.keysReady (l.closeExchange p))
      else if p.length != 1600 || !kemEkValid 1024 (p.take 1568) then .next s.dropFrame
      else
        match heard.answerExchange p with
        | none => .next s
        | some (a, kz, s) => .next ((s.sendPlain 2 a).keysReady kz)

/-- KEY_CONFIRM (R465): the peer's signature over the transcript; the session is SECURE, or refused. -/
def execKeyConfirm (bytes : Bytes) (s : State) : Answer :=
  if !s.linkRuns || s.link.mode != .up || s.link.keys = [] || byteAt bytes 0 != 3 then .next s
  else
    match s.acceptFrame bytes with
    | (none, s) => .next s
    | (some (_, p), s) =>
      let l := s.link
      if officerVerify 0x21 (Config.chainKey l.peerChain) l.transcript p then
        let s := { s with link := { l with mode := .secure, epochSince := s.now } }
        .next (s.sessionChange (if Config.chainSelfSigned l.peerChain then security else warning)).flushQueued
      else .next s.refuseSession

/-! ### A new epoch (R466) -/

/-- The keys of the next epoch; those of the last one are accepted until its first frame arrives. -/
def State.nextEpoch (s : State) (kz : Bytes) : State :=
  let l := s.link
  { s with link := { l with keys := l.deriveKeys kz (l.epoch + 1), oldKeys := l.keys, epoch := l.epoch + 1, txNo := 1, epochSince := s.now
                            kemKey := [], unacked := if l.initiator then [] else l.unacked } }

/-- A REKEY frame of this side: sent under the keys of the epoch that ends. -/
def State.sendRekey (s : State) (p : Bytes) : State :=
  let no := s.link.txNo
  let s := s.sendFrame 7 p
  let f := (s.link.unacked.find? fun u => u.1 = no).map (·.2)
  { s with link := { s.link with transcript := s.link.transcript ++ f.getD [] } }

/-- REKEY (R466): with no frame, the initiator starts the exchange, after 2^32 frames or 24 h; with one, the responder answers it, or the
initiator takes the answer. -/
def execRekey (bytes : Bytes) (s : State) : Answer :=
  if !s.linkRuns || s.link.mode != .secure then .next s
  else if bytes = [] then
    if !s.link.initiator || s.link.kemKey != [] then .next s
    else
      let s := if 2 ^ 32 < s.link.txNo || 2 ^ 32 < s.link.rxNo then s else s.passTo (s.link.epochSince + 86400000000000)
      match s.openExchange with
      | some (p, s) => .next (s.sendRekey p)
      | none => .next s
  else if byteAt bytes 0 != 7 then .next s
  else
    match s.acceptFrame bytes with
    | (none, s) => .next s
    | (some (_, p), s) =>
      let l := s.link
      let heard := { s with link := { l with transcript := l.transcript ++ bytes } }
      if p.length != 1600 then .next s
      else if l.initiator then
        if l.kemKey = [] then .next s else .next (heard.nextEpoch (l.closeExchange p)).flushQueued
      else if !kemEkValid 1024 (p.take 1568) then .next s
      else
        match heard.answerExchange p with
        | none => .next s
        | some (a, kz, s) => .next ((s.sendRekey a).nextEpoch kz).flushQueued

/-- CLOSE (R466): the peer ends the session. -/
def execClose (bytes : Bytes) (s : State) : Answer :=
  if !s.linkRuns || s.link.mode != .secure || byteAt bytes 0 != 8 then .next s
  else
    match s.acceptFrame bytes with
    | (none, s) => .next s
    | (some _, s) => .next (s.retrain .training)

end Sys2Proof.Machine
end

