-- ==== Sys2Proof/Machine/Streams.lean ====
section
/-!
DEFINITION. Sys2Proof/Machine/Streams.lean: the stream instructions and the SPAN prefix (R292 to R295). A SPAN row marks the prefix and
stays on it; each stream row after it performs one element of the run, until the run ends (log entry 30).
-/

namespace Sys2Proof.Machine

/-! ### One element (R293 Table 11-9) -/

/-- What a stream instruction works on. -/
structure Element where
  core : Nat
  src : Nat
  dst : Nat
  rs : KWord
  /-- The number of RS. -/
  register : Nat
  word : Bool

/-- What an element gives: the state after its stores, and the comparison of SCMP and SFIND. -/
abbrev ElementResult := Except Stop (State × Option Bool)

/-- RS as an operand. -/
def Element.own (x : Element) : Operand := { position := 1, name := x.register, word := x.rs }

/-- The accesses of an element to some addresses. -/
def Element.reach (x : Element) (s : State) (kind : AccessKind) : List Nat → Except Stop Unit
  | [] => .ok ()
  | a :: as => (s.reach x.core kind a (if x.word then 8 else 1)).bind fun _ => x.reach s kind as

/-- The checks of an element: every location it reads or writes is reached, and then RS and the words of those locations are judged together, in
the order of R283. `rule`: the tags of the first operands, for words; bytes are BITS, and a byte is stored into an EMPTY word too (R279). -/
def Element.check (x : Element) (s : State) (own : List Operand) (reads writes : List Nat) (rule : List (List Tag)) : Except Stop Unit :=
  (x.reach s .read reads).bind fun _ => (x.reach s .write writes).bind fun _ =>
    let stored := if x.word then [] else writes.filter fun a => !reads.contains a && (s.word x.core (a / 8 * 8)).tag != .empty
    let l := own ++ (reads ++ stored).map (s.memOperand x.core)
    (checkHeld l).bind fun _ => (checkErr own).bind fun _ =>
      if x.word then checkTags rule (l.take (rule.headD []).length) else checkTags [List.replicate l.length .bits] l

/-- [DST] = [SRC]. -/
def Element.copy (x : Element) (s : State) : ElementResult :=
  (x.check s [] [x.src] [x.dst] []).bind fun _ =>
    if x.word then
      (s.mayStore x.core x.dst 4 (s.word x.core x.src)).map fun _ => (s.setWord x.core x.dst (s.word x.core x.src), none)
    else .ok (s.setByte x.core x.dst (s.byte x.core x.src), none)

/-- [DST] = RS, or EMPTY. -/
def Element.fill (e : Bool) (x : Element) (s : State) : ElementResult :=
  if e then (s.mayStore x.core x.dst 1 {}).map fun _ => (s.setWord x.core x.dst {}, none)
  else
    (x.check s [x.own] [] [x.dst] []).bind fun _ =>
      if x.word then (s.mayStore x.core x.dst 1 x.rs).map fun _ => (s.setWord x.core x.dst x.rs, none)
      else .ok (s.setByte x.core x.dst (x.rs.val.truncate 8), none)

/-- Whether [SRC] = [DST]; words of different tags are not equal. -/
def Element.same (x : Element) (s : State) : ElementResult :=
  (x.check s [] [x.src, x.dst] [] []).map fun _ =>
    (s, some (if x.word then s.word x.core x.src = s.word x.core x.dst else s.byte x.core x.src = s.byte x.core x.dst))

/-- Whether [DST] = RS. -/
def Element.find (x : Element) (s : State) : ElementResult :=
  (x.check s [x.own] [x.dst] [] [[.bits], [.int], [.bool], [.addr], [.handle], [.time]]).map fun _ =>
    (s, some (if x.word then s.word x.core x.dst = x.rs else (s.byte x.core x.dst).zeroExtend 64 = x.rs.val))

/-- [DST] = [DST] XOR [SRC], both BITS. -/
def Element.xor (x : Element) (s : State) : ElementResult :=
  (x.check s [] [x.src, x.dst] [x.dst] [[.bits, .bits]]).map fun _ =>
    if x.word then (s.setWord x.core x.dst (kBits ((s.word x.core x.src).val ^^^ (s.word x.core x.dst).val)), none)
    else (s.setByte x.core x.dst (s.byte x.core x.src ^^^ s.byte x.core x.dst), none)

/-- [SRC] and [DST] exchanged; both are checked before either is written (R294). -/
def Element.exchange (x : Element) (s : State) : ElementResult :=
  (x.check s [] [x.src, x.dst] [x.src, x.dst] []).bind fun _ =>
    if x.word then
      let a := s.word x.core x.src
      let b := s.word x.core x.dst
      (s.mayStore x.core x.src 4 b).bind fun _ => (s.mayStore x.core x.dst 4 a).map fun _ =>
        ((s.setWord x.core x.src b).setWord x.core x.dst a, none)
    else .ok ((s.setByte x.core x.src (s.byte x.core x.dst)).setByte x.core x.dst (s.byte x.core x.src), none)

/-! ### The run (R292 to R295) -/

/-- Fields of a stream instruction. -/
structure StreamInsn where
  op : Nat
  rd : BitVec 5
  rs : BitVec 5
  word : Bool
  e : Bool
  /-- It uses SRC beside DST. -/
  source : Bool
  /-- It gives a comparison. -/
  compares : Bool
  /-- It names RS. -/
  names : Bool

def StreamInsn.encoded (x : StreamInsn) : Nat := wordS x.op x.rd x.rs x.word x.e

def fixedRole (r : BitVec 5) : Bool := r = wCnt || r = wSrc || r = wDst

/-- Fields that are no instruction (R282, R293). -/
def StreamInsn.illegal (x : StreamInsn) : Bool :=
  (x.rd != 0) != x.compares || (!x.names && x.rs != 0) || (x.e && !(x.op = 0x69 && x.word && x.rs = 0))

/-- A prefix that does not suit the instruction (R295). -/
def StreamInsn.badSpan (x : StreamInsn) (stop : Nat) : Bool := fixedRole x.rd || fixedRole x.rs || (stop != 0 && !x.compares)

/-- The register operands of an entry: CNT under a prefix, SRC where used, DST. -/
def StreamInsn.pointers (x : StreamInsn) (K : Core) (prefixed : Bool) : List Operand :=
  (if prefixed then [{ position := 1, name := 27, word := K.reg wCnt }] else []) ++
    (if x.source then [{ position := 2, name := 28, word := K.reg wSrc }] else []) ++
    [{ position := 3, name := 29, word := K.reg wDst }]

/-- RS as an operand of an instruction without a prefix, whose entry is its one element. -/
def StreamInsn.ownOperand (x : StreamInsn) (K : Core) (prefixed : Bool) : List Operand :=
  if x.names && !prefixed then [{ position := 1, name := x.rs.toNat, word := K.reg x.rs }] else []

/-- The checks of an entry, over every operand in the order of R283 (R292): RS is judged here where a pointer is at fault, and otherwise with the
words in memory. -/
def StreamInsn.enter (x : StreamInsn) (K : Core) (prefixed : Bool) : Except Stop Unit :=
  let l := x.pointers K prefixed
  let o := if l.all fun o => o.name = 27 || o.word.tag = .addr then [] else x.ownOperand K prefixed
  (checkHeld (o ++ l)).bind fun _ => (checkErr (o ++ l.filter fun o => o.name != 27)).bind fun _ =>
    (checkTags [(if prefixed then [Tag.int] else []) ++ (if x.source then [Tag.addr] else []) ++ [Tag.addr]] l).bind fun _ =>
      if prefixed && (K.reg wCnt).val.toInt < 0 then .error (.trap { cause := spanCount, tval := (K.reg wCnt).val }) else .ok ()

/-- The core after an element: its comparison in RD, then the pointers and CNT, unless the element stops the run. -/
def StreamInsn.after (x : StreamInsn) (K : Core) (result : Option Bool) (span : Option Nat) : Core :=
  let K := match result with | some b => K.set x.rd (kBool b) | none => K
  let size : BitVec 64 := if x.word then 8 else 1
  let moved := (if x.source then K.set wSrc (kAddr ((K.reg wSrc).val + size)) else K).set wDst (kAddr ((K.reg wDst).val + size))
  match span with
  | none => moved.advance
  | some stop =>
    if (stop = 1 && result = some false) || (stop = 2 && result = some true) then { K with pc := K.pc + 8, span := none }
    else
      let left : BitVec 64 := (K.reg wCnt).val - 1
      let moved := moved.set wCnt (kInt left)
      if left = 0 then { moved with pc := K.pc + 8, span := none } else moved

/-- One element, or the end of a run that has none left. -/
def StreamInsn.perform (x : StreamInsn) (k : Nat) (f : Element → State → ElementResult) (s : State) : Except Stop State :=
  let K := s.core k
  (x.enter K K.span.isSome).bind fun _ =>
    if K.span.isSome && (K.reg wCnt).val = 0 then .ok (s.setCore k fun K => { K with pc := K.pc + 8, span := none })
    else
      (f { core := k, src := (K.reg wSrc).val.toNat, dst := (K.reg wDst).val.toNat, rs := K.reg x.rs, register := x.rs.toNat, word := x.word }
        s).map fun r => r.1.setCore k fun C => x.after C r.2 K.span

/-- A stream instruction, alone or under the prefix before it. -/
def State.stream (s : State) (k : Nat) (x : StreamInsn) (f : Element → State → ElementResult) : Answer :=
  if s.coreWaits k then .next s
  else
    let K := s.core k
    let w := x.encoded
    match s.fetchInsn k (K.pc.toNat + (if K.span.isSome then 4 else 0)) w with
    | .error (.trap t) => .next (s.trap k t)
    | .error .stall => .next s
    | .ok false => .next s
    | .ok true =>
      match K.span with
      | some stop =>
        if x.badSpan stop then .next (s.trap k { cause := illegalSpan, tval := BitVec.ofNat 64 w })
        else if x.illegal then .next (s.trap k { cause := illegalInsn, tval := BitVec.ofNat 64 w })
        else s.complete k (x.perform k f s)
      | none =>
        if x.illegal || fixedRole x.rd || fixedRole x.rs then .next (s.trap k { cause := illegalInsn, tval := BitVec.ofNat 64 w })
        else s.complete k (x.perform k f s)

/-- SCOPY (R293). -/
def execScopy (core : Nat) (rd rs : BitVec 5) (width e : Bool) (s : State) : Answer :=
  s.stream core { op := 0x68, rd := rd, rs := rs, word := width, e := e, source := true, compares := false, names := false } Element.copy

/-- SFILL (R293). -/
def execSfill (core : Nat) (rd rs : BitVec 5) (width e : Bool) (s : State) : Answer :=
  s.stream core { op := 0x69, rd := rd, rs := rs, word := width, e := e, source := false, compares := false, names := true } (Element.fill e)

/-- SCMP (R293). -/
def execScmp (core : Nat) (rd rs : BitVec 5) (width e : Bool) (s : State) : Answer :=
  s.stream core { op := 0x6A, rd := rd, rs := rs, word := width, e := e, source := true, compares := true, names := false } Element.same

/-- SFIND (R293). -/
def execSfind (core : Nat) (rd rs : BitVec 5) (width e : Bool) (s : State) : Answer :=
  s.stream core { op := 0x6B, rd := rd, rs := rs, word := width, e := e, source := false, compares := true, names := true } Element.find

/-- SXOR (R293). -/
def execSxor (core : Nat) (rd rs : BitVec 5) (width e : Bool) (s : State) : Answer :=
  s.stream core { op := 0x6C, rd := rd, rs := rs, word := width, e := e, source := true, compares := false, names := false } Element.xor

/-- SEXCH (R293). -/
def execSexch (core : Nat) (rd rs : BitVec 5) (width e : Bool) (s : State) : Answer :=
  s.stream core { op := 0x6D, rd := rd, rs := rs, word := width, e := e, source := true, compares := false, names := false } Element.exchange

/-- SPAN (R292, R295): the prefix of the stream instruction that follows it; STOP 3 is no instruction. -/
def execSpan (core : Nat) (stop : BitVec 2) (s : State) : Answer :=
  if s.coreWaits core then .next s
  else
    let K := s.core core
    let w := wordP 0x6F stop
    match s.fetchInsn core (K.pc.toNat + (if K.span.isSome then 4 else 0)) w with
    | .error (.trap t) => .next (s.trap core t)
    | .error .stall => .next s
    | .ok false => .next s
    | .ok true =>
      if K.span.isSome then .next (s.trap core { cause := illegalSpan, tval := BitVec.ofNat 64 w })
      else if stop = 3 then .next (s.trap core { cause := illegalInsn, tval := BitVec.ofNat 64 w })
      else .next (s.setCore core fun K => { K with span := some stop.toNat })

end Sys2Proof.Machine
end

