-- ==== Sys2Proof/Machine/Wardens.lean ====
section
/-!
DEFINITION. Sys2Proof/Machine/Wardens.lean: the two wardens: heartbeats, failures, the GUYLINE grant, the journal, switch-over, double
failure and takeback (R348 to R362).
-/

namespace Sys2Proof.Machine

/-! ### Failures (R351, R353, R359, R360) -/

/-- Whether a warden's firmware runs. -/
def Warden.runs (w : Warden) : Bool := w.state = .syncing || w.state = .mirrored || w.state = .active

/-- The path-fault flags, each over both wardens (Table 14-2). -/
def State.pathFlags (s : State) : State :=
  { s with guy := { s.guy with pathWire := (s.warden 0).wireFault || (s.warden 1).wireFault
                               pathFabric := (s.warden 0).fabricFault || (s.warden 1).fabricFault } }

/-- LAST_CAUSE of a failure. -/
def Warden.cause (w : Warden) : Nat := if w.fault then 2 else if w.resigned then 3 else 1

/-- A failure of a warden counts among those of 24 h (R360). -/
def State.countFailure (s : State) (w : Nat) : State :=
  s.setWarden w fun x => { x with failures := (x.failures.filter fun t => s.now < t + 86400000000000) ++ [s.now] }

/-- A warden is reset and begins its start-up self test; on its third failure within 24 h it is FAILED. The path-fault flags stand until 16
consecutive beats. A debug unlock ends (Table 19-3). -/
def State.resetWarden (s : State) (w : Nat) : State :=
  let s := s.wardenTo w .offline
  let s := s.setWarden w fun x =>
    { x with fault := false, resigned := false, snapshot := false, testFrom := s.now, wireMisses := 0, fabricMisses := 0
             wireGood := 0, fabricGood := 0, digest := [], applied := 0 }
  let s := (if w = s.standby then { s with guy := { s.guy with journal := [], preparing := none } } else s).endDebug
  (s.wardenTo w (if (s.warden w).failures.length ≥ 3 then .failed else .selfTest)).pathFlags

/-- Neither warden passes: the main domain is held in reset (R359, R446). -/
def State.wardensHalt (s : State) : State := { s.bootHalted with guy := { s.guy with rebuilding := false } }

/-- Both wardens have failed: outputs are held, the cause is recorded, the module takes the LOCK response, and every warden that is not FAILED
until the next cold reset is reset. -/
def State.doubleFailure (s : State) (w cause : Nat) : State :=
  let s := s.holdOutputs
  let s := { s with guy := { s.guy with rebuilding := true, preparing := none, journal := [] } }
  let s := s.log codeDoubleFailure (originOf 9 w) warning (s.wardenData cause 0)
  let s := s.lockCause lockWarden
  let s := [0, 1].foldl (fun s v => if (s.warden v).state = .failed then s else s.resetWarden v) s
  if (s.warden 0).state = .failed && (s.warden 1).state = .failed then s.wardensHalt else s

/-- The instant of a warden's fault: that of its FAULT line or its resignation, or its last beat (R351, R355). -/
def State.faultOf (s : State) (w : Nat) : Nat :=
  let x := s.warden w
  if x.fault || x.resigned then s.now else max x.wireLast x.fabricLast

/-- The arbiter moves the grant from the failed ACTIVE warden, which is held OFFLINE, to the MIRRORED standby, and the gap begins (R353, R355,
R362). -/
def State.moveGrant (s : State) : State :=
  let old := s.activeWarden
  let new := s.standby
  let away := if old = 0 then min 255 (s.guy.awayFromA + 1) else s.guy.awayFromA
  let s := s.holdOutputs
  let s := { s with guy := { s.guy with code := if new = 0 then movingToA else movingToB, failovers := min 0xFFFF (s.guy.failovers + 1)
                                        awayFromA := away, lastCause := (s.warden old).cause, takebackOff := s.guy.takebackOff || away ≥ 3
                                        preparing := none, faultAt := s.faultOf old } }
  (s.wardenTo old .offline).wardenTo new .active

/-- A warden fails. The ACTIVE one with a MIRRORED standby gives up the grant to it; without one, or in a gap, it is a double failure; a standby
is reset. -/
def State.wardenFails (s : State) (w : Nat) : State :=
  let s := s.countFailure w
  if w = s.activeWarden then
    if (s.warden s.standby).state = .mirrored then s.moveGrant else s.doubleFailure w (s.warden w).cause
  else s.resetWarden w

/-- The wardens serve: the module runs, past its boot. -/
def State.wardensServe (s : State) : Bool := s.running && s.boot.state != .booting

/-! ### Heartbeats (R350, R351) -/

/-- A beat on one path. -/
def beat (now last misses good : Nat) (fault arrives : Bool) : Nat × Nat × Nat × Bool :=
  if arrives then (now, 0, good + 1, fault && good + 1 < 16) else (last, misses, good, fault)

/-- WARDEN_HEARTBEAT (R350, R351): a beat, sent while the scheduler loop completed within the last 20 µs (`loop` ns ago), arrives on the paths
that carry it. -/
def execWardenHeartbeat (warden loop : Nat) (wire fabric : Bool) (s : State) : Answer :=
  if !s.wardensServe || !(s.warden warden).runs || loop > 20000 then .next s
  else
    let w := s.warden warden
    let a := beat s.now w.wireLast w.wireMisses w.wireGood w.wireFault wire
    let b := beat s.now w.fabricLast w.fabricMisses w.fabricGood w.fabricFault fabric
    let s := s.setWarden warden fun x =>
      { x with progress := s.now - loop, wireLevel := !x.wireLevel, beats := (x.beats + 1) % 2 ^ 64
               wireLast := a.1, wireMisses := a.2.1, wireGood := a.2.2.1, wireFault := a.2.2.2
               fabricLast := b.1, fabricMisses := b.2.1, fabricGood := b.2.2.1, fabricFault := b.2.2.2 }
    .next s.pathFlags

/-- HEARTBEAT_MISS (R351, R353): a path of a warden misses a period, at 2.25 µs and then every 2 µs after its last beat. The third one on one
path alone is a path fault; with three on the other it is a failure, which the arbiter's own tap on the wire pair must show as well (`tap`):
a request that it refuses comes again with the next missed period. -/
def execHeartbeatMiss (warden : Nat) (fabric tap : Bool) (s : State) : Answer :=
  if !s.wardensServe || !(s.warden warden).runs then .next s
  else
    let w := s.warden warden
    let (last, n) := if fabric then (w.fabricLast, w.fabricMisses) else (w.wireLast, w.wireMisses)
    let s := s.passTo (last + 2250 + 2000 * n)
    let s := s.setWarden warden fun x =>
      if fabric then { x with fabricMisses := n + 1, fabricGood := 0, fabricFault := x.fabricFault || n ≥ 2 }
      else { x with wireMisses := n + 1, wireGood := 0, wireFault := x.wireFault || n ≥ 2 }
    if n < 2 then .next s.pathFlags
    else if 3 ≤ (if fabric then w.wireMisses else w.fabricMisses) then
      if warden = s.activeWarden && !tap then
        .next (s.pathFlags.log codeGrantRefused (originOf 9 (1 - warden)) warning (s.wardenData 1 0))
      else .next (s.pathFlags.wardenFails warden)
    else if n != 2 then .next s.pathFlags
    else .next ((s.pathFlags.log codePathFault (originOf 9 warden) warning (s.wardenData s.guy.lastCause 0)).raise 0x191)

/-- LOCKSTEP_FAULT (R348, R351): the comparator blocks the write and asserts FAULT. -/
def execLockstepFault (warden : Nat) (s : State) : Answer :=
  if !s.wardensServe || !(s.warden warden).runs || (s.warden warden).fault then .next s
  else .next ((s.setWarden warden fun x => { x with fault := true }).wardenFails warden)

/-- WARDEN_PERIODIC_SELF_TEST (R351, R353): a failed test makes the active warden resign. -/
def execWardenPeriodicSelfTest (warden : Nat) (pass : Bool) (s : State) : Answer :=
  if !s.wardensServe || !(s.warden warden).runs || pass || (s.warden warden).resigned then .next s
  else .next ((s.setWarden warden fun x => { x with resigned := true }).wardenFails warden)

/-! ### Switch-over (R353 to R358, R362) -/

/-- Started management commands without an acknowledged commit record, executed again from their admitted inputs and pre-state (R75, R357). One
that has acted on the module ahead of its commit point (a PITCH_RESET past its reset point, a TWIN_ESTABLISH that has sent the pitch, an
LC_TRANSITION that has burned an attempt) goes on from there, so that its results are those the failed warden would have produced. -/
def State.redoManagement (s : State) : State :=
  s.rerun (fun c => c.entry.mgmt && c.ran && c.stage = 0 && (c.phase = .running || c.phase = .computed)) none none

/-- Management entries that were fetched and not placed are fetched again (R357). -/
def State.refetchEntries (s : State) : State :=
  { s with doms := s.doms.map fun (p : Nat × Dom) =>
      (p.1, { p.2 with waiting := p.2.waiting.map fun w => { w with again := w.again || w.entry.mgmt } }) }

/-- The sets of an instant that fell in the gap are applied, and placement goes on (R358). -/
def State.applyHeldInstant (s : State) : State :=
  match s.guy.due with
  | none => s
  | some b =>
    let s := s.applyDue b
    let s := { s with guy := { s.guy with due := none } }
    s.foldDoms (allDoms.filter fun d => (s.dom d).waiting != []) fun s d => s.resumePlacement d

/-- The gap ends: the new ACTIVE warden has replayed the journal's tail, and its running digest agrees; the failed one is reset. -/
def State.endGap (s : State) : State :=
  let new := s.activeWarden
  let old := s.standby
  let s := s.guy.journal.foldl (fun s _ => s.applyEntry new JournalEntry.bytes) s
  let same := decide ((s.warden new).digest = s.guy.headDigest)
  let s := { s with guy := { s.guy with code := if new = 0 then grantA else grantB } }
  let s := s.log codeSwitchOver (originOf 9 new) warning (s.wardenData s.guy.lastCause (s.now - s.guy.faultAt))
  if same then (s.resetWarden old).redoManagement.refetchEntries.applyHeldInstant.releaseHeld.answerHeld
  else s.doubleFailure new s.guy.lastCause

/-- SWITCH_OVER (R355 to R358): the gap of a moved grant ends, at most 40 µs after the fault of the warden that held it. -/
def execSwitchOver (gap : Nat) (s : State) : Answer :=
  if !s.wardensServe || !s.guy.holding || s.guy.rebuilding || !(s.guy.code = movingToA || s.guy.code = movingToB) ||
      s.now + gap > s.guy.faultAt + 40000 then .next s
  else .next (s.pass gap).endGap

/-! ### The journal (R354) -/

/-- JOURNAL_ENTRY (R354): the standby applies the oldest entry, and a MIRRORED one acknowledges it; an entry that reaches it damaged leaves its
digest with a value that the spec leaves open. -/
def execJournalEntry (intact : Bool) (s : State) : Answer :=
  if !s.wardensServe || !s.journals then .next s
  else if intact then .next (s.applyJournal JournalEntry.bytes).checkpointDue
  else
    let (v, s) := s.fresh 19
    .next (s.applyJournal fun _ => v).checkpointDue

/-- JOURNAL_CHECKPOINT (R354): a standby whose running digest differs is FAILED. -/
def execJournalCheckpoint (s : State) : Answer :=
  if !s.wardensServe || !s.journals then .next s else .next s.checkpoint

/-! ### Start-up self test, SYNCING, MIRRORED (R348, R354, R359, R360) -/

/-- A warden holds the grant after a double failure. -/
def State.grantTo (s : State) (w : Nat) : State :=
  ({ s with guy := { s.guy with code := if w = 0 then grantA else grantB } }).wardenTo w .active

/-- The snapshot of the active warden's state, and the journal from here (R360). -/
def State.snapshotTo (s : State) (w : Nat) : State :=
  let s := s.setWarden w fun x => { x with snapshot := true, applied := s.guy.written, digest := s.guy.headDigest }
  { s with guy := { s.guy with journal := [] } }

/-- WARDEN_SELF_TEST_END (R359, R360): 200 ms after the reset. -/
def execWardenSelfTestEnd (warden : Nat) (pass : Bool) (s : State) : Answer :=
  if !s.wardensServe || (s.warden warden).state != .selfTest then .next s
  else
    let s := s.passTo ((s.warden warden).testFrom + 200000000)
    let other := s.warden (1 - warden)
    if !s.guy.rebuilding || other.state = .active then
      if pass then
        let s := s.wardenTo warden .syncing
        let s := s.setWarden warden fun x => { x with wireLast := s.now, fabricLast := s.now }
        .next (s.snapshotTo warden)
      else .next (s.wardenTo warden .failed)
    else
      let s := s.wardenTo warden (if pass then .syncing else .failed)
      let s := s.setWarden warden fun x => { x with wireLast := s.now, fabricLast := s.now }
      let a := (s.warden 0).state
      let b := (s.warden 1).state
      if a = .syncing then .next (if b = .syncing then (s.grantTo 0).snapshotTo 1 else s.grantTo 0)
      else if a = .failed && b = .syncing then .next (s.grantTo 1)
      else if a = .failed && b = .failed then .next s.wardensHalt
      else .next s

/-- WARDEN_SYNCED (R354): within 64 entries of the head, the standby is MIRRORED. -/
def execWardenSynced (warden : Nat) (s : State) : Answer :=
  if !s.wardensServe || warden = s.activeWarden || (s.warden warden).state != .syncing || (s.warden s.activeWarden).state != .active ||
      s.guy.journal.length > 64 then .next s
  else
    let s := if (s.warden warden).snapshot then s else s.snapshotTo warden
    .next ((s.setWarden warden fun x => { x with mirroredSince := s.now }).wardenTo warden .mirrored)

/-- WARDEN_REBUILD (R359): chip-level state is rebuilt from MRAM, where what the commit records brought stands; every other management command is
completed with E_ABORTED_TAMPER, and held completions are released. -/
def execWardenRebuild (s : State) : Answer :=
  if !s.wardensServe || !s.guy.rebuilding || (s.warden s.activeWarden).state != .active then .next s
  else
    let s := (allDoms.filter fun d => (s.dom d).cmds != []).foldl (fun s d =>
      s.abortDom 0x00FF .now (fun c => c.entry.mgmt) d) s
    .next ({ s with guy := { s.guy with rebuilding := false } }).refetchEntries.applyHeldInstant.releaseHeld.answerHeld

/-! ### Takeback (R353, R361) -/

/-- TAKEBACK_HOLDOFF (R361): warden A has been MIRRORED for the hold-off; warden B prepares a takeback. -/
def execTakebackHoldoff (s : State) : Answer :=
  if !s.wardensServe || s.activeWarden != 1 || (s.warden 1).state != .active || (s.warden 0).state != .mirrored || s.guy.takebackOff ||
      s.guy.preparing.isSome || s.guy.holding then .next s
  else
    let s := s.passTo (max (s.warden 0).mirroredSince s.guy.abandonedAt + s.chip.takeback * 100000000)
    .next { s with guy := { s.guy with preparing := some s.now } }

/-- A quiet point: no management command running, no entry unacknowledged, no staged instant within 1 ms. -/
def State.quietPoint (s : State) : Bool :=
  s.guy.journal = [] && !(s.doms.any fun p => p.2.cmds.any fun c => c.entry.mgmt && (c.phase = .running || c.phase = .computed)) &&
    (chipSet :: tamperSet :: List.range 256).all fun k =>
      (s.stage k).state != .pending || (s.stage k).boundary * 1000000000 > s.clock.tai + 1000000

/-- The attempt is abandoned, and the hold-off starts again. -/
def State.abandonTakeback (s : State) : State := { s with guy := { s.guy with preparing := none, abandonedAt := s.now } }

/-- TAKEBACK (R361): at a quiet point within 100 ms the grant moves back to warden A, with outputs held for at most 40 µs. -/
def execTakeback (gap : Nat) (s : State) : Answer :=
  match s.guy.preparing with
  | none => .next s
  | some t =>
    if !s.wardensServe || !s.quietPoint || (s.warden 0).state != .mirrored || s.guy.holding || gap > 40000 then .next s
    else if s.now > t + 100000000 then .next s.abandonTakeback
    else
      let s := s.holdOutputs
      let s := { s with guy := { s.guy with code := movingToA, lastCause := 4, preparing := none } }
      let s := ((s.wardenTo 0 .active).wardenTo 1 .mirrored).pass gap
      let s := s.setWarden 1 fun x => { x with mirroredSince := s.now, digest := s.guy.headDigest, applied := s.guy.written, snapshot := true }
      let s := ({ s with guy := { s.guy with code := grantA } }).log codeTakeback (originOf 9 0) warning (s.wardenData 4 gap)
      .next s.releaseHeld.answerHeld

/-- TAKEBACK_ABANDON (R361): no quiet point within 100 ms; the hold-off starts again. -/
def execTakebackAbandon (s : State) : Answer :=
  match s.guy.preparing with
  | none => .next s
  | some t =>
    if !s.wardensServe then .next s
    else
      .next (s.passTo (t + 100000000)).abandonTakeback

end Sys2Proof.Machine
end

