-- ==== Sys2Proof/Machine/Dispatch.lean ====
section
/-!
DEFINITION. Sys2Proof/Machine/Dispatch.lean: which meaning runs each command.
-/

namespace Sys2Proof.Machine

def exec (i : Instr) (s : State) : Host.Outcome State Fault Refusal :=
  match i with
  | .sqTail dom queue offset size value => Sys2Proof.Machine.execSqTail dom queue offset size value s
  | .bootWord dom value => Sys2Proof.Machine.execBootWord dom value s
  | .cqHead dom queue offset size value => Sys2Proof.Machine.execCqHead dom queue offset size value s
  | .seqNext dom offset size value => Sys2Proof.Machine.execSeqNext dom offset size value s
  | .eventAck dom offset size value => Sys2Proof.Machine.execEventAck dom offset size value s
  | .trailCursor offset size value => Sys2Proof.Machine.execTrailCursor offset size value s
  | .perfSelect offset size value => Sys2Proof.Machine.execPerfSelect offset size value s
  | .perfValueRead offset size => Sys2Proof.Machine.execPerfValueRead offset size s
  | .perfValueWrite offset size value => Sys2Proof.Machine.execPerfValueWrite offset size value s
  | .perfConfigSelect offset size value => Sys2Proof.Machine.execPerfConfigSelect offset size value s
  | .perfConfig offset size value => Sys2Proof.Machine.execPerfConfig offset size value s
  | .perfConfigRead offset size => Sys2Proof.Machine.execPerfConfigRead offset size s
  | .registerWrite page offset size value => Sys2Proof.Machine.execRegisterWrite page offset size value s
  | .entryFetched dom queue bytes => Sys2Proof.Machine.execEntryFetched dom queue bytes s
  | .dmaReadFail what cause index => Sys2Proof.Machine.execDmaReadFail what cause index s
  | .commandStart dom id region block => Sys2Proof.Machine.execCommandStart dom id region block s
  | .commitPoint dom done => Sys2Proof.Machine.execCommitPoint dom done s
  | .chainLink dom id => Sys2Proof.Machine.execChainLink dom id s
  | .seqGapExpiry dom => Sys2Proof.Machine.execSeqGapExpiry dom s
  | .aggTimeExpiry dom queue => Sys2Proof.Machine.execAggTimeExpiry dom queue s
  | .completionTimeout request => Sys2Proof.Machine.execCompletionTimeout request s
  | .unexpectedCompletion tag => Sys2Proof.Machine.execUnexpectedCompletion tag s
  | .queueCreate dom id => Sys2Proof.Machine.execQueueCreate dom id s
  | .queueDelete dom id => Sys2Proof.Machine.execQueueDelete dom id s
  | .queueStatus dom id => Sys2Proof.Machine.execQueueStatus dom id s
  | .queueRoute dom id => Sys2Proof.Machine.execQueueRoute dom id s
  | .queueRecover dom id => Sys2Proof.Machine.execQueueRecover dom id s
  | .seqGapSet dom id => Sys2Proof.Machine.execSeqGapSet dom id s
  | .pitchCreate dom id => Sys2Proof.Machine.execPitchCreate dom id s
  | .pitchDestroy dom id => Sys2Proof.Machine.execPitchDestroy dom id s
  | .pitchReset dom id => Sys2Proof.Machine.execPitchReset dom id s
  | .pitchLock dom id => Sys2Proof.Machine.execPitchLock dom id s
  | .pitchUnlock dom id => Sys2Proof.Machine.execPitchUnlock dom id s
  | .pitchInfo dom id => Sys2Proof.Machine.execPitchInfo dom id s
  | .dirtyLogStart dom id => Sys2Proof.Machine.execDirtyLogStart dom id s
  | .dirtyLogFlush dom id => Sys2Proof.Machine.execDirtyLogFlush dom id s
  | .dirtyLogStop dom id => Sys2Proof.Machine.execDirtyLogStop dom id s
  | .stageWrite dom id => Sys2Proof.Machine.execStageWrite dom id s
  | .stageCheck dom id => Sys2Proof.Machine.execStageCheck dom id s
  | .stageCommit dom id => Sys2Proof.Machine.execStageCommit dom id s
  | .stageDiscard dom id => Sys2Proof.Machine.execStageDiscard dom id s
  | .stageStatus dom id => Sys2Proof.Machine.execStageStatus dom id s
  | .stagedInstant boundary => Sys2Proof.Machine.execStagedInstant boundary s
  | .keyGenerate dom id => Sys2Proof.Machine.execKeyGenerate dom id s
  | .keyLoad dom id => Sys2Proof.Machine.execKeyLoad dom id s
  | .keyPublicLoad dom id => Sys2Proof.Machine.execKeyPublicLoad dom id s
  | .keyReplace dom id => Sys2Proof.Machine.execKeyReplace dom id s
  | .keyDestroy dom id => Sys2Proof.Machine.execKeyDestroy dom id s
  | .keyAttrRestrict dom id => Sys2Proof.Machine.execKeyAttrRestrict dom id s
  | .keyInfo dom id => Sys2Proof.Machine.execKeyInfo dom id s
  | .keyPublicRead dom id => Sys2Proof.Machine.execKeyPublicRead dom id s
  | .keyTransportInfo dom id => Sys2Proof.Machine.execKeyTransportInfo dom id s
  | .keyGrant dom id => Sys2Proof.Machine.execKeyGrant dom id s
  | .keyList dom id => Sys2Proof.Machine.execKeyList dom id s
  | .officerAdd dom id => Sys2Proof.Machine.execOfficerAdd dom id s
  | .officerRemove dom id => Sys2Proof.Machine.execOfficerRemove dom id s
  | .quorumSet dom id => Sys2Proof.Machine.execQuorumSet dom id s
  | .rosterSeal dom id => Sys2Proof.Machine.execRosterSeal dom id s
  | .rosterRead dom id => Sys2Proof.Machine.execRosterRead dom id s
  | .timeSet dom id => Sys2Proof.Machine.execTimeSet dom id s
  | .timeRead dom id => Sys2Proof.Machine.execTimeRead dom id s
  | .logRotate dom id sram mram => Sys2Proof.Machine.execLogRotate dom id sram mram s
  | .logExport dom id => Sys2Proof.Machine.execLogExport dom id s
  | .logCheckpointRead dom id => Sys2Proof.Machine.execLogCheckpointRead dom id s
  | .logRateSet dom id => Sys2Proof.Machine.execLogRateSet dom id s
  | .logStatus dom id => Sys2Proof.Machine.execLogStatus dom id s
  | .eventRoute dom id => Sys2Proof.Machine.execEventRoute dom id s
  | .eventStatus dom id => Sys2Proof.Machine.execEventStatus dom id s
  | .eventClear dom id => Sys2Proof.Machine.execEventClear dom id s
  | .perfGrant dom id => Sys2Proof.Machine.execPerfGrant dom id s
  | .perfSamples dom id => Sys2Proof.Machine.execPerfSamples dom id s
  | .lcStatus dom id => Sys2Proof.Machine.execLcStatus dom id s
  | .lcTransition dom id burned => Sys2Proof.Machine.execLcTransition dom id burned s
  | .lcDigestBurn dom id => Sys2Proof.Machine.execLcDigestBurn dom id s
  | .lcModeSet dom id => Sys2Proof.Machine.execLcModeSet dom id s
  | .debugUnlock dom id => Sys2Proof.Machine.execDebugUnlock dom id s
  | .debugLock dom id => Sys2Proof.Machine.execDebugLock dom id s
  | .fwInstall dom id => Sys2Proof.Machine.execFwInstall dom id s
  | .tamperStatus dom id => Sys2Proof.Machine.execTamperStatus dom id s
  | .tamperClear dom id => Sys2Proof.Machine.execTamperClear dom id s
  | .twinJoin dom id => Sys2Proof.Machine.execTwinJoin dom id s
  | .twinEstablish dom id => Sys2Proof.Machine.execTwinEstablish dom id s
  | .twinDetach dom id => Sys2Proof.Machine.execTwinDetach dom id s
  | .twinResume dom id => Sys2Proof.Machine.execTwinResume dom id s
  | .twinPromote dom id => Sys2Proof.Machine.execTwinPromote dom id s
  | .twinDemote dom id => Sys2Proof.Machine.execTwinDemote dom id s
  | .twinStatus dom id => Sys2Proof.Machine.execTwinStatus dom id s
  | .digestRead dom id => Sys2Proof.Machine.execDigestRead dom id s
  | .twinDissolve dom id => Sys2Proof.Machine.execTwinDissolve dom id s
  | .cfLoad dom id => Sys2Proof.Machine.execCfLoad dom id s
  | .cfAccept dom id => Sys2Proof.Machine.execCfAccept dom id s
  | .cfBind dom id => Sys2Proof.Machine.execCfBind dom id s
  | .cfUnbind dom id => Sys2Proof.Machine.execCfUnbind dom id s
  | .cfDelete dom id => Sys2Proof.Machine.execCfDelete dom id s
  | .cfInfo dom id => Sys2Proof.Machine.execCfInfo dom id s
  | .cfInvoke dom id colour areas => Sys2Proof.Machine.execCfInvoke dom id colour areas s
  | .symEcbEncrypt dom id => Sys2Proof.Machine.execSymEcbEncrypt dom id s
  | .symEcbDecrypt dom id => Sys2Proof.Machine.execSymEcbDecrypt dom id s
  | .symCtrEncrypt dom id => Sys2Proof.Machine.execSymCtrEncrypt dom id s
  | .symCtrDecrypt dom id => Sys2Proof.Machine.execSymCtrDecrypt dom id s
  | .xtsEncrypt dom id => Sys2Proof.Machine.execXtsEncrypt dom id s
  | .xtsDecrypt dom id => Sys2Proof.Machine.execXtsDecrypt dom id s
  | .symCbcEncrypt dom id => Sys2Proof.Machine.execSymCbcEncrypt dom id s
  | .symCbcDecrypt dom id => Sys2Proof.Machine.execSymCbcDecrypt dom id s
  | .gcmEncrypt dom run => Sys2Proof.Machine.execGcmEncrypt dom run s
  | .gcmDecrypt dom run => Sys2Proof.Machine.execGcmDecrypt dom run s
  | .macCompute dom id => Sys2Proof.Machine.execMacCompute dom id s
  | .macCheck dom id => Sys2Proof.Machine.execMacCheck dom id s
  | .pinBlockTranslate dom id => Sys2Proof.Machine.execPinBlockTranslate dom id s
  | .pinCheck dom id => Sys2Proof.Machine.execPinCheck dom id s
  | .dukptPinTranslate dom id => Sys2Proof.Machine.execDukptPinTranslate dom id s
  | .dukptMacCheck dom id => Sys2Proof.Machine.execDukptMacCheck dom id s
  | .dukptDecrypt dom id => Sys2Proof.Machine.execDukptDecrypt dom id s
  | .dukptIkWrap dom id => Sys2Proof.Machine.execDukptIkWrap dom id s
  | .cardArqcCheck dom id => Sys2Proof.Machine.execCardArqcCheck dom id s
  | .cardArpcCompute dom id => Sys2Proof.Machine.execCardArpcCompute dom id s
  | .hashCompute dom id => Sys2Proof.Machine.execHashCompute dom id s
  | .pkSign dom id => Sys2Proof.Machine.execPkSign dom id s
  | .pkVerify dom id => Sys2Proof.Machine.execPkVerify dom id s
  | .kemEncapsulate dom id => Sys2Proof.Machine.execKemEncapsulate dom id s
  | .kemDecapsulate dom id => Sys2Proof.Machine.execKemDecapsulate dom id s
  | .agreeStatic dom id => Sys2Proof.Machine.execAgreeStatic dom id s
  | .agreeEphemeral dom id => Sys2Proof.Machine.execAgreeEphemeral dom id s
  | .hybridEncapsulate dom id => Sys2Proof.Machine.execHybridEncapsulate dom id s
  | .hybridDecapsulate dom id => Sys2Proof.Machine.execHybridDecapsulate dom id s
  | .rsaOaepEncrypt dom id => Sys2Proof.Machine.execRsaOaepEncrypt dom id s
  | .rsaOaepDecrypt dom id => Sys2Proof.Machine.execRsaOaepDecrypt dom id s
  | .randomGenerate dom id => Sys2Proof.Machine.execRandomGenerate dom id s
  | .rawEntropy dom id => Sys2Proof.Machine.execRawEntropy dom id s
  | .rawCaptureEnd region source samples => Sys2Proof.Machine.execRawCaptureEnd region source samples s
  | .entropyStatus dom id => Sys2Proof.Machine.execEntropyStatus dom id s
  | .selfTest dom id results => Sys2Proof.Machine.execSelfTest dom id results s
  | .keyWrap dom id => Sys2Proof.Machine.execKeyWrap dom id s
  | .keyUnwrap dom id => Sys2Proof.Machine.execKeyUnwrap dom id s
  | .liModExp dom id => Sys2Proof.Machine.execLiModExp dom id s
  | .liModMul dom id => Sys2Proof.Machine.execLiModMul dom id s
  | .liModAdd dom id => Sys2Proof.Machine.execLiModAdd dom id s
  | .liModSub dom id => Sys2Proof.Machine.execLiModSub dom id s
  | .liModInv dom id => Sys2Proof.Machine.execLiModInv dom id s
  | .add core rd rs1 rs2 => Sys2Proof.Machine.execAdd core rd rs1 rs2 s
  | .sub core rd rs1 rs2 => Sys2Proof.Machine.execSub core rd rs1 rs2 s
  | .mul core rd rs1 rs2 => Sys2Proof.Machine.execMul core rd rs1 rs2 s
  | .mulhu core rd rs1 rs2 => Sys2Proof.Machine.execMulhu core rd rs1 rs2 s
  | .div core rd rs1 rs2 => Sys2Proof.Machine.execDiv core rd rs1 rs2 s
  | .rem core rd rs1 rs2 => Sys2Proof.Machine.execRem core rd rs1 rs2 s
  | .neg core rd rs1 => Sys2Proof.Machine.execNeg core rd rs1 s
  | .and core rd rs1 rs2 => Sys2Proof.Machine.execAnd core rd rs1 rs2 s
  | .or core rd rs1 rs2 => Sys2Proof.Machine.execOr core rd rs1 rs2 s
  | .xor core rd rs1 rs2 => Sys2Proof.Machine.execXor core rd rs1 rs2 s
  | .not core rd rs1 => Sys2Proof.Machine.execNot core rd rs1 s
  | .shl core rd rs1 rs2 => Sys2Proof.Machine.execShl core rd rs1 rs2 s
  | .shr core rd rs1 rs2 => Sys2Proof.Machine.execShr core rd rs1 rs2 s
  | .sar core rd rs1 rs2 => Sys2Proof.Machine.execSar core rd rs1 rs2 s
  | .addi core rd rs1 imm => Sys2Proof.Machine.execAddi core rd rs1 imm s
  | .andi core rd rs1 imm => Sys2Proof.Machine.execAndi core rd rs1 imm s
  | .ori core rd rs1 imm => Sys2Proof.Machine.execOri core rd rs1 imm s
  | .xori core rd rs1 imm => Sys2Proof.Machine.execXori core rd rs1 imm s
  | .shli core rd rs1 imm => Sys2Proof.Machine.execShli core rd rs1 imm s
  | .shri core rd rs1 imm => Sys2Proof.Machine.execShri core rd rs1 imm s
  | .sari core rd rs1 imm => Sys2Proof.Machine.execSari core rd rs1 imm s
  | .li core rd imm => Sys2Proof.Machine.execLi core rd imm s
  | .lib core rd imm => Sys2Proof.Machine.execLib core rd imm s
  | .lih core rd k imm => Sys2Proof.Machine.execLih core rd k imm s
  | .mkerr core rd imm => Sys2Proof.Machine.execMkerr core rd imm s
  | .adda core rd rs1 rs2 => Sys2Proof.Machine.execAdda core rd rs1 rs2 s
  | .addai core rd rs1 imm => Sys2Proof.Machine.execAddai core rd rs1 imm s
  | .suba core rd rs1 rs2 => Sys2Proof.Machine.execSuba core rd rs1 rs2 s
  | .tadd core rd rs1 rs2 => Sys2Proof.Machine.execTadd core rd rs1 rs2 s
  | .tsub core rd rs1 rs2 => Sys2Proof.Machine.execTsub core rd rs1 rs2 s
  | .ceq core rd rs1 rs2 => Sys2Proof.Machine.execCeq core rd rs1 rs2 s
  | .cne core rd rs1 rs2 => Sys2Proof.Machine.execCne core rd rs1 rs2 s
  | .clt core rd rs1 rs2 => Sys2Proof.Machine.execClt core rd rs1 rs2 s
  | .cle core rd rs1 rs2 => Sys2Proof.Machine.execCle core rd rs1 rs2 s
  | .cltu core rd rs1 rs2 => Sys2Proof.Machine.execCltu core rd rs1 rs2 s
  | .cleu core rd rs1 rs2 => Sys2Proof.Machine.execCleu core rd rs1 rs2 s
  | .sel core rd rs1 rs2 rs3 => Sys2Proof.Machine.execSel core rd rs1 rs2 rs3 s
  | .mov core rd rs1 => Sys2Proof.Machine.execMov core rd rs1 s
  | .retag core rd rs1 t => Sys2Proof.Machine.execRetag core rd rs1 t s
  | .tagof core rd rs1 => Sys2Proof.Machine.execTagof core rd rs1 s
  | .errcode core rd rs1 => Sys2Proof.Machine.execErrcode core rd rs1 s
  | .clmul core rd rs1 rs2 => Sys2Proof.Machine.execClmul core rd rs1 rs2 s
  | .clmulh core rd rs1 rs2 => Sys2Proof.Machine.execClmulh core rd rs1 rs2 s
  | .ldw core rd rs1 imm => Sys2Proof.Machine.execLdw core rd rs1 imm s
  | .stw core rd rs1 imm => Sys2Proof.Machine.execStw core rd rs1 imm s
  | .ldb core rd rs1 imm => Sys2Proof.Machine.execLdb core rd rs1 imm s
  | .stb core rd rs1 imm => Sys2Proof.Machine.execStb core rd rs1 imm s
  | .bt core rd imm => Sys2Proof.Machine.execBt core rd imm s
  | .bf core rd imm => Sys2Proof.Machine.execBf core rd imm s
  | .j core off => Sys2Proof.Machine.execJ core off s
  | .jal core off => Sys2Proof.Machine.execJal core off s
  | .jr core rs1 => Sys2Proof.Machine.execJr core rs1 s
  | .jalr core rs1 => Sys2Proof.Machine.execJalr core rs1 s
  | .leac core rd imm => Sys2Proof.Machine.execLeac core rd imm s
  | .scopy core rd rs width e => Sys2Proof.Machine.execScopy core rd rs width e s
  | .sfill core rd rs width e => Sys2Proof.Machine.execSfill core rd rs width e s
  | .scmp core rd rs width e => Sys2Proof.Machine.execScmp core rd rs width e s
  | .sfind core rd rs width e => Sys2Proof.Machine.execSfind core rd rs width e s
  | .sxor core rd rs width e => Sys2Proof.Machine.execSxor core rd rs width e s
  | .sexch core rd rs width e => Sys2Proof.Machine.execSexch core rd rs width e s
  | .span core stop => Sys2Proof.Machine.execSpan core stop s
  | .enqc core rd rs1 => Sys2Proof.Machine.execEnqc core rd rs1 s
  | .enql core rd rs1 => Sys2Proof.Machine.execEnql core rd rs1 s
  | .enqh core rd rs1 => Sys2Proof.Machine.execEnqh core rd rs1 s
  | .ewait core rd rs1 => Sys2Proof.Machine.execEwait core rd rs1 s
  | .ewaita core rd => Sys2Proof.Machine.execEwaita core rd s
  | .csrr core rd csr => Sys2Proof.Machine.execCsrr core rd csr s
  | .csrw core rd csr => Sys2Proof.Machine.execCsrw core rd csr s
  | .rswap core => Sys2Proof.Machine.execRswap core s
  | .eret core => Sys2Proof.Machine.execEret core s
  | .cancel core => Sys2Proof.Machine.execCancel core s
  | .watchdog report => Sys2Proof.Machine.execWatchdog report s
  | .perfInterrupt core => Sys2Proof.Machine.execPerfInterrupt core s
  | .timer core => Sys2Proof.Machine.execTimer core s
  | .cellRunEnd cell => Sys2Proof.Machine.execCellRunEnd cell s
  | .cellJobEnd core slot => Sys2Proof.Machine.execCellJobEnd core slot s
  | .cellMismatch cell block => Sys2Proof.Machine.execCellMismatch cell block s
  | .cellAgeOut cell block => Sys2Proof.Machine.execCellAgeOut cell block s
  | .cellSelfTest cell pass => Sys2Proof.Machine.execCellSelfTest cell pass s
  | .liuSegmentEnd liu => Sys2Proof.Machine.execLiuSegmentEnd liu s
  | .liuJobEnd liu context => Sys2Proof.Machine.execLiuJobEnd liu context s
  | .liuCheckFail liu ecc => Sys2Proof.Machine.execLiuCheckFail liu ecc s
  | .liuScrubEnd liu context ok => Sys2Proof.Machine.execLiuScrubEnd liu context ok s
  | .liuSelfTest liu pass => Sys2Proof.Machine.execLiuSelfTest liu pass s
  | .hashJobEnd hash => Sys2Proof.Machine.execHashJobEnd hash s
  | .hashLaneMismatch hash => Sys2Proof.Machine.execHashLaneMismatch hash s
  | .blockSelfTest block pass => Sys2Proof.Machine.execBlockSelfTest block pass s
  | .regionIsolate region => Sys2Proof.Machine.execRegionIsolate region s
  | .regionSelfTest region pass => Sys2Proof.Machine.execRegionSelfTest region pass s
  | .repetitionCountFail region source samples => Sys2Proof.Machine.execRepetitionCountFail region source samples s
  | .adaptiveWindowEnd region source samples => Sys2Proof.Machine.execAdaptiveWindowEnd region source samples s
  | .sourceStartupTest region source samples => Sys2Proof.Machine.execSourceStartupTest region source samples s
  | .sourceRetest region source samples => Sys2Proof.Machine.execSourceRetest region source samples s
  | .seedConditioned region => Sys2Proof.Machine.execSeedConditioned region s
  | .seedBorrow region => Sys2Proof.Machine.execSeedBorrow region s
  | .entropyWaitExpiry dom id => Sys2Proof.Machine.execEntropyWaitExpiry dom id s
  | .randomReady => Sys2Proof.Machine.execRandomReady s
  | .tickInPulse wait high => Sys2Proof.Machine.execTickInPulse wait high s
  | .tickTimeout => Sys2Proof.Machine.execTickTimeout s
  | .holdoverLimit => Sys2Proof.Machine.execHoldoverLimit s
  | .secondBoundary => Sys2Proof.Machine.execSecondBoundary s
  | .keyValidityEdge time => Sys2Proof.Machine.execKeyValidityEdge time s
  | .governorDecision region => Sys2Proof.Machine.execGovernorDecision region s
  | .regionExitStart region => Sys2Proof.Machine.execRegionExitStart region s
  | .bivvyEnter => Sys2Proof.Machine.execBivvyEnter s
  | .wake region => Sys2Proof.Machine.execWake region s
  | .thermalHold die flow => Sys2Proof.Machine.execThermalHold die flow s
  | .thermalRelease die flow => Sys2Proof.Machine.execThermalRelease die flow s
  | .wardenHeartbeat warden loop wire fabric => Sys2Proof.Machine.execWardenHeartbeat warden loop wire fabric s
  | .heartbeatMiss warden fabric tap => Sys2Proof.Machine.execHeartbeatMiss warden fabric tap s
  | .lockstepFault warden => Sys2Proof.Machine.execLockstepFault warden s
  | .wardenPeriodicSelfTest warden pass => Sys2Proof.Machine.execWardenPeriodicSelfTest warden pass s
  | .switchOver gap => Sys2Proof.Machine.execSwitchOver gap s
  | .journalEntry intact => Sys2Proof.Machine.execJournalEntry intact s
  | .journalCheckpoint => Sys2Proof.Machine.execJournalCheckpoint s
  | .wardenSelfTestEnd warden pass => Sys2Proof.Machine.execWardenSelfTestEnd warden pass s
  | .wardenSynced warden => Sys2Proof.Machine.execWardenSynced warden s
  | .takebackHoldoff => Sys2Proof.Machine.execTakebackHoldoff s
  | .takeback gap => Sys2Proof.Machine.execTakeback gap s
  | .takebackAbandon => Sys2Proof.Machine.execTakebackAbandon s
  | .tamperAlarm source detector => Sys2Proof.Machine.execTamperAlarm source detector s
  | .strikeReset sram mram fw units => Sys2Proof.Machine.execStrikeReset sram mram fw units s
  | .shedEnd => Sys2Proof.Machine.execShedEnd s
  | .emberMaskRefresh => Sys2Proof.Machine.execEmberMaskRefresh s
  | .emberSourceChange external => Sys2Proof.Machine.execEmberSourceChange external s
  | .cellCutoff => Sys2Proof.Machine.execCellCutoff s
  | .trailFlush => Sys2Proof.Machine.execTrailFlush s
  | .checkpointSign seq => Sys2Proof.Machine.execCheckpointSign seq s
  | .logMemoryFail sram address => Sys2Proof.Machine.execLogMemoryFail sram address s
  | .coldReset sram mram fw units => Sys2Proof.Machine.execColdReset sram mram fw units s
  | .bootEnd wardenA wardenB => Sys2Proof.Machine.execBootEnd wardenA wardenB s
  | .warmReset trigger => Sys2Proof.Machine.execWarmReset trigger s
  | .perstNRelease => Sys2Proof.Machine.execPerstNRelease s
  | .deviceReset => Sys2Proof.Machine.execDeviceReset s
  | .lifeCycleReset sram mram fw units => Sys2Proof.Machine.execLifeCycleReset sram mram fw units s
  | .p12vExcursion millivolt duration => Sys2Proof.Machine.execP12vExcursion millivolt duration s
  | .p3v3AuxLoss duration => Sys2Proof.Machine.execP3v3AuxLoss duration s
  | .pcieConfigRequest field value => Sys2Proof.Machine.execPcieConfigRequest field value s
  | .msixUnmask vector => Sys2Proof.Machine.execMsixUnmask vector s
  | .dirtyBitmapCas dom word result => Sys2Proof.Machine.execDirtyBitmapCas dom word result s
  | .getVersion object => Sys2Proof.Machine.execGetVersion object s
  | .getCapabilities object => Sys2Proof.Machine.execGetCapabilities object s
  | .negotiateAlgorithms object => Sys2Proof.Machine.execNegotiateAlgorithms object s
  | .getDigests object => Sys2Proof.Machine.execGetDigests object s
  | .getCertificate object => Sys2Proof.Machine.execGetCertificate object s
  | .challenge object => Sys2Proof.Machine.execChallenge object s
  | .getMeasurements object => Sys2Proof.Machine.execGetMeasurements object s
  | .keyExchange object => Sys2Proof.Machine.execKeyExchange object s
  | .finish object => Sys2Proof.Machine.execFinish object s
  | .spdmHeartbeat object => Sys2Proof.Machine.execSpdmHeartbeat object s
  | .keyUpdate object => Sys2Proof.Machine.execKeyUpdate object s
  | .endSession object => Sys2Proof.Machine.execEndSession object s
  | .doeAbort => Sys2Proof.Machine.execDoeAbort s
  | .ideKm object => Sys2Proof.Machine.execIdeKm object s
  | .ideIntegrityFail stream => Sys2Proof.Machine.execIdeIntegrityFail stream s
  | .linkTrained half => Sys2Proof.Machine.execLinkTrained half s
  | .laneFail => Sys2Proof.Machine.execLaneFail s
  | .frameTimeout fec => Sys2Proof.Machine.execFrameTimeout fec s
  | .hello bytes => Sys2Proof.Machine.execHello bytes s
  | .keySetup bytes => Sys2Proof.Machine.execKeySetup bytes s
  | .keyConfirm bytes => Sys2Proof.Machine.execKeyConfirm bytes s
  | .record bytes => Sys2Proof.Machine.execRecord bytes s
  | .ack bytes => Sys2Proof.Machine.execAck bytes s
  | .heartbeat bytes => Sys2Proof.Machine.execHeartbeat bytes s
  | .heartbeatSend => Sys2Proof.Machine.execHeartbeatSend s
  | .rekey bytes => Sys2Proof.Machine.execRekey bytes s
  | .close bytes => Sys2Proof.Machine.execClose bytes s
  | .twinResend => Sys2Proof.Machine.execTwinResend s
  | .twinTimeout dom => Sys2Proof.Machine.execTwinTimeout dom s
  | .twinLagTime dom => Sys2Proof.Machine.execTwinLagTime dom s
  | .setEndpointId packet => Sys2Proof.Machine.execSetEndpointId packet s
  | .getEndpointId packet => Sys2Proof.Machine.execGetEndpointId packet s
  | .getEndpointUuid packet => Sys2Proof.Machine.execGetEndpointUuid packet s
  | .getMctpVersionSupport packet => Sys2Proof.Machine.execGetMctpVersionSupport packet s
  | .getMessageTypeSupport packet => Sys2Proof.Machine.execGetMessageTypeSupport packet s
  | .getTid packet => Sys2Proof.Machine.execGetTid packet s
  | .getPldmVersion packet => Sys2Proof.Machine.execGetPldmVersion packet s
  | .getPldmTypes packet => Sys2Proof.Machine.execGetPldmTypes packet s
  | .getPldmCommands packet => Sys2Proof.Machine.execGetPldmCommands packet s
  | .getSensorReading packet reading => Sys2Proof.Machine.execGetSensorReading packet reading s
  | .getStateSensorReadings packet => Sys2Proof.Machine.execGetStateSensorReadings packet s
  | .getPdrRepositoryInfo packet => Sys2Proof.Machine.execGetPdrRepositoryInfo packet s
  | .getPdr packet => Sys2Proof.Machine.execGetPdr packet s
  | .smbusArp packet => Sys2Proof.Machine.execSmbusArp packet s
  | .smbClkTimeout => Sys2Proof.Machine.execSmbClkTimeout s
  | .tapInstruction ir data trst => Sys2Proof.Machine.execTapInstruction ir data trst s
  | .debugAccess target write => Sys2Proof.Machine.execDebugAccess target write s
  | .dmaReadDone dom id part bytes => Sys2Proof.Machine.execDmaReadDone dom id part bytes s
  | .powerStateExit region failed => Sys2Proof.Machine.execPowerStateExit region failed s
  | .tamperAlarmEnd source detector => Sys2Proof.Machine.execTamperAlarmEnd source detector s
  | .emberCollapse => Sys2Proof.Machine.execEmberCollapse s
  | .hashSelfTest hash pass => Sys2Proof.Machine.execHashSelfTest hash pass s
  | .portWindowEnd link outbound bytes => Sys2Proof.Machine.execPortWindowEnd link outbound bytes s
  | .refclkRestored => Sys2Proof.Machine.execRefclkRestored s
  | .illegalInsn core word => Sys2Proof.Machine.execIllegalInsn core word s
  | .alertResponseAddress => Sys2Proof.Machine.execAlertResponseAddress s
  | .smbDatTimeout => Sys2Proof.Machine.execSmbDatTimeout s
  | .trstNAssert => Sys2Proof.Machine.execTrstNAssert s
  | .wardenRebuild => Sys2Proof.Machine.execWardenRebuild s

end Sys2Proof.Machine
end

