-- ==== Sys2Proof/Safety.lean ====
section
/-!
DEFINITION. Sys2Proof/Safety.lean: the terms in which claims are made: a command that runs, what its row leaves, an instruction that executes, and the
invariant that every step keeps.
-/

namespace Sys2Proof

/-- The domain and the command of a row that runs an operational opcode in one step. -/
def Instr.operational : Instr → Option (Nat × Nat)
  | .symEcbEncrypt d i | .symEcbDecrypt d i | .symCtrEncrypt d i | .symCtrDecrypt d i | .xtsEncrypt d i | .xtsDecrypt d i
  | .symCbcEncrypt d i | .symCbcDecrypt d i | .macCompute d i | .macCheck d i
  | .pinBlockTranslate d i | .pinCheck d i | .dukptPinTranslate d i | .dukptMacCheck d i | .dukptDecrypt d i | .dukptIkWrap d i
  | .cardArqcCheck d i | .cardArpcCompute d i | .hashCompute d i | .pkSign d i | .pkVerify d i | .kemEncapsulate d i | .kemDecapsulate d i
  | .agreeStatic d i | .agreeEphemeral d i | .hybridEncapsulate d i | .hybridDecapsulate d i | .rsaOaepEncrypt d i | .rsaOaepDecrypt d i
  | .randomGenerate d i | .entropyStatus d i | .keyWrap d i | .keyUnwrap d i
  | .liModExp d i | .liModMul d i | .liModAdd d i | .liModSub d i | .liModInv d i => some (d, i)
  | .gcmEncrypt d r | .gcmDecrypt d r => some (d, r.id)
  | _ => none

/-- The domain and the command of a row that runs a management opcode in one step. -/
def Instr.management : Instr → Option (Nat × Nat)
  | .queueCreate d i | .queueDelete d i | .queueStatus d i | .queueRoute d i | .queueRecover d i | .seqGapSet d i
  | .pitchCreate d i | .pitchLock d i | .pitchUnlock d i | .pitchInfo d i | .dirtyLogStart d i
  | .stageWrite d i | .stageCheck d i | .stageCommit d i | .stageDiscard d i | .stageStatus d i
  | .keyGenerate d i | .keyLoad d i | .keyPublicLoad d i | .keyReplace d i | .keyDestroy d i | .keyAttrRestrict d i | .keyInfo d i
  | .keyPublicRead d i | .keyTransportInfo d i | .keyGrant d i | .keyList d i
  | .officerAdd d i | .officerRemove d i | .quorumSet d i | .rosterSeal d i | .rosterRead d i | .timeSet d i | .timeRead d i
  | .logRotate d i _ _ | .logExport d i | .logCheckpointRead d i | .logRateSet d i | .logStatus d i | .eventRoute d i | .eventStatus d i
  | .eventClear d i | .perfGrant d i | .perfSamples d i | .lcStatus d i | .lcDigestBurn d i | .lcModeSet d i | .debugUnlock d i
  | .debugLock d i | .fwInstall d i | .tamperStatus d i | .tamperClear d i | .twinJoin d i | .twinDetach d i | .twinPromote d i
  | .twinStatus d i | .twinDissolve d i | .cfLoad d i | .cfAccept d i | .cfBind d i | .cfUnbind d i | .cfDelete d i | .cfInfo d i => some (d, i)
  | _ => none

end Sys2Proof

namespace Sys2Proof.Machine

/-! ### Commands -/

/-- Command `id` of domain `d` is `c`; it runs, for the first time, and its opcode is `code`. -/
def State.Started (s : State) (d id code : Nat) (c : Cmd) : Prop :=
  s.cmd d id = some c ∧ c.phase = .running ∧ c.entry.opcode = code ∧ c.redo = false

/-- The approvals of a management command of this unit stand (R163, R166), and its entry names nothing that its form leaves out (R13). -/
def State.Approved (s : State) (d : Nat) (c : Cmd) (as : List Approval) : Prop :=
  c.twinDigest = none ∧ s.checkApprovals d c = .ok as ∧ entryZero c.raw = none

/-- `x` is the command `c` with a result (R55, R59): a failure's STATUS and DETAIL and no effect; E_OUTPUT_SPACE, with the length needed, where the output
is longer than its descriptor; else STATUS OK, the output, and the effects that the commit point applies. A failure that comes after engine work is one like
any other. -/
def Cmd.Got (c : Cmd) (w : Work) (x : Cmd) : Prop :=
  x.id = c.id ∧ x.phase = .computed ∧
    match w with
    | .error f => x.status = f.1 ∧ x.detail = f.2 ∧ x.output = [] ∧ x.effects = []
    | .ok r =>
      match r.late with
      | some f => x.status = f.1 ∧ x.detail = f.2 ∧ x.output = [] ∧ x.effects = []
      | none =>
        if c.tooLong r.out.length then
          x.status = eOutputSpace ∧ x.detail = 0 ∧ x.output = [] ∧ x.resultLen = r.out.length ∧ x.effects = []
        else x.status = sOk ∧ x.detail = r.detail ∧ x.output = r.out ∧ x.resultLen = r.out.length ∧ x.effects = r.effects

/-- A row answers a next state in which its command has a result. -/
def RowEnds (i : Instr) (s : State) (d id : Nat) (c : Cmd) (w : Work) : Prop :=
  ∃ t x, exec i s = .next t ∧ t.cmd d id = some x ∧ c.Got w x

/-- The block and the input of a command of group 0x1A (R227 Table 8-12): no handle; n, the operands below it, and the exponent where there is one. -/
def Cmd.LiInput (c : Cmd) (n : Nat) (ops : List Nat) (e : Option Nat) : Prop :=
  let len := field c.param 0 2
  let el := field c.param 2 2
  c.entry.access % 16 = 0 ∧ 1 ≤ len ∧ len ≤ 1024 ∧ c.input.length = len * (ops.length + 1) + el ∧
    n = beNat (slice c.input 0 len) ∧ (∀ i, i < ops.length → ops.getD i 0 = beNat (slice c.input (len * (i + 1)) len)) ∧
    (match e with
      | some e => 1 ≤ el ∧ el ≤ 1024 ∧ e = beNat (slice c.input (len * (ops.length + 1)) el)
      | none => el = 0) ∧
    n % 2 = 1 ∧ 3 ≤ n ∧ c.input.headD 0 ≠ 0 ∧ ∀ x ∈ ops, x < n

/-- The registers of a domain answer the host: the BARs are open, and a pitch is not ABSENT (R12, R34, R445). -/
def State.PageOpen (s : State) (d : Nat) : Prop := s.barOpen = true ∧ (d < 256 → (s.dom d).mode ≠ .absent)

/-- Its doorbells are taken too: the boot is over, and a pitch is not RESETTING (R107, R445). -/
def State.BellsOpen (s : State) (d : Nat) : Prop := s.PageOpen d ∧ s.boot.state ≠ .booting ∧ (d < 256 → (s.dom d).mode ≠ .resetting)

/-- A write that is ignored and counted (R30, R34). -/
def State.Ignored (s t : State) : Prop := t.trail.ignored = s.trail.ignored + 1 ∧ t.doms = s.doms ∧ t.perf = s.perf

/-! ### Instructions of a block core -/

/-- A core executes the instruction that stands at its pc, whose word is `w`: it runs, no TIMER interrupt is taken first, and no prefix stands before it. -/
def State.Executes (s : State) (k w : Nat) : Prop :=
  s.coreWaits k = false ∧ (s.core k).span = none ∧ s.fetchInsn k (s.core k).pc.toNat w = .ok true

/-- The state once an instruction has written a register, advanced the pc and retired. -/
def State.wrote (s : State) (k : Nat) (rd : BitVec 5) (x : KWord) : State :=
  (s.setCore k fun _ => ((s.core k).set rd x).advance).retire k (s.core k).function

/-- The state once an instruction has changed its core alone and retired. -/
def State.became (s : State) (k : Nat) (K : Core) : State := (s.setCore k fun _ => K).retire k (s.core k).function

/-- An instruction of two registers computes `f` of the address of the instruction and its operands, wherever their tags are ones that its rule lists. -/
def AluRow (i : Nat → BitVec 5 → BitVec 5 → BitVec 5 → Instr) (op : Nat) (rule : List (List Tag)) (f : BitVec 64 → KWord → KWord → KWord) : Prop :=
  ∀ (s : State) (k : Nat) (rd a b : BitVec 5), s.Executes k (wordRR op rd a b) →
    [((s.core k).reg a).tag, ((s.core k).reg b).tag] ∈ rule →
    exec (i k rd a b) s = .next (s.wrote k rd (f (s.core k).pc ((s.core k).reg a) ((s.core k).reg b)))

/-- An instruction of one register. -/
def UnaryRow (i : Nat → BitVec 5 → BitVec 5 → Instr) (op : Nat) (rule : List (List Tag)) (f : BitVec 64 → KWord → KWord) : Prop :=
  ∀ (s : State) (k : Nat) (rd a : BitVec 5), s.Executes k (wordRR op rd a 0) → [((s.core k).reg a).tag] ∈ rule →
    exec (i k rd a) s = .next (s.wrote k rd (f (s.core k).pc ((s.core k).reg a)))

/-- An instruction of one register and an immediate of 14 bits. -/
def ImmRow (i : Nat → BitVec 5 → BitVec 5 → BitVec 14 → Instr) (op : Nat) (rule : List (List Tag)) (f : BitVec 64 → KWord → BitVec 14 → KWord) : Prop :=
  ∀ (s : State) (k : Nat) (rd a : BitVec 5) (imm : BitVec 14), s.Executes k (wordI op rd a imm) → [((s.core k).reg a).tag] ∈ rule →
    exec (i k rd a imm) s = .next (s.wrote k rd (f (s.core k).pc ((s.core k).reg a) imm))

/-- Bit `i` of the carry-less product of two words (R289): the exclusive or of `x[j]` and `y[i - j]` over all `j`. -/
def clBit (x y : BitVec 64) (i : Nat) : Bool :=
  (List.range (i + 1)).foldl (fun t j => t != (x.getLsbD j && y.getLsbD (i - j))) false

/-- 64 bits of the carry-less product, from bit `o`. -/
def clWord (x y : BitVec 64) (o : Nat) : BitVec 64 :=
  (List.range 64).foldl (fun t i => if clBit x y (o + i) then t ||| (1 <<< i) else t) 0

/-- The result of a shift of `x` by the count `y` (R288). -/
def shifted (x y : KWord) (f : BitVec 64 → Nat → BitVec 64) (pc : BitVec 64) : KWord :=
  if y.tag = .int ∧ y.val.toInt < 0 then kErr errRange pc
  else { tag := x.tag, val := f x.val (if x.tag = .bits then y.val.toNat % 128 else y.val.toNat) }

/-- A core has taken a trap or an interrupt of a cause at an address (R300): TPC, TCAUSE and TVAL say which; MODE and IE are saved; it is in FIRMWARE
mode with IE 0 and INTRAP 1, at TVEC. -/
def Core.Entered (K L : Core) (cause tval : BitVec 64) : Prop :=
  L.tpc = K.pc ∧ L.tcause = cause ∧ L.tval = tval ∧ L.pc = K.tvec ∧ L.function = false ∧ L.enabled = false ∧ L.inTrap = true ∧
    L.tstatus.getLsbD 4 = K.function ∧ L.tstatus.getLsbD 1 = K.enabled ∧ L.regs = K.regs ∧ L.tvec = K.tvec

/-! ### The invariant -/

/-- The arbiter's code is one of its four, a warden's grant or one that moves, and the vote code is that of the life-cycle state (R387 Table 15-7). -/
def State.Inv (s : State) : Prop :=
  s.guy.code ∈ [grantA, grantB, movingToA, movingToB] ∧ s.life.vote = s.life.state.voteCode

/-- No set fuse of an OTP copy is cleared (R401). -/
def State.FusesStay (s t : State) : Prop :=
  t.life.copy0 &&& s.life.copy0 = s.life.copy0 ∧ t.life.copy1 &&& s.life.copy1 = s.life.copy1 ∧ t.life.copy2 &&& s.life.copy2 = s.life.copy2

end Sys2Proof.Machine
end

