-- ==== Sys2Proof/Certificates/Slice0/Obligations.lean ====
section
/-!
DEFINITION. Sys2Proof/Certificates/Slice0/Obligations.lean: the statements for the provers.
-/

open Sys2Proof Sys2Proof.Machine

/-! ### The step (R22; log entries 1 and 10) -/

/-- A step takes the command at the front of the queue and runs it on the state with the queue's rest. With no command waiting, a step is one nanosecond of
the device clock and nothing else (the model's choice, log entry 1). -/
def Obligations.StepsTakeTheFront : Prop :=
  (∀ (s : State) (c : Instr) (rest : List Instr), step { s with pending := c :: rest } = exec c { s with pending := rest }) ∧
  (∀ s : State, s.pending = [] →
     ∃ t, step s = .next t ∧ t.clock.mono = s.clock.mono + 1 ∧ t = { s with clock := t.clock })

/-- Every command answers a next state in every state: none faults, and none is refused. -/
def Obligations.EveryCommandAnswers : Prop :=
  ∀ (c : Instr) (s : State), ∃ t, exec c s = .next t

/-- No command changes the queue of commands that wait. -/
def Obligations.CommandsKeepQueue : Prop :=
  ∀ (c : Instr) (s t : State), exec c s = .next t → t.pending = s.pending

/-- The state after reset meets the invariant of R387. It is the BOOTING state of a module that has just been powered (R446): no pitch, queue, command or key,
MSI-X masked (R456), the clock UNSYNCHRONISED (R327), the responses at their defaults (Table 15-3), the counters at zero (R436), W0 INT 0 and W1 to W31 EMPTY
(R277), FIRMWARE mode, TVEC and TPC 0 and TIMECMP all ones on every core, no debug level and the twin link DOWN. Its life-cycle state is PROVISIONED (R5; log
entry 18). -/
def Obligations.ResetMeetsInvariant : Prop :=
  let s := State.reset
  s.Inv ∧ s.pending = [] ∧ s.boot.state = .booting ∧ s.boot.held = false ∧ s.clock.state = .unsynchronised ∧ s.clock.set = false ∧ s.sets = [] ∧
    s.perf = Perf.cleared ∧ s.trail.entries = [] ∧ s.tamper.responses = tamperDefaults ∧ s.tamper.flags = 0 ∧ s.tamper.inForce = .none ∧
    (∀ d, (s.dom d).mode = .absent ∧ (s.dom d).queues = [] ∧ (s.dom d).cmds = [] ∧ (s.dom d).keys = [] ∧ (s.dom d).seqNext = 0) ∧
    (∀ v, (s.host.vector v).masked = true) ∧ (∀ k r, (s.core k).reg 0 = kInt 0 ∧ (r ≠ 0 → ((s.core k).reg r).tag = .empty) ∧ (s.core k).function = false ∧
      (s.core k).tvec = 0 ∧ (s.core k).tpc = 0 ∧ (s.core k).timecmp = 0xFFFFFFFFFFFFFFFF) ∧ s.life.debugLevel = 0 ∧ s.life.state = .provisioned ∧ s.link.mode = .down

/-- Every step keeps the invariant: the arbiter's register holds one of its four codes, and the vote register holds the code of the life-cycle state. -/
def Obligations.StepsKeepInvariant : Prop :=
  ∀ s t : State, s.Inv → step s = .next t → t.Inv

/-- No step clears a set fuse of an OTP copy (R401): the fuses a state has blown stay blown in every later one. -/
def Obligations.FusesStayBlown : Prop :=
  ∀ s t : State, step s = .next t → s.FusesStay t

/-- The life-cycle state that is in force changes only where a boot reads the fuses (R404): at COLD_RESET, LIFE_CYCLE_RESET, STRIKE_RESET, and at BOOT_END of
the boot that State.reset stands for. -/
def Obligations.LifeCycleMovesAtBoots : Prop :=
  ∀ (c : Instr) (s t : State), exec c s = .next t → t.life.state ≠ s.life.state →
    (∃ a b f u, c = .coldReset a b f u) ∨ (∃ a b f u, c = .lifeCycleReset a b f u) ∨ (∃ a b f u, c = .strikeReset a b f u) ∨
      (s.boot.step < 7 ∧ ∃ a b, c = .bootEnd a b)

/-- Every two codes of one of the machines of Table 15-7 are at a Hamming distance of at least 6 (R387). -/
def Obligations.CodesKeepDistance : Prop :=
  let distance := fun (a b : BitVec 16) => ((List.range 16).filter fun i => a.getLsbD i != b.getLsbD i).length
  let apart := fun (l : List (BitVec 16)) => ∀ a ∈ l, ∀ b ∈ l, a ≠ b → 6 ≤ distance a b
  apart [tamperNormal, tamperShed, tamperLock, tamperStriking, tamperHalted] ∧ apart [strikeArmed, strikeStage1, strikeStage2, strikeStage3, strikeDone] ∧
    apart [grantA, grantB, movingToA, movingToB] ∧
    apart [LifeCycle.blank.voteCode, LifeCycle.vendorTest.voteCode, LifeCycle.provisioned.voteCode, LifeCycle.development.voteCode, LifeCycle.field.voteCode,
      LifeCycle.returned.voteCode, LifeCycle.scrapped.voteCode]

/-! ### Frames of the opcode rows -/

/-- A row that runs an operational opcode changes no domain but by its own command. It ends the engine jobs that Efori holds on the command's block (R194),
with what that moves: the engines and caches of the regions, the counters, the count of free values taken, and, where a scrub's blinding draws a borrowed
seed, the host's messages (held in a warden gap), the trail and the events. Of a core it changes only the jobs and the pending PERF. Where Efori holds no job
for it, it changes nothing but its command, the count of free values, and the job-scoped entries that it keeps in a region's cache (R251). -/
def Obligations.OperationalRowsFrame : Prop :=
  ∀ (i : Instr) (d id : Nat) (s t : State), i.operational = some (d, id) → exec i s = .next t →
    (∀ e, e ≠ d → t.dom e = s.dom e) ∧ { t.dom d with cmds := (s.dom d).cmds } = s.dom d ∧ (∀ x, x ≠ id → t.cmd d x = s.cmd d x) ∧
      { t with doms := s.doms, free := s.free, regions := s.regions, cores := s.cores, cells := s.cells, lius := s.lius, hashes := s.hashes
               perf := s.perf, host := s.host, guy := s.guy, trail := s.trail, events := s.events } = s ∧
      { t.guy with held := s.guy.held } = s.guy ∧
      (∀ k, { t.core k with jobs := (s.core k).jobs, ipend := (s.core k).ipend, perfNumber := (s.core k).perfNumber, perfSkid := (s.core k).perfSkid } =
        s.core k) ∧
      (∀ c, s.cmd d id = some c → (∀ j ∈ (s.core c.core).jobs, j.serves d id = false) →
        { t with doms := s.doms, free := s.free, regions := s.regions } = s ∧ ∀ r, { t.region r with cache := (s.region r).cache } = s.region r)

/-- A row that runs a management opcode changes nothing but its own command, the approval floor of its domain, the wardens' journal of that write with the
digest of the standby that applies it (R164, R357), and the count of free values taken. A row of KEY_GENERATE or KEY_REPLACE for which Efori holds a KEYGEN
job (R205) ends that job too, with what it moves in the engines, the counters and the blinding DRBG, as an operational row does. -/
def Obligations.ManagementRowsFrame : Prop :=
  ∀ (i : Instr) (d id : Nat) (s t : State), i.management = some (d, id) → exec i s = .next t →
    (∀ e, e ≠ d → t.dom e = s.dom e) ∧
      { t.dom d with cmds := (s.dom d).cmds, roster := { (t.dom d).roster with floors := (s.dom d).roster.floors } } = s.dom d ∧
      (∀ x, x ≠ id → t.cmd d x = s.cmd d x) ∧
      { t.guy with journal := s.guy.journal, written := s.guy.written, headDigest := s.guy.headDigest, held := s.guy.held } = s.guy ∧
      (∀ w, { t.warden w with digest := (s.warden w).digest, applied := (s.warden w).applied } = s.warden w) ∧
      { t with doms := s.doms, free := s.free, guy := s.guy, wardens := s.wardens, regions := s.regions, cores := s.cores, cells := s.cells, lius := s.lius
               hashes := s.hashes, perf := s.perf, host := s.host, trail := s.trail, events := s.events } = s ∧
      ((i ≠ .keyGenerate d id ∧ i ≠ .keyReplace d id) ∨ (∀ c, s.cmd d id = some c → ∀ j ∈ (s.core c.core).jobs, j.serves d id = false) →
        { t with doms := s.doms, free := s.free, guy := s.guy, wardens := s.wardens } = s ∧ t.guy.held = s.guy.held)

/-! ### Operational opcodes (groups 0x10 to 0x1A) -/

/-- SYM, XTS and GCM (R182, R193, R194, R197, R198): a row of group 0x10 (SYM_ECB_ENCRYPT, SYM_ECB_DECRYPT, SYM_CTR_ENCRYPT, SYM_CTR_DECRYPT, XTS_ENCRYPT,
XTS_DECRYPT, SYM_CBC_ENCRYPT, SYM_CBC_DECRYPT, GCM_ENCRYPT, GCM_DECRYPT) ends its command with the mode over its input, or with the first failing check; a GCM
command whose two computations of the tag differ has no output, and is executed again. Each of SYM_ECB_ENCRYPT, SYM_ECB_DECRYPT, SYM_CTR_ENCRYPT,
SYM_CTR_DECRYPT, XTS_ENCRYPT, XTS_DECRYPT, SYM_CBC_ENCRYPT, SYM_CBC_DECRYPT, GCM_ENCRYPT and GCM_DECRYPT ends in a next state under conditions on the state
and the operands alone. -/
def Obligations.CipherRowsEnd : Prop :=
  ∀ (s : State) (d id : Nat) (c : Cmd),
    (s.Started d id 0x1001 c → RowEnds (.symEcbEncrypt d id) s d id c (symBlocks s d c 1 false fun b _ m => ecbEnc b m)) ∧
    (s.Started d id 0x1002 c → RowEnds (.symEcbDecrypt d id) s d id c (symBlocks s d c 2 false fun b _ m => ecbDec b m)) ∧
    (s.Started d id 0x1003 c → RowEnds (.symCtrEncrypt d id) s d id c
      (if byteAt c.param 17 = 1 then symReserved s d c else symCounter s d c 1)) ∧
    (s.Started d id 0x1004 c → RowEnds (.symCtrDecrypt d id) s d id c (symCounter s d c 2)) ∧
    (s.Started d id 0x1005 c → RowEnds (.xtsEncrypt d id) s d id c (symXts s d c 1 false)) ∧
    (s.Started d id 0x1006 c → RowEnds (.xtsDecrypt d id) s d id c (symXts s d c 2 true)) ∧
    (s.Started d id 0x1007 c → RowEnds (.symCbcEncrypt d id) s d id c (symBlocks s d c 1 true fun b iv m => cbcEnc b iv m)) ∧
    (s.Started d id 0x1008 c → RowEnds (.symCbcDecrypt d id) s d id c (symBlocks s d c 2 true fun b iv m => cbcDec b iv m)) ∧
    (s.Started d id 0x1009 c → symTagsAgree s d c 0x1009 = true → RowEnds (.gcmEncrypt d ⟨id, true⟩) s d id c (symGcmSeal s d c)) ∧
    (s.Started d id 0x100A c → symTagsAgree s d c 0x100A = true → RowEnds (.gcmDecrypt d ⟨id, true⟩) s d id c (symGcmOpen s d c)) ∧
    (∀ code i, (code = 0x1009 ∧ i = Instr.gcmEncrypt d ⟨id, false⟩) ∨ (code = 0x100A ∧ i = Instr.gcmDecrypt d ⟨id, false⟩) → s.Started d id code c →
      ∃ t x, exec i s = .next t ∧ t.cmd d id = some x ∧ x.phase = .ready ∧ x.output = [] ∧ x.effects = [])

/-- MAC, PIN, DUKPT and CARD (R254, R259, R260, R264, R266, R267): a row of groups 0x11 to 0x14 (MAC_COMPUTE, MAC_CHECK, PIN_BLOCK_TRANSLATE, PIN_CHECK,
DUKPT_PIN_TRANSLATE, DUKPT_MAC_CHECK, DUKPT_DECRYPT, DUKPT_IK_WRAP, CARD_ARQC_CHECK, CARD_ARPC_COMPUTE) ends its command with its result or its first failing
check. Each of MAC_COMPUTE, MAC_CHECK, PIN_BLOCK_TRANSLATE, PIN_CHECK, DUKPT_PIN_TRANSLATE, DUKPT_MAC_CHECK, DUKPT_DECRYPT, DUKPT_IK_WRAP, CARD_ARQC_CHECK and
CARD_ARPC_COMPUTE ends in a next state under conditions on the state and the operands alone. -/
def Obligations.PaymentRowsEnd : Prop :=
  ∀ (s : State) (d id : Nat) (c : Cmd),
    (s.Started d id 0x1101 c → RowEnds (.macCompute d id) s d id c (macWork s d c 6 false)) ∧
    (s.Started d id 0x1102 c → RowEnds (.macCheck d id) s d id c (macWork s d c 7 true)) ∧
    (s.Started d id 0x1201 c → RowEnds (.pinBlockTranslate d id) s d id c (pinBlockWork s d c)) ∧
    (s.Started d id 0x1202 c → RowEnds (.pinCheck d id) s d id c (pinCheckWork s d c)) ∧
    (s.Started d id 0x1301 c → RowEnds (.dukptPinTranslate d id) s d id c (dukptPinWork s d c)) ∧
    (s.Started d id 0x1302 c → RowEnds (.dukptMacCheck d id) s d id c (dukptMacWork s d c)) ∧
    (s.Started d id 0x1303 c → RowEnds (.dukptDecrypt d id) s d id c (dukptDataWork s d c)) ∧
    (s.Started d id 0x1304 c → RowEnds (.dukptIkWrap d id) s d id c (dukptIkWork s d c)) ∧
    (s.Started d id 0x1401 c → RowEnds (.cardArqcCheck d id) s d id c (cardWork s d c 7 true)) ∧
    (s.Started d id 0x1402 c → RowEnds (.cardArpcCompute d id) s d id c (cardWork s d c 6 false))

/-- PK, KEM, AGREE, RSA and WRAP (R213, R220, R223, R224, R271, R272): a row of groups 0x16, 0x17 and 0x19 (PK_SIGN, PK_VERIFY, KEM_ENCAPSULATE,
KEM_DECAPSULATE, AGREE_STATIC, AGREE_EPHEMERAL, HYBRID_ENCAPSULATE, HYBRID_DECAPSULATE, RSA_OAEP_ENCRYPT, RSA_OAEP_DECRYPT, KEY_WRAP, KEY_UNWRAP) ends its
command with its result or its first failing check, once the blinding DRBG of its region serves a row that computes with a private key (R240), and leaves the
module as it is until then. The STATUS of an OAEP decoding that fails is a free value, which the row takes (log entry 2). Each of PK_SIGN, KEM_DECAPSULATE,
AGREE_STATIC, AGREE_EPHEMERAL, HYBRID_ENCAPSULATE, HYBRID_DECAPSULATE, RSA_OAEP_DECRYPT, PK_VERIFY, KEM_ENCAPSULATE, RSA_OAEP_ENCRYPT, KEY_WRAP and KEY_UNWRAP
ends in a next state under conditions on the state and the operands alone. -/
def Obligations.PublicKeyRowsEnd : Prop :=
  ∀ (s : State) (d id : Nat) (c : Cmd),
    (s.blindWaits c = false →
      (s.Started d id 0x1601 c → RowEnds (.pkSign d id) s d id c (pkSignWork s d c)) ∧
      (s.Started d id 0x1702 c → RowEnds (.kemDecapsulate d id) s d id c (decapsulateWork s d c)) ∧
      (s.Started d id 0x1703 c → RowEnds (.agreeStatic d id) s d id c (agreeStaticWork s d c)) ∧
      (s.Started d id 0x1704 c → RowEnds (.agreeEphemeral d id) s d id c (agreeEphemeralWork s d c)) ∧
      (s.Started d id 0x1705 c → RowEnds (.hybridEncapsulate d id) s d id c (encapsulateWork s d c true)) ∧
      (s.Started d id 0x1706 c → RowEnds (.hybridDecapsulate d id) s d id c (hybridDecapsulateWork s d c)) ∧
      (s.Started d id 0x1708 c → RowEnds (.rsaOaepDecrypt d id) s d id c (oaepDecryptWork { s with free := s.free + 1 } d c))) ∧
    (s.blindWaits c = true → s.Started d id 0x1601 c → exec (.pkSign d id) s = .next s) ∧
    (s.Started d id 0x1602 c → RowEnds (.pkVerify d id) s d id c (pkVerifyWork s d c)) ∧
    (s.Started d id 0x1701 c → RowEnds (.kemEncapsulate d id) s d id c (encapsulateWork s d c false)) ∧
    (s.Started d id 0x1707 c → RowEnds (.rsaOaepEncrypt d id) s d id c (oaepEncryptWork s d c)) ∧
    (s.Started d id 0x1901 c → RowEnds (.keyWrap d id) s d id c (keyWrapWork s d c)) ∧
    (s.Started d id 0x1902 c → RowEnds (.keyUnwrap d id) s d id c (keyUnwrapWork s d c))

/-- LI (R227, R212): with the block and the input of its form, a row of group 0x1A gives the modular result as OPERAND_LEN bytes, big-endian; the result of a
0 exponent is 1. LI_MOD_INV gives the inverse where the operand has one, else E_NOT_INVERTIBLE. Each of LI_MOD_EXP, LI_MOD_MUL, LI_MOD_ADD, LI_MOD_SUB and
LI_MOD_INV ends in a next state under conditions on the state and the operands alone. -/
def Obligations.ModularRowsCompute : Prop :=
  (∀ (s : State) (d id : Nat) (c : Cmd) (n a b e : Nat), c.tooLong (field c.param 0 2) = false →
     (s.Started d id 0x1A01 c → c.LiInput n [a] (some e) → RowEnds (.liModExp d id) s d id c (.ok { out := beBytes (field c.param 0 2) (a ^ e % n) })) ∧
     (s.Started d id 0x1A02 c → c.LiInput n [a, b] none → RowEnds (.liModMul d id) s d id c (.ok { out := beBytes (field c.param 0 2) (a * b % n) })) ∧
     (s.Started d id 0x1A03 c → c.LiInput n [a, b] none → RowEnds (.liModAdd d id) s d id c (.ok { out := beBytes (field c.param 0 2) ((a + b) % n) })) ∧
     (s.Started d id 0x1A04 c → c.LiInput n [a, b] none → RowEnds (.liModSub d id) s d id c (.ok { out := beBytes (field c.param 0 2) ((a + n - b) % n) }))) ∧
  (∀ (s : State) (d id : Nat) (c : Cmd) (n a : Nat), s.Started d id 0x1A05 c → c.LiInput n [a] none → c.tooLong (field c.param 0 2) = false →
     if Nat.gcd a n = 1 then
       ∃ v, v < n ∧ a * v % n = 1 ∧ RowEnds (.liModInv d id) s d id c (.ok { out := beBytes (field c.param 0 2) v })
     else RowEnds (.liModInv d id) s d id c (.error (eNotInvertible, 0)))

/-- HASH_COMPUTE (R269): the named hash over the input; SHAKE gives the length asked for. RANDOM_GENERATE and ENTROPY_STATUS (R245, Table 9-9): the bytes are
those that the domain's generator gave the command at its assignment. Where the work of a row is `.ok`, its command ends computed with STATUS OK and the
output, unless the output descriptor is too short; where it is `.error`, with that STATUS and DETAIL. Each of HASH_COMPUTE, RANDOM_GENERATE and ENTROPY_STATUS
ends in a next state under conditions on the state and the operands alone. -/
def Obligations.HashAndRandomRowsEnd : Prop :=
  (∀ (s : State) (d id : Nat) (c : Cmd), s.Started d id 0x1501 c → noCount c eHashParam = none →
     let h := byteAt c.param 0
     let n := field c.param 4 4
     1 ≤ h → h ≤ 8 → (if h ≥ 7 then 1 ≤ n ∧ n ≤ 4194304 else n = 0) →
     RowEnds (.hashCompute d id) s d id c (.ok { out := if h = 7 then shake128 c.input n else if h = 8 then shake256 c.input n else hashOf h c.input })) ∧
  (∀ (s : State) (d id : Nat) (c : Cmd),
     (s.Started d id 0x1801 c → 1 ≤ field c.param 0 4 → field c.param 0 4 ≤ 4194304 → field c.param 8 2 ≤ 256 → field c.param 8 2 = c.input.length →
       RowEnds (.randomGenerate d id) s d id c (.ok { out := c.drawn.getD [] })) ∧
     (s.Started d id 0x1803 c → c.tooLong 96 = false →
       ∃ t x, exec (.entropyStatus d id) s = .next t ∧ t.cmd d id = some x ∧ x.status = sOk ∧ x.output.length = 96 ∧
         ∀ r, r < 8 → ∀ i, i < 3 → byteAt x.output (8 * r + i) = (s.source r i).state.code))

/-- RAW_ENTROPY (R246): once its checks pass, and no other capture of the source stands, the source is taken for the capture; its samples, as many as the
command asks for, complete it and let the source go. SELF_TEST (R245): where no region's expander fails twice, the command ends with one byte for each region
that its mask names, 0 standing for all: what the tests found, or 0x80 where none ran. A second expander failure takes the LOCK response (R244), which aborts
the command too. Each of RAW_ENTROPY, RAW_CAPTURE_END and SELF_TEST ends in a next state under conditions on the state and the operands alone. -/
def Obligations.CapturesAndSelfTestsEnd : Prop :=
  (∀ (s : State) (d id : Nat) (c : Cmd), s.Started d id 0x1802 c → c.stage ≤ 1 →
     let r := byteAt c.param 0
     let i := byteAt c.param 1
     (c.stage = 0 → rawFail s d c = none → (s.source r i).capture = none →
       ∃ t, exec (.rawEntropy d id) s = .next t ∧ (t.source r i).capture = some (d, id)) ∧
     (∀ (st : Nat) (samples : List Bool), (s.source r i).capture = some (d, id) → (s.source r i).startState = some st →
       samples.length = 8 * field c.param 4 4 →
       ∃ t x, exec (.rawCaptureEnd r i samples) s = .next t ∧ t.cmd d id = some x ∧ x.phase = .computed ∧ (t.source r i).capture = none)) ∧
  (∀ (s : State) (d id : Nat) (c : Cmd) (results : List Nat), s.Started d id 0x1F01 c → byteAt c.param 0 % 4 ≠ 0 →
     (∀ r, bit (selfTestByte (byteAt c.param 0 % 4) (results.getD r 0)) 1 = false) →
     let mask := if byteAt c.param 1 = 0 then 255 else byteAt c.param 1
     RowEnds (.selfTest d id results) s d id c (.ok { out := (List.range 8).map (fun r => BitVec.ofNat 8
       (if bit mask r && (s.region r).service = .service then selfTestByte (byteAt c.param 0 % 4) (results.getD r 0) else 128)) ++ zeros 8 }))

/-! ### Management opcodes -/

/-- QUEUE commands (R61 to R63, R163). A command whose approvals fail ends with that failure; behind them come the fields of its entry that have to be zero
(R13, log entry 58), and its own checks. Where the work of a row is `.ok`, its command ends computed with STATUS OK and the output, unless the output
descriptor is too short; where it is `.error`, with that STATUS and DETAIL. Each of QUEUE_CREATE, QUEUE_DELETE, QUEUE_STATUS, QUEUE_ROUTE, QUEUE_RECOVER and
SEQ_GAP_SET ends in a next state under conditions on the state and the operands alone. -/
def Obligations.QueueRowsEnd : Prop :=
  (∀ (s : State) (d id : Nat) (c : Cmd) (as : List Approval), s.Approved d c as →
    let q := byteAt c.param 0
    (s.Started d id 0x0101 c → RowEnds (.queueCreate d id) s d id c (queueCreateWork s d c)) ∧
    (s.Started d id 0x0102 c → 1 ≤ q → q ≤ 15 → ((s.dom d).queue q).state ≠ .absent → q ≠ c.queue →
      RowEnds (.queueDelete d id) s d id c (.ok { effects := [.queueDelete q] })) ∧
    (s.Started d id 0x0103 c → RowEnds (.queueStatus d id) s d id c (queueStatusWork s d c)) ∧
    (s.Started d id 0x0104 c → q ≤ 15 → byteAt c.param 1 = 0 → byteAt c.param 2 = 0 → field c.param 8 2 ≤ 1000 →
      s.vectorOk d (field c.param 4 2) = true → ((s.dom d).queue q).state ≠ .absent →
      RowEnds (.queueRoute d id) s d id c (.ok { effects := [.queueRoute q (field c.param 4 2) (byteAt c.param 6) (field c.param 8 2)] })) ∧
    (s.Started d id 0x0105 c → 1 ≤ q → q ≤ 15 → ((s.dom d).queue q).state = .error →
      RowEnds (.queueRecover d id) s d id c (.ok { effects := [.queueRecover q] })) ∧
    (s.Started d id 0x0106 c → 1000 ≤ field c.param 0 8 → field c.param 0 8 ≤ 1000000000 →
      RowEnds (.seqGapSet d id) s d id c (.ok { effects := [.gapTimeout (field c.param 0 8)] }))) ∧
  (∀ (s : State) (d id : Nat) (c : Cmd) (row : Instr × Nat) (e : Fail), c.twinDigest = none →
     row ∈ [(Instr.queueCreate d id, 0x0101), (Instr.queueDelete d id, 0x0102), (Instr.queueStatus d id, 0x0103), (Instr.queueRoute d id, 0x0104),
       (Instr.queueRecover d id, 0x0105), (Instr.seqGapSet d id, 0x0106)] → s.Started d id row.2 c →
     (s.checkApprovals d c = .error e → RowEnds row.1 s d id c (.error e)) ∧
     (∀ as, s.checkApprovals d c = .ok as → entryZero c.raw = some e → RowEnds row.1 s d id c (.error e)))

/-- PITCH and DIRTY_LOG commands (R94 to R96, R107 to R116). PITCH_DESTROY, PITCH_RESET, DIRTY_LOG_FLUSH and DIRTY_LOG_STOP take two rows: the first begins
the command, and, once the pitch holds no command, or every bit of the flush is written, the next one ends it; the bits of a flush are noted once every write
handed off before it has been made. Where the work of a row is `.ok`, its command ends computed with STATUS OK and the output, unless the output descriptor is
too short; where it is `.error`, with that STATUS and DETAIL. Each of PITCH_CREATE, PITCH_LOCK, PITCH_UNLOCK, PITCH_INFO, DIRTY_LOG_START, PITCH_DESTROY,
PITCH_RESET, DIRTY_LOG_FLUSH and DIRTY_LOG_STOP ends in a next state under conditions on the state and the operands alone. -/
def Obligations.PitchRowsEnd : Prop :=
  (∀ (s : State) (d id : Nat) (c : Cmd) (as : List Approval), s.Approved d c as →
     let p := byteAt c.param 0
     let bitmap := field c.param 8 8
     let base := field c.param 16 8
     let pages := field c.param 24 4
     (s.Started d id 0x0201 c → (s.dom p).mode = .absent → s.createFail p (pitchConfAt c.param 16) = none →
       RowEnds (.pitchCreate d id) s d id c (.ok { effects := [.pitchCreate p (pitchConfAt c.param 16)] })) ∧
     (s.Started d id 0x0204 c → (s.dom p).mode = .active ∨ (s.dom p).mode = .locked →
       RowEnds (.pitchLock d id) s d id c (.ok { effects := [.pitchLock p] })) ∧
     (s.Started d id 0x0205 c → (s.dom p).mode = .locked → RowEnds (.pitchUnlock d id) s d id c (.ok { effects := [.pitchUnlock p] })) ∧
     (s.Started d id 0x0206 c → d = operator ∨ p = d → (s.dom p).mode = .absent →
       RowEnds (.pitchInfo d id) s d id c (.ok { out := zeros 192 })) ∧
     (s.Started d id 0x0206 c → d = operator ∨ p = d → (s.dom p).mode ≠ .absent →
       RowEnds (.pitchInfo d id) s d id c (.ok { out := ((s.confSeen p c.placedAt).bytes ++ leBytes 4 (s.dom p).mramKib ++ leBytes 1 (s.dom p).presentQueues ++
         leBytes 1 (s.dom p).mode.code ++ leBytes 1 (s.dom p).dirty.mode.code ++ zeros 1 ++ leBytes 4 (s.dom p).unfinished ++ zeros 4) })) ∧
     (s.Started d id 0x0208 c → (s.dom p).mode ≠ .absent → bitmap % 4096 = 0 → base % 4096 = 0 → 1 ≤ pages → pages ≤ 2 ^ 30 →
       (∀ w ∈ usedWindows (s.confSeen p c.placedAt).windows, base ≤ w.1 ∧ w.2 < base + 4096 * pages) → (s.dom p).dirty.mode = .off →
       inWindows c.cond.windows bitmap (8 * ceilDiv pages 64) = true →
       RowEnds (.dirtyLogStart d id) s d id c (.ok { effects := [.dirtyStart p bitmap base pages] }))) ∧
  (∀ (s : State) (d id : Nat) (c : Cmd) (as : List Approval), s.Approved d c as →
     let p := byteAt c.param 0
     (s.Started d id 0x0202 c → c.stage = 0 → (s.dom p).mode ≠ .absent → p ≠ d →
       ∃ t x, exec (.pitchDestroy d id) s = .next t ∧ t.cmd d id = some x ∧ x.stage = 1 ∧ (t.dom p).waiting = []) ∧
     (s.Started d id 0x0202 c → 0 < c.stage → (s.dom p).idle = true →
       RowEnds (.pitchDestroy d id) s d id c (.ok { effects := [.pitchDestroy p] })) ∧
     (s.Started d id 0x0203 c → c.stage = 0 → (s.dom p).mode = .active ∨ (s.dom p).mode = .locked → 32 ≤ c.outSpace → p ≠ d →
       ∃ t x, exec (.pitchReset d id) s = .next t ∧ t.cmd d id = some x ∧ x.stage = 1 ∧ (t.dom p).mode = .resetting ∧ (t.dom p).waiting = []) ∧
     (s.Started d id 0x0203 c → 0 < c.stage → (s.dom p).idle = true → s.dmaDone p = true → p ≠ d →
       RowEnds (.pitchReset d id) s d id c (.ok { out := leBytes 8 (s.dom p).seqNext ++ c.output, effects := [.pitchResetEnd p] })) ∧
     (∀ code i, (code = 0x0209 ∧ i = Instr.dirtyLogFlush d id) ∨ (code = 0x020A ∧ i = Instr.dirtyLogStop d id) → s.Started d id code c →
       (s.dom p).dirty.mode = .running → c.stage ≤ 1 → (c.stage = 0 → (s.dom p).mode ≠ .absent ∧ ((s.dom p).dirty.unseen ≠ [] ∨ s.dmaDone p = false)) →
       ∃ t x, exec i s = .next t ∧ t.cmd d id = some x ∧ x.phase = .running ∧
         (if s.dmaDone p = true then x.stage = 2 ∧ (t.dom p).dirty.flush = (s.dom p).dirty.unseen else x.stage = 1)) ∧
     (s.Started d id 0x0209 c → c.stage = 0 → (s.dom p).mode ≠ .absent → (s.dom p).dirty.mode = .running → (s.dom p).dirty.unseen = [] → s.dmaDone p = true →
       RowEnds (.dirtyLogFlush d id) s d id c (.ok {})) ∧
     (s.Started d id 0x0209 c → 2 ≤ c.stage → (s.dom p).dirty.mode = .running → (s.dom p).dirty.flush = [] →
       RowEnds (.dirtyLogFlush d id) s d id c (.ok {})) ∧
     (s.Started d id 0x020A c → c.stage = 0 → (s.dom p).mode ≠ .absent → (s.dom p).dirty.mode = .failed →
       RowEnds (.dirtyLogStop d id) s d id c (.ok { effects := [.dirtyStop p] })) ∧
     (s.Started d id 0x020A c → 2 ≤ c.stage → (s.dom p).dirty.mode = .running → (s.dom p).dirty.flush = [] →
       RowEnds (.dirtyLogStop d id) s d id c (.ok { effects := [.dirtyStop p] })))

/-- STAGE commands (R333, R335, R336, R339): each works on the set that its block names; STAGE_CHECK lists its violations, 255 at most. Where the work of a
row is `.ok`, its command ends computed with STATUS OK and the output, unless the output descriptor is too short; where it is `.error`, with that STATUS and
DETAIL. Each of STAGE_WRITE, STAGE_CHECK, STAGE_COMMIT, STAGE_DISCARD and STAGE_STATUS ends in a next state under conditions on the state and the operands
alone. -/
def Obligations.StagingRowsEnd : Prop :=
  ∀ (s : State) (d id : Nat) (c : Cmd) (as : List Approval) (k : Nat), s.Approved d c as → s.namedSet d c = .ok k →
    let x := s.stage k
    let v := (s.violations k (if x.state = .empty then s.committed k else x.image)).take 255
    (s.Started d id 0x0301 c → RowEnds (.stageWrite d id) s d id c (stageWriteWork s d c)) ∧
    (s.Started d id 0x0302 c → RowEnds (.stageCheck d id) s d id c (.ok
      { out := leBytes 2 v.length ++ zeros 14 ++ v.flatMap (fun e => leBytes 2 e.2.1 ++ leBytes 2 e.2.2 ++ leBytes 4 e.1) })) ∧
    (s.Started d id 0x0303 c → RowEnds (.stageCommit d id) s d id c (stageCommitWork s d c)) ∧
    (s.Started d id 0x0304 c → x.state ≠ .empty → d = operator ∨ x.opWrite = false →
      RowEnds (.stageDiscard d id) s d id c (.ok { effects := [.setDrop k] })) ∧
    (s.Started d id 0x0305 c → RowEnds (.stageStatus d id) s d id c (.ok
      { out := (leBytes 1 x.state.code ++ leBytes 1 x.when_ ++ zeros 6 ++ leBytes 8 x.second ++ leBytes 2 x.lastStatus ++
          leBytes 2 x.lastDetail ++ zeros 4 ++ leBytes 8 x.lastInstant) }))

/-- KEY commands (R127, R131, R142 to R146, R149, R150, R153). Where the work of a row is `.ok`, its command ends computed with STATUS OK and the output,
unless the output descriptor is too short; where it is `.error`, with that STATUS and DETAIL. Each of KEY_GENERATE, KEY_LOAD, KEY_PUBLIC_LOAD, KEY_REPLACE,
KEY_DESTROY, KEY_ATTR_RESTRICT, KEY_INFO, KEY_PUBLIC_READ, KEY_TRANSPORT_INFO, KEY_GRANT and KEY_LIST ends in a next state under conditions on the state and
the operands alone. -/
def Obligations.KeyRowsEnd : Prop :=
  ∀ (s : State) (d id : Nat) (c : Cmd) (as : List Approval), s.Approved d c as →
    let h := c.entry.handle0
    (s.Started d id 0x0401 c → RowEnds (.keyGenerate d id) s d id c (keyGenerateWork s d c)) ∧
    (s.Started d id 0x0402 c → RowEnds (.keyLoad d id) s d id c (keyLoadWork s d c as)) ∧
    (s.Started d id 0x0403 c → RowEnds (.keyPublicLoad d id) s d id c (keyPublicLoadWork s d c)) ∧
    (s.Started d id 0x0404 c → RowEnds (.keyReplace d id) s d id c (keyReplaceWork s d c as)) ∧
    (s.Started d id 0x0405 c → handleFail d c.entry true [0, 1, 2] = none → s.keyPresent (ownerOf d h) h = true →
      RowEnds (.keyDestroy d id) s d id c (.ok { effects := [.keyDrop (ownerOf d h) (canonical h)] })) ∧
    (s.Started d id 0x0406 c → RowEnds (.keyAttrRestrict d id) s d id c (keyRestrictWork s d c)) ∧
    (s.Started d id 0x0407 c → RowEnds (.keyInfo d id) s d id c (keyInfoWork s d c)) ∧
    (s.Started d id 0x0408 c → RowEnds (.keyPublicRead d id) s d id c (keyPublicReadWork s d c)) ∧
    (s.Started d id 0x0409 c → RowEnds (.keyTransportInfo d id) s d id c (keyTransportWork s)) ∧
    (s.Started d id 0x040A c → handleFail d c.entry true [2] = none → byteAt c.param 1 ≤ 1 →
      RowEnds (.keyGrant d id) s d id c (.ok { effects := [.grant (byteAt c.param 0) (handleIndex h) (byteAt c.param 1 = 1)] })) ∧
    (s.Started d id 0x040B c → RowEnds (.keyList d id) s d id c (keyListWork s d c))

/-- Officers (R156 to R158), TIME (R331, R332), LOG and EVENT (R418, R419, R424 to R426) and PERF (R437, R438) commands: TIME_SET takes effect at the next
second boundary; TIME_READ gives the clock of the instant it runs at. Where the work of a row is `.ok`, its command ends computed with STATUS OK and the
output, unless the output descriptor is too short; where it is `.error`, with that STATUS and DETAIL. Each of OFFICER_ADD, OFFICER_REMOVE, QUORUM_SET,
ROSTER_SEAL, ROSTER_READ, TIME_SET, TIME_READ, LOG_ROTATE, LOG_EXPORT, LOG_CHECKPOINT_READ, LOG_RATE_SET, LOG_STATUS, EVENT_ROUTE, EVENT_STATUS, EVENT_CLEAR,
PERF_GRANT and PERF_SAMPLES ends in a next state under conditions on the state and the operands alone. -/
def Obligations.LedgerRowsEnd : Prop :=
  (∀ (s : State) (d id : Nat) (c : Cmd) (as : List Approval), s.Approved d c as →
     let r := (s.dom d).roster
     (s.Started d id 0x0501 c → RowEnds (.officerAdd d id) s d id c (officerAddWork s d c)) ∧
     (s.Started d id 0x0502 c → RowEnds (.officerRemove d id) s d id c (officerRemoveWork s d c)) ∧
     (s.Started d id 0x0503 c → RowEnds (.quorumSet d id) s d id c (quorumSetWork s d c)) ∧
     (s.Started d id 0x0504 c → r.isSealed = false →
       RowEnds (.rosterSeal d id) s d id c (.ok { effects := [.roster { r with isSealed := true }] })) ∧
     (s.Started d id 0x0505 c → RowEnds (.rosterRead d id) s d id c (.ok
       { out := (leBytes 1 (b2n r.isSealed) ++ leBytes 1 r.officers.length ++ zeros 2 ++ leBytes 4 r.incarnation ++
           leBytes 8 r.floor ++ r.table ++ r.officers.flatMap (fun p => p.2.bytes p.1)) }))) ∧
  (∀ (s : State) (d id : Nat) (c : Cmd) (as : List Approval), s.Approved d c as →
     (s.Started d id 0x0601 c → s.clock.state = .locked ∨ s.clock.state = .holdover → s.clock.trusted = false ∨ s.clock.nextSecond ≤ field c.param 0 8 →
       RowEnds (.timeSet d id) s d id c (.ok { out := zeros 16, effects := [.timeSet (field c.param 0 8)] })) ∧
     (s.Started d id 0x0602 c → RowEnds (.timeRead d id) s d id c (.ok
       { out := (leBytes 8 s.clock.tai ++ leBytes 8 s.clock.status ++ leBytes 8 s.clock.lastEdgeTai ++ leBytes 4 s.clock.shorts ++
           leBytes 4 s.clock.longs ++ leBytes 4 s.clock.earlies ++ leBytes 4 s.clock.lates ++ leBytes 2 s.chip.utcOffset ++ zeros 22) }))) ∧
  (∀ (s : State) (d id : Nat) (c : Cmd) (as : List Approval), s.Approved d c as →
     let start := field c.param 0 8
     let n := field c.param 8 4
     (∀ sram mram, s.Started d id 0x0701 c → RowEnds (.logRotate d id sram mram) s d id c (.ok { out := zeros 16, effects := [.logRotate sram mram] })) ∧
     (s.Started d id 0x0702 c → 1 ≤ n → n ≤ 65536 → s.trail.oldest ≤ start → RowEnds (.logExport d id) s d id c (.ok
       { out := (s.trail.entries.filter (fun e => start ≤ e.seq && e.seq < start + n)).flatMap LogEntry.bytes })) ∧
     (∀ e, s.Started d id 0x0703 c → s.trail.entry start = some e → e.code = 2 → RowEnds (.logCheckpointRead d id) s d id c (.ok
       { out := (e.bytes ++ leBytes 1 (Tab.get s.trail.signatures (2, []) e.seq).1 ++ zeros 15 ++
           slice (Tab.get s.trail.signatures (2, []) e.seq).2 0 96) })) ∧
     (s.Started d id 0x0704 c → exempt (field c.param 0 2) = false → 1 ≤ field c.param 4 4 → field c.param 4 4 ≤ 1000000 → 1 ≤ field c.param 8 2 →
       RowEnds (.logRateSet d id) s d id c (.ok { effects := [.rate (field c.param 0 2) (field c.param 4 4) (field c.param 8 2)] })) ∧
     (s.Started d id 0x0705 c → RowEnds (.logStatus d id) s d id c (.ok
       { out := (leBytes 1 s.trail.state ++ leBytes 1 s.chip.auditPolicy ++ zeros 2 ++ leBytes 4 s.trail.lost ++ leBytes 8 s.trail.oldest ++
           leBytes 8 s.trail.newest ++ leBytes 4 s.trail.chainNumber ++ leBytes 1 s.trail.gasp.length ++ zeros 3) })) ∧
     (s.Started d id 0x0706 c → RowEnds (.eventRoute d id) s d id c (eventRouteWork s d c)) ∧
     (s.Started d id 0x0707 c → c.tooLong 64 = false →
       ∃ t x, exec (.eventStatus d id) s = .next t ∧ t.cmd d id = some x ∧ x.status = sOk ∧ x.output.length = 64 ∧
         ∀ e, e < 512 → bit (byteAt x.output (e / 8)) (e % 8) = s.eventPending e) ∧
     (s.Started d id 0x0708 c → RowEnds (.eventClear d id) s d id c (.ok
       { effects := [.eventClear ((List.range 512).filter (fun x => bit (byteAt c.param (x / 8)) (x % 8)))] }))) ∧
  (∀ (s : State) (d id : Nat) (c : Cmd) (as : List Approval), s.Approved d c as →
     let b := byteAt c.param 0
     let l := Tab.get s.perf.samples [] b
     (s.Started d id 0x0801 c → byteAt c.param 1 ≤ 1 → (s.dom b).mode ≠ .absent →
       RowEnds (.perfGrant d id) s d id c (.ok { effects := [.perfGrant b (byteAt c.param 1 = 1)] })) ∧
     (s.Started d id 0x0802 c → b < 96 → RowEnds (.perfSamples d id) s d id c (.ok
       { out := leBytes 2 l.length ++ zeros 2 ++ leBytes 4 (Tab.get s.perf.lost 0 b) ++ zeros 8 ++ l.flatMap Sample.bytes,
         effects := [.samplesTaken b (Tab.get s.perf.left 0 b + l.length)] })))

/-- LC, DEBUG, FW and TAMPER commands of one step (R391, R396, R397, R399, R408, R409). TAMPER_CLEAR is judged at its commit point: E_TAMPER_ACTIVE there
names the first of its sources that is in alarm. Where the work of a row is `.ok`, its command ends computed with STATUS OK and the output, unless the output
descriptor is too short; where it is `.error`, with that STATUS and DETAIL. Each of LC_STATUS, LC_DIGEST_BURN, LC_MODE_SET, DEBUG_UNLOCK, DEBUG_LOCK,
FW_INSTALL, TAMPER_STATUS and TAMPER_CLEAR ends in a next state under conditions on the state and the operands alone. -/
def Obligations.LifeCycleRowsEnd : Prop :=
  (∀ (s : State) (d id : Nat) (c : Cmd) (as : List Approval), s.Approved d c as →
     let l := s.life
     let t := byteAt c.param 0
     let level := byteAt c.param 24
     let image := c.param.drop 64
     (s.Started d id 0x0901 c → c.tooLong 64 = false →
       ∃ u x, exec (.lcStatus d id) s = .next u ∧ u.cmd d id = some x ∧ x.status = sOk ∧ x.output.length = 64 ∧
         slice x.output 0 8 = leBytes 8 l.bits ∧
         (∀ k, k < 3 → slice x.output (8 + k) 1 = leBytes 1 (if otpValid (l.copies.getD k 0) then (otpDecode (l.copies.getD k 0)).code else 0xFE)) ∧
         (∀ k, k < 7 → slice x.output (16 + k) 1 = leBytes 1 (l.attemptsLeft (k + 1))) ∧ slice x.output 23 1 = leBytes 1 l.modes.toNat ∧
         slice x.output 25 1 = leBytes 1 l.wrong) ∧
     (s.Started d id 0x0903 c → l.digest 6 = none → RowEnds (.lcDigestBurn d id) s d id c (.ok { effects := [.lifeCycle (.digest (slice c.param 16 48))] })) ∧
     (s.Started d id 0x0904 c → 3 ≤ t → t ≤ 7 → RowEnds (.lcModeSet d id) s d id c (.ok { effects := [.lifeCycle (.mode t)] })) ∧
     (s.Started d id 0x0905 c → RowEnds (.debugUnlock d id) s d id c (match certificateFail s c with
       | some f => .error f
       | none => .ok { effects := [.lifeCycle (.debug level (byteAt c.param 25)),
           .trail codeUnlock (originOf 0 0) security (leBytes 1 l.state.code ++ leBytes 1 level)] })) ∧
     (s.Started d id 0x0906 c → RowEnds (.debugLock d id) s d id c (.ok { effects := [.lifeCycle (.debug 0 0)] })) ∧
     (s.Started d id 0x0907 c → RowEnds (.fwInstall d id) s d id c
       (if slice c.param 16 48 = sha384 image ∧ Config.firmwareSigned image = true then .ok { effects := [.lifeCycle (.firmware (1 - l.fwActive) image)] }
        else .error (eFwImage, 0)))) ∧
  (∀ (s : State) (d id : Nat) (c : Cmd) (as : List Approval), s.Approved d c as →
     let m := field c.param 0 2
     let t := s.tamper
     (s.Started d id 0x0A01 c → RowEnds (.tamperStatus d id) s d id c (.ok
       { out := (leBytes 8 s.tamperLive ++ leBytes 8 t.sticky ++ tamperSources.flatMap (fun n => leBytes 1 (t.response n).code) ++
           tamperFloors.flatMap (fun r => leBytes 1 r.code) ++ zeros 12 ++ tamperSources.flatMap (fun n => leBytes 4 (Tab.get t.counts 0 n)) ++ zeros 8) })) ∧
     (s.Started d id 0x0A02 c → RowEnds (.tamperClear d id) s d id c (.ok { out := zeros 16, effects := [.tamperClear m] })) ∧
     (∀ n, s.cmd d id = some c → c.effects = [.tamperClear m] → n < 10 → bit m n = true → t.alarm.getLsbD n = true →
       (∀ j, j < n → bit m j = true → t.alarm.getLsbD j = false) → (s.judge d .verified c).status = eTamperActive ∧ (s.judge d .verified c).detail = n))

/-- LC_TRANSITION (R398, R399, R402): once checks 1 to 6 pass, the attempt bit is burned before the token is compared, whatever the comparison gives; a wrong
token is counted; a right one burns its field at the commit point, if all three copies verify it; the operand says how the burns come out (log entry 36).
LC_TRANSITION ends in a next state under conditions on the state and the operands alone. -/
def Obligations.TransitionBurnsAttempt : Prop :=
  ∀ (s : State) (d id : Nat) (b : OtpBurn) (c : Cmd) (as : List Approval), s.checkApprovals d c = .ok as → entryZero c.raw = none →
    s.Started d id 0x0902 c → c.stage = 0 →
    let t := byteAt c.param 0
    let l := s.life.attempted t b
    let k := transitionField t
    let right := l.digest t = some (sha384 (slice c.param 16 32))
    (∀ f, transitionFail s t = some f → RowEnds (.lcTransition d id b) s d id c (.error f)) ∧
    (transitionFail s t = none → b.cut = true → b.attempt < 3 ∨ right →
      let m := if b.attempt < 3 then l else l.burnPart k b
      ∃ u x, exec (.lcTransition d id b) s = .next u ∧ u.cmd d id = some x ∧ x.phase = .running ∧ u.boot.powered = false ∧
        (u.life.copy0, u.life.copy1, u.life.copy2) = (m.copy0, m.copy1, m.copy2) ∧ u.life.spent t = l.spent t) ∧
    (transitionFail s t = none → b.cut = false ∨ 3 ≤ b.attempt →
      (¬ right → ∃ u x, exec (.lcTransition d id b) s = .next u ∧ u.cmd d id = some x ∧ c.Got (.error (eLcToken, l.attemptsLeft t)) x ∧
        u.life = { l with wrong := l.wrong + 1 }) ∧
      (right → b.cut = false → b.copies < 3 → ∃ u x, exec (.lcTransition d id b) s = .next u ∧ u.cmd d id = some x ∧
        c.Got (.error (eLcOtp, b.copies * 256 + k)) x ∧ u.life = l.burnPart k b) ∧
      (right → b.cut = false → 3 ≤ b.copies → c.tooLong 16 = false → ∃ u x, exec (.lcTransition d id b) s = .next u ∧ u.cmd d id = some x ∧
        x.status = sOk ∧ x.output = leBytes 1 (b2n (l.deferred t)) ++ leBytes 1 (l.attemptsLeft t) ++ zeros 14 ∧
        .lifeCycle (.burn k !l.deferred t) ∈ x.effects ∧ u.life = l))

/-- Tamper events. An alarm of a source whose detector is watched, and that is not in alarm, whose response is NONE, NOTE or SHED leaves the source in alarm
with its sticky flag set and its count one higher (R372, R385); LOCK on a module that is ready locks it (R375); STRIKE clears the EMBER rows and its seeds
(R377). An alarm ends when neither of its detectors is in it, source 9's when no pair is (R370), source 8's not while a register holds an unassigned code
(R387), and 10 s later SHED ends (R372). EMBER events (R386, R479): the domain draws from the first source that stands; the cell is cut off; a collapse loses
every value, seed and flag. Each of TAMPER_ALARM, TAMPER_ALARM_END, SHED_END, EMBER_SOURCE_CHANGE, CELL_CUTOFF and EMBER_COLLAPSE ends in a next state under
conditions on the state and the operands alone. -/
def Obligations.TamperEventsAct : Prop :=
  (∀ (s : State) (n e : Nat), n < 10 →
     let t := s.tamper
     let r := t.response n
     let fresh := t.emberMachine = true ∧ s.detects n e = true ∧ t.alarm.getLsbD n = false
     (fresh → r.code ≤ 2 →
       ∃ u, exec (.tamperAlarm n e) s = .next u ∧ u.tamper.alarm.getLsbD n = true ∧ u.tamper.flags.getLsbD n = true ∧
         Tab.get u.tamper.counts 0 n = min 0xFFFFFFFF (Tab.get t.counts 0 n + 1) ∧ u.boot = s.boot ∧ u.tamper.alarmCount = min 0xFFFF (t.alarmCount + 1) ∧
         (r.code = 2 → t.inForce.code < 2 → u.tamper.inForce = .shed ∧ u.tamper.source = n ∧ u.tamper.shed = true)) ∧
     (fresh → r = .lock → t.inForce.code < 3 → s.boot.powered = true → s.boot.held = false → s.boot.state = .ready →
       ∃ u, exec (.tamperAlarm n e) s = .next u ∧ u.boot.state = .locked ∧ ∀ p, p < 256 → (u.dom p).mode ≠ .active) ∧
     (fresh → 4 ≤ r.code → t.inForce.code < r.code → t.striking = false →
       ∃ u, exec (.tamperAlarm n e) s = .next u ∧ u.ember.rows = [] ∧ u.ember.seedA = zeros 48 ∧ u.ember.seedB = zeros 48 ∧ u.tamper.strikeOut = true) ∧
     (t.alarm.getLsbD n = true → n ≠ 8 ∨ s.codesAssigned = true →
       (if n = 9 then removeNat t.pairs e = [] else e < 2 ∧ (if e = 0 then t.detectorB else t.detectorA).getLsbD n = false) →
       ∃ u, exec (.tamperAlarmEnd n e) s = .next u ∧ u.tamper.alarm.getLsbD n = false ∧ u.tamper.flags = t.flags) ∧
     (n = 8 → s.codesAssigned = false → exec (.tamperAlarmEnd n e) s = .next s) ∧
     (∀ w, t.shedSince = some w → t.inForce = .shed →
       ∃ u, exec .shedEnd s = .next u ∧ u.tamper.inForce = .none ∧ u.tamper.shed = false ∧ u.now = max s.now (w + 10000000000))) ∧
  (∀ (s : State) (x : Bool),
     (∃ u, exec (.emberSourceChange x) s = .next u ∧ u.supplies.vemb = x ∧ u.supplies.emberSource = u.supplies.ember) ∧
     (s.supplies.emberSource = .cell →
       ∃ u, exec .cellCutoff s = .next u ∧ u.supplies.cell = false ∧ u.supplies.emberSource = u.supplies.ember) ∧
     (s.boot.powered = false → s.supplies.emberSource = .holdup →
       ∃ u, exec .emberCollapse s = .next u ∧ u.ember = {} ∧ u.tamper.flags = 0 ∧ u.tamper.alarmCount = 0 ∧ u.trail.gasp = []))

/-- TWIN commands (R83, R84, R88, R90 to R92). Where the work of a row is `.ok`, its command ends computed with STATUS OK and the output, unless the output
descriptor is too short; where it is `.error`, with that STATUS and DETAIL. Each of TWIN_JOIN, TWIN_ESTABLISH, TWIN_DETACH, TWIN_RESUME, TWIN_PROMOTE,
TWIN_DEMOTE, TWIN_STATUS, DIGEST_READ and TWIN_DISSOLVE ends in a next state under conditions on the state and the operands alone. -/
def Obligations.TwinRowsEnd : Prop :=
  ∀ (s : State) (d id : Nat) (c : Cmd) (as : List Approval), s.Approved d c as →
    let D := s.dom d
    let t := D.twin
    (s.Started d id 0x0B01 c → t.mode = .none → D.keys = [] → D.roster.officers = [] → s.link.mode = .secure →
      RowEnds (.twinJoin d id) s d id c (.ok { effects := [.twin { mode := .joining, role := .secondary, peer := byteAt c.param 0 }] })) ∧
    (∀ a b v, s.Started d id 0x0B02 c → c.stage = 0 → t.mode = .none → establishFail c.param = none → s.link.mode = .secure → D.settledBefore id = true →
      s.takeTwo (s.seedOrderOf d) = some (a, b, v) →
      ∃ u x, exec (.twinEstablish d id) s = .next u ∧ u.cmd d id = some x ∧ x.stage = 1 ∧ x.seedUsed = some (a ++ b.take 16) ∧
        (u.dom d).twin.establishing = some c.seq) ∧
    (s.Started d id 0x0B03 c → t.mode = .attached → RowEnds (.twinDetach d id) s d id c (.ok { effects := [.twin { t with mode := .detached }] })) ∧
    (s.Started d id 0x0B04 c → c.stage = 0 → t.mode = .detached → t.role = .primary → s.link.mode = .secure →
      ∃ u x, exec (.twinResume d id) s = .next u ∧ u.cmd d id = some x ∧ x.stage = 1 ∧ (u.dom d).twin.lastHeard = s.now) ∧
    (s.Started d id 0x0B05 c → t.mode = .detached → t.role = .secondary →
      RowEnds (.twinPromote d id) s d id c (.ok { effects := [.twin { t with role := .primary }] })) ∧
    (s.Started d id 0x0B06 c → c.stage = 0 → t.mode = .attached → t.role = .primary →
      ∃ u x, exec (.twinDemote d id) s = .next u ∧ u.cmd d id = some x ∧ x.stage = 1) ∧
    (s.Started d id 0x0B06 c → 0 < c.stage → t.mode = .attached → t.role = .primary → t.unacked = [] → (∀ x ∈ D.cmds, x.id < id → x.mayChain = false) →
      RowEnds (.twinDemote d id) s d id c (.ok { effects := [.twinHandover] })) ∧
    (s.Started d id 0x0B06 c → t.mode ≠ .attached ∨ t.role ≠ .primary → RowEnds (.twinDemote d id) s d id c (.error (eTwinState, 0))) ∧
    (s.Started d id 0x0B07 c → RowEnds (.twinStatus d id) s d id c (.ok
      { out := (leBytes 1 t.mode.code ++ leBytes 1 t.role.code ++ leBytes 1 (b2n t.async) ++ leBytes 1 t.peer ++ leBytes 4 t.unacked.length ++
          leBytes 8 t.acked ++ leBytes 8 (if t.mode = .diverged then t.divergedSeq else 0) ++ zeros 8) })) ∧
    (s.Started d id 0x0B08 c → (∀ x ∈ D.cmds, x.id < id → x.mayChain = true → x.digest.isSome = true) →
      let seen := c.chainSeen.getD (D.chain, D.chainSeq)
      RowEnds (.digestRead d id) s d id c (.ok { out := leBytes 8 seen.2 ++ zeros 8 ++ slice seen.1 0 48 })) ∧
    (s.Started d id 0x0B09 c → t.mode = .detached ∨ t.mode = .diverged →
      RowEnds (.twinDissolve d id) s d id c (.ok { effects := [.twinDissolve] }))

/-- CF commands (R315 to R317). Where the work of a row is `.ok`, its command ends computed with STATUS OK and the output, unless the output descriptor is too
short; where it is `.error`, with that STATUS and DETAIL. CF_INVOKE (R318, R319): a declared write bit fails the command; else, with a free colour and free
areas that do not meet, the core has the rules of Table 12-4 in force, the entry registers of Table 12-5, FUNCTION mode, and the entry point as its pc. Each
of CF_LOAD, CF_ACCEPT, CF_BIND, CF_UNBIND, CF_DELETE, CF_INFO and CF_INVOKE ends in a next state under conditions on the state and the operands alone. -/
def Obligations.CustomFunctionRowsEnd : Prop :=
  (∀ (s : State) (d id : Nat) (c : Cmd) (as : List Approval), s.Approved d c as →
     let D := s.dom d
     let p := byteAt c.param 0
     let slot := byteAt c.param 1
     let b := c.param.drop 64
     let named := slice c.param 16 48
     (s.Started d id 0x0C01 c → p < 8 → (D.image p).state = .empty → sha384 b = named → imageFail b = none →
       D.mramUsed + roundUp b.length 4096 ≤ (s.confSeen d c.placedAt).mramQuota * 1024 →
       RowEnds (.cfLoad d id) s d id c (if imageSigned D.roster b then .ok { effects := [.cfImage d p { state := .loaded, image := b, digest := named }] }
         else .error (eCfSignature, 0))) ∧
     (s.Started d id 0x0C02 c → slot < 8 → ((s.dom p).image slot).state = .loaded → ((s.dom p).image slot).digest = named →
       RowEnds (.cfAccept d id) s d id c (.ok { effects := [.cfAccept p slot named] })) ∧
     (s.Started d id 0x0C03 c → isGroup p = true → slot < 8 → byteAt c.param 2 ≤ 4 → 1000 ≤ field c.param 4 4 → (D.image slot).state = .accepted →
       (D.image slot).digest = named → field c.param 4 4 ≤ imageBudget (D.image slot).image → (D.group p).slot = 0xFF →
       RowEnds (.cfBind d id) s d id c (.ok { effects := [.cfGroup d p { slot := slot, drawCalls := byteAt c.param 2, budget := field c.param 4 4 }] })) ∧
     (s.Started d id 0x0C04 c → isGroup p = true → (D.group p).slot ≠ 0xFF →
       RowEnds (.cfUnbind d id) s d id c (.ok { effects := [.cfGroup d p {}] })) ∧
     (s.Started d id 0x0C05 c → p < 8 → (D.image p).state ≠ .empty → D.bound p = none →
       RowEnds (.cfDelete d id) s d id c (.ok { effects := [.cfImage d p {}] })) ∧
     (s.Started d id 0x0C06 c → d = operator ∨ p = d → RowEnds (.cfInfo d id) s d id c (.ok
       { out := ((List.range 8).flatMap (fun i => ((s.dom p).image i).bytes) ++ (List.range 64).flatMap (fun i => ((s.dom p).group (0x40 + i)).bytes)) }))) ∧
  (∀ (s : State) (d id colour : Nat) (areas : List Nat) (c : Cmd),
     let k := 12 * c.region + c.block
     s.cmd d id = some c → c.phase = .running → isCustom c.entry.opcode = true → c.stage = 0 → s.coreRuns k = true → (s.core k).function = false →
     (s.core k).invocations = [] → 1 ≤ colour → colour ≤ 14 →
     (∀ i, i < 4 → c.entry.valid i = true → c.entry.writes i = true → (∀ j, j < i → (c.entry.valid j && c.entry.writes j) = false) →
       ∃ t x, exec (.cfInvoke d id colour areas) s = .next t ∧ t.cmd d id = some x ∧ c.Got (.error (eCfDeclare, i)) x) ∧
     (∀ image slot draws budget, (∀ i, i < 4 → (c.entry.valid i && c.entry.writes i) = false) → c.cond.cfImage = some image →
       c.cond.cfGroup = some (slot, draws, budget) → areas.length = 7 →
       let l := cfAreas c image draws areas
       areasApart (l.filter fun a => a.len != 0) = true → (∀ p ∈ l.zipIdx, s.areaFree k p.2 p.1 = true) →
       ∃ t x, exec (.cfInvoke d id colour areas) s = .next t ∧ t.cmd d id = some x ∧ x.stage = 1 ∧ (t.core k).function = true ∧
         (t.core k).active = cfRules colour l ∧ (t.core k).pc = BitVec.ofNat 64 (areas.getD 0 0 + imageEntry image (c.entry.opcode % 256)) ∧
         (t.core k).reg 1 = kAddr (BitVec.ofNat 64 (areas.getD 1 0)) ∧ (t.core k).reg 12 = kBits (BitVec.ofNat 64 c.seq) ∧
         (t.core k).reg 31 = kAddr (BitVec.ofNat 64 (areas.getD 3 0) + BitVec.ofNat 64 (imageStack image))))

/-! ### Registers and the journey of an entry -/

/-- The mailbox registers (R30, R33, R34, R37, R39, R41, R417). SQ_TAIL, BOOT_WORD, CQ_HEAD, SEQ_NEXT, EVENT_ACK and TRAIL_CURSOR take a write of 4 or 8
naturally aligned bytes, where the value is one that the register allows: a tail below the ring's size; a boot word whose fields are in range, at a queue 0
that takes one; a completion head not past the completions; SEQ_NEXT of an idle domain; the bits of EVENT_ACK written as 1 are cleared. Else the write is
ignored and counted, and no domain and no counter changes. Each of SQ_TAIL, BOOT_WORD, CQ_HEAD, SEQ_NEXT, EVENT_ACK and TRAIL_CURSOR ends in a next state
under conditions on the state and the operands alone. -/
def Obligations.MailboxRegistersTakeWrites : Prop :=
  ∀ (s : State) (d q o size v : Nat),
    let Q := (s.dom d).queue q
    let n := 2 ^ Q.sizeLog2
    let word := q = 0 ∧ size = 8 ∧ (s.dom d).bootable = true
    (s.BellsOpen d → Q.state ≠ .absent → size = 4 ∨ size = 8 → ¬ word → v % 65536 < n →
      ∃ t, exec (.sqTail d q 0 size v) s = .next t ∧ ((t.dom d).queue q).sqTail = v % 65536 ∧ ((t.dom d).queue q).sqHead = Q.sqHead) ∧
    (s.BellsOpen d → Q.state ≠ .absent → size = 4 ∨ (size = 8 ∧ d < 256) → ¬ word → n ≤ v % 65536 →
      ∃ t, exec (.sqTail d q 0 size v) s = .next t ∧ s.Ignored t) ∧
    (s.BellsOpen d → (s.dom d).bootable = true → v / 32 % 128 = 0 → 4 ≤ v % 32 → v % 32 ≤ 16 →
      ∃ t, exec (.bootWord d v) s = .next t ∧ (t.dom d).queue 0 =
        { state := .active, admin := true, sizeLog2 := v % 32, sqAddr := v / 4096 * 4096, cqAddr := v / 4096 * 4096 + roundUp (64 * 2 ^ (v % 32)) 4096,
          vector := if d < 256 then (s.dom d).conf.vectorBase else 0 }) ∧
    (s.BellsOpen d → (s.dom d).bootable = true → v / 32 % 128 ≠ 0 ∨ v % 32 < 4 ∨ 16 < v % 32 →
      ∃ t, exec (.bootWord d v) s = .next t ∧ s.Ignored t) ∧
    (s.BellsOpen d → Q.state ≠ .absent → size = 4 ∨ (size = 8 ∧ d < 256) → v % 65536 < n → (v % 65536 + n - Q.cqHead) % n ≤ Q.unconsumed →
      ∃ t, exec (.cqHead d q 0 size v) s = .next t ∧ ((t.dom d).queue q).cqHead = v % 65536 ∧ ((t.dom d).queue q).sqTail = Q.sqTail) ∧
    (s.BellsOpen d → Q.state ≠ .absent → size = 4 ∨ (size = 8 ∧ d < 256) → n ≤ v % 65536 ∨ Q.unconsumed < (v % 65536 + n - Q.cqHead) % n →
      ∃ t, exec (.cqHead d q 0 size v) s = .next t ∧ s.Ignored t) ∧
    (s.PageOpen d → regular o size = true → (s.dom d).unfinished = 0 → (s.dom d).drained = true →
      ∃ t, exec (.seqNext d o size v) s = .next t ∧ (t.dom d).seqNext = setBytes (s.dom d).seqNext o size v) ∧
    (s.PageOpen d → regular o size = true → (s.dom d).unfinished ≠ 0 ∨ (s.dom d).drained = false →
      ∃ t, exec (.seqNext d o size v) s = .next t ∧ s.Ignored t) ∧
    (s.PageOpen d → regular o size = true → d < 256 →
      ∃ t, exec (.eventAck d o size v) s = .next t ∧ (t.dom d).eventAck = (s.dom d).eventAck &&& (255 - setBytes 0 o size v % 256)) ∧
    (s.barOpen = true → regular o size = true → ∃ t, exec (.trailCursor o size v) s = .next t ∧ t.trail.cursor = setBytes s.trail.cursor o size v) ∧
    (s.PageOpen d → regular o size = false →
      (∃ t, exec (.seqNext d o size v) s = .next t ∧ s.Ignored t) ∧ (d < 256 → ∃ t, exec (.eventAck d o size v) s = .next t ∧ s.Ignored t) ∧
        ∃ t, exec (.trailCursor o size v) s = .next t ∧ s.Ignored t)

/-- REGISTER_WRITE and MSIX_UNMASK (R10, R12, R30, R346, R456). A write at a page offset is the write of the register that stands there: so it moves SEQ_NEXT,
a tail, a cursor, a selection of the performance counters; one to a read-only register changes nothing, but a write to the host port wakes a module in BIVVY
(R346); one to the MSI-X table sets the address or the data of a vector. A cleared Mask bit leaves nothing pending on a vector, and sends the message that
waited for it where no warden gap and no control of the host holds it. The performance registers (R429, R430, R432), at every aligned access of 4 or 8 bytes:
PERF_SELECT and PERF_CONFIG_SELECT take a selection that names a counter, and ignore and count another; PERF_VALUE_READ and PERF_CONFIG_READ send the bytes
asked for and move the selection on under AUTO_INC; PERF_VALUE_WRITE sets a programmable counter of a region that is awake; PERF_CONFIG configures a counter,
but ignores and counts an event that its kind does not define; PORT_WINDOW_END latches the bytes of a whole window: those that the module itself moved, and
those of its operand (log entry 54). Each of REGISTER_WRITE, SEQ_NEXT, SQ_TAIL, CQ_HEAD, EVENT_ACK, TRAIL_CURSOR, PERF_SELECT, PERF_VALUE_WRITE,
PERF_CONFIG_SELECT, PERF_CONFIG, MSIX_UNMASK, PERF_VALUE_READ, PERF_CONFIG_READ and PORT_WINDOW_END ends in a next state under conditions on the state and the
operands alone. -/
def Obligations.RegisterWritesAct : Prop :=
  (∀ (s : State) (p q k size v x : Nat), k < 8 → q < 16 →
     exec (.registerWrite (.pitch p) (8 + k) size v) s = exec (.seqNext p k size v) s ∧
     exec (.registerWrite (.pitch p) (0x100 + 8 * q + k) size v) s = exec (.sqTail p q k size v) s ∧
     exec (.registerWrite (.pitch p) (0x200 + 8 * q + k) size v) s = exec (.cqHead p q k size v) s ∧
     exec (.registerWrite (.pitch p) (0x400 + k) size v) s = exec (.eventAck p k size v) s ∧
     exec (.registerWrite .operator (0x28 + k) size v) s = exec (.seqNext operator k size v) s ∧
     exec (.registerWrite .operator (0x100 + 8 * q + k) size v) s = exec (.sqTail operator q k size v) s ∧
     exec (.registerWrite .operator (0x1000 + k) size v) s = exec (.trailCursor k size v) s ∧
     exec (.registerWrite .operator (0x2000 + k) size v) s = exec (.perfSelect k size v) s ∧
     exec (.registerWrite .operator (0x2008 + k) size v) s = exec (.perfValueWrite k size v) s ∧
     exec (.registerWrite .operator (0x2010 + k) size v) s = exec (.perfConfigSelect k size v) s ∧
     exec (.registerWrite .operator (0x2018 + k) size v) s = exec (.perfConfig k size v) s ∧
     (s.barOpen = true → regular k size = true →
       ∃ t, exec (.registerWrite .operator (0x1000 + k) size v) s = .next t ∧ t.trail.cursor = setBytes s.trail.cursor k size v) ∧
     (s.PageOpen p → regular k size = true → p < 256 → (s.dom p).unfinished = 0 → (s.dom p).drained = true →
       ∃ t, exec (.registerWrite (.pitch p) (8 + k) size v) s = .next t ∧ (t.dom p).seqNext = setBytes (s.dom p).seqNext k size v) ∧
     (s.barOpen = true → x ∈ [0, 8, 0x10, 0x18, 0x20, 0x1008, 0x1010, 0x1040, 0x3000, 0x3008] →
       exec (.registerWrite .operator x 8 v) s = .next s.wakeModule) ∧
     (s.PageOpen p → p < 256 → exec (.registerWrite (.pitch p) 0 8 v) s = .next s.wakeModule) ∧
     (s.boot.bivvy = false ∨ s.boot.waking.isSome = true → s.wakeModule = s) ∧
     (s.boot.bivvy = true → s.boot.waking = none → s.wakeModule = { s with boot := { s.boot with waking := some s.now } }) ∧
     (s.barOpen = true → x < 2048 →
       (∃ t, exec (.registerWrite .msix (16 * x) 8 v) s = .next t ∧ (t.host.vector x).addr = v % 2 ^ 64) ∧
       (∃ t, exec (.registerWrite .msix (16 * x + 8) 4 v) s = .next t ∧ (t.host.vector x).data = v % 2 ^ 32)) ∧
     (s.barOpen = true →
       ∃ t, exec (.msixUnmask x) s = .next t ∧ (t.host.vector x).masked = false ∧ (t.host.vector x).addr = (s.host.vector x).addr ∧
         (s.host.functionMask = false → s.host.msixEnable = true → x < 2048 → (t.host.vector x).pending = false ∧
           ∀ o, o = HostOut.message x (s.host.vector x).addr (s.host.vector x).data → (s.host.vector x).pending = true → s.guy.holding = false →
             o.waits s.host s.host.waiting = false → t.host.sent = s.host.sent ++ [o]))) ∧
  (∀ (s : State) (o size v : Nat), s.barOpen = true → regular o size = true →
     let a := s.perf.select
     let c := s.perf.configSelect
     let e := selMask (setBytes a o size v)
     let f := selMask (setBytes c o size v)
     let kind := selKind c
     let cut := fun (x : Nat) => x / 256 ^ o % 256 ^ size
     (perfExists (selKind e) (selUnit e) (selIndex e) = true → ∃ t, exec (.perfSelect o size v) s = .next t ∧ t.perf = { s.perf with select := e }) ∧
     (perfExists (selKind e) (selUnit e) (selIndex e) = false → ∃ t, exec (.perfSelect o size v) s = .next t ∧ s.Ignored t) ∧
     (perfExists (selKind f) (selUnit f) (selIndex f) = true →
       ∃ t, exec (.perfConfigSelect o size v) s = .next t ∧ t.perf = { s.perf with configSelect := f }) ∧
     (perfExists (selKind f) (selUnit f) (selIndex f) = false → ∃ t, exec (.perfConfigSelect o size v) s = .next t ∧ s.Ignored t) ∧
     (∃ t, exec (.perfValueRead o size) s = .next t ∧ t.perf = { s.perf with select := selNext a } ∧
       t.host.sent = s.host.sent ++ [.value (cut (s.perfRead (selKind a) (selUnit a) (selIndex a)))]) ∧
     (∃ t, exec (.perfConfigRead o size) s = .next t ∧ t.perf = { s.perf with configSelect := selNext c } ∧
       t.host.sent = s.host.sent ++ [.value (cut (s.perfConfRead kind (selUnit c) (selIndex c)))]) ∧
     (perfProgrammable (selKind a) (selIndex a) = true → s.perfAsleep (selKind a) (selUnit a) = false →
       ∃ t, exec (.perfValueWrite o size v) s = .next t ∧
         t.perf.value (selKind a) (selUnit a) (selIndex a) = setBytes (s.perf.value (selKind a) (selUnit a) (selIndex a)) o size v % 2 ^ 48) ∧
     ((kind = 0 → selIndex c < 6) → s.perfAsleep kind (selUnit c) = false →
       (kind = 2 ∨ o ≠ 0 ∨ (perfEvents kind).contains (v % 256) = true →
         ∃ t, exec (.perfConfig o size v) s = .next t ∧
           t.perf.conf kind (selUnit c) (selIndex c) = (s.perf.conf kind (selUnit c) (selIndex c)).written kind o size v) ∧
       (kind ≠ 2 → o = 0 → (perfEvents kind).contains (v % 256) = false → ∃ t, exec (.perfConfig o size v) s = .next t ∧ s.Ignored t))) ∧
  (∀ (s : State) (link out : Bool) (n : Nat), s.boot.powered = true → s.boot.held = false → (s.perf.conf 2 (b2n link) (b2n out)).enable = true →
     (Tab.get s.perf.portFull 0 (perfKey 2 (b2n link) (b2n out)) = 1 →
       ∃ t, exec (.portWindowEnd link out n) s = .next t ∧ t.perf.value 2 (b2n link) (b2n out) = (s.portMoved link out + n) % 2 ^ 48 ∧
         Tab.get t.perf.portMark 0 (perfKey 2 (b2n link) (b2n out)) = s.host.sent.length) ∧
     (Tab.get s.perf.portFull 0 (perfKey 2 (b2n link) (b2n out)) ≠ 1 →
       ∃ t, exec (.portWindowEnd link out n) s = .next t ∧ Tab.get t.perf.portFull 0 (perfKey 2 (b2n link) (b2n out)) = 1 ∧
         t.perf.values = s.perf.values))

/-- ENTRY_FETCHED (R40, R45 to R47, R51, R357): the entry at the head of the queue whose turn it is leaves its ring, or one that is to be fetched again comes
from the slot that held it; it is refused by the first of checks 1 to 4 that it fails, waits where its SEQ is not the next, and is placed where it is. A ring
outside the windows puts its queue into ERROR. DMA_READ_DONE and DMA_READ_FAIL (R45, R52, R60): what arrives is the command's, and it is read no more; a read
that fails puts the queue of an entry into ERROR, and fails a placed command with E_DMA_READ, whose DETAIL names the structure, the cause and, of a list's
buffer, its index. Each of ENTRY_FETCHED, DMA_READ_DONE and DMA_READ_FAIL ends in a next state under conditions on the state and the operands alone. -/
def Obligations.EntriesAreFetched : Prop :=
  (∀ (s : State) (d q : Nat) (b : Bytes), s.admits d = true → s.fetchFrom d = some q →
     let D := s.dom d
     let Q := D.queue q
     let raw := slice b 0 64
     let e := parseEntry raw
     let check := firstFail [s.check123 d q raw, s.twinCheck d e, D.seqCheck e]
     (s.ringsIn d q = false →
       ∃ t, exec (.entryFetched d q b) s = .next t ∧ ((t.dom d).queue q).state = .error ∧ ((t.dom d).queue q).errorCause = 5) ∧
     (s.ringsIn d q = true → D.refetch q = none →
       ∃ t, exec (.entryFetched d q b) s = .next t ∧ ((t.dom d).queue q).sqHead = (Q.sqHead + 1) % 2 ^ Q.sizeLog2 ∧
         (check ≠ none → (t.dom d).cmds = D.cmds ∧ (t.dom d).seqNext = D.seqNext ∧ (t.dom d).waiting = D.waiting) ∧
         (check = none → e.seqAuto = false → e.seq ≠ D.seqNext →
           (t.dom d).waiting = D.waiting ++ [{ queue := q, raw := raw, entry := e, slot := Q.sqHead }] ∧ (t.dom d).seqNext = D.seqNext ∧
             (t.dom d).cmds = D.cmds) ∧
         (check = none → e.seqAuto = true ∨ e.seq = D.seqNext →
           D.placed < (t.dom d).placed ∧ (D.twin.role ≠ .secondary → D.seqNext < (t.dom d).seqNext))) ∧
     (s.ringsIn d q = true → D.refetch q ≠ none → ∃ t, exec (.entryFetched d q b) s = .next t ∧ ((t.dom d).queue q).sqHead = Q.sqHead)) ∧
  (∀ (s : State) (d id q : Nat) (p : DmaPart) (b : Bytes) (cause : DmaError) (index : Nat) (c : Cmd),
     (s.cmd d id = some c → c.reads p = true → s.host.blocks d = false → b.length = (if p = .input then c.inLen else c.entry.partLen p) →
       ∃ t x, exec (.dmaReadDone d id p b) s = .next t ∧ t.cmd d id = some x ∧ p ∉ x.toRead ∧ (p = .param → x.param = b) ∧ (p = .input → x.input = b)) ∧
     (s.cmd d id = some c → c.reads p = true → s.host.blocks d = false →
       ∃ t x, exec (.dmaReadFail (.part d id p) cause index) s = .next t ∧ t.cmd d id = some x ∧ x.phase = .computed ∧ x.status = eDmaRead ∧
         x.detail / 256 = 16 * readPart p + readCause cause ∧ x.detail % 256 = (if p = .input && isList c.entry.inWord then index % 256 else 0)) ∧
     (s.admits d = true → s.fetchFrom d = some q →
       ∃ t, exec (.dmaReadFail (.entry d q) cause index) s = .next t ∧ ((t.dom d).queue q).state = .error ∧
         ((t.dom d).queue q).errorCause = readCause cause))

/-- COMMAND_START (R21, R48, R82, R100, R102, R189, R205, R353): a management command runs once the wardens start it, on a region where it has a KEYGEN job;
an operational command on the free block that the arbiter gives it when its domain is served, other than the one where it was ESCALATED (R187), where that
block has the cells that it needs, and a cell can unwrap the keys that the region still has to load; an ineligible key fails a twinned command. COMMAND_START
ends in a next state under conditions on the state and the operands alone. -/
def Obligations.CommandsStart : Prop :=
  ∀ (s : State) (d id r b : Nat) (c : Cmd), s.cmd d id = some c → s.working = true → s.mayStart d c = true →
    (s.twinIneligible d c = true →
      ∃ t x, exec (.commandStart d id r b) s = .next t ∧ t.cmd d id = some x ∧ c.Got (.error (eTwinIneligible, 0)) x) ∧
    (s.twinIneligible d c = false → c.entry.mgmt = true → s.wardenStarts = true →
      ∃ t x, exec (.commandStart d id r b) s = .next t ∧ t.cmd d id = some x ∧
        (match if s.keygenOf d c = [] then none else s.keygenRegion d c with
         | none => x = { c with phase := .running, ran := true }
         | some q => x = { c with phase := .running, ran := true, region := q, block := 0 })) ∧
    (∀ x h, s.twinIneligible d c = false → c.entry.mgmt = false → served (s.region r).lastBlockDom (s.candidates r) = some x → x.dom = d →
      s.headJob d r = some h → h.id = id → s.regionRuns r = true → s.blockFree r b = true →
      c.rerunBlock ≠ some (12 * r + b) → (EngineKind.cell ∈ unitsNeeded c → s.whole (12 * r + b) = true) →
      (s.mustLoad r d c.entry = true → (s.unwrapCell r b).isSome = true) →
      ∃ t y, exec (.commandStart d id r b) s = .next t ∧ t.cmd d id = some y ∧ y.phase = .running ∧ y.region = r ∧ y.block = b ∧
        (t.region r).lastBlockDom = d)

/-- COMMIT_POINT and CHAIN_LINK (R21, R24, R26, R62, R75, R76, R78): a computed command that no earlier command conflicts with commits: the change of a
QUEUE_ROUTE, a SEQ_GAP_SET, a QUORUM_SET, a PERF_GRANT or a CF_BIND is made. One that was executed again past its commit point changes no key, no
configuration and no order of its domain: its result is held against its commit record, and where it differs the command writes neither output nor completion
(the model's choice of the completion, log entry 64). In a warden gap a management command's commit is fenced: its write is dropped and counted (R352). A link
that is due gives the chain the digest of Table 3-4; that of a command aborted by a STRIKE comes after the reboot (R27). Each of COMMIT_POINT and CHAIN_LINK
ends in a next state under conditions on the state and the operands alone. -/
def Obligations.CommandsCommitAndLink : Prop :=
  ∀ (s : State) (d id : Nat) (check : EmberCheck) (c : Cmd), s.cmd d id = some c → s.working = true →
    ((s.dom d).mayCommit c = true → (c.entry.mgmt = true → s.guy.holding = false) → s.createWaits c = false → c.redo = false →
      ∃ t, exec (.commitPoint d ⟨id, check⟩) s = .next t ∧ t = s.commit d check c ∧
        (∀ q v n w, c.effects = [.queueRoute q v n w] → c.entry.opcode = 0x0104 →
          ((t.dom d).queue q).vector = v ∧ ((t.dom d).queue q).aggCount = n ∧ ((t.dom d).queue q).aggTime = w) ∧
        (∀ n, c.effects = [.gapTimeout n] → c.entry.opcode = 0x0106 → (t.dom d).gapTimeout = n) ∧
        (∀ x, c.effects = [.roster x] → c.entry.opcode = 0x0503 → (t.dom d).roster.quorum = x.quorum) ∧
        (∀ p, c.effects = [.perfGrant p true] → c.entry.opcode = 0x0801 → p ∈ t.perf.grants) ∧
        (∀ g x, c.effects = [.cfGroup d g x] → c.entry.opcode = 0x0C03 → (t.dom d).group g = x)) ∧
    ((s.dom d).mayCommit c = true → (c.entry.mgmt = true → s.guy.holding = false) → s.createWaits c = false → c.redo = true →
      ∃ t, exec (.commitPoint d ⟨id, check⟩) s = .next t ∧ (t.dom d).keys = (s.dom d).keys ∧ (t.dom d).conf = (s.dom d).conf ∧
        (t.dom d).seqNext = (s.dom d).seqNext ∧ (t.dom d).chainSeq = (s.dom d).chainSeq ∧
        (∀ st delta out x, c.commitRec = some (st, delta, out) → t.cmd d id = some x →
          x.phase ≠ .computed ∧ x.status = st ∧ x.output = out ∧ x.effects = [] ∧
            ((st, delta) ≠ (c.status, c.deltaOf (s.dom d)) → x.noPost = true))) ∧
    ((s.dom d).mayCommit c = true → s.createWaits c = false → c.entry.mgmt = true → s.guy.holding = true →
      ∃ t, exec (.commitPoint d ⟨id, check⟩) s = .next t ∧ t.guy.fenced = s.guy.fenced + 1 ∧ { t with guy := s.guy } = s) ∧
    ((s.dom d).linkable c = true → c.aborted = false ∨ s.tamper.striking = false →
      ∃ t, exec (.chainLink d id) s = .next t ∧ (t.dom d).chainSeq = c.seq ∧ (t.dom d).digest = sha384 (c.link (s.dom d).chain))

/-- The timers of the queues and of the host port (R49, R57, R62, R454, R462): SEQ_GAP_EXPIRY and AGG_TIME_EXPIRY pass to the instant at which they are due; a
message that an earlier routing owes comes first. COMPLETION_TIMEOUT fails its read, its bitmap's log or its exchange, and AER reports it;
UNEXPECTED_COMPLETION is counted, and changes no domain and no region. Each of SEQ_GAP_EXPIRY, AGG_TIME_EXPIRY, COMPLETION_TIMEOUT and UNEXPECTED_COMPLETION
ends in a next state under conditions on the state and the operands alone. -/
def Obligations.MailboxTimersAct : Prop :=
  ∀ (s : State) (d q since : Nat),
    let D := s.dom d
    let Q := D.queue q
    (D.gapSince = some since → D.waiting ≠ [] → D.waits D.seqNext = none →
      ∃ t, exec (.seqGapExpiry d) s = .next t ∧ t.now = max s.now (since + D.gapTimeout) ∧ (t.dom d).waiting = [] ∧ (t.dom d).gapSince = none ∧
        (d < 256 → bit (t.dom d).eventAck evSeqGap = true)) ∧
    (Q.owed = [] → Q.aggSince = some since → Q.aggTime ≠ 0 → Q.aggWaiting ≠ 0 →
      ∃ t, exec (.aggTimeExpiry d q) s = .next t ∧ t.now = max s.now (since + Q.aggTime * 1000) ∧ ((t.dom d).queue q).aggWaiting = 0 ∧
        ((t.dom d).queue q).aggSince = none) ∧
    (∀ v at_ l, Q.owed = (v, at_) :: l →
      ∃ t, exec (.aggTimeExpiry d q) s = .next t ∧ t.now = max s.now at_ ∧ ((t.dom d).queue q).owed = l) ∧
    (∀ w i u, s.readFailed w .timeout i = some u →
      exec (.completionTimeout (.read w i)) s = .next { u with host := { u.host with aer := u.host.aer ||| 4 } }) ∧
    (∀ w x, Tab.find (s.dom d).dirty.sent w = some x →
      ∃ t, exec (.completionTimeout (.atomic d w)) s = .next t ∧ (t.dom d).dirty.mode = .failed ∧ bit t.host.aer 2 = true) ∧
    (s.host.spdm.busy = true → ∃ t, exec (.completionTimeout .doe) s = .next t ∧ t.host.spdm.busy = false ∧ bit t.host.aer 2 = true) ∧
    (∀ tag, s.boot.powered = true → s.host.linkUp = true →
      ∃ t, exec (.unexpectedCompletion tag) s = .next t ∧ t.host.unexpected = s.host.unexpected + 1 ∧ t.doms = s.doms ∧ t.regions = s.regions)

/-! ### Instructions of the block cores -/

/-- R287: INT arithmetic is checked and BITS arithmetic wraps modulo 2^64; division by zero gives DIVZ; sums and differences of addresses and times are
checked over their ranges; every ERR result, those of shifts and of RETAG too, carries the address of the instruction in WHERE. Each of ADD, SUB, MUL, DIV,
REM, NEG, ADDI, SHL, ADDA, ADDAI, SUBA, TADD and TSUB ends in a next state under conditions on the state and the operands alone. -/
def Obligations.ArithmeticIsChecked : Prop :=
  let ii : List (List Tag) := [[.int, .int]]
  let bb : List (List Tag) := [[.bits, .bits]]
  let checked := fun (pc : BitVec 64) (v : Int) => if -(2 ^ 63) ≤ v ∧ v < 2 ^ 63 then kInt (BitVec.ofInt 64 v) else kErr errOvf pc
  let natural := fun (pc : BitVec 64) (mk : BitVec 64 → KWord) (v : Int) => if 0 ≤ v ∧ v < 2 ^ 64 then mk (BitVec.ofInt 64 v) else kErr errOvf pc
  AluRow .add 0x01 ii (fun pc x y => checked pc (x.val.toInt + y.val.toInt)) ∧ AluRow .add 0x01 bb (fun _ x y => kBits (x.val + y.val)) ∧
  AluRow .sub 0x02 ii (fun pc x y => checked pc (x.val.toInt - y.val.toInt)) ∧ AluRow .sub 0x02 bb (fun _ x y => kBits (x.val - y.val)) ∧
  AluRow .mul 0x03 ii (fun pc x y => checked pc (x.val.toInt * y.val.toInt)) ∧ AluRow .mul 0x03 bb (fun _ x y => kBits (x.val * y.val)) ∧
  AluRow .div 0x05 ii (fun pc x y => if y.val = 0 then kErr errDivz pc else checked pc (x.val.toInt.tdiv y.val.toInt)) ∧
  AluRow .div 0x05 bb (fun pc x y => if y.val = 0 then kErr errDivz pc else kBits (BitVec.ofNat 64 (x.val.toNat / y.val.toNat))) ∧
  AluRow .rem 0x06 ii (fun pc x y => if y.val = 0 then kErr errDivz pc else kInt (BitVec.ofInt 64 (x.val.toInt.tmod y.val.toInt))) ∧
  AluRow .rem 0x06 bb (fun pc x y => if y.val = 0 then kErr errDivz pc else kBits (BitVec.ofNat 64 (x.val.toNat % y.val.toNat))) ∧
  UnaryRow .neg 0x07 [[.int]] (fun pc x => checked pc (-x.val.toInt)) ∧ UnaryRow .neg 0x07 [[.bits]] (fun _ x => kBits (-x.val)) ∧
  ImmRow .addi 0x10 [[.int]] (fun pc x imm => checked pc (x.val.toInt + imm.toInt)) ∧
  ImmRow .addi 0x10 [[.bits]] (fun _ x imm => kBits (x.val + imm.signExtend 64)) ∧
  AluRow .shl 0x0C (ii ++ bb) (fun pc x y => shifted x y (fun v c => if 64 ≤ c then 0 else v <<< c) pc) ∧
  AluRow .adda 0x1C [[.addr, .int]] (fun pc x y => natural pc kAddr (x.val.toNat + y.val.toInt)) ∧
  ImmRow .addai 0x1D [[.addr]] (fun pc x imm => natural pc kAddr (x.val.toNat + imm.toInt)) ∧
  AluRow .suba 0x1E [[.addr, .addr]] (fun pc x y => checked pc ((x.val.toNat : Int) - y.val.toNat)) ∧
  AluRow .tadd 0x1F [[.time, .int]] (fun pc x y => natural pc kTime (x.val.toNat + y.val.toInt)) ∧
  AluRow .tsub 0x20 [[.time, .time]] (fun pc x y => checked pc ((x.val.toNat : Int) - y.val.toNat)) ∧
  (∀ (pc : BitVec 64) (x y : KWord) (f : BitVec 64 → Nat → BitVec 64), x.tag ≠ .err → (shifted x y f pc).tag = .err → shifted x y f pc = kErr errRange pc) ∧
  (∀ (pc : BitVec 64) (function : Bool) (x y : KWord) (n : Nat), x.tag ≠ .err → retagged pc function x n = .ok y → y.tag = .err → y = kErr errRange pc) ∧
  ∀ (code : Nat) (pc : BitVec 64), pc.toNat < 2 ^ 32 → (kErr code pc).tag = .err ∧ (kErr code pc).errWhere = pc.toNat

/-- R288: a shift follows four steps. A count of INT below zero gives ERR RANGE, whatever tag the shifted operand has; the count c is the count's value, read
as unsigned; where the shifted operand is BITS, c becomes c mod 128; for c of 64 and above SHL and SHR give 0 and SAR gives 64 copies of bit 63, and below
that the shift is the ordinary one. The result keeps the shifted operand's tag, and OVF is no result of a shift. Each of SHL, SHR, SAR, SHLI, SHRI and SARI
ends in a next state under conditions on the state and the operands alone. -/
def Obligations.ShiftsFollowFourSteps : Prop :=
  let tags : List (List Tag) := [[.int, .int], [.int, .bits], [.bits, .int], [.bits, .bits]]
  let shl := fun (v : BitVec 64) (c : Nat) => if 64 ≤ c then 0 else v <<< c
  let shr := fun (v : BitVec 64) (c : Nat) => if 64 ≤ c then 0 else v >>> c
  let sar := fun (v : BitVec 64) (c : Nat) => if 64 ≤ c then (if v.getLsbD 63 then BitVec.allOnes 64 else 0) else v.sshiftRight c
  AluRow .shl 0x0C tags (fun pc x y => shifted x y shl pc) ∧ AluRow .shr 0x0D tags (fun pc x y => shifted x y shr pc) ∧
  AluRow .sar 0x0E tags (fun pc x y => shifted x y sar pc) ∧
  ImmRow .shli 0x14 [[.int], [.bits]] (fun pc x imm => shifted x (kInt (imm.signExtend 64)) shl pc) ∧
  ImmRow .shri 0x15 [[.int], [.bits]] (fun pc x imm => shifted x (kInt (imm.signExtend 64)) shr pc) ∧
  ImmRow .sari 0x16 [[.int], [.bits]] (fun pc x imm => shifted x (kInt (imm.signExtend 64)) sar pc)

/-- Logic, the high half of the unsigned product, carry-less products, and constants with LIH and MKERR (R286, R289). Compares (R286, R290): of two words of
one tag that each allows, to a BOOL. Each of MULHU, AND, OR, XOR, NOT, ANDI, ORI, XORI, CLMUL, CLMULH, LI, LIB, LIH, MKERR, CEQ, CNE, CLT, CLE, CLTU and CLEU
ends in a next state under conditions on the state and the operands alone. -/
def Obligations.LogicAndAddressesCompute : Prop :=
  (let bb : List (List Tag) := [[.bits, .bits]]
   let lg : List (List Tag) := [[.bits, .bits], [.bool, .bool]]
   AluRow .mulhu 0x04 bb (fun _ x y => kBits (BitVec.ofNat 64 (x.val.toNat * y.val.toNat / 2 ^ 64))) ∧
   AluRow .and 0x08 lg (fun _ x y => { tag := x.tag, val := x.val &&& y.val }) ∧
   AluRow .or 0x09 lg (fun _ x y => { tag := x.tag, val := x.val ||| y.val }) ∧
   AluRow .xor 0x0A lg (fun _ x y => { tag := x.tag, val := x.val ^^^ y.val }) ∧
   UnaryRow .not 0x0B [[.bits]] (fun _ x => kBits (~~~x.val)) ∧ UnaryRow .not 0x0B [[.bool]] (fun _ x => kBool (x.val = 0)) ∧
   ImmRow .andi 0x11 [[.bits]] (fun _ x imm => kBits (x.val &&& imm.signExtend 64)) ∧
   ImmRow .ori 0x12 [[.bits]] (fun _ x imm => kBits (x.val ||| imm.signExtend 64)) ∧
   ImmRow .xori 0x13 [[.bits]] (fun _ x imm => kBits (x.val ^^^ imm.signExtend 64)) ∧
   AluRow .clmul 0x36 bb (fun _ x y => kBits (clWord x.val y.val 0)) ∧ AluRow .clmulh 0x37 bb (fun _ x y => kBits (clWord x.val y.val 64)) ∧
   ∀ (s : State) (k : Nat) (rd : BitVec 5) (imm : BitVec 19) (h : BitVec 2) (half : BitVec 16),
     (s.Executes k (wordU 0x18 rd imm) → exec (.li k rd imm) s = .next (s.wrote k rd (kInt (imm.signExtend 64)))) ∧
     (s.Executes k (wordU 0x19 rd imm) → exec (.lib k rd imm) s = .next (s.wrote k rd (kBits (imm.zeroExtend 64)))) ∧
     (s.Executes k (wordH 0x1A rd h half) → ((s.core k).reg rd).tag = .bits →
       exec (.lih k rd h half) s = .next (s.wrote k rd
         (kBits (BitVec.ofNat 64 (setBytes ((s.core k).reg rd).val.toNat (2 * h.toNat) 2 half.toNat))))) ∧
     (s.Executes k (wordU 0x1B rd imm) → 0x100 ≤ imm.toNat → imm.toNat ≤ 0xFFFF →
       exec (.mkerr k rd imm) s = .next (s.wrote k rd (kErr imm.toNat (s.core k).pc)))) ∧
  (let same : List (List Tag) := [[.bits, .bits], [.int, .int], [.bool, .bool], [.addr, .addr], [.handle, .handle], [.time, .time]]
   let unsigned : List (List Tag) := [[.bits, .bits], [.addr, .addr]]
   AluRow .ceq 0x28 same (fun _ x y => kBool (x.val = y.val)) ∧ AluRow .cne 0x29 same (fun _ x y => kBool (x.val ≠ y.val)) ∧
   AluRow .clt 0x2A [[.int, .int]] (fun _ x y => kBool (x.val.toInt < y.val.toInt)) ∧
   AluRow .clt 0x2A [[.time, .time]] (fun _ x y => kBool (x.val.toNat < y.val.toNat)) ∧
   AluRow .cle 0x2B [[.int, .int]] (fun _ x y => kBool (x.val.toInt ≤ y.val.toInt)) ∧
   AluRow .cle 0x2B [[.time, .time]] (fun _ x y => kBool (x.val.toNat ≤ y.val.toNat)) ∧
   AluRow .cltu 0x2C unsigned (fun _ x y => kBool (x.val.toNat < y.val.toNat)) ∧
   AluRow .cleu 0x2D unsigned (fun _ x y => kBool (x.val.toNat ≤ y.val.toNat)))

/-- SEL, MOV, RETAG, TAGOF and ERRCODE (R284, R290, R291); and what ERR words do: the first ERR operand is passed on, and a compare traps ERR_CONSUMED.
Branches and jumps (R282, R286): offsets count instructions from the branch itself. Each of SEL, MOV, RETAG, TAGOF, ERRCODE, ADD, CEQ, BT, BF, J, JAL, JR,
JALR and LEAC ends in a next state under conditions on the state and the operands alone. -/
def Obligations.WordsMoveAndBranchesJump : Prop :=
  (∀ (s : State) (k : Nat) (rd a b c : BitVec 5) (n : BitVec 4),
     let K := s.core k
     let held := fun (r : BitVec 5) => (K.reg r).tag ≠ .empty ∧ (K.reg r).tag.illegal = false
     (s.Executes k (wordR 0x2E rd a b c 0) → held b → held c → (K.reg a).tag = .bool →
       exec (.sel k rd a b c) s = .next (s.wrote k rd (if (K.reg a).val = 1 then K.reg b else K.reg c))) ∧
     (s.Executes k (wordR 0x2E rd a b c 0) → held b → held c → (K.reg a).tag = .err → exec (.sel k rd a b c) s = .next (s.wrote k rd (K.reg a))) ∧
     (s.Executes k (wordRR 0x30 rd a 0) → held a → exec (.mov k rd a) s = .next (s.wrote k rd (K.reg a))) ∧
     (∀ x, s.Executes k (wordR 0x31 rd a 0 0 n) → n.toNat < 8 → held a → (K.reg a).tag ≠ .err → retagged K.pc K.function (K.reg a) n.toNat = .ok x →
       exec (.retag k rd a n) s = .next (s.wrote k rd x)) ∧
     (s.Executes k (wordR 0x31 rd a 0 0 n) → n.toNat < 8 → (K.reg a).tag = .err → exec (.retag k rd a n) s = .next (s.wrote k rd (K.reg a))) ∧
     (s.Executes k (wordRR 0x32 rd a 0) → (K.reg a).tag.illegal = false →
       exec (.tagof k rd a) s = .next (s.wrote k rd (kInt (BitVec.ofNat 64 (K.reg a).tag.number)))) ∧
     (s.Executes k (wordRR 0x33 rd a 0) → (K.reg a).tag = .err →
       exec (.errcode k rd a) s = .next (s.wrote k rd (kInt (BitVec.ofNat 64 (K.reg a).errCode)))) ∧
     (s.Executes k (wordRR 0x01 rd a b) → held a → held b → (K.reg a).tag = .err → exec (.add k rd a b) s = .next (s.wrote k rd (K.reg a))) ∧
     (s.Executes k (wordRR 0x01 rd a b) → held a → held b → (K.reg a).tag ≠ .err → (K.reg b).tag = .err →
       exec (.add k rd a b) s = .next (s.wrote k rd (K.reg b))) ∧
     (s.Executes k (wordRR 0x28 rd a b) → held a → held b → (K.reg a).tag = .err → K.function = false → K.inTrap = false →
       ∃ t, exec (.ceq k rd a b) s = .next t ∧
         K.Entered (t.core k) (BitVec.ofNat 64 ((K.reg a).errCode * 2 ^ 16 + 6 * 2 ^ 12 + 5)) (BitVec.ofNat 64 (K.reg a).errWhere)) ∧
     (∀ x, K.reg 0 = kInt 0 ∧ K.set 0 x = K)) ∧
  (∀ (s : State) (k : Nat) (r : BitVec 5) (off : BitVec 19) (far : BitVec 24),
     let K := s.core k
     let there := fun (n : Int) => K.pc + BitVec.ofInt 64 (4 * n)
     let next := K.pc + 4
     (s.Executes k (wordU 0x50 r off) → (K.reg r).tag = .bool →
       exec (.bt k r off) s = .next (s.became k { K with pc := if (K.reg r).val = 1 then there off.toInt else next })) ∧
     (s.Executes k (wordU 0x51 r off) → (K.reg r).tag = .bool →
       exec (.bf k r off) s = .next (s.became k { K with pc := if (K.reg r).val = 1 then next else there off.toInt })) ∧
     (s.Executes k (wordJ 0x52 far) → exec (.j k far) s = .next (s.became k { K with pc := there far.toInt })) ∧
     (s.Executes k (wordJ 0x53 far) → exec (.jal k far) s = .next (s.became k { K.set 30 (kCode next) with pc := there far.toInt })) ∧
     (s.Executes k (wordR 0x54 0 r 0 0 0) → (K.reg r).tag = .code → exec (.jr k r) s = .next (s.became k { K with pc := (K.reg r).val })) ∧
     (s.Executes k (wordR 0x55 0 r 0 0 0) → (K.reg r).tag = .code →
       exec (.jalr k r) s = .next (s.became k { K.set 30 (kCode next) with pc := (K.reg r).val })) ∧
     (s.Executes k (wordU 0x56 r off) → exec (.leac k r off) s = .next (s.wrote k r (kCode (there off.toInt)))))

/-- Loads and stores (R278, R279): a word moves with its tag, a byte within a word of BITS; the address is the base register's plus the immediate; nothing but
the word addressed changes in memory; a misaligned word access traps ALIGN. Each of LDW, LDB, STW and STB ends in a next state under conditions on the state
and the operands alone. -/
def Obligations.LoadsAndStoresAct : Prop :=
  ∀ (s : State) (k a : Nat) (rd r : BitVec 5) (imm : BitVec 14),
    let K := s.core k
    (K.reg r).tag = .addr → ((K.reg r).val.toNat : Int) + imm.toInt = a → a < 2 ^ 64 →
    let w := s.word k (a / 8 * 8)
    let stored := fun (u : State) => (∀ x, x ≠ a / 8 → inLocal (8 * x) 8 = true ∨ inWindow (8 * x) 8 = true → u.word k (8 * x) = s.word k (8 * x)) ∧
      { u.core k with mem := K.mem } = K.advance
    (s.Executes k (wordI 0x40 rd r imm) → s.reach k .read a 8 = .ok () → w.tag ≠ .empty → w.tag.illegal = false →
      exec (.ldw k rd r imm) s = .next (s.wrote k rd w)) ∧
    (s.Executes k (wordI 0x42 rd r imm) → s.reach k .read a 1 = .ok () → w.tag = .bits →
      exec (.ldb k rd r imm) s = .next (s.wrote k rd (kBits ((s.byte k a).zeroExtend 64)))) ∧
    (s.Executes k (wordI 0x41 rd r imm) → s.mayStore k a 2 (K.reg rd) = .ok () → (K.reg rd).tag ∉ [Tag.empty, .err] → (K.reg rd).tag.illegal = false →
      ∃ u : State, exec (.stw k rd r imm) s = .next (u.retire k K.function) ∧ u.word k a = K.reg rd ∧ stored u) ∧
    (s.Executes k (wordI 0x43 rd r imm) → s.mayStoreByte k a = .ok () → (K.reg rd).tag = .bits →
      ∃ u : State, exec (.stb k rd r imm) s = .next (u.retire k K.function) ∧ u.byte k a = (K.reg rd).val.truncate 8 ∧ (u.word k (a / 8 * 8)).tag = .bits ∧
        (∀ x, x / 8 = a / 8 → x ≠ a → w.tag = .bits → u.byte k x = s.byte k x) ∧ stored u) ∧
    (s.Executes k (wordI 0x40 rd r imm) → a % 8 ≠ 0 → K.inTrap = false →
      ∃ t, exec (.ldw k rd r imm) s = .next t ∧ K.Entered (t.core k) 7 (BitVec.ofNat 64 a))

/-- Stream instructions (R292, R293): without a prefix, one performs one element of [SRC] and [DST], or of [DST] and RS, advances the pointers that it uses
and leaves CNT; fields that are no instruction trap ILLEGAL_INSN (R282). SPAN (R292, R294): the prefix holds the pc where it stands (log entry 30); the pair
of a prefix and an SCMP of words then performs elements, each counting CNT down; a run leaves with CNT 0, or at the element whose comparison STOP names, with
CNT and the pointers unchanged. Each of SCOPY, SFILL, SCMP, SFIND, SXOR, SEXCH and SPAN ends in a next state under conditions on the state and the operands
alone. -/
def Obligations.StreamsMoveElements : Prop :=
  (∀ (s : State) (k : Nat) (rd rs : BitVec 5) (word : Bool),
     let K := s.core k
     let src := (K.reg 28).val.toNat
     let dst := (K.reg 29).val.toNat
     let size : BitVec 64 := if word then 8 else 1
     let free := fun (r : BitVec 5) => r ≠ 27 ∧ r ≠ 28 ∧ r ≠ 29
     let runs := fun (i : Instr) (op : Nat) (rd rs : BitVec 5) (e source : Bool) (P : State → Prop) =>
       s.Executes k (wordS op rd rs word e) → (K.reg 29).tag = .addr → (source = true → (K.reg 28).tag = .addr) →
       ∃ u : State, exec i s = .next (u.retire k K.function) ∧ (u.core k).pc = K.pc + 4 ∧ (u.core k).reg 29 = kAddr ((K.reg 29).val + size) ∧
         (u.core k).reg 28 = (if source then kAddr ((K.reg 28).val + size) else K.reg 28) ∧ (u.core k).reg 27 = K.reg 27 ∧ P u
     (∀ w, word = true → s.loadWord k src = .ok w → s.mayStore k dst 4 w = .ok () →
       runs (.scopy k 0 0 word false) 0x68 0 0 false true fun u => u.word k dst = w) ∧
     (∀ b, word = false → s.loadByte k src = .ok b → s.mayStoreByte k dst = .ok () →
       runs (.scopy k 0 0 word false) 0x68 0 0 false true fun u => u.byte k dst = b) ∧
     (word = true → free rs → (K.reg rs).tag ∉ [Tag.empty, .err] → (K.reg rs).tag.illegal = false → s.mayStore k dst 1 (K.reg rs) = .ok () →
       runs (.sfill k 0 rs word false) 0x69 0 rs false false fun u => u.word k dst = K.reg rs) ∧
     (word = true → s.mayStore k dst 1 {} = .ok () → runs (.sfill k 0 0 word true) 0x69 0 0 true false fun u => (u.word k dst).tag = .empty) ∧
     (word = false → free rs → (K.reg rs).tag = .bits → s.mayStoreByte k dst = .ok () →
       runs (.sfill k 0 rs word false) 0x69 0 rs false false fun u => u.byte k dst = (K.reg rs).val.truncate 8) ∧
     (∀ a b, word = true → rd ≠ 0 → free rd → s.loadWord k src = .ok a → s.loadWord k dst = .ok b →
       runs (.scmp k rd 0 word false) 0x6A rd 0 false true fun u => (u.core k).reg rd = kBool (a = b) ∧ (u.core k).mem = K.mem) ∧
     (∀ a b, word = false → rd ≠ 0 → free rd → s.loadByte k src = .ok a → s.loadByte k dst = .ok b →
       runs (.scmp k rd 0 word false) 0x6A rd 0 false true fun u => (u.core k).reg rd = kBool (a = b) ∧ (u.core k).mem = K.mem) ∧
     (∀ b, word = true → rd ≠ 0 → free rd → free rs → (K.reg rs).tag ∈ [Tag.bits, .int, .bool, .addr, .handle, .time] → s.loadWord k dst = .ok b →
       runs (.sfind k rd rs word false) 0x6B rd rs false false fun u => (u.core k).reg rd = kBool (b = K.reg rs)) ∧
     (∀ b, word = false → rd ≠ 0 → free rd → free rs → (K.reg rs).tag = .bits → s.loadByte k dst = .ok b →
       runs (.sfind k rd rs word false) 0x6B rd rs false false fun u => (u.core k).reg rd = kBool (b.zeroExtend 64 = (K.reg rs).val)) ∧
     (∀ a b, word = true → s.loadWord k src = .ok a → s.loadWord k dst = .ok b → a.tag = .bits → b.tag = .bits → s.mayStore k dst 4 b = .ok () →
       runs (.sxor k 0 0 word false) 0x6C 0 0 false true fun u => u.word k dst = kBits (a.val ^^^ b.val)) ∧
     (∀ a b, word = false → s.loadByte k src = .ok a → s.loadByte k dst = .ok b → s.mayStoreByte k dst = .ok () →
       runs (.sxor k 0 0 word false) 0x6C 0 0 false true fun u => u.byte k dst = a ^^^ b) ∧
     (∀ a b, word = true → s.loadWord k src = .ok a → s.loadWord k dst = .ok b → s.mayStore k src 4 b = .ok () → s.mayStore k dst 4 a = .ok () →
       runs (.sexch k 0 0 word false) 0x6D 0 0 false true fun u => u.word k src = b ∧ u.word k dst = a) ∧
     (∀ a b, word = false → s.loadByte k src = .ok a → s.loadByte k dst = .ok b → s.mayStoreByte k src = .ok () → s.mayStoreByte k dst = .ok () →
       runs (.sexch k 0 0 word false) 0x6D 0 0 false true fun u => u.byte k src = b ∧ u.byte k dst = a) ∧
     (∀ e : Bool,
       let trapped := fun (i : Instr) (op : Nat) => s.Executes k (wordS op rd rs word e) → K.inTrap = false →
         ∃ t, exec i s = .next t ∧ K.Entered (t.core k) 1 (BitVec.ofNat 64 (wordS op rd rs word e))
       (rd ≠ 0 ∨ rs ≠ 0 ∨ e = true → trapped (.scopy k rd rs word e) 0x68 ∧ trapped (.sxor k rd rs word e) 0x6C ∧ trapped (.sexch k rd rs word e) 0x6D) ∧
       (rd ≠ 0 ∨ ¬ free rs ∨ (e = true ∧ (word = false ∨ rs ≠ 0)) → trapped (.sfill k rd rs word e) 0x69) ∧
       (rd = 0 ∨ ¬ free rd ∨ rs ≠ 0 ∨ e = true → trapped (.scmp k rd rs word e) 0x6A) ∧
       (rd = 0 ∨ ¬ free rd ∨ ¬ free rs ∨ e = true → trapped (.sfind k rd rs word e) 0x6B))) ∧
  (∀ (s : State) (k : Nat) (rd : BitVec 5) (stop : BitVec 2),
     let K := s.core k
     let n := (K.reg 27).val
     (s.Executes k (wordP 0x6F stop) → stop ≠ 3 →
       exec (.span k stop) s = .next (s.setCore k fun K => { K with span := some stop.toNat })) ∧
     (∀ a b, s.coreWaits k = false → K.span = some stop.toNat → stop ≠ 3 → s.fetchInsn k (K.pc.toNat + 4) (wordS 0x6A rd 0 true false) = .ok true →
       rd ≠ 0 → rd ≠ 27 → rd ≠ 28 → rd ≠ 29 → (K.reg 27).tag = .int → 0 ≤ n.toInt → (K.reg 28).tag = .addr → (K.reg 29).tag = .addr →
       s.loadWord k (K.reg 28).val.toNat = .ok a → s.loadWord k (K.reg 29).val.toNat = .ok b →
       (n = 0 → exec (.scmp k rd 0 true false) s = .next (s.became k { K with pc := K.pc + 8, span := none })) ∧
       (n ≠ 0 → ∃ u : State, exec (.scmp k rd 0 true false) s = .next (u.retire k K.function) ∧ (u.core k).reg rd = kBool (a = b) ∧
         (if (stop = 1 ∧ a ≠ b) ∨ (stop = 2 ∧ a = b) then
           (u.core k).reg 27 = K.reg 27 ∧ (u.core k).reg 28 = K.reg 28 ∧ (u.core k).reg 29 = K.reg 29 ∧ (u.core k).pc = K.pc + 8 ∧ (u.core k).span = none
         else
           (u.core k).reg 27 = kInt (n - 1) ∧ (u.core k).reg 28 = kAddr ((K.reg 28).val + 8) ∧ (u.core k).reg 29 = kAddr ((K.reg 29).val + 8) ∧
             (if n = 1 then (u.core k).pc = K.pc + 8 ∧ (u.core k).span = none else (u.core k).pc = K.pc ∧ (u.core k).span = some stop.toNat)))))

/-- CSRR and CSRW, RSWAP and ERET (R300, R301, R312): a CSR of Table 11-11 is read with its tag, in FUNCTION mode where the counter rules let it, and takes a
word of its tag in FIRMWARE mode; RSWAP exchanges the rule sets and clears the former active one; ERET restores MODE and IE and clears INTRAP. RSWAP and ERET
trap PRIV in FUNCTION mode. Each of CSRR, CSRW, RSWAP and ERET ends in a next state under conditions on the state and the operands alone. -/
def Obligations.SystemInstructionsAct : Prop :=
  ∀ (s : State) (k : Nat) (rd : BitVec 5) (n : BitVec 14),
    let K := s.core k
    (∀ g, s.Executes k (wordI 0x90 rd 0 n) → csrTag n.toNat = some g → K.function = false ∨ s.mayRead k n.toNat = true →
      exec (.csrr k rd n) s = .next (s.wrote k rd { tag := g, val := s.csr k n.toNat })) ∧
    (∀ g, s.Executes k (wordI 0x91 rd 0 n) → csrTag n.toNat = some g → K.function = false → (K.reg rd).tag = g →
      exec (.csrw k rd n) s = .next (s.became k (K.setCsr n.toNat (K.reg rd).val).advance)) ∧
    (s.Executes k 0x92 → K.function = false → exec (.rswap k) s = .next (s.became k { K with active := K.standby, standby := [], pc := K.pc + 4 })) ∧
    (s.Executes k 0x93 → K.function = false →
      ∃ L, exec (.eret k) s = .next (s.became k L) ∧ L.pc = K.tpc ∧ L.function = K.tstatus.getLsbD 4 ∧ L.enabled = K.tstatus.getLsbD 1 ∧ L.inTrap = false ∧
        L.regs = K.regs) ∧
    (K.function = true → K.inTrap = false →
      (s.Executes k 0x92 → ∃ t, exec (.rswap k) s = .next t ∧ K.Entered (t.core k) 9 0x92) ∧
      (s.Executes k 0x93 → ∃ t, exec (.eret k) s = .next t ∧ K.Entered (t.core k) 9 0x93))

/-- Traps and interrupts (R205, R279, R300, R301, R303, R433): ILLEGAL_INSN, for a word that is no instruction, behind a prefix too; TIMER, which no lower
interrupt precedes; and CANCEL enter the handler; PERF writes a sample, is no longer pending, counts its entry and returns. CANCEL leaves no job-scoped cache
entry of its core, and ends its invocation. While one of them is taken first, no instruction of the core runs. Each of ILLEGAL_INSN, TIMER, PERF, CANCEL and
ADD ends in a next state under conditions on the state and the operands alone. -/
def Obligations.TrapsEnterTheHandler : Prop :=
  ∀ (s : State) (k : Nat) (w : BitVec 32),
    let K := s.core k
    (s.coreWaits k = false → s.fetchInsn k (K.pc.toNat + (if K.span.isSome then 4 else 0)) w.toNat = .ok true → validWord w.toNat = false →
      K.inTrap = false → ∃ t, exec (.illegalInsn k w) s = .next t ∧ K.Entered (t.core k) 1 (BitVec.ofNat 64 w.toNat)) ∧
    (s.coreRuns k = true → K.takes 3 = true → s.timerPending k = true → s.cancelDue k = false → s.perfDue k = false →
      ∃ t, exec (.timer k) s = .next t ∧ K.Entered (t.core k) 0x123 (s.cycleOf k)) ∧
    (s.coreRuns k = true → s.perfDue k = true → s.cancelDue k = false →
      ∃ u : State, let t := u.count 0 k 0x13 (u.coreDom k) 1
        exec (.perfInterrupt k) s = .next t ∧ (Tab.get t.perf.samples [] k).getLast? = some (s.sampleOf k) ∧ (t.core k).pc = K.pc ∧
          (t.core k).regs = K.regs ∧ (u.core k).ipend.getLsbD 2 = false) ∧
    (s.coreRuns k = true → s.cancelDue k = true → K.inTrap = false →
      ∃ t, exec (.cancel k) s = .next t ∧ K.Entered (t.core k) 0x120 0 ∧ (t.core k).invocations = K.invocations.drop 1 ∧
        ∀ e ∈ (t.region (k / 12)).cache, e.scope ≠ some k) ∧
    (s.interruptFirst k = true → ∀ rd a b : BitVec 5, exec (.add k rd a b) s = .next s)

/-- Engine calls (R296, R297): a descriptor becomes a job, whose ticket names its slot and generation; EWAIT takes the STATUS of an ended job and frees its
slot; EWAITA names the one that ended first. Each of ENQC, ENQL, ENQH, EWAIT and EWAITA ends in a next state under conditions on the state and the operands
alone. -/
def Obligations.EngineCallsAct : Prop :=
  ∀ (s : State) (k : Nat) (rd r : BitVec 5),
    let K := s.core k
    let a := (K.reg r).val.toNat
    let d := s.descriptor k a
    let called := fun (i : Instr) (op : Nat) (kind : EngineKind) =>
      s.Executes k (wordR op rd r 0 0 0) → (K.reg r).tag = .addr → a % 64 = 0 → inLocal a 64 = true → s.allows k .read a 64 = true →
      (∀ x ∈ descRanges kind d, s.allows k x.2.2 x.1 x.2.1 = true) → K.jobs.length < 32 →
      ∃ (u : State) (j : Job), exec i s = .next (u.retire k K.function) ∧ j ∈ (u.core k).jobs ∧ j.kind = kind ∧ j.desc = a ∧ j.words = d ∧ (u.core k).pc = K.pc + 4 ∧
        (rd ≠ 0 → (u.core k).reg rd = kBits (BitVec.ofNat 64 (ticketOf j.slot j.gen)))
    called (.enqc k rd r) 0x80 .cell ∧ called (.enql k rd r) 0x81 .liu ∧ called (.enqh k rd r) 0x82 .hash ∧
    (∀ j, s.Executes k (wordR 0x84 rd r 0 0 0) → (K.reg r).tag = .bits → K.jobs.find? (fun j => ticketOf j.slot j.gen = a) = some j →
      (j.ended = none → exec (.ewait k rd r) s = .next s) ∧
      (j.ended ≠ none → exec (.ewait k rd r) s = .next (s.became k (({ K with
          jobs := K.jobs.filter (fun x => x.slot ≠ j.slot), gens := Tab.put K.gens 0 j.slot ((j.gen + 1) % 256) } : Core).set rd (kBits j.status)).advance))) ∧
    (∀ j, s.Executes k (wordR 0x85 rd 0 0 0 0) → K.oldestEnded = some j →
      exec (.ewaita k rd) s = .next (s.wrote k rd (kBits (BitVec.ofNat 64 (ticketOf j.slot j.gen)))))

/-! ### Engines at work -/

/-- Ends of engine work (R171, R172, R175, R177, R178, R207, R210, R216, R299). CELL_RUN_END leaves a job one run shorter: the run's blocks stand at DST, and
its cell clears its key register. CELL_JOB_END, LIU_JOB_END and HASH_JOB_END end a job with its STATUS, and a job of Efori's for a command of its own (R194)
is over; the LIU's context is to be scrubbed. LIU_SEGMENT_END lets the LIU choose, but for a short job. LIU_SCRUB_END frees a context that the read-back
verifies; else the scrub is repeated, and the LIU is out of service. Each of CELL_RUN_END, CELL_JOB_END, LIU_SEGMENT_END, LIU_JOB_END, LIU_SCRUB_END and
HASH_JOB_END ends in a next state under conditions on the state and the operands alone. -/
def Obligations.EngineRunsEnd : Prop :=
  ∀ (s : State) (n x : Nat),
    (∀ j, s.islandRuns (n / 24) = true → s.atWork n = true → s.job (n / 24) (s.cell n).job = some j →
      let c := s.cell n
      let size := cellSize j.words
      let a := valAt j.words 3 + size * c.from_
      let out := ((cellOutput j.words c.key j.input).drop (size * c.from_)).take (size * c.blocks)
      ∃ u j', exec (.cellRunEnd n) s = .next u ∧ u.job (n / 24) c.job = some j' ∧ j'.runs = j.runs - 1 ∧ j'.ended = j.ended ∧
        (j.firmware = false → c.core = n / 24 → inLocal a out.length = true → u.bytesAt (n / 24) a out.length = out) ∧
        ((∀ i ∈ (s.core (n / 24)).jobs, i.waiting = []) → j.serial = false → (u.cell n).state = .clearing ∧ (u.cell n).key = [])) ∧
    (∀ j, s.islandRuns n = true → s.job n x = some j → j.kind = .cell → j.ended = none → j.runs = 0 →
      let status := j.blocks % 2 ^ 32 * 2 ^ 32 + j.retries % 2 ^ 16 * 2 ^ 16
      ∃ u, exec (.cellJobEnd n x) s = .next u ∧ u = s.endJob n x status ∧
        (j.firmware = true → u.job n x = none) ∧
        (j.firmware = false → inLocal j.desc 64 = true → j.desc % 8 = 0 → u.word n (j.desc + 56) = kBits (BitVec.ofNat 64 status) ∧
          ∃ j', u.job n x = some j' ∧ j'.ended.isSome = true ∧ j'.status = BitVec.ofNat 64 status)) ∧
    (∀ c k j, s.serving n = some (c, k, j) → s.liuRuns n = true →
      ∃ u j', exec (.liuSegmentEnd n) s = .next u ∧ u.job k j.slot = some j' ∧ j'.ended = j.ended ∧ (j.short = true → u.lius = s.lius) ∧
        (j.short = false → j'.since = s.now)) ∧
    (∀ c k j, s.serving n = some (c, k, j) → s.liuRuns n = true →
      ∃ u, exec (.liuJobEnd n c) s = .next u ∧ Tab.get (u.liu n).contexts 0 c = 2 ∧
        (j.firmware = true → u.job k j.slot = none) ∧
        (j.firmware = false → ∃ j', u.job k j.slot = some j' ∧ j'.ended.isSome = true ∧
          (∀ st, s.liuCompute k j.words = .refused st → j'.status = BitVec.ofNat 64 (st % 2 ^ 16 * 2 ^ 32 + j.retries % 256 * 256 + 0x04)) ∧
          (∀ out z verdict reason, s.liuCompute k j.words = .done out z verdict reason →
            j'.status = BitVec.ofNat 64 (out.length % 2 ^ 32 * 2 ^ 32 + verdict * 2 ^ 24 + reason * 2 ^ 16 + j.retries % 256 * 256)))) ∧
    (s.liuRuns n = true → Tab.get (s.liu n).contexts 0 x = 2 → s.jobsWaiting (n / 4) .liu = [] →
      ∃ u, exec (.liuScrubEnd n x true) s = .next u ∧ Tab.get (u.liu n).contexts 0 x = 0) ∧
    (s.liuRuns n = true → Tab.get (s.liu n).contexts 0 x = 2 →
      ∃ u, exec (.liuScrubEnd n x false) s = .next u ∧ (u.liu n).state ≠ .service ∧ Tab.get (u.liu n).contexts 0 x = 2) ∧
    (∀ k i j, (s.hash n).busy = some (k, i) → s.job k i = some j → s.hashRuns n = true →
      let w := j.words
      let key := match s.keyNamed k (valAt w 1) with | .stored _ v => v | .scoped v => v | _ => []
      let out := hashResult w key (s.bytesAt k (valAt w 2) (hashIn w))
      ∃ u, exec (.hashJobEnd n) s = .next u ∧
        (j.firmware = true → u.job k i = none) ∧
        (j.firmware = false → ∃ j', u.job k i = some j' ∧ j'.ended.isSome = true ∧
          (hashKind w = 0 → j'.status = BitVec.ofNat 64 (out.length * 2 ^ 32)) ∧ (hashKind w = 1 → j'.status = 0) ∧
          (2 ≤ hashKind w → j'.status = BitVec.ofNat 64 (2 ^ 24 * b2n (out.take (hashOut w) = s.bytesAt k (valAt w 3) (hashOut w))))))

/-- Unit faults (R176, R186 to R189, R214, R215, R279, R300, R364 to R366), while no storm of mismatch reports is complete (R369 source 7). CELL_MISMATCH,
CELL_AGE_OUT: a run that fails on its first or second cell goes on with a retry, its rest waiting or on another cell; the third failure within a second, or
the second age-out, takes a cell out of service. LIU_CHECK_FAIL, HASH_LANE_MISMATCH: the third of a unit's checks takes the unit out of service; the third
unit that a job fails on ends it. CELL_SELF_TEST, LIU_SELF_TEST, HASH_SELF_TEST, BLOCK_SELF_TEST and REGION_SELF_TEST return a unit to service, or retire it.
WATCHDOG takes a block out of service, its interrupt entered or, in a handler or behind a CANCEL, pending; an error of one bit in a core's memory is corrected
and counted, and one of two takes the block out of service. REGION_ISOLATE takes a region out of service, past the boot; it comes back after 30 ms with a
passed self test and 3 blocks in service. Each of CELL_MISMATCH, CELL_AGE_OUT, CELL_SELF_TEST, LIU_CHECK_FAIL, LIU_SELF_TEST, HASH_LANE_MISMATCH,
HASH_SELF_TEST, WATCHDOG, BLOCK_SELF_TEST, REGION_ISOLATE and REGION_SELF_TEST ends in a next state under conditions on the state and the operands alone. -/
def Obligations.UnitFaultsAct : Prop :=
  ∀ (s : State) (n m : Nat) (ok : Bool), s.tamper.reports.length + 1 < s.tamper.stormCount →
    let c := s.cell n
    let k := n / 24
    let away := fun (t : UnitState) (q : Nat) => t = if q + 1 ≥ 4 then UnitState.retired else UnitState.quarantined
    (∀ j, s.islandRuns k = true → s.atWork n = true → m < c.blocks → s.job k c.job = some j →
      let tried := j.tried ++ [(c.run, n % 24)]
      let three := ((List.range 24).filter fun i => tried.contains (c.run, i)).length ≥ 3
      let rest := (c.run, c.from_ + m, c.blocks - m)
      ∀ i aged v, ((i = Instr.cellMismatch n m ∧ aged = false ∧ v = s.runFor n (leadCycles (s.jobWords n) + s.blockTimes n (m + 2))) ∨
          (i = Instr.cellAgeOut n m ∧ aged = true ∧ v = s.runFor n (if m = 0 then s.blockTimes n 4 else leadCycles (s.jobWords n) + s.blockTimes n (m + 5)))) →
        ∃ u, exec i s = .next u ∧
          (¬ three → ∃ j', u.job k c.job = some j' ∧ j'.retries = j.retries + 1 ∧ j'.tried = tried ∧ j'.ended = j.ended ∧
            (rest ∈ j'.waiting ∨ ∃ e, e ≠ n ∧ e / 24 = k ∧ (u.cell e).state = .loading ∧ (u.cell e).job = c.job ∧
              ((u.cell e).run, (u.cell e).from_, (u.cell e).blocks) = rest)) ∧
          (three → (s.block k).state = .service → u.job k c.job = none) ∧
          ((v.recent c.misses).length ≥ 3 ∨ (aged = true ∧ (v.recent c.ages).length ≥ 2) →
            (u.cell n).state = if c.quarantines + 1 ≥ 4 then .retired else .quarantined)) ∧
    (s.running = true → c.state = .quarantined →
      ∃ u, exec (.cellSelfTest n ok) s = .next u ∧ max s.now (c.since + 1000008000) ≤ u.now ∧
        (ok = true → u.now = max s.now (c.since + 1000008000) ∧ (u.cell n).state ≠ .quarantined ∧ (u.cell n).state ≠ .retired ∧ (u.cell n).misses = []) ∧
        (ok = false → (u.cell n).state = .retired)) ∧
    (∀ x d j, s.serving n = some (x, d, j) → s.liuRuns n = true → (s.liu n).state = .service →
      let tried := j.tried ++ [(0, n)]
      let three := ((List.range 4).filter fun i => tried.contains (0, 4 * (n / 4) + i)).length ≥ 3
      ∃ u, exec (.liuCheckFail n false) s = .next u ∧
        (¬ three → (s.recent (s.liu n).fails).length < 3 →
          ∃ j', u.job d j.slot = some j' ∧ j'.retries = j.retries + 1 ∧ j'.tried = tried ∧ j'.ended = j.ended) ∧
        (three → (s.block d).state = .service → u.job d j.slot = none) ∧
        ((s.recent (s.liu n).fails).length ≥ 3 → away (u.liu n).state (s.liu n).quarantines)) ∧
    (s.liuRuns n = true → (s.liu n).state = .service →
      ∃ u, exec (.liuCheckFail n true) s = .next u ∧ away (u.liu n).state (s.liu n).quarantines) ∧
    (s.running = true → (s.liu n).state = .quarantined →
      ∃ u, exec (.liuSelfTest n ok) s = .next u ∧ u.now = max s.now ((s.liu n).since + 1002000000) ∧
        (u.liu n).state = (if ok then .service else .retired)) ∧
    (∀ d i j, (s.hash n).busy = some (d, i) → s.job d i = some j → s.hashRuns n = true →
      let tried := j.tried ++ [(0, n)]
      let three := ((List.range 4).filter fun i => tried.contains (0, 4 * (n / 4) + i)).length ≥ 3
      ∃ u, exec (.hashLaneMismatch n) s = .next u ∧
        (¬ three → (s.recent (s.hash n).fails).length < 3 →
          ∃ j', u.job d i = some j' ∧ j'.retries = j.retries + 1 ∧ j'.tried = tried ∧ j'.ended = j.ended) ∧
        (three → (s.block d).state = .service → u.job d i = none) ∧
        ((s.recent (s.hash n).fails).length ≥ 3 → away (u.hash n).state (s.hash n).quarantines)) ∧
    (s.running = true → (s.hash n).state = .quarantined →
      ∃ u, exec (.hashSelfTest n ok) s = .next u ∧ u.now = max s.now ((s.hash n).since + 1001000000) ∧
        (u.hash n).state = (if ok then .service else .retired)) ∧
    (s.coreRuns n = true →
      (∃ u, exec (.watchdog ⟨n, .overrun⟩) s = .next u ∧ away (u.block n).state (s.block n).quarantines ∧
        (4 ≤ s.blocksServing (n / 12) → (u.core n).halted = true ∧
          ((s.core n).inTrap = false → s.cancelDue n = false → (s.core n).Entered (u.core n) 0x121 0) ∧
          ((s.core n).inTrap = true ∨ s.cancelDue n = true → (u.core n).ipend.getLsbD 1 = true))) ∧
      (∃ u, exec (.watchdog ⟨n, .memoryError m false⟩) s = .next u ∧ (u.core n).corrected = (s.core n).corrected + 1 ∧ (u.core n).mem = (s.core n).mem ∧
        u.blocks = s.blocks) ∧
      (∃ u, exec (.watchdog ⟨n, .memoryError m true⟩) s = .next u ∧ away (u.block n).state (s.block n).quarantines)) ∧
    (s.running = true → (s.block n).state = .quarantined → (s.region (n / 12)).service ≠ .retired →
      ∃ u, exec (.blockSelfTest n ok) s = .next u ∧ u.now = max s.now ((s.block n).since + 10000000) ∧
        (u.block n).state = (if ok then .service else .retired)) ∧
    (s.running = true → s.boot.state ≠ .booting → (s.region n).service = .service →
      ∃ u, exec (.regionIsolate n) s = .next u ∧ (u.region n).service = (if (s.region n).isolations + 1 ≥ 3 then .retired else .quarantined) ∧
        (u.region n).cache = []) ∧
    (s.boot.state = .booting → exec (.regionIsolate n) s = .next s) ∧
    (s.running = true → (s.region n).service = .quarantined →
      (3 ≤ s.blocksServing n → ∃ u, exec (.regionSelfTest n true) s = .next u ∧ u.now = max s.now ((s.region n).since + 30000000) ∧
        (u.region n).service = .service ∧ (u.region n).power = .active) ∧
      (ok = false ∨ s.blocksServing n < 3 → exec (.regionSelfTest n ok) s = .next (s.passTo ((s.region n).since + 30000000))))

/-! ### EMBER, entropy and time -/

/-- The EMBER store (R122 to R124), while a mask seed stands for every row: a pair reads as it was written last, no other pair moves with it; a mask refresh,
which replaces the seed under every row, and a relocation of every row under a new scramble seed change what no pair reads as. -/
def Obligations.EmberReadsWhatWasWritten : Prop :=
  ∀ (e : Ember) (n m : Nat) (v seed : Bytes), (∀ a, a < 4096 → (e.seedOf a).isSome = true) → n < 2048 → m < 2048 → allZero seed = false →
    (e.write n v).read n = some (slice v 0 64) ∧ (m ≠ n → (e.write n v).read m = e.read m) ∧ (e.refresh seed).read n = e.read n ∧
      allZero (e.refresh seed).seedA = !allZero e.seedA ∧ allZero (e.refresh seed).seedB = allZero e.seedA ∧
      ((e.rows.map (·.1)).Nodup → (e.relocate seed).read n = e.read n)

/-- Health tests of an entropy source (R229 to R232, R246). REPETITION_COUNT_FAIL, ADAPTIVE_WINDOW_END: a failure takes a source out, for good at the third
within 24 h, and the next STANDBY source of its region succeeds an ACTIVE one; one that is out already stays as it is; a window of the ACTIVE source that
passes goes to the conditioner; the tests run while a source settles, too. SOURCE_STARTUP_TEST: a source that passes stands by, or is ACTIVE where its region
has no ACTIVE source and no lower-numbered one stands by or is still in its test. SOURCE_RETEST, 256 µs long and a second after the failure: one that passes
stands by, or is ACTIVE where its region has no ACTIVE source. Each of REPETITION_COUNT_FAIL, ADAPTIVE_WINDOW_END, SOURCE_STARTUP_TEST and SOURCE_RETEST ends
in a next state under conditions on the state and the operands alone. -/
def Obligations.SourcesFollowTheirTests : Prop :=
  ∀ (s : State) (r i : Nat) (l : List Bool), i < 3 →
    let x := s.source r i
    let e := (s.region r).entropy
    let runs := x.state.runs = true ∧ x.state ≠ .failed ∧ x.state ≠ .retired
    let out := fun (t : Nat) => if (x.fails.filter fun f => t < f + 86400000000000).length + 1 ≥ 3 then SourceState.retired else SourceState.failed
    let bad := repetitionFails x l || adaptiveFails (lastWindow l)
    let badStart := repetitionFails x l || adaptiveFails (lastWindow l)
    (x.state.runs = true → l ≠ [] → l.length ≤ (if x.broken then 2047 else 1024) → (runsOf x.last x.run 0 l).2.1 = 81 →
      ∃ u, exec (.repetitionCountFail r i l) s = .next u ∧ (u.source r i).state = (if x.state = .failed ∨ x.state = .retired then x.state else out s.now) ∧
        (∀ j, x.state = .active →
          [(i + 1) % 3, (i + 2) % 3].find? (fun j => (s.source r j).state = .standby && (s.source r j).capture.isNone) = some j →
          (u.source r j).state = .active)) ∧
    (x.state.runs = true → x.windowFits l.length = true →
      ∃ u, exec (.adaptiveWindowEnd r i l) s = .next u ∧ u.now = max s.now (x.windowFrom + 256000) ∧ (u.source r i).windowFrom = u.now ∧
        (bad = true → runs → (u.source r i).state = out u.now) ∧
        (bad = false ∨ ¬ runs → (u.source r i).state = x.state) ∧
        (bad = false → x.state = .active → x.capture = none → e.conditionerOut = false →
          (u.region r).entropy.window = some (lastWindow l, x.windowFrom))) ∧
    (startFits l.length = true → (s.region r).service = .service → (s.region r).power ≠ .rest → s.running = true → x.state = .starting →
      ∃ u, exec (.sourceStartupTest r i l) s = .next u ∧ (u.source r i).state = (if badStart then out s.now
        else if e.active = none ∧ x.capture = none ∧ (∀ j, j < i → (s.source r j).state ≠ .starting ∧
            ((s.source r j).state = .standby → (s.source r j).capture ≠ none)) then .active else .standby)) ∧
    (startFits l.length = true → x.state = .failed →
      ∃ u, exec (.sourceRetest r i l) s = .next u ∧ u.now = max s.now (x.failedAt + 1000256000) ∧
        (u.source r i).state = (if badStart then out u.now else if e.active = none ∧ x.capture = none then .active else .standby))

/-- Seeds (R233, R234, R123, R239, R242). SEED_CONDITIONED: a conditioned window joins the region's pool, unless that is full; SEED_BORROW: a region without
seeds borrows the oldest one of the next region that has some; then what waits for seeds is served. EMBER_MASK_REFRESH: due every 10 ms, it is done once a
seed is there. RANDOM_READY: the random start-up ends once the EMBER store is masked and every generator is instantiated. ENTROPY_WAIT_EXPIRY: a wait for
entropy that expires fails its command. Each of SEED_CONDITIONED, SEED_BORROW, EMBER_MASK_REFRESH, RANDOM_READY and ENTROPY_WAIT_EXPIRY ends in a next state
under conditions on the state and the operands alone. -/
def Obligations.SeedsAreServed : Prop :=
  ∀ (s : State) (r : Nat),
    let e := (s.region r).entropy
    let t := s.seeded
    (∀ w from_, e.window = some (w, from_) →
      ∃ v : State, exec (.seedConditioned r) s = .next v.seeded ∧ (v.region r).entropy.window = none ∧ (v.region r).entropy.borrowing = false ∧
        v.pool r = (if e.pool.length < 16 then e.pool ++ [{ bytes := hashDf (packSamples w), windowFrom := from_ }] else e.pool) ∧
        ∀ q, q ≠ r → v.pool q = s.pool q) ∧
    (∀ q x rest, e.pool = [] → e.active = none ∨ e.conditionerOut = true → (s.region r).service = .service →
      (((List.range 7).map fun i => (r + 1 + i) % 8).find? fun q => (s.pool q) != []) = some q → s.pool q = x :: rest →
      ∃ v : State, exec (.seedBorrow r) s = .next v.seeded ∧ v.pool r = [x] ∧ v.pool q = rest ∧ (v.region r).entropy.borrowing = true) ∧
    (s.boot.powered = true → s.ember.blank = false → (∀ q, q < 8 → s.pool q = []) →
      ∃ u, exec .emberMaskRefresh s = .next u ∧ u.ember.refreshDue = true) ∧
    (∀ x v, s.boot.powered = true → s.ember.blank = false → s.secret = some (x, v) → allZero x = false →
      ∃ u, exec .emberMaskRefresh s = .next u ∧ u.ember.refreshDue = false ∧ allZero u.ember.seedA = !allZero s.ember.seedA) ∧
    (s.running = true → s.boot.randomReady = false → t.ember.ready = true → t.blindAll = true →
      (∀ d, d ≤ 256 → (t.dom d).mode ≠ .absent ∨ d = operator → (t.dom d).drbg.inst = true) →
      ∃ u, exec .randomReady s = .next u ∧ u.boot.randomReady = true ∧
        ∀ d id c, d ≤ 256 → t.cmd d id = some c → c.waitFrom.isSome = true → ∃ x, u.cmd d id = some x ∧ x.waitFrom = some u.now) ∧
    (∀ d id c t x, s.cmd d id = some c → c.waitFrom = some t → c.awaits = true → s.boot.randomReady = true →
      (c.entry.opcode = 0x1801 → c.toRead.contains .input = false) →
      ((s.passTo (t + c.waitLimit d)).draw d).cmd d id = some x → x.awaits = true → x.aborted = false →
      ∃ u y, exec (.entropyWaitExpiry d id) s = .next u ∧ u.cmd d id = some y ∧ y.phase = .computed ∧ y.status = eEntropy ∧ y.entropyFail = true)

/-- TICK_IN_PULSE (R326 to R328) on a module that runs. A pulse under 10 ns does not pass the glitch filter (R483). No pulse moves TIME_NOW back; a pulse that
is too short, too long, early or late is counted and rejected; pulses in their windows lead from UNSYNCHRONISED through ACQUIRING to LOCKED. TICK_TIMEOUT:
without one for 1.5 s the clock is in HOLDOVER, and HOLDOVER_LIMIT leaves it TIME_UNTRUSTED. The edge of the pulse that locks the clock is a second boundary
(log entry 32). Each of TICK_IN_PULSE, TICK_TIMEOUT and HOLDOVER_LIMIT ends in a next state under conditions on the state and the operands alone. -/
def Obligations.PulsesDisciplineTheClock : Prop :=
  ∀ (s : State) (wait high : Nat), s.running = true →
    let c := s.clock
    (∃ u, exec (.tickInPulse wait high) s = .next u ∧ c.tai ≤ u.clock.tai ∧ u.now = s.now + wait + high ∧
      (high < 10 → u.clock.state = c.state ∧ u.clock.shorts = c.shorts ∧ u.clock.inWindow = c.inWindow ∧ u.clock.lastEdge = c.lastEdge) ∧
      (10 ≤ high → high < 1000 → u.clock.shorts = c.shorts + 1 ∧ u.clock.inWindow = 0 ∧ u.clock.state = c.state ∧ u.clock.lastReject = 1) ∧
      (500000000 < high → u.clock.longs = c.longs + 1 ∧ u.clock.inWindow = 0 ∧ u.clock.state = c.state ∧ u.clock.lastReject = 2) ∧
      (1000 ≤ high → high ≤ 500000000 → c.lastEdge = none → c.state = .unsynchronised → u.clock.state = .acquiring ∧ u.clock.inWindow = 1) ∧
      (∀ t, 1000 ≤ high → high ≤ 500000000 → c.lastEdge = some t →
        let judged := judgeEdge s.chip.periodWindow (s.now + wait - t) (c.state = .acquiring)
        (∀ cause, judged = .error cause → u.clock.lastReject = cause ∧ u.clock.inWindow = 0 ∧ u.clock.state = c.state ∧ u.clock.lastEdge = some t) ∧
        (∀ k, judged = .ok k → u.clock.lastEdge = some (s.now + wait) ∧
          (c.state = .unsynchronised → u.clock.state = .acquiring) ∧
          (c.state = .acquiring → k = 1 → 2 ≤ c.inWindow → u.clock.state = .locked ∧ u.clock.lastEdgeTai % 1000000000 = 0) ∧
          (c.state = .acquiring → c.inWindow < 2 → u.clock.state = .acquiring) ∧
          (c.state = .locked → u.clock.state = .locked ∧ u.clock.lastEdgeTai = (s.pass wait).clock.target) ∧
          (c.state = .holdover ∨ c.state = .untrusted → u.clock.state = if 2 ≤ c.inWindow then .locked else c.state)))) ∧
    (c.state = .acquiring → ∃ u, exec .tickTimeout s = .next u ∧ u.now = max s.now (c.lastAccept + 1500000000) ∧ u.clock.inWindow = 0 ∧
      u.clock.state = .acquiring) ∧
    (c.state = .locked → ∃ u, exec .tickTimeout s = .next u ∧ u.now = max s.now (c.lastAccept + 1500000000) ∧ u.clock.inWindow = 0 ∧
      u.clock.state = .holdover) ∧
    (c.state = .holdover → ∃ u, exec .holdoverLimit s = .next u ∧ u.clock.state = .untrusted ∧ u.clock.set = false ∧
      u.now = max s.now (c.lastEdge.getD 0 + s.chip.holdoverLimit * 1000000000) ∧
      ∀ k, k ≤ 257 → (u.stage k).state = if (s.stage k).state = .pending then .empty else (s.stage k).state)

/-- Instants of the device clock (R132, R330, R331, R336 to R338, R358). SECOND_BOUNDARY drives TICK_OUT while the clock is LOCKED or in HOLDOVER, and applies
a committed TIME_SET. STAGED_INSTANT: a set that is PENDING for a boundary is applied whole, at that boundary, or fails with its outcome recorded; in a warden
gap it waits for the gap's end. KEY_VALIDITY_EDGE: an edge of a stored key's validity raises KEY_VALIDITY. Each of SECOND_BOUNDARY, STAGED_INSTANT and
KEY_VALIDITY_EDGE ends in a next state under conditions on the state and the operands alone. -/
def Obligations.InstantsOfTheClockAct : Prop :=
  ∀ (s : State) (b k : Nat), s.running = true →
    let c := s.clock
    let at_ := (s.stage k).boundary * 1000000000
    (c.timeSet = none →
      ∃ u, exec .secondBoundary s = .next u ∧ u.clock.tai = (c.tai / 1000000000 + 1) * 1000000000 ∧
        u.clock.tickOut = if c.state = .locked ∨ c.state = .holdover then some u.now else c.tickOut) ∧
    (∀ x second, c.timeSet = some (x, second) →
      ∃ u, exec .secondBoundary s = .next u ∧ u.clock.tai = second * 1000000000 ∧ u.clock.set = true ∧ u.clock.timeSet = none) ∧
    (k ∈ s.dueSets b → s.guy.rebuilding = false →
      ∃ u, exec (.stagedInstant b) s = .next u ∧ (s.guy.holding = false → (u.stage k).state = .empty) ∧
        (s.guy.holding = true → (u.stage k).state = .pending ∧ ∃ x, u.guy.due = some x ∧ (s.stage k).boundary ≤ x)) ∧
    (s.dueSets b = [k] → s.guy.rebuilding = false → s.guy.holding = false →
      ∃ u, exec (.stagedInstant b) s = .next u ∧ u.clock.tai = max c.tai at_ ∧ (s.guy.due = none → (u.stage k).lastInstant = max c.tai at_) ∧
        ((s.passToTai at_).instantFail k (s.stage k).image = none →
          (u.stage k).lastStatus = sOk ∧ (k < 256 → (u.dom k).conf = pitchConfAt (s.stage k).image 0) ∧
            (k = chipSet → u.chip = chipConfOf (s.stage k).image)) ∧
        (∀ f, (s.passToTai at_).instantFail k (s.stage k).image = some f →
          ((u.stage k).lastStatus, (u.stage k).lastDetail) = f ∧ (u.dom k).conf = (s.dom k).conf ∧ u.chip = s.chip)) ∧
    (k < 256 → s.edgeIn k b b = true → ∃ u, exec (.keyValidityEdge b) s = .next u ∧ Nat.testBit (u.dom k).eventAck 6 = true)

/-! ### Power -/

/-- Power states (R103, R343 to R346, R365, R482). GOVERNOR_DECISION: an idle region enters the deepest state that its known events and its budget allow, and
leaves a deeper one when it may not stay. REGION_EXIT_START: an exit begins in time for a known event, the module's too. WAKE begins one at once, of a region
for which a ready job chooses it or has waited longer than its exit takes, or of the module. POWER_STATE_EXIT: an exit ends its latency later, and isolates a
region that fails its self test on leaving REST. BIVVY_ENTER puts every region into REST and loses the cores. THERMAL_HOLD puts every region into REST and
holds the operational commands, until THERMAL_RELEASE. Each of GOVERNOR_DECISION, REGION_EXIT_START, BIVVY_ENTER, WAKE, POWER_STATE_EXIT, THERMAL_HOLD and
THERMAL_RELEASE ends in a next state under conditions on the state and the operands alone. -/
def Obligations.PowerStatesFollowTheGovernor : Prop :=
  ∀ (s : State) (r : Nat) (die : Int) (flow : Nat), s.running = true →
    let R := s.region r
    let p := s.choosePower r
    (s.governs = true → R.service = .service → R.exiting = none → s.regionIdle r = true →
      (R.power.depth < p.depth → ∃ u, exec (.governorDecision r) s = .next u ∧ (u.region r).power = p ∧ (u.region r).exiting = none ∧
        (p = .rest → (u.region r).buffer = [] ∧ ∀ i, i < 3 → (s.source r i).state ≠ .retired → (u.source r i).state = .off)) ∧
      (p.depth < R.power.depth → ∃ u, exec (.governorDecision r) s = .next u ∧ (u.region r).exiting = some s.now ∧ (u.region r).power = R.power)) ∧
    (∀ t, s.governs = true → R.power ≠ .active → R.exiting = none → earliest (s.regionEvents r) = some t →
      ∃ u, exec (.regionExitStart r) s = .next u ∧ u.now = max s.now (t - 10000 - R.power.exitNs) ∧ (u.region r).exiting = some u.now) ∧
    (∀ t, s.boot.bivvy = true → s.boot.waking = none → earliest s.knownEvents = some t →
      ∃ u, exec (.regionExitStart r) s = .next u ∧ u.now = max s.now (t - 10000 - 3000000) ∧ u.boot.waking = some u.now) ∧
    (s.governs = true → s.mayBivvy = true →
      ∃ u, exec .bivvyEnter s = .next u ∧ u.boot.bivvy = true ∧ u.boot.waking = none ∧ u.cores = [] ∧ ∀ q, q < 8 → (u.region q).power = .rest) ∧
    (s.boot.bivvy = true → s.boot.waking = none → ∃ u, exec (.wake r) s = .next u ∧ u.boot.waking = some s.now) ∧
    (s.boot.bivvy = false → r < 8 → s.supplies.thermalHold = false → R.power ≠ .active → R.exiting = none → s.wakes r = true →
      ∃ u, exec (.wake r) s = .next u ∧ (u.region r).exiting = some s.now) ∧
    (s.boot.bivvy = false → s.wakes r = false → exec (.wake r) s = .next s) ∧
    (∀ t failed, r < 8 → R.exiting = some t → s.boot.bivvy = false → s.supplies.thermalHold = false →
      ∃ u, exec (.powerStateExit r failed) s = .next u ∧ u.now = max s.now (t + R.power.exitNs) ∧ (u.region r).power = .active ∧ (u.region r).exiting = none ∧
        (R.power = .rest → r ∈ failed → R.service = .service → (u.region r).service ≠ .service) ∧
        (R.power ≠ .rest ∨ r ∉ failed → (u.region r).service = R.service)) ∧
    (∀ t, 8 ≤ r → s.boot.waking = some t → s.boot.bivvy = true →
      ∃ u, exec (.powerStateExit r []) s = .next u ∧ u.now = max s.now (t + 3000000) ∧ u.boot.bivvy = false ∧ u.boot.waking = none ∧
        ∀ q, q < 8 → (s.region q).service = .service → (u.region q).power = .active) ∧
    (s.supplies.thermalHold = false → s.holdThreshold ≤ die ∨ flow < 400 →
      ∃ u, exec (.thermalHold die flow) s = .next u ∧ u.supplies.thermalHold = true ∧ (∀ q, q < 8 → (u.region q).power = .rest) ∧
        ∀ d id c, u.cmd d id = some c → c.entry.mgmt = false → c.phase ≠ .running ∧ c.phase ≠ .computed) ∧
    (s.supplies.thermalHold = true → die < s.holdThreshold - 10 → 800 ≤ flow →
      ∃ u, exec (.thermalRelease die flow) s = .next u ∧ u.supplies.thermalHold = false ∧ u.regions = s.regions)

/-! ### Wardens -/

/-- Failures of a warden (R350, R351, R353, R359, R360), while its firmware runs past the boot: LOCKSTEP_FAULT, a failed WARDEN_PERIODIC_SELF_TEST, or the
third missed heartbeat on the later of its paths (HEARTBEAT_MISS). The ACTIVE one gives up the grant to a MIRRORED standby at once, in a gap in which outputs
are held, and is OFFLINE; without such a standby every warden that is not FAILED is reset and the module locks, or halts where both are; a standby is reset. A
warden is FAILED at its third failure within 24 h. One missed path alone is a path fault; a grant request of the standby that the arbiter's tap does not bear
out is refused, and comes again with the next missed period. WARDEN_HEARTBEAT: a beat that arrives on a path ends its count. Each of LOCKSTEP_FAULT,
WARDEN_PERIODIC_SELF_TEST, HEARTBEAT_MISS and WARDEN_HEARTBEAT ends in a next state under conditions on the state and the operands alone. -/
def Obligations.WardenFailuresAct : Prop :=
  ∀ (s : State) (w loop : Nat) (fabric : Bool), s.wardensServe = true → (s.warden w).runs = true →
    let W := s.warden w
    let n := if fabric then W.fabricMisses else W.wireMisses
    let other := if fabric then W.wireMisses else W.fabricMisses
    let due := max s.now ((if fabric then W.fabricLast else W.wireLast) + 2250 + 2000 * n)
    (∀ i, (i = Instr.lockstepFault w ∧ W.fault = false) ∨ (i = Instr.wardenPeriodicSelfTest w false ∧ W.resigned = false) ∨
        (i = Instr.heartbeatMiss w fabric true ∧ 2 ≤ n ∧ 3 ≤ other) → s.guy.rebuilding = false → s.guy.holding = false →
      ∃ u, exec i s = .next u ∧
        let third := 3 ≤ (W.failures.filter fun t => u.now < t + 86400000000000).length + 1
        (w = s.activeWarden → (s.warden s.standby).state = .mirrored →
          u.guy.holding = true ∧ u.guy.rebuilding = false ∧ u.guy.code = (if w = 0 then movingToB else movingToA) ∧ (u.warden w).state = .offline ∧
            (u.warden s.standby).state = .active ∧ u.guy.failovers = min 0xFFFF (s.guy.failovers + 1) ∧ u.guy.lastCause = (u.warden w).cause) ∧
        (w = s.activeWarden → (s.warden s.standby).state ≠ .mirrored →
          (¬ third ∨ ((s.warden s.standby).state ≠ .failed ∧ (s.warden s.standby).failures.length < 3) →
            u.guy.rebuilding = true ∧ u.boot.state = .locked ∧ (u.warden w).state = (if third then .failed else .selfTest) ∧
              ((s.warden s.standby).state = .failed → (u.warden s.standby).state = .failed) ∧
              ((s.warden s.standby).state ≠ .failed → (s.warden s.standby).failures.length < 3 → (u.warden s.standby).state = .selfTest)) ∧
          (third → (s.warden s.standby).state = .failed → u.boot.state = .halted)) ∧
        (w ≠ s.activeWarden → (u.warden w).state = (if third then .failed else .selfTest))) ∧
    (exec (.wardenPeriodicSelfTest w true) s = .next s) ∧
    (n < 2 ∨ (2 < n ∧ other < 3) ∨ (2 ≤ n ∧ 3 ≤ other ∧ w = s.activeWarden) → ∀ tap, (2 ≤ n → 3 ≤ other → tap = false) →
      ∃ u, exec (.heartbeatMiss w fabric tap) s = .next u ∧ u.now = due ∧ u.guy.holding = s.guy.holding ∧
        (if fabric then (u.warden w).fabricMisses else (u.warden w).wireMisses) = n + 1) ∧
    (n = 2 → other < 3 → w < 2 → ∀ tap, ∃ u, exec (.heartbeatMiss w fabric tap) s = .next u ∧ u.now = due ∧
      (if fabric then u.guy.pathFabric else u.guy.pathWire) = true ∧ 0x191 ∈ u.events.latched) ∧
    (loop ≤ 20000 → ∀ a b, ∃ u, exec (.wardenHeartbeat w loop a b) s = .next u ∧ (u.warden w).beats = (W.beats + 1) % 2 ^ 64 ∧
      (u.warden w).progress = s.now - loop ∧
      (a = true → (u.warden w).wireMisses = 0 ∧ (u.warden w).wireLast = s.now) ∧ (b = true → (u.warden w).fabricMisses = 0 ∧ (u.warden w).fabricLast = s.now) ∧
      (a = false → (u.warden w).wireMisses = W.wireMisses) ∧ (b = false → (u.warden w).fabricMisses = W.fabricMisses))

/-- The standby and the grant (R354 to R362). SWITCH_OVER ends a gap, at most 40 µs after the fault: the warden to which the grant moves has replayed the
journal, and fetches the management entries that were not placed again, and the failed one is reset; a digest that differs is a double failure. JOURNAL_ENTRY,
JOURNAL_CHECKPOINT: the standby applies entries in their order, with a checkpoint after 4,096 of them. WARDEN_SELF_TEST_END, WARDEN_SYNCED: a warden that
passes its self test is SYNCING, and MIRRORED within 64 entries of the head. WARDEN_REBUILD: after a double failure the staging sets stand as committed, and
no management command is left uncommitted. TAKEBACK_HOLDOFF, TAKEBACK, TAKEBACK_ABANDON: warden A takes the grant back, in a gap, at a quiet point after its
hold-off, which starts again where none comes within 100 ms. Each of SWITCH_OVER, JOURNAL_ENTRY, JOURNAL_CHECKPOINT, WARDEN_SELF_TEST_END, WARDEN_SYNCED,
WARDEN_REBUILD, TAKEBACK_HOLDOFF, TAKEBACK_ABANDON and TAKEBACK ends in a next state under conditions on the state and the operands alone. -/
def Obligations.GrantsFollowTheStandby : Prop :=
  ∀ (s : State) (w gap : Nat) (ok : Bool), s.wardensServe = true →
    let old := s.activeWarden
    let new := s.standby
    let W := s.warden w
    let other := s.warden (1 - w)
    let v := (s.pass gap).guy.journal.foldl (fun s _ => s.applyEntry old JournalEntry.bytes) (s.pass gap)
    (s.guy.holding = true → s.guy.rebuilding = false → s.guy.code = movingToA ∨ s.guy.code = movingToB → s.now + gap ≤ s.guy.faultAt + 40000 →
      ∃ u, exec (.switchOver gap) s = .next u ∧ u.now = s.now + gap ∧ u.guy.code = (if s.guy.code = movingToA then grantA else grantB) ∧
        u.guy.failovers = s.guy.failovers ∧ u.guy.lastCause = s.guy.lastCause ∧
        ((v.warden old).digest = v.guy.headDigest → (u.warden old).state = (s.warden old).state ∧ u.guy.holding = false ∧
          ((u.warden new).state = if 3 ≤ (s.warden new).failures.length then .failed else .selfTest) ∧
          (s.guy.due = none → ∀ d, (u.dom d).waiting = (s.dom d).waiting.map fun x => { x with again := x.again || x.entry.mgmt })) ∧
        ((v.warden old).digest ≠ v.guy.headDigest → (s.warden old).state ≠ .failed → (s.warden old).failures.length < 3 → u.guy.rebuilding = true)) ∧
    (∀ e es, s.journals = true → s.guy.journal = e :: es →
      ∃ u, exec (.journalEntry ok) s = .next u ∧ u.guy.headDigest = sha384 (s.guy.headDigest ++ e.bytes) ∧
        (s.guy.written < s.guy.checkpointAt + 4096 →
          u.guy.journal = es ∧ (ok = true → (u.warden new).digest = sha384 ((s.warden new).digest ++ e.bytes))) ∧
        (s.guy.checkpointAt + 4096 ≤ s.guy.written → u.guy.checkpoint = some u.guy.headDigest ∧ u.guy.checkpointAt = s.guy.written)) ∧
    (s.journals = true → ∃ u, exec .journalCheckpoint s = .next u ∧ u.guy.checkpoint = some s.guy.headDigest ∧
      ((s.warden new).digest ≠ s.guy.headDigest → (u.warden new).state = .failed) ∧
      ((s.warden new).digest = s.guy.headDigest → u.wardens = s.wardens)) ∧
    (W.state = .selfTest → w < 2 →
      ∃ u, exec (.wardenSelfTestEnd w ok) s = .next u ∧ u.now = max s.now (W.testFrom + 200000000) ∧
        (s.guy.rebuilding = false ∨ other.state = .active → (u.warden w).state = if ok then .syncing else .failed) ∧
        (s.guy.rebuilding = true → other.state ≠ .active → ok = true → w = 0 ∨ other.state = .failed →
          (u.warden w).state = .active ∧ u.guy.code = if w = 0 then grantA else grantB) ∧
        (s.guy.rebuilding = true → other.state = .failed → ok = false → u.boot.state = .halted)) ∧
    (w ≠ old → W.state = .syncing → (s.warden old).state = .active → s.guy.journal.length ≤ 64 →
      ∃ u, exec (.wardenSynced w) s = .next u ∧ (u.warden w).state = .mirrored ∧ (u.warden w).mirroredSince = s.now) ∧
    (s.guy.rebuilding = true → (s.warden old).state = .active →
      ∃ u, exec .wardenRebuild s = .next u ∧ u.guy.rebuilding = false ∧ u.guy.holding = false ∧ (s.guy.due = none → u.sets = s.sets) ∧
        (s.guy.due = none → ∀ d id c, d ≤ 256 → u.cmd d id = some c → c.entry.mgmt = true → c.done = true)) ∧
    (old = 1 → (s.warden 1).state = .active → (s.warden 0).state = .mirrored → s.guy.takebackOff = false → s.guy.preparing = none → s.guy.holding = false →
      ∃ u, exec .takebackHoldoff s = .next u ∧ u.guy.preparing = some u.now ∧
        u.now = max s.now (max (s.warden 0).mirroredSince s.guy.abandonedAt + s.chip.takeback * 100000000)) ∧
    (∀ t, s.guy.preparing = some t →
      (∃ u, exec .takebackAbandon s = .next u ∧ u.guy.preparing = none ∧ u.guy.abandonedAt = u.now ∧ u.now = max s.now (t + 100000000)) ∧
      (s.quietPoint = true → (s.warden 0).state = .mirrored → s.guy.holding = false → gap ≤ 40000 →
        (s.now ≤ t + 100000000 →
          ∃ u, exec (.takeback gap) s = .next u ∧ u.guy.code = grantA ∧ u.guy.lastCause = 4 ∧ (u.warden 0).state = .active ∧
            (u.warden 1).state = .mirrored ∧ u.now = s.now + gap ∧ u.guy.holding = false ∧
            (s.guy.held = [] → s.host.spdm.busy = false → u.doms = s.doms)) ∧
        (t + 100000000 < s.now → ∃ u, exec (.takeback gap) s = .next u ∧ u.guy.preparing = none ∧ u.guy.abandonedAt = s.now ∧ u.wardens = s.wardens)))

/-! ### The trail's memories -/

/-- TRAIL_FLUSH, CHECKPOINT_SIGN and LOG_MEMORY_FAIL (R414, R416, R421). The host's controls and the dirty-page bitmap (R453, R456, R461, R462, R492): a
configuration request sets its control, or reads a word, and is answered; a CAS that swapped makes its bits known; one that found another value is issued
again on that value, and the 64th in a row fails the log, as a failed request does. Each of TRAIL_FLUSH, CHECKPOINT_SIGN, LOG_MEMORY_FAIL, PCIE_CONFIG_REQUEST
and DIRTY_BITMAP_CAS ends in a next state under conditions on the state and the operands alone. -/
def Obligations.LogMemoriesAndHostControlsAct : Prop :=
  (∀ (s : State) (seq a : Nat) (e : LogEntry),
     let t := s.trail
     (t.mramFailed = false → exec .trailFlush s =
       .next (({ s with trail := { t with mram := ringKeep 1048576 (t.mram ++ ringKeep t.unflushed t.sram), unflushed := 0 } }).journal .cursor operator 0 (leBytes 8 t.nextSeq))) ∧
     (∀ x, Tab.find t.signatures seq = some (1, x) → t.entry seq = some e →
       ∃ u, exec (.checkpointSign seq) s = .next u ∧
         Tab.find u.trail.signatures seq = some (if (s.ember.read 259).isSome then
           (0, s.attest (ascii "KALLAN-CHECKPNT1" ++ slice Config.serial 0 16 ++ e.bytes)) else (2, []))) ∧
     (s.running = true → t.sramFailed = false → t.mramFailed = false → t.state = 0 →
       ∃ u, exec (.logMemoryFail true a) s = .next u ∧ u.trail.state = 1 ∧ u.trail.sramFailed = true ∧ 0x193 ∈ u.events.latched) ∧
     (s.running = true → t.state ≠ 2 →
       ∃ u, exec (.logMemoryFail false a) s = .next u ∧ u.trail.state = 2 ∧ u.trail.mramFailed = true ∧ 0x194 ∈ u.events.latched)) ∧
  (∀ (s : State) (f : ConfigField) (v d w k m : Nat), s.running = true →
     let h := s.host.configure f v
     let y := (s.dom d).dirty
     (s.host.linkUp = true →
       ∃ u, exec (.pcieConfigRequest f v) s = .next u ∧ u.host.memSpace = h.memSpace ∧ u.host.busMaster = h.busMaster ∧ u.host.pasidEnable = h.pasidEnable ∧
         u.host.atomicReq = h.atomicReq ∧ u.host.msixEnable = h.msixEnable ∧ u.host.functionMask = h.functionMask ∧ u.host.d3hot = h.d3hot ∧
         u.host.devCtl2 = h.devCtl2 ∧ (∀ o, f = .read o → u.host.sent = s.host.sent ++ [.configuration (s.configWord o).1]) ∧
         (∃ l, u.host.sent = s.host.sent ++ l ∧ ∃ x, l.head? = some (.configuration x))) ∧
     (y.mode = .running → s.casWaits d w = false → Tab.find y.sent w = some (k, m) →
       (∀ cause, ∃ u, exec (.dirtyBitmapCas d w (.failed cause)) s = .next u ∧ (u.dom d).dirty.mode = .failed) ∧
       (v % 2 ^ 64 = k → Tab.get y.wanted 0 w = 0 →
         ∃ u, exec (.dirtyBitmapCas d w (.original v)) s = .next u ∧ Tab.get (u.dom d).dirty.known 0 w = k ||| m ∧ Tab.find (u.dom d).dirty.sent w = none) ∧
       (v % 2 ^ 64 ≠ k → Tab.get y.fails 0 w < 63 → m ≠ 0 → s.host.atomicReq = true →
         ∃ u x, exec (.dirtyBitmapCas d w (.original v)) s = .next u ∧ Tab.find (u.dom d).dirty.sent w = some (v % 2 ^ 64, x) ∧ x &&& m = m) ∧
       (v % 2 ^ 64 ≠ k → 63 ≤ Tab.get y.fails 0 w →
         ∃ u, exec (.dirtyBitmapCas d w (.original v)) s = .next u ∧ (u.dom d).dirty.mode = .failed)))

/-! ### Resets, supplies and the host's controls -/

/-- Resets that boot (R27, R119, R188, R215, R366, R399, R404, R440, R444 to R446): COLD_RESET, LIFE_CYCLE_RESET and STRIKE_RESET leave no queue, no waiting
entry and no staging set, and no command but those that a tamper response aborted and that are still to link; cells, LIUs, hash engines and blocks that fail
their self tests are RETIRED, and a region with fewer than 3 blocks is isolated; the sources of the others start, the wardens test themselves and the clock of
a cold reset is UNSYNCHRONISED; the host link trains from step 3 on; a STRIKE takes the keys. BOOT_END ends in HALTED, LOCKED, RECOVERY or READY, and sets
PITCH_LOCKED of a pitch that it locks. Each of COLD_RESET, LIFE_CYCLE_RESET, STRIKE_RESET and BOOT_END ends in a next state under conditions on the state and
the operands alone. -/
def Obligations.BootsStartTheModule : Prop :=
  ∀ (s : State) (sram mram : Bool) (fw : Bool × Bool) (units : UnitTests) (a b : Bool),
    let booted := fun (u : State) (kind : ResetKind) =>
      u.boot.state = .booting ∧ u.boot.step = 7 ∧ u.boot.kind = kind ∧ u.running = true ∧ u.host.linkUp = (!s.host.perst && s.supplies.refclk) ∧ u.sets = [] ∧
        (∀ d, (u.dom d).queues = [] ∧ (u.dom d).waiting = [] ∧ (u.dom d).drbg = {} ∧
          ∀ c ∈ (u.dom d).cmds, c.aborted = true ∧ c.status = eAbortedTamper ∧ c.noPost = true) ∧
        (∀ n, (u.cell n).state = if n ∈ units.cells then .retired else .idle) ∧ (∀ n, (u.liu n).state = if n ∈ units.lius then .retired else .service) ∧
        (∀ n, (u.hash n).state = if n ∈ units.hashes then .retired else .service) ∧
        (∀ n, n < 96 → (u.block n).state = if n ∈ units.blocks then .retired else .service) ∧
        (∀ r, r < 8 → (u.region r).service = (if u.blocksServing r < 3 then .quarantined else .service) ∧
          ∀ i, i < 3 → (u.source r i).state = if u.blocksServing r < 3 then .off else .starting) ∧ (u.warden 0).state = .selfTest ∧ (u.warden 1).state = .selfTest
    (s.boot.powered = false ∨ s.afterExtest = true ∨ s.unbooted = true →
      ∃ u, exec (.coldReset sram mram fw units) s = .next u ∧ booted u .cold ∧ u.clock.state = .unsynchronised ∧ u.clock.set = false ∧ u.now = s.now) ∧
    (s.running = true → s.life.pendingReset = true → s.tamper.striking = false →
      ∃ u, exec (.lifeCycleReset sram mram fw units) s = .next u ∧ booted u .lifeCycle ∧ u.chip = {} ∧ u.clock = s.clock) ∧
    (s.running = true → s.tamper.striking = true →
      ∃ u, exec (.strikeReset sram mram fw units) s = .next u ∧ booted u .strike ∧ (s.tamper.strikePending = true → ∀ d, (u.dom d).keys = [])) ∧
    (s.boot.state = .booting → s.running = true → s.boot.step < 7 →
      exec (.bootEnd a b) s = exec (.bootEnd a b) (s.bootStart .cold {})) ∧
    (s.boot.state = .booting → s.running = true → 7 ≤ s.boot.step →
      ∃ u, exec (.bootEnd a b) s = .next u ∧
        (a = false → b = false → u.boot.state = .halted ∧ u.boot.held = true) ∧
        (a = true ∨ b = true →
          u.boot.step = 12 ∧ u.boot.state = (if s.bootLocked then .locked else if s.life.recovery then .recovery else .ready) ∧
          u.guy.code = (if a then grantA else grantB) ∧ (s.host.perst = false → s.supplies.refclk = true → u.host.linkUp = true) ∧
          ∀ p, p < 256 → (u.dom p).mode = (if (s.dom p).mode = .absent then .absent
            else if s.bootLocked || (s.dom p).lockedByCommand then .locked else .active) ∧
            ((u.dom p).mode = .locked → (s.dom p).mode ≠ .locked → bit (u.dom p).eventAck evLocked = true)))

/-- Resets of the host's side (R440 to R443, R449, R453, R477, R478, R483): a warm reset or a DEVICE_RESET past the boot leaves no queue, no waiting entry and
no staging set, and keeps keys and committed configuration; a STRIKE in progress absorbs it, and so does a boot, in which PERST_N alone resets the host port;
the link and its clock stand as their inputs say (PERST_N_RELEASE, REFCLK_RESTORED); the main domain stops when its supply goes (P12V_EXCURSION,
P3V3_AUX_LOSS). Each of WARM_RESET, DEVICE_RESET, PERST_N_RELEASE, REFCLK_RESTORED, P12V_EXCURSION and P3V3_AUX_LOSS ends in a next state under conditions on
the state and the operands alone. -/
def Obligations.HostResetsAct : Prop :=
  ∀ (s : State) (trigger : WarmTrigger) (mv duration : Nat),
    let fresh := fun (u : State) => u.perf = Perf.cleared ∧ u.cores = [] ∧ (∀ k, (u.stage k).state = .empty) ∧
      ∀ d, (u.dom d).queues = [] ∧ (u.dom d).waiting = [] ∧ (u.dom d).keys = (s.dom d).keys ∧ (u.dom d).conf = (s.dom d).conf
    (s.running = true → s.boot.state ≠ .booting → s.tamper.striking = false →
      ∃ u, exec (.warmReset trigger) s = .next u ∧ fresh u ∧ u.boot = s.boot ∧
        u.host.linkUp = (if trigger = .perst ∨ trigger = .refclk then false else s.host.linkUp) ∧
        (trigger = .perst → u.host.perst = true) ∧ (trigger = .refclk → u.supplies.refclk = false)) ∧
    (s.running = true → s.boot.state ≠ .booting → s.host.linkUp = true →
      (s.tamper.striking = false → ∃ u, exec .deviceReset s = .next u ∧ fresh u ∧ u.host.linkUp = true) ∧
      (s.tamper.striking = true → exec .deviceReset s = .next s)) ∧
    (s.running = true → s.boot.state = .booting → s.tamper.striking = false →
      (∃ u, exec (.warmReset .perst) s = .next u ∧ u.host = { s.host.reset with perst := true, linkUp := false } ∧ u.doms = s.doms ∧ u.sets = s.sets) ∧
      (s.host.linkUp = true → exec .deviceReset s = .next s) ∧ exec (.warmReset .hotReset) s = .next s) ∧
    (∃ u, exec .perstNRelease s = .next u ∧ u.host.perst = false ∧
      (s.running = true → s.supplies.refclk = true → s.boot.state ≠ .booting ∨ 3 ≤ s.boot.step → u.host.linkUp = true)) ∧
    (s.supplies.refclk = false →
      ∃ u, exec .refclkRestored s = .next u ∧ u.supplies.refclk = true ∧
        (s.running = true → s.host.perst = false → s.boot.state ≠ .booting ∨ 3 ≤ s.boot.step → u.host.linkUp = true)) ∧
    (s.supplies.p12v = true → mv < 10800 ∨ 13200 < mv →
      ∃ u, exec (.p12vExcursion mv duration) s = .next u ∧ Tab.get u.supplies.excursions 0 1 = Tab.get s.supplies.excursions 0 1 + 1 ∧
        (mv < 8000 ∨ (mv < 10200 ∧ 1000000 < duration) → u.boot.powered = false ∧ u.host.linkUp = false ∧ u.trail.sram = []) ∧
        (8000 ≤ mv → 10200 ≤ mv ∨ duration ≤ 1000000 → u.boot.powered = s.boot.powered)) ∧
    (s.supplies.p3v3 = true →
      ∃ u, exec (.p3v3AuxLoss duration) s = .next u ∧ Tab.get u.supplies.excursions 0 2 = Tab.get s.supplies.excursions 0 2 + 1 ∧
        u.boot.powered = (if duration < 100000 then s.boot.powered else false) ∧ u.supplies.p3v3 = decide (duration < 100000))

/-! ### Attestation -/

/-- The DOE mailbox (R458; objects as log entry 33): once the boot is over, an object that is its row's request is answered, with one object, while no
exchange is in progress and no warden gap is open; in a gap the exchange stays in progress. DOE_ABORT ends it. Each of GET_VERSION, GET_CAPABILITIES,
NEGOTIATE_ALGORITHMS, GET_DIGESTS, GET_CERTIFICATE, CHALLENGE, GET_MEASUREMENTS, KEY_EXCHANGE, FINISH, SPDM_HEARTBEAT, KEY_UPDATE, END_SESSION, IDE_KM and
DOE_ABORT ends in a next state under conditions on the state and the operands alone. -/
def Obligations.MailboxObjectsAreAnswered : Prop :=
  ∀ (s : State) (b : Bytes) (row : Bytes → Instr) (code : Nat),
    (row, code) ∈ [(Instr.getVersion, 0x84), (Instr.getCapabilities, 0xE1), (Instr.negotiateAlgorithms, 0xE3), (Instr.getDigests, 0x81),
      (Instr.getCertificate, 0x82), (Instr.challenge, 0x83), (Instr.getMeasurements, 0xE0), (Instr.keyExchange, 0xE4), (Instr.finish, 0xE5),
      (Instr.spdmHeartbeat, 0xE8), (Instr.keyUpdate, 0xE9), (Instr.endSession, 0xEC), (Instr.ideKm, 0xFE)] →
    (s.running = true → s.host.linkUp = true → s.boot.state ≠ .booting → s.boot.state ≠ .halted → s.host.spdm.busy = false →
      s.requestCode b = some code ∨ s.requestCode b = none →
      (s.guy.holding = false → ∃ u o, exec (row b) s = .next u ∧ u = s.answerObject b ∧ u.host.sent = s.host.sent ++ [.doe o] ∧ u.host.spdm.busy = false) ∧
      (s.guy.holding = true → ∃ u, exec (row b) s = .next u ∧ u.host.spdm.busy = true ∧ u.host.spdm.exchange = b ∧ u.host.sent = s.host.sent)) ∧
    (∃ u, exec .doeAbort s = .next u ∧ u.host.spdm.busy = false ∧ u.host.spdm.exchange = [] ∧ u.host.sent = s.host.sent)

/-- The responder (R458 to R460; messages as log entry 33): requests in their stages move it on, and one out of its stage is an error; a session is
established by a FINISH whose MAC holds, ends with END_SESSION, and carries IDE_KM, whose keys are installed and go into use; an integrity failure makes a
stream Insecure. IDE_INTEGRITY_FAIL ends in a next state under conditions on the state and the operands alone. -/
def Obligations.ResponderFollowsItsStages : Prop :=
  ∀ (s : State) (m : Bytes) (n : Nat),
    let x := s.host.spdm
    let code := byteAt m 1
    let sound := byteAt m 0 = 0x12 ∧ requestLen code ≤ m.length
    let r := s.answer m false
    let q := s.answer m true
    (byteAt m 0 = 0x10 → code = 0x84 → 4 ≤ m.length →
      r.1 = [0x10, 0x04, 0, 0, 0, 1, 0x00, 0x12] ∧ r.2.2.host.spdm.stage = .versioned ∧ r.2.2.host.spdm.session = .none) ∧
    (sound → code = 0xE1 → x.stage = .versioned → byteAt r.1 1 = 0x61 ∧ r.2.2.host.spdm.stage = .capable) ∧
    (sound → code = 0xE3 → x.stage = .capable → byteAt r.1 1 = 0x63 ∧ r.2.2.host.spdm.stage = .negotiated) ∧
    (sound → code = 0x81 → x.stage = .negotiated → r.1 = [0x12, 0x01, 0, 1] ++ sha384 s.chain) ∧
    (sound → code = 0x82 → x.stage = .negotiated → byteAt m 2 % 16 = 0 →
      if field m 4 2 < s.chain.length then r.1.drop 8 = slice s.chain (field m 4 2) (min (field m 6 2) (s.chain.length - field m 4 2))
      else r.1 = spdmError 1) ∧
    (sound → code = 0x83 → x.stage = .negotiated → byteAt m 2 = 0 → ∃ rest, r.1 = [0x12, 0x03, 0, 1] ++ sha384 s.chain ++ rest) ∧
    (sound → code = 0xE0 → x.stage = .negotiated → bit (byteAt m 2) 0 = false → 1 ≤ byteAt m 3 → byteAt m 3 ≤ 6 →
      slice r.1 8 (s.measurement (byteAt m 3)).length = s.measurement (byteAt m 3)) ∧
    (sound → code = 0xE0 → x.stage ≠ .negotiated → bit (byteAt m 2) 0 = false → r = (spdmError 4, true, s)) ∧
    (sound → code = 0xE5 → x.session = .handshake → slice m 4 48 = spdmVerifyData x.reqSecret (sha384 (x.transcript ++ m.take 4)) →
      q.1 = [0x12, 0x65, 0, 0] ∧ q.2.2.host.spdm.session = .established) ∧
    (sound → code = 0xE5 → x.session = .handshake → slice m 4 48 ≠ spdmVerifyData x.reqSecret (sha384 (x.transcript ++ m.take 4)) →
      q.1 = spdmError 6 ∧ q.2.2.host.spdm.session = .handshake) ∧
    (sound → code = 0xE8 → x.session = .established → q = ([0x12, 0x68, 0, 0], false, s)) ∧
    (sound → code = 0xE9 → x.session = .established → byteAt m 2 = 1 →
      byteAt q.1 1 = 0x69 ∧ q.2.2.host.spdm.reqSecret = spdmDerive x.reqSecret "traffic upd" [] ∧ q.2.2.host.spdm.rspSecret = x.rspSecret) ∧
    (sound → code = 0xEC → x.session = .established → q.1 = [0x12, 0x6C, 0, 0] ∧ q.2.2.host.spdm.session = .none ∧ q.2.2.host.spdm.reqSecret = []) ∧
    (sound → code = 0xFE → x.session = .established → byteAt m 11 = 2 → byteAt m 14 < 5 →
      Tab.find (Tab.get q.2.2.host.ide {} (byteAt m 14)).sets (byteAt m 16) = some (slice (m.drop 11) 7 40)) ∧
    (sound → code = 0xFE → x.session = .established → byteAt m 11 = 4 → byteAt m 14 < 5 →
      (Tab.get q.2.2.host.ide {} (byteAt m 14)).secure =
        (Tab.get s.host.ide {} (byteAt m 14)).sets.any (fun p => p.1 % 2 = byteAt m 16 % 2)) ∧
    (s.running = true → (Tab.get s.host.ide {} n).secure = true →
      ∃ u, exec (.ideIntegrityFail n) s = .next u ∧ (Tab.get u.host.ide {} n).secure = false ∧ (Tab.get u.host.ide {} n).sets = [])

/-! ### The twin link -/

/-- The session of the twin link (R463, R465, R466; payloads as log entry 34). Training makes the link UP and sends HELLO; a HELLO whose peer does not fit,
and a KEY_CONFIRM whose signature does not hold, refuse the session for a second; an exchange gives epoch 1, and each REKEY the next; failures, a timeout and
CLOSE lead back to TRAINING without keys. Each of LINK_TRAINED, LANE_FAIL, FRAME_TIMEOUT, HELLO, KEY_SETUP, KEY_CONFIRM, REKEY and CLOSE ends in a next state
under conditions on the state and the operands alone. -/
def Obligations.LinkSessionsForm : Prop :=
  ∀ (s : State) (b : Bytes) (half fec : Bool), s.linkRuns = true →
    let l := s.link
    let down := fun (u : State) => u.link.mode = .training ∧ u.link.keys = [] ∧ u.link.unacked = []
    (s.boot.state ≠ .booting → l.mode = .down ∨ l.mode = .training →
      ∃ u, exec (.linkTrained half) s = .next u ∧ u.link.mode = .up ∧ u.link.half = half ∧ u.now = max s.now l.retryAt ∧
        u.host.sent = s.host.sent ++ [.frame s.helloFrame]) ∧
    (l.mode ≠ .down → ∃ u, exec .laneFail s = .next u ∧ down u ∧ u.link.half = true) ∧
    (l.mode = .up ∨ l.mode = .secure →
      ∃ u, exec (.frameTimeout fec) s = .next u ∧ down u ∧ u.now = if fec then s.now else max s.now (l.lastFrame + 1000000)) ∧
    (l.mode = .up → l.helloIn = false →
      (s.plainNext 1 b = none → exec (.hello b) s = .next s.dropFrame) ∧
      (∀ p, s.plainNext 1 b = some p →
        let fits := s.peerFits (slice p 0 16) (byteAt p 16) (p.drop 17)
        ∃ u, exec (.hello b) s = .next u ∧ (fits = false → down u ∧ u.link.retryAt = s.now + 1000000000) ∧
          (fits = true → u.link.mode = .up ∧ u.link.helloIn = true ∧ u.link.peerSerial = slice p 0 16 ∧
            u.link.initiator = decide (beNat (slice Config.serial 0 16) < beNat (slice p 0 16))))) ∧
    (l.mode = .up → l.helloIn = true → l.keys = [] →
      (s.plainNext 2 b = none → exec (.keySetup b) s = .next s.dropFrame) ∧
      (∀ p, s.plainNext 2 b = some p → p.length = 1600 → l.initiator = true → l.kemKey ≠ [] →
        ∃ u, exec (.keySetup b) s = .next u ∧ u.link.epoch = 1 ∧ u.link.confirmOut = true ∧
          u.link.keys = { l with transcript := l.transcript ++ b }.deriveKeys (l.closeExchange p) 1) ∧
      (∀ p x, s.plainNext 2 b = some p → p.length = 1600 → l.initiator = false → kemEkValid 1024 (p.take 1568) = true →
        s.takeTwo (List.range 8) = some x → ∃ u, exec (.keySetup b) s = .next u ∧ u.link.epoch = 1 ∧ u.link.confirmOut = true)) ∧
    (∀ p t ty, l.mode = .up → l.keys ≠ [] → byteAt b 0 = 3 → s.acceptFrame b = (some (ty, p), t) →
      let good := officerVerify 0x21 (Config.chainKey t.link.peerChain) t.link.transcript p
      ∃ u, exec (.keyConfirm b) s = .next u ∧ (good = true → u.link.mode = .secure ∧ u.link.epochSince = s.now) ∧
        (good = false → down u ∧ u.link.retryAt = s.now + 1000000000)) ∧
    (∀ p t, l.mode = .secure → l.initiator = true → l.kemKey = [] →
      (if 2 ^ 32 < l.txNo ∨ 2 ^ 32 < l.rxNo then s else s.passTo (l.epochSince + 86400000000000)).openExchange = some (p, t) →
      exec (.rekey []) s = .next (t.sendRekey p) ∧ (t.sendRekey p).link.epoch = l.epoch) ∧
    (∀ p t ty, l.mode = .secure → byteAt b 0 = 7 → s.acceptFrame b = (some (ty, p), t) → p.length = 1600 → l.initiator = true → l.kemKey ≠ [] →
      ∃ u, exec (.rekey b) s = .next u ∧ u.link.epoch = l.epoch + 1 ∧ u.link.oldKeys = l.keys ∧ u.link.kemKey = []) ∧
    (∀ p t ty, l.mode = .secure → byteAt b 0 = 8 → s.acceptFrame b = (some (ty, p), t) → ∃ u, exec (.close b) s = .next u ∧ down u)

/-- Frames of the session (R85, R86, R88, R467): an accepted RECORD or HEARTBEAT frame takes effect and is acknowledged; an ACK frees the buffer; what is not
acknowledged is sent again as it was; without a heartbeat for TIMEOUT a twin group is DETACHED, and a lag over its time pauses it. Each of RECORD, ACK,
HEARTBEAT, HEARTBEAT_SEND, TWIN_RESEND, TWIN_TIMEOUT and TWIN_LAG_TIME ends in a next state under conditions on the state and the operands alone. -/
def Obligations.LinkFramesAct : Prop :=
  ∀ (s : State) (b p : Bytes) (t : State) (d : Nat), s.boot.powered = true → s.boot.held = false →
    let l := s.link
    let T := (s.dom d).twin
    (l.mode = .secure → byteAt b 0 = 4 → s.wakeModule.acceptFrame b = (some (4, p), t) →
      exec (.record b) s = .next (t.takePiece p).ackFrames ∧ exec (.ack b) s = exec (.record b) s) ∧
    (l.mode = .secure → byteAt b 0 = 5 → s.wakeModule.acceptFrame b = (some (5, p), t) → t.link.queued = [] →
      ∃ u, exec (.ack b) s = .next u ∧ u.link.lastSent = s.now ∧
        u.link.unacked = t.link.unacked.filter fun f => f.1 > field p 0 8 || field f.2 4 4 != field b 4 4) ∧
    (l.mode = .secure → byteAt b 0 = 6 → s.wakeModule.acceptFrame b = (some (6, p), t) →
      exec (.heartbeat b) s = .next ((chunks 16 p).foldl State.heartbeatEntry t).ackFrames) ∧
    (l.mode = .secure → s.wakeModule.acceptFrame b = (none, t) → 4 ≤ byteAt b 0 → byteAt b 0 ≤ 5 → exec (.ack b) s = .next t) ∧
    (l.mode = .secure → s.boot.state ≠ .locked → s.boot.state ≠ .booting → l.buffered + s.heartbeats.length + 32 ≤ 4194304 →
      ∃ u, exec .heartbeatSend s = .next u ∧ u.link.txNo = l.txNo + 1 ∧
        u.host.sent = s.host.sent ++ [.frame (sealFrame l.keys l.initiator 6 l.epoch l.txNo s.heartbeats)]) ∧
    (l.mode = .secure → l.unacked ≠ [] →
      ∃ u, exec .twinResend s = .next u ∧ u.host.sent = s.host.sent ++ l.unacked.map (fun f => HostOut.frame f.2) ∧
        u.now = max s.now (l.lastSent + 20000) ∧ u.link.lastSent = u.now ∧ u.link.unacked = l.unacked) ∧
    (T.mode = .attached →
      ∃ u, exec (.twinTimeout d) s = .next u ∧ u.now = max s.now (T.lastHeard + T.timeout * 1000) ∧ (u.dom d).twin.mode = .detached ∧
        (u.dom d).twin.lagPaused = false) ∧
    (∀ r rest, T.unacked = r :: rest → T.role = .primary → T.mode = .attached →
      ∃ u, exec (.twinLagTime d) s = .next u ∧ u.now = max s.now (r.since + T.lagTime * 1000) ∧ (u.dom d).twin.lagPaused = true)

/-! ### The management bus and the TAP -/

/-- The management bus (R424, R468 to R470, R483; packets as log entry 35): a packet whose PEC does not hold is ignored and counted; a whole message of a
row's command is answered by its packets; ARP sets the address, and a bus timeout drops the message in progress; a warden gap holds a reply (R356). Each of
GET_TID, SET_ENDPOINT_ID, GET_ENDPOINT_ID, GET_ENDPOINT_UUID, GET_MCTP_VERSION_SUPPORT, GET_MESSAGE_TYPE_SUPPORT, GET_PLDM_VERSION, GET_PLDM_TYPES,
GET_PLDM_COMMANDS, GET_SENSOR_READING, GET_STATE_SENSOR_READINGS, GET_PDR_REPOSITORY_INFO, GET_PDR, SMBUS_ARP, SMB_CLK_TIMEOUT, SMB_DAT_TIMEOUT and
ALERT_RESPONSE_ADDRESS ends in a next state under conditions on the state and the operands alone. -/
def Obligations.BusMessagesAreAnswered : Prop :=
  ∀ (s t : State) (b m : Bytes) (reading : Int), s.busAnswers = true →
    let answered := fun (i : Instr) (r : Bytes) (u : State) => exec i s = .next (u.packetsOut b (responseHead m ++ r))
    (pecHolds b = false → exec (.getTid b) s = .next s.badPec ∧ (s.badPec).smb.badPec = s.smb.badPec + 1) ∧
    (pecHolds b = true → s.wakeModule.packetIn b = (some m, t) →
      (commandOf m = (0, 0, 1) → byteAt m 3 % 4 < 2 → byteAt m 4 ≠ 0 → byteAt m 4 ≠ 255 →
        answered (.setEndpointId b) ([0, 0] ++ leBytes 1 (byteAt m 4) ++ [0]) { t with smb := { t.smb with eid := byteAt m 4 } }) ∧
      (commandOf m = (0, 0, 2) → answered (.getEndpointId b) ([0] ++ leBytes 1 t.smb.eid ++ [0, 0]) t) ∧
      (commandOf m = (0, 0, 3) → answered (.getEndpointUuid b) ([0] ++ slice Config.uuid 0 16) t) ∧
      (commandOf m = (0, 0, 4) → byteAt m 3 = 0 → answered (.getMctpVersionSupport b) [0, 1, 0xF1, 0xF3, 0xFF, 0] t) ∧
      (commandOf m = (0, 0, 5) → answered (.getMessageTypeSupport b) [0, 1, 1] t) ∧
      (commandOf m = (1, 0, 2) → answered (.getTid b) ([0] ++ leBytes 1 t.smb.tid) t) ∧
      (commandOf m = (1, 0, 3) → byteAt m 9 = 0 ∨ byteAt m 9 = 2 →
        answered (.getPldmVersion b) ([0] ++ zeros 4 ++ [5] ++ (t.fresh 4).1 ++ leBytes 4 (crc32 (t.fresh 4).1)) (t.fresh 4).2) ∧
      (commandOf m = (1, 0, 4) → answered (.getPldmTypes b) ([0, 5] ++ zeros 7) t) ∧
      (commandOf m = (1, 0, 5) → byteAt m 4 = 0 ∨ byteAt m 4 = 2 → answered (.getPldmCommands b) ([0] ++ pldmCommands (byteAt m 4)) t) ∧
      (let n := field m 4 2; commandOf m = (1, 2, 0x11) → 1 ≤ n → n ≤ 10 → t.sensorsReady = true →
        let x := t.sensorLevel n reading
        answered (.getSensorReading b reading) ([0, 5, 0, 0] ++ leBytes 1 x ++ leBytes 1 (Tab.get t.smb.levels 1 n) ++ leBytes 1 x ++
          leBytes 4 (Int.toNat (reading % 4294967296))) (t.setLevel n x)) ∧
      (let n := field m 4 2; commandOf m = (1, 2, 0x21) → 20 ≤ n → n ≤ 23 → t.sensorsReady = true →
        let x := t.stateReading n
        answered (.getStateSensorReadings b) ([0, 1, 0] ++ leBytes 1 x ++ leBytes 1 (Tab.get t.smb.levels 1 n) ++ leBytes 1 x) (t.setLevel n x)) ∧
      (let l := sensorList.map (fun n => (t.pdr n).length); commandOf m = (1, 2, 0x50) →
        answered (.getPdrRepositoryInfo b) ([0, 0] ++ (t.fresh 26).1 ++ leBytes 4 14 ++ leBytes 4 l.sum ++ leBytes 4 (l.foldl max 0) ++ [0]) (t.fresh 26).2) ∧
      (let h := field m 4 4; commandOf m = (1, 2, 0x51) → 1 ≤ h → h ≤ 13 →
        let r := (t.pdr (sensorList.getD (h - 1) 0)).take (field m 13 2)
        answered (.getPdr b) ([0] ++ leBytes 4 (h + 1) ++ zeros 4 ++ [5] ++ leBytes 2 r.length ++ r) t)) ∧
    (pecHolds b = true → b.length = 21 → slice b 0 3 = [0xC2, 0x04, 17] → slice b 3 16 = slice Config.udid 0 16 →
      ∃ u, exec (.smbusArp b) s = .next u ∧ u.smb = { s.smb with address := byteAt b 19 / 2 }) ∧
    (∃ u, exec .smbClkTimeout s = .next u ∧ u.smb = { s.smb with incoming := [] }) ∧
    (∃ u, exec .smbDatTimeout s = .next u ∧ u.smb = { s.smb with incoming := [] }) ∧
    (s.smbAlertLow = true →
      ∃ u x, exec .alertResponseAddress s = .next u ∧
        (s.guy.holding = false → u.host.sent = s.host.sent ++ [.smbus (leBytes 1 (2 * s.smb.address) ++ [x])]) ∧
        (s.guy.holding = true → u.host.sent = s.host.sent ∧ u.guy.held = s.guy.held ++ [.smbus (leBytes 1 (2 * s.smb.address) ++ [x])]))

/-- The TAP and the debug master (R313, R407, R408, R483). An instruction that the level allows is selected, and BYPASS in place of one that it does not; a
read returns what its target holds, a write changes it; an access that the level or the customer states forbid returns nothing. Each of TAP_INSTRUCTION,
TRST_N_ASSERT and DEBUG_ACCESS ends in a next state under conditions on the state and the operands alone. -/
def Obligations.DebugIsLevelled : Prop :=
  ∀ (s : State) (ir : TapInstr) (data : Bytes) (x : DebugTarget) (k a : Nat),
    let level := s.life.debugLevel
    (s.boot.powered = true → tapNeeds ir level = true → ∃ u, exec (.tapInstruction ir data false) s = .next u ∧ u.tap.ir = ir ∧ u.tap.inReset = false ∧
      (ir = .preload → u.tap.boundary = data) ∧ (ir = .idcode → u.host.sent = s.host.sent ++ [.tap (slice Config.idcode 0 4)]) ∧
      (ir = .extest → u.boot.held = true)) ∧
    (s.boot.powered = true → tapNeeds ir level = false → ∃ u, exec (.tapInstruction ir data false) s = .next u ∧ u.tap.ir = .bypass ∧
      u.host.sent = s.host.sent ++ [.tap data]) ∧
    (∃ u, exec .trstNAssert s = .next u ∧ u.tap.trst = true ∧ u.tap.ir = .idcode ∧ u.life.extest = false) ∧
    (s.running = true → s.debugServes x false = true →
      ∃ u, exec (.debugAccess x none) s = .next u ∧ u = (s.debugRead x).2.shiftOut (s.debugRead x).1) ∧
    (s.boot.powered = true → exec (.tapInstruction ir data true) s = .next s) ∧
    (s.running = true → s.debugServes x true = true → exec (.debugAccess x (some data)) s = s.debugWrite x data) ∧
    (s.running = true → level = 3 → exec (.debugAccess (.core k a) (some data)) s =
      .next (s.setWord k (a / 8 * 8) (kBits (BitVec.ofNat 64 (field data 0 8)))) ∧
      (∀ i, exec (.debugAccess (.coreReg k i) none) s =
        .next (s.shiftOut (leBytes 8 ((s.core k).reg (BitVec.ofNat 5 i)).val.toNat ++ leBytes 1 ((s.core k).reg (BitVec.ofNat 5 i)).tag.number))) ∧
      (∀ i, exec (.debugAccess (.csr k i) none) s = .next (s.shiftOut (leBytes 8 (s.csr k i).toNat))) ∧
      (∀ n, exec (.debugAccess (.otp n) none) s = .next (s.shiftOut (leBytes 32 (s.life.copy n).toNat)))) ∧
    (s.running = true → level = 2 → s.traced k = true → exec (.debugAccess (.trace k) none) s =
      .next (s.shiftOut (leBytes 8 (s.core k).pc.toNat ++ leBytes 4 (s.insnWord k (s.core k).pc.toNat).2))) ∧
    (∀ w, s.running = true → s.debugServes x (Option.isSome w) = false →
      ∃ u l, exec (.debugAccess x w) s = .next u ∧ u.host.sent = s.host.sent ++ .tap [] :: l ∧ l.length ≤ 1 ∧ u.doms = s.doms ∧ u.cores = s.cores ∧
        u.ember = s.ember) ∧
    (customerState s.life.state = true → debugLocked x = true → s.debugServes x false = false ∧ s.debugServes x true = false)
end

