-- ==== Sys2Proof/Laws/Keep.lean ====
section
/-!
SUPPORT. Sys2Proof/Laws/Keep.lean: the fields of a state that only a few operations change, and how a change is seen to keep them.
-/

namespace Sys2Proof.Machine

/-- What no helper but those of Laws/Evolve.lean changes: the queue, the arbiter's code, the fuses, and the life-cycle state with its vote code. -/
structure Fixed where
  pending : List Instr
  grant : BitVec 16
  fuses : BitVec 256 × BitVec 256 × BitVec 256
  vote : BitVec 16
  state : LifeCycle

/-- These fields of a state. -/
def State.fixed (s : State) : Fixed :=
  ⟨s.pending, s.guy.code, (s.life.copy0, s.life.copy1, s.life.copy2), s.life.vote, s.life.state⟩

@[simp] theorem fixed_mk (pending : List Instr) (free : Nat) (boot : Boot) (host : HostPort) (link : TwinLink) (smb : Smb) (tap : Tap) (supplies : Supplies) (clock : Clock) (chip : ChipConf) (sets : Tab StageSet) (doms : Tab Dom) (regions : Tab Region) (blocks : Tab Block) (cores : Tab Core) (cells : Tab Cell) (lius : Tab Liu) (hashes : Tab HashEngine) (wardens : Tab Warden) (guy : Guyline) (tamper : Tamper) (ember : Ember) (life : LifeCycleReg) (trail : Trail) (events : Events) (perf : Perf) (recordSeq : Nat) (allBusy : Bool) (recordIv : Nat) (ivStored : Stored) :
    State.fixed ⟨pending, free, boot, host, link, smb, tap, supplies, clock, chip, sets, doms, regions, blocks, cores, cells, lius, hashes, wardens, guy, tamper, ember, life, trail, events, perf, recordSeq, allBusy, recordIv, ivStored⟩ = ⟨pending, guy.code, (life.copy0, life.copy1, life.copy2), life.vote, life.state⟩ := rfl

@[simp] theorem fixed_eta (s : State) : (⟨s.pending, s.guy.code, (s.life.copy0, s.life.copy1, s.life.copy2), s.life.vote, s.life.state⟩ : Fixed) = s.fixed := rfl

/-- An answer whose next state has the same ones. -/
def Answer.Keeps (a : Answer) (s : State) : Prop := ∀ t, a = .next t → t.fixed = s.fixed

@[simp] theorem keeps_next (t s : State) : Answer.Keeps (.next t) s ↔ t.fixed = s.fixed := by
  constructor
  · intro h; exact h t rfl
  · intro h u hu; cases hu; exact h

/-- A row that goes on from a state with the same ones keeps them. -/
theorem Answer.Keeps.after {a : Answer} {t s : State} (k : a.Keeps t) (h : t.fixed = s.fixed) : a.Keeps s := fun u hu => (k u hu).trans h

@[simp] theorem foldl_fixed {α : Type} (l : List α) (f : State → α → State) (s : State) (h : ∀ t a, (f t a).fixed = t.fixed) :
    (l.foldl f s).fixed = s.fixed := by
  induction l generalizing s with
  | nil => rfl
  | cons a l ih => rw [List.foldl_cons, ih, h]

theorem except_bind_ok {ε α β : Type} {x : Except ε α} {f : α → Except ε β} {t : β} :
    x.bind f = .ok t ↔ ∃ a, x = .ok a ∧ f a = .ok t := by
  cases x <;> simp [Except.bind]

theorem except_map_ok {ε α β : Type} {x : Except ε α} {f : α → β} {t : β} :
    x.map f = .ok t ↔ ∃ a, x = .ok a ∧ f a = t := by
  cases x <;> simp [Except.map]

theorem bind_map_ok {ε α β γ : Type} {x : Except ε α} {y : α → Except ε β} {g : α → β → γ} {t : γ}
    (h : (x.bind fun a => (y a).map (g a)) = .ok t) : ∃ a b, x = .ok a ∧ y a = .ok b ∧ g a b = t := by
  cases x with
  | error e => cases h
  | ok a =>
    cases hy : y a with
    | error e => simp [Except.bind, hy, Except.map] at h
    | ok b => simp [Except.bind, hy, Except.map] at h; exact ⟨a, b, rfl, hy, h⟩

theorem guy_keeps (u s : State) (g : Guyline) (hg : g.code = u.guy.code) (hu : u.fixed = s.fixed) : Answer.Keeps (.next { u with guy := g }) s := by
  rw [keeps_next, ← hu]
  simp only [State.fixed, hg]

end Sys2Proof.Machine
end

