-- ==== Sys2Proof/Laws/Keep1.lean ====
section
/-!
SUPPORT. Sys2Proof/Laws/Keep1.lean: what Ops, KeyStore, Random, Admission, Link, Counters, Blinding, KeyCache keep of a state.
-/

namespace Sys2Proof.Machine

-- One lemma after the other: the many threads of a side-by-side elaboration hold memory.
set_option Elab.async false

-- One lemma after the other: the many threads of a side-by-side elaboration hold memory.
set_option Elab.async false

@[simp] theorem State.setDom_fixed (s : State) (d : Nat) (f : Dom → Dom) : (State.setDom s d f).fixed = s.fixed := by
  unfold State.setDom
  simp_all

@[simp] theorem State.setRegion_fixed (s : State) (r : Nat) (f : Region → Region) : (State.setRegion s r f).fixed = s.fixed := by
  unfold State.setRegion
  simp_all

@[simp] theorem State.setBlock_fixed (s : State) (b : Nat) (f : Block → Block) : (State.setBlock s b f).fixed = s.fixed := by
  unfold State.setBlock
  simp_all

@[simp] theorem State.setCore_fixed (s : State) (c : Nat) (f : Core → Core) : (State.setCore s c f).fixed = s.fixed := by
  unfold State.setCore
  simp_all

@[simp] theorem State.setCell_fixed (s : State) (c : Nat) (f : Cell → Cell) : (State.setCell s c f).fixed = s.fixed := by
  unfold State.setCell
  simp_all

@[simp] theorem State.setLiu_fixed (s : State) (l : Nat) (f : Liu → Liu) : (State.setLiu s l f).fixed = s.fixed := by
  unfold State.setLiu
  simp_all

@[simp] theorem State.setHash_fixed (s : State) (h : Nat) (f : HashEngine → HashEngine) : (State.setHash s h f).fixed = s.fixed := by
  unfold State.setHash
  simp_all

@[simp] theorem State.setWarden_fixed (s : State) (w : Nat) (f : Warden → Warden) : (State.setWarden s w f).fixed = s.fixed := by
  unfold State.setWarden
  simp_all

@[simp] theorem State.setStage_fixed (s : State) (k : Nat) (x : StageSet) : (State.setStage s k x).fixed = s.fixed := by
  unfold State.setStage
  simp_all

@[simp] theorem State.setCmd_fixed (s : State) (d id : Nat) (f : Cmd → Cmd) : (State.setCmd s d id f).fixed = s.fixed := by
  unfold State.setCmd
  simp_all

@[simp] theorem State.foldDoms_fixed (s : State) (l : List Nat) (f : State → Nat → State) (hf : ∀ y0 y1, (f y0 y1).fixed = y0.fixed) : (State.foldDoms s l f).fixed = s.fixed := by
  unfold State.foldDoms
  simp_all

@[simp] theorem State.pass_fixed (s : State) (dt : Nat) : (State.pass s dt).fixed = s.fixed := by
  unfold State.pass
  simp_all

@[simp] theorem State.passTo_fixed (s : State) (t : Nat) : (State.passTo s t).fixed = s.fixed := by
  unfold State.passTo
  simp_all

@[simp] theorem State.fresh_fixed (s : State) (n : Nat) : (State.fresh s n).2.fixed = s.fixed := by
  unfold State.fresh
  simp_all

@[simp] theorem State.trailAs_fixed (s : State) (code origin severity flags : Nat) (data : Bytes) (toMram : Bool) (time : Nat) : (State.trailAs s code origin severity flags data toMram time).fixed = s.fixed := by
  unfold State.trailAs
  dsimp only; (repeat' split) <;> simp_all

@[simp] theorem State.suppress_fixed (s : State) (code origin : Nat) : (State.suppress s code origin).fixed = s.fixed := by
  unfold State.suppress
  simp_all

@[simp] theorem State.log_fixed (s : State) (code origin severity : Nat) (data : Bytes) : (State.log s code origin severity data).fixed = s.fixed := by
  unfold State.log
  simp_all

@[simp] theorem State.ignore_fixed (s : State) (origin offset value : Nat) : (State.ignore s origin offset value).fixed = s.fixed := by
  unfold State.ignore
  simp_all

@[simp] theorem State.putRaw_fixed (s : State) (o : HostOut) : (State.putRaw s o).fixed = s.fixed := by
  unfold State.putRaw
  simp_all

@[simp] theorem State.wait_fixed (s : State) (o : HostOut) : (State.wait s o).fixed = s.fixed := by
  unfold State.wait
  simp_all

@[simp] theorem State.hold_fixed (s : State) (o : HostOut) : (State.hold s o).fixed = s.fixed := by
  unfold State.hold
  simp_all

@[simp] theorem State.setVector_fixed (s : State) (v : Nat) (f : Vector → Vector) : (State.setVector s v f).fixed = s.fixed := by
  unfold State.setVector
  simp_all

@[simp] theorem State.message_fixed (s : State) (v : Nat) (now : Bool) : (State.message s v now).fixed = s.fixed := by
  unfold State.message
  dsimp only; (repeat' split) <;> simp_all

@[simp] theorem State.eventEdge_fixed (s : State) (source : Nat) : (State.eventEdge s source).fixed = s.fixed := by
  unfold State.eventEdge
  dsimp only; (repeat' split) <;> simp_all

@[simp] theorem State.raise_fixed (s : State) (source : Nat) : (State.raise s source).fixed = s.fixed := by
  unfold State.raise
  (repeat' split) <;> simp_all

@[simp] theorem State.pitchEvent_fixed (s : State) (d b : Nat) : (State.pitchEvent s d b).fixed = s.fixed := by
  unfold State.pitchEvent
  dsimp only; (repeat' split) <;> simp_all

@[simp] theorem State.dirtyFail_fixed (s : State) (d : Nat) : (State.dirtyFail s d).fixed = s.fixed := by
  unfold State.dirtyFail
  simp_all

@[simp] theorem State.dirtyIssue_fixed (s : State) (d w : Nat) : (State.dirtyIssue s d w).fixed = s.fixed := by
  unfold State.dirtyIssue
  dsimp only; (repeat' split) <;> simp_all

@[simp] theorem State.dirtyMark_fixed (s : State) (d addr len : Nat) : (State.dirtyMark s d addr len).fixed = s.fixed := by
  unfold State.dirtyMark
  (repeat' split) <;> simp_all

@[simp] theorem State.put_fixed (s : State) (o : HostOut) : (State.put s o).fixed = s.fixed := by
  unfold State.put
  (repeat' split) <;> simp_all

@[simp] theorem State.emitNow_fixed (s : State) (o : HostOut) : (State.emitNow s o).fixed = s.fixed := by
  unfold State.emitNow
  (repeat' split) <;> simp_all

@[simp] theorem State.emit_fixed (s : State) (o : HostOut) : (State.emit s o).fixed = s.fixed := by
  unfold State.emit
  (repeat' split) <;> simp_all

@[simp] theorem State.releaseList_fixed (s : State) (l : List HostOut) : (s.releaseList l).fixed = s.fixed := by
  induction l generalizing s with
  | nil => rfl
  | cons o os ih => rw [State.releaseList, ih]; split <;> simp

@[simp] theorem State.release_fixed (s : State) : (State.release s).fixed = s.fixed := by
  unfold State.release
  simp_all

@[simp] theorem State.releaseHeld_fixed (s : State) : (State.releaseHeld s).fixed = s.fixed := by
  unfold State.releaseHeld
  simp_all

@[simp] theorem State.holdOutputs_fixed (s : State) : (State.holdOutputs s).fixed = s.fixed := by
  unfold State.holdOutputs
  (repeat' split) <;> simp_all

@[simp] theorem State.wakeModule_fixed (s : State) : (State.wakeModule s).fixed = s.fixed := by
  unfold State.wakeModule
  dsimp only; (repeat' split) <;> simp_all

@[simp] theorem State.driveHealth_fixed (s : State) : (State.driveHealth s).fixed = s.fixed := by
  unfold State.driveHealth
  dsimp only; (repeat' split) <;> simp_all

@[simp] theorem State.wardenTo_fixed (s : State) (w : Nat) (new : WardenState) : (State.wardenTo s w new).fixed = s.fixed := by
  unfold State.wardenTo
  dsimp only; (repeat' split) <;> simp_all

@[simp] theorem State.applyEntry_fixed (s : State) (w : Nat) (received : JournalEntry → Bytes) : (State.applyEntry s w received).fixed = s.fixed := by
  unfold State.applyEntry
  dsimp only; (repeat' split) <;> simp_all

@[simp] theorem State.checkpoint_fixed (s : State) : (State.checkpoint s).fixed = s.fixed := by
  unfold State.checkpoint
  dsimp only; (repeat' split) <;> simp_all

@[simp] theorem State.checkpointDue_fixed (s : State) : (State.checkpointDue s).fixed = s.fixed := by
  unfold State.checkpointDue
  (repeat' split) <;> simp_all

@[simp] theorem State.applyJournal_fixed (s : State) (received : JournalEntry → Bytes) : (State.applyJournal s received).fixed = s.fixed := by
  unfold State.applyJournal
  (repeat' split) <;> simp_all

@[simp] theorem State.ackJournal_fixed (s : State) : (State.ackJournal s).fixed = s.fixed := by
  unfold State.ackJournal
  (repeat' split) <;> simp_all

@[simp] theorem State.journal_fixed (s : State) (kind : JournalKind) (d seq : Nat) (data : Bytes) : (State.journal s kind d seq data).fixed = s.fixed := by
  unfold State.journal
  dsimp only; (repeat' split) <;> simp_all

@[simp] theorem State.journalTimer_fixed (s : State) (d t : Nat) : (State.journalTimer s d t).fixed = s.fixed := by
  unfold State.journalTimer
  simp_all

@[simp] theorem State.dropCached_fixed (s : State) (owner h : Nat) : (State.dropCached s owner h).fixed = s.fixed := by
  unfold State.dropCached
  simp_all

@[simp] theorem State.nextIv_fixed (s : State) : (State.nextIv s).fixed = s.fixed := by
  unfold State.nextIv
  simp_all

@[simp] theorem State.writeRecord_fixed (s : State) (owner h side : Nat) (attr : Attr) (value : Bytes) : (State.writeRecord s owner h side attr value).fixed = s.fixed := by
  unfold State.writeRecord
  dsimp only; (repeat' split) <;> simp_all

@[simp] theorem State.writeKey_fixed (s : State) (owner h : Nat) (attr : Attr) (value : Bytes) : (State.writeKey s owner h attr value).fixed = s.fixed := by
  unfold State.writeKey
  dsimp only; (repeat' split) <;> simp_all

@[simp] theorem State.abandonWrite_fixed (s : State) (pair : Nat) (check : EmberCheck) (value : Bytes) : (State.abandonWrite s pair check value).fixed = s.fixed := by
  unfold State.abandonWrite
  simp_all

@[simp] theorem State.dropKey_fixed (s : State) (owner h : Nat) : (State.dropKey s owner h).fixed = s.fixed := by
  unfold State.dropKey
  (repeat' split) <;> simp_all

@[simp] theorem State.setEntropy_fixed (s : State) (r : Nat) (f : EntropyRegion → EntropyRegion) : (State.setEntropy s r f).fixed = s.fixed := by
  unfold State.setEntropy
  simp_all

theorem State.takeSeedOf_fixed (s : State) (r : Nat) (after : Option Nat) :
    ∀ a t, s.takeSeedOf r after = some (a, t) → t.fixed = s.fixed := by
  intro a t h
  simp only [State.takeSeedOf, Option.map_eq_some_iff, Prod.mk.injEq] at h
  obtain ⟨_, _, _, rfl⟩ := h
  simp

theorem State.takeSeed_fixed (s : State) (after : Option Nat) (l : List Nat) :
    ∀ a t, s.takeSeed after l = some (a, t) → t.fixed = s.fixed := by
  induction l with
  | nil => intro a t h; cases h
  | cons r rs ih =>
    intro a t h
    rw [State.takeSeed] at h
    split at h
    · next x hx => cases h; exact State.takeSeedOf_fixed s r after _ _ hx
    · exact ih a t h

theorem State.takeTwo_fixed (s : State) (order : List Nat) :
    ∀ a b t, s.takeTwo order = some (a, b, t) → t.fixed = s.fixed := by
  intro a b t h
  simp only [State.takeTwo, Option.bind_eq_some_iff, Option.map_eq_some_iff, Prod.mk.injEq] at h
  obtain ⟨p, hp, q, hq, rfl, rfl, rfl⟩ := h
  rw [State.takeSeed_fixed _ _ _ _ _ hq, State.takeSeed_fixed _ _ _ _ _ hp]

theorem State.secret_fixed (s : State) : ∀ a t, s.secret = some (a, t) → t.fixed = s.fixed :=
  fun a t h => State.takeSeed_fixed s none _ a t h

@[simp] theorem State.assign_fixed (s : State) (d id : Nat) (draws : List Nat) (predict : Bool) :
    (s.assign d id draws predict).fixed = s.fixed := by
  unfold State.assign
  split
  · rfl
  · dsimp only
    simp only [State.journalTimer_fixed, State.setCmd_fixed, State.setDom_fixed]
    split
    · split
      · next h => exact State.takeSeed_fixed _ _ _ _ _ h
      · simp
    · rfl

theorem State.drawOne_fixed (s : State) (d : Nat) (c : Cmd) : ∀ t, s.drawOne d c = some t → t.fixed = s.fixed := by
  intro t h
  unfold State.drawOne at h
  dsimp only at h
  split at h
  · cases h
  · simp only [Option.map_eq_some_iff, Prod.exists] at h
    obtain ⟨o, u, hu, rfl⟩ := h
    simp only [State.setCmd_fixed, State.setDom_fixed]
    split at hu
    · simp only [Option.map_eq_some_iff, Prod.mk.injEq, Prod.exists] at hu
      obtain ⟨a, v, hv, _, rfl⟩ := hu
      exact State.takeSeed_fixed _ _ _ _ _ hv
    · split at hu
      · cases hu; rfl
      · split at hu
        · simp only [Option.map_eq_some_iff, Prod.mk.injEq, Prod.exists] at hu
          obtain ⟨a, v, hv, _, rfl⟩ := hu
          exact State.takeSeed_fixed _ _ _ _ _ hv
        · cases hu; rfl

@[simp] theorem State.drawAll_fixed (s : State) (d : Nat) (l : List Cmd) : (s.drawAll d l).fixed = s.fixed := by
  induction l generalizing s with
  | nil => rfl
  | cons c cs ih =>
    rw [State.drawAll]
    split
    · split
      · next t h => rw [ih, State.drawOne_fixed _ _ _ _ h]
      · rfl
    · exact ih s

@[simp] theorem State.draw_fixed (s : State) (d : Nat) : (State.draw s d).fixed = s.fixed := by
  unfold State.draw
  simp_all

@[simp] theorem State.regionEvent_fixed (s : State) (r kind : Nat) : (State.regionEvent s r kind).fixed = s.fixed := by
  unfold State.regionEvent
  simp_all

@[simp] theorem State.setSource_fixed (s : State) (r i : Nat) (new : SourceState) : (State.setSource s r i new).fixed = s.fixed := by
  unfold State.setSource
  dsimp only; (repeat' split) <;> simp_all

@[simp] theorem State.startSource_fixed (s : State) (r i : Nat) : (State.startSource s r i).fixed = s.fixed := by
  unfold State.startSource
  simp_all

@[simp] theorem State.activate_fixed (s : State) (r i : Nat) : (State.activate s r i).fixed = s.fixed := by
  unfold State.activate
  simp_all

@[simp] theorem State.endCapture_fixed (s : State) (r i : Nat) : (State.endCapture s r i).fixed = s.fixed := by
  unfold State.endCapture
  dsimp only; (repeat' split) <;> simp_all

@[simp] theorem State.succeed_fixed (s : State) (r i : Nat) : (State.succeed s r i).fixed = s.fixed := by
  unfold State.succeed
  (repeat' split) <;> simp_all

@[simp] theorem State.chooseFirst_fixed (s : State) (r : Nat) : (State.chooseFirst s r).fixed = s.fixed := by
  unfold State.chooseFirst
  dsimp only; (repeat' split) <;> simp_all

@[simp] theorem State.stood_fixed (s : State) (r i : Nat) : (State.stood s r i).fixed = s.fixed := by
  unfold State.stood
  dsimp only; (repeat' split) <;> simp_all

@[simp] theorem State.failSource_fixed (s : State) (r i : Nat) : (State.failSource s r i).fixed = s.fixed := by
  unfold State.failSource
  dsimp only; (repeat' split) <;> simp_all

theorem State.startDrbg_fixed (s : State) (d : Nat) : ∀ t, s.startDrbg d = some t → t.fixed = s.fixed := by
  intro t h
  simp only [State.startDrbg, Option.map_eq_some_iff, Prod.exists] at h
  obtain ⟨a, b, u, hu, rfl⟩ := h
  simp [State.takeTwo_fixed _ _ _ _ _ hu]

@[simp] theorem State.startAll_fixed (s : State) (l : List Nat) : (s.startAll l).fixed = s.fixed := by
  induction l generalizing s with
  | nil => rfl
  | cons d ds ih =>
    rw [State.startAll]
    split
    · exact ih s
    · split
      · next t h => rw [ih, State.startDrbg_fixed _ _ _ h]
      · rfl

@[simp] theorem State.noteReady_fixed (s : State) (d : Nat) : (State.noteReady s d).fixed = s.fixed := by
  unfold State.noteReady
  simp_all

@[simp] theorem State.gapTimer_fixed (s : State) (d : Nat) (moved : Bool) : (State.gapTimer s d moved).fixed = s.fixed := by
  unfold State.gapTimer
  dsimp only; (repeat' split) <;> simp_all

@[simp] theorem State.saturation_fixed (s : State) : (State.saturation s).fixed = s.fixed := by
  unfold State.saturation
  dsimp only; (repeat' split) <;> simp_all

@[simp] theorem State.busyTimer_fixed (s : State) (d : Nat) : (State.busyTimer s d).fixed = s.fixed := by
  unfold State.busyTimer
  dsimp only; (repeat' split) <;> simp_all

@[simp] theorem State.placeOne_fixed (s : State) (d q : Nat) (raw : Bytes) (seq : Nat) : (State.placeOne s d q raw seq).fixed = s.fixed := by
  unfold State.placeOne
  dsimp only; (repeat' split) <;> simp_all

@[simp] theorem State.settleList_fixed (s : State) (d : Nat) (hold : Bool) (l : List Cmd) : (State.settleList s d hold l).fixed = s.fixed := by
  induction l generalizing s hold with
  | nil => rfl
  | cons c cs ih =>
    rw [State.settleList]
    dsimp only
    (repeat' split) <;> simp [ih]

@[simp] theorem State.settle_fixed (s : State) (d : Nat) : (State.settle s d).fixed = s.fixed := by
  unfold State.settle
  simp_all

@[simp] theorem State.placeWaiting_fixed (s : State) (d : Nat) (n : Nat) : (State.placeWaiting s d n).fixed = s.fixed := by
  induction n generalizing s with
  | zero => rfl
  | succ n ih =>
    rw [State.placeWaiting]
    split
    · rfl
    · split
      · rfl
      · dsimp only; rw [ih]; simp

@[simp] theorem State.resumePlacement_fixed (s : State) (d : Nat) : (State.resumePlacement s d).fixed = s.fixed := by
  unfold State.resumePlacement
  dsimp only; (repeat' split) <;> simp_all

@[simp] theorem State.place_fixed (s : State) (d q : Nat) (raw : Bytes) : (State.place s d q raw).fixed = s.fixed := by
  unfold State.place
  dsimp only; (repeat' split) <;> simp_all

@[simp] theorem State.sendFrame_fixed (s : State) (type : Nat) (payload : Bytes) : (State.sendFrame s type payload).fixed = s.fixed := by
  unfold State.sendFrame
  dsimp only; (repeat' split) <;> simp_all

@[simp] theorem State.sendQueued_fixed (s : State) (x0 : List Bytes) : (State.sendQueued s x0).fixed = s.fixed := by
  induction x0 generalizing s <;> simp_all [State.sendQueued]

@[simp] theorem State.flushQueued_fixed (s : State) : (State.flushQueued s).fixed = s.fixed := by
  unfold State.flushQueued
  simp_all

@[simp] theorem State.sendMessage_fixed (s : State) (m : Bytes) : (State.sendMessage s m).fixed = s.fixed := by
  unfold State.sendMessage
  simp_all

@[simp] theorem State.sessionChange_fixed (s : State) (severity : Nat) : (State.sessionChange s severity).fixed = s.fixed := by
  unfold State.sessionChange
  simp_all

@[simp] theorem State.retrain_fixed (s : State) (mode : LinkMode) : (State.retrain s mode).fixed = s.fixed := by
  unfold State.retrain
  dsimp only; (repeat' split) <;> simp_all

@[simp] theorem State.dropFrame_fixed (s : State) : (State.dropFrame s).fixed = s.fixed := by
  unfold State.dropFrame
  simp_all

@[simp] theorem State.tagFail_fixed (s : State) : (State.tagFail s).fixed = s.fixed := by
  unfold State.tagFail
  dsimp only; (repeat' split) <;> simp_all

@[simp] theorem State.acceptFrame_fixed (s : State) (bytes : Bytes) : (State.acceptFrame s bytes).2.fixed = s.fixed := by
  unfold State.acceptFrame
  dsimp only; (repeat' split) <;> simp_all

@[simp] theorem State.bump_fixed (s : State) (kind unit index n : Nat) : (State.bump s kind unit index n).fixed = s.fixed := by
  unfold State.bump
  dsimp only; (repeat' split) <;> simp_all

@[simp] theorem State.count_fixed (s : State) (kind unit event : Nat) (dom : Option Nat) (n : Nat) : (State.count s kind unit event dom n).fixed = s.fixed := by
  unfold State.count
  (repeat' split) <;> simp [apply_ite State.fixed]

@[simp] theorem State.setBorrowing_fixed (s : State) (r : Nat) (on : Bool) : (State.setBorrowing s r on).fixed = s.fixed := by
  unfold State.setBorrowing
  (repeat' split) <;> simp_all

theorem State.borrow_fixed (s : State) (r : Nat) : ∀ a t, State.borrow s r = some (a, t) → t.fixed = s.fixed := by
  intro a t h
  unfold State.borrow at h
  split at h
  · simp only [Option.bind_eq_some_iff, Option.map_eq_some_iff, Prod.mk.injEq] at h
    obtain ⟨q, _, p, hp, rfl, rfl⟩ := h
    simp [State.takeSeedOf_fixed _ _ _ _ _ hp]
  · cases h

theorem State.regionSeed_fixed (s : State) (r : Nat) : ∀ a t, State.regionSeed s r = some (a, t) → t.fixed = s.fixed := by
  intro a t h
  unfold State.regionSeed at h
  split at h
  · next p hp => cases h; exact State.takeSeedOf_fixed s r none _ _ hp
  · exact s.borrow_fixed r _ _ h

@[simp] theorem State.blindStep_fixed (s : State) (own : Bool) (r : Nat) : (State.blindStep s own r).fixed = s.fixed := by
  unfold State.blindStep
  split
  · rfl
  · split
    · rfl
    · next h =>
      rw [State.setEntropy_fixed]
      split at h
      · exact s.takeSeedOf_fixed r none _ _ h
      · exact s.regionSeed_fixed r _ _ h

@[simp] theorem State.startBlindings_fixed (s : State) (l : List Nat) : (State.startBlindings s l).fixed = s.fixed := by
  unfold State.startBlindings
  simp_all

@[simp] theorem State.reseedBlinding_fixed (s : State) (r : Nat) : (State.reseedBlinding s r).fixed = s.fixed := by
  unfold State.reseedBlinding
  split
  · rfl
  · split
    · next h => simp [s.regionSeed_fixed r _ _ h]
    · simp

@[simp] theorem State.blind_fixed (s : State) (r : Nat) (ns : List Nat) : (State.blind s r ns).2.fixed = s.fixed := by
  unfold State.blind
  dsimp only; (repeat' split) <;> simp_all

@[simp] theorem State.trimCache_fixed (s : State) (d : Nat) : (State.trimCache s d).fixed = s.fixed := by
  unfold State.trimCache
  simp_all

@[simp] theorem State.cacheEntry_fixed (s : State) (r : Nat) (e : CacheEntry) (value : Bytes) : (State.cacheEntry s r e value).fixed = s.fixed := by
  unfold State.cacheEntry
  dsimp only; (repeat' split) <;> simp_all

@[simp] theorem State.scopeKey_fixed (s : State) (k : Nat) (job : Nat × Nat) (owner : Nat) (attr : Option Attr) (path value : Bytes) : (State.scopeKey s k job owner attr path value).2.fixed = s.fixed := by
  unfold State.scopeKey
  simp_all

@[simp] theorem State.holdKeys_fixed (s : State) (k : Nat) (job : Nat × Nat) (l : List Held) : (State.holdKeys s k job l).fixed = s.fixed := by
  unfold State.holdKeys
  exact foldl_fixed _ _ _ fun _ _ => by first | (split <;> simp; done) | (dsimp only; (repeat' split) <;> simp; done)

@[simp] theorem State.scrubScoped_fixed (s : State) (mine : Nat → Bool) : (State.scrubScoped s mine).fixed = s.fixed := by
  unfold State.scrubScoped
  simp_all

@[simp] theorem State.scrubJob_fixed (s : State) (d id : Nat) : (State.scrubJob s d id).fixed = s.fixed := by
  unfold State.scrubJob
  simp_all

end Sys2Proof.Machine
end

