-- ==== Sys2Proof/Laws/Tab.lean ====
section
/-!
SUPPORT. Sys2Proof/Laws/Tab.lean: reading a table after a change, and the form that every change keeps.
-/

namespace Sys2Proof.Machine

variable {α : Type}

@[simp] theorem Tab.find_nil (i : Nat) : Tab.find ([] : Tab α) i = none := rfl

theorem Tab.find_insert (t : Tab α) (i j : Nat) (x : α) : Tab.find (Tab.insert t i x) j = if i = j then some x else Tab.find t j := by
  induction t with
  | nil => rfl
  | cons p t ih =>
    obtain ⟨k, v⟩ := p
    rw [Tab.insert]
    split
    · rfl
    · split
      · next _ h => subst h; simp only [Tab.find]; split <;> rfl
      · next _ h =>
          simp only [Tab.find, ih]
          split
          · next hk => subst hk; simp [h]
          · rfl

theorem Tab.find_erase (t : Tab α) (i j : Nat) : Tab.find (Tab.erase t i) j = if i = j then none else Tab.find t j := by
  induction t with
  | nil => simp [Tab.erase, Tab.find]
  | cons p t ih =>
    obtain ⟨k, v⟩ := p
    rw [Tab.erase]
    split
    · next h => subst h; rw [ih]; simp only [Tab.find]; split <;> rfl
    · next h =>
        simp only [Tab.find, ih]
        split
        · next hk => subst hk; rw [if_neg (fun e => h e.symm)]
        · rfl

theorem Tab.keys_insert (t : Tab α) (i : Nat) (x : α) (p : Nat × α → Bool) (hp : p (i, x) = true) (h : t.all p = true) :
    (Tab.insert t i x).all p = true := by
  induction t with
  | nil => simp [Tab.insert, hp]
  | cons q t ih =>
    obtain ⟨k, v⟩ := q
    simp only [List.all_cons, Bool.and_eq_true] at h
    rw [Tab.insert]
    split
    · simp [hp, h]
    · split
      · simp [hp, h]
      · simp [h.1, ih h.2]

theorem Tab.keys_erase (t : Tab α) (i : Nat) (p : Nat × α → Bool) (h : t.all p = true) : (Tab.erase t i).all p = true := by
  induction t with
  | nil => rfl
  | cons q t ih =>
    obtain ⟨k, v⟩ := q
    simp only [List.all_cons, Bool.and_eq_true] at h
    rw [Tab.erase]
    split
    · exact ih h.2
    · simp [h.1, ih h.2]

/-- What holds of every value of a table and of an absent one holds of what it reads. -/
theorem Tab.all_get (t : Tab α) (d : α) (i : Nat) (p : α → Bool) (hd : p d = true) (h : (t.all fun (q : Nat × α) => p q.2) = true) :
    p (Tab.get t d i) = true := by
  unfold Tab.get
  induction t with
  | nil => exact hd
  | cons q t ih =>
    obtain ⟨k, v⟩ := q
    simp only [List.all_cons, Bool.and_eq_true] at h
    rw [Tab.find]
    split
    · exact h.1
    · exact ih h.2

variable [DecidableEq α]

/-- A table after a put: the new value at its key, what stood before at every other. -/
theorem Tab.get_put (t : Tab α) (d x : α) (i j : Nat) : Tab.get (Tab.put t d i x) d j = if i = j then x else Tab.get t d j := by
  unfold Tab.get Tab.put
  split
  · next h => rw [Tab.find_erase]; split <;> simp [h]
  · rw [Tab.find_insert]; split <;> rfl

@[simp] theorem Tab.get_put_same (t : Tab α) (d x : α) (i : Nat) : Tab.get (Tab.put t d i x) d i = x := by
  rw [Tab.get_put, if_pos rfl]

theorem Tab.get_put_other (t : Tab α) (d x : α) {i j : Nat} (h : i ≠ j) : Tab.get (Tab.put t d i x) d j = Tab.get t d j := by
  rw [Tab.get_put, if_neg h]

theorem Tab.wf_erase (t : Tab α) (d : α) (i : Nat) (h : Tab.wf d t = true) : Tab.wf d (Tab.erase t i) = true := by
  induction t with
  | nil => rfl
  | cons p t ih =>
    obtain ⟨k, v⟩ := p
    simp only [Tab.wf, Bool.and_eq_true] at h
    rw [Tab.erase]
    split
    · exact ih h.2
    · simp only [Tab.wf, Bool.and_eq_true]
      exact ⟨⟨h.1.1, Tab.keys_erase _ _ _ h.1.2⟩, ih h.2⟩

theorem Tab.wf_insert (t : Tab α) (d : α) (i : Nat) (x : α) (hx : x ≠ d) (h : Tab.wf d t = true) : Tab.wf d (Tab.insert t i x) = true := by
  induction t with
  | nil => simp [Tab.insert, Tab.wf, hx]
  | cons p t ih =>
    obtain ⟨k, v⟩ := p
    have h0 := h
    simp only [Tab.wf, Bool.and_eq_true] at h
    rw [Tab.insert]
    split
    · next hk =>
        have hall : ((k, v) :: t).all (fun q => decide (i < q.1)) = true := by
          refine List.all_eq_true.mpr fun q hq => ?_
          rcases List.mem_cons.mp hq with rfl | hq
          · simpa using hk
          · have := List.all_eq_true.mp h.1.2 q hq
            simp only [decide_eq_true_eq] at this ⊢
            omega
        rw [Tab.wf, hall, h0]
        simpa using hx
    · split
      · next hk => subst hk; simp only [Tab.wf, Bool.and_eq_true]; exact ⟨⟨by simpa using hx, h.1.2⟩, h.2⟩
      · next h1 h2 =>
          simp only [Tab.wf, Bool.and_eq_true]
          exact ⟨⟨h.1.1, Tab.keys_insert _ _ _ _ (by simp only [decide_eq_true_eq]; omega) h.1.2⟩, ih h.2⟩

/-- A put keeps the form. -/
theorem Tab.wf_put (t : Tab α) (d : α) (i : Nat) (x : α) (h : Tab.wf d t = true) : Tab.wf d (Tab.put t d i x) = true := by
  unfold Tab.put
  split
  · exact Tab.wf_erase t d i h
  · next hx => exact Tab.wf_insert t d i x hx h

/-- Entries left out keep the form. -/
theorem Tab.wf_filter (t : Tab α) (d : α) (p : Nat × α → Bool) (h : Tab.wf d t = true) : Tab.wf d (t.filter p) = true := by
  induction t with
  | nil => rfl
  | cons q t ih =>
    obtain ⟨k, v⟩ := q
    simp only [Tab.wf, Bool.and_eq_true] at h
    rw [List.filter_cons]
    split
    · simp only [Tab.wf, Bool.and_eq_true]
      refine ⟨⟨h.1.1, List.all_eq_true.mpr fun q hq => ?_⟩, ih h.2⟩
      exact List.all_eq_true.mp h.1.2 q (List.mem_filter.mp hq).1
    · exact ih h.2

/-- What holds of every value of a table and of the new one holds after a put. -/
theorem Tab.all_put (t : Tab α) (d : α) (i : Nat) (x : α) (p : Nat × α → Bool) (hx : p (i, x) = true) (h : t.all p = true) :
    (Tab.put t d i x).all p = true := by
  unfold Tab.put
  split
  · exact Tab.keys_erase t i p h
  · exact Tab.keys_insert t i x p hx h

end Sys2Proof.Machine
end

