-- ==== Sys2Proof/Laws/State.lean ====
section
/-!
SUPPORT. Sys2Proof/Laws/State.lean: what each update of one group of the state leaves of the others, and what it writes.
-/

namespace Sys2Proof.Machine

-- One lemma after the other: the many threads of a side-by-side elaboration hold memory.
set_option Elab.async false

variable (s : State)

/-! ### `State.setDom` -/

@[simp] theorem pending_setDom (d : Nat) (f : Dom → Dom) : (s.setDom d f).pending = s.pending := rfl

@[simp] theorem free_setDom (d : Nat) (f : Dom → Dom) : (s.setDom d f).free = s.free := rfl

@[simp] theorem boot_setDom (d : Nat) (f : Dom → Dom) : (s.setDom d f).boot = s.boot := rfl

@[simp] theorem host_setDom (d : Nat) (f : Dom → Dom) : (s.setDom d f).host = s.host := rfl

@[simp] theorem link_setDom (d : Nat) (f : Dom → Dom) : (s.setDom d f).link = s.link := rfl

@[simp] theorem smb_setDom (d : Nat) (f : Dom → Dom) : (s.setDom d f).smb = s.smb := rfl

@[simp] theorem tap_setDom (d : Nat) (f : Dom → Dom) : (s.setDom d f).tap = s.tap := rfl

@[simp] theorem supplies_setDom (d : Nat) (f : Dom → Dom) : (s.setDom d f).supplies = s.supplies := rfl

@[simp] theorem clock_setDom (d : Nat) (f : Dom → Dom) : (s.setDom d f).clock = s.clock := rfl

@[simp] theorem chip_setDom (d : Nat) (f : Dom → Dom) : (s.setDom d f).chip = s.chip := rfl

@[simp] theorem sets_setDom (d : Nat) (f : Dom → Dom) : (s.setDom d f).sets = s.sets := rfl

@[simp] theorem regions_setDom (d : Nat) (f : Dom → Dom) : (s.setDom d f).regions = s.regions := rfl

@[simp] theorem blocks_setDom (d : Nat) (f : Dom → Dom) : (s.setDom d f).blocks = s.blocks := rfl

@[simp] theorem cores_setDom (d : Nat) (f : Dom → Dom) : (s.setDom d f).cores = s.cores := rfl

@[simp] theorem cells_setDom (d : Nat) (f : Dom → Dom) : (s.setDom d f).cells = s.cells := rfl

@[simp] theorem lius_setDom (d : Nat) (f : Dom → Dom) : (s.setDom d f).lius = s.lius := rfl

@[simp] theorem hashes_setDom (d : Nat) (f : Dom → Dom) : (s.setDom d f).hashes = s.hashes := rfl

@[simp] theorem wardens_setDom (d : Nat) (f : Dom → Dom) : (s.setDom d f).wardens = s.wardens := rfl

@[simp] theorem guy_setDom (d : Nat) (f : Dom → Dom) : (s.setDom d f).guy = s.guy := rfl

@[simp] theorem tamper_setDom (d : Nat) (f : Dom → Dom) : (s.setDom d f).tamper = s.tamper := rfl

@[simp] theorem ember_setDom (d : Nat) (f : Dom → Dom) : (s.setDom d f).ember = s.ember := rfl

@[simp] theorem life_setDom (d : Nat) (f : Dom → Dom) : (s.setDom d f).life = s.life := rfl

@[simp] theorem trail_setDom (d : Nat) (f : Dom → Dom) : (s.setDom d f).trail = s.trail := rfl

@[simp] theorem events_setDom (d : Nat) (f : Dom → Dom) : (s.setDom d f).events = s.events := rfl

@[simp] theorem perf_setDom (d : Nat) (f : Dom → Dom) : (s.setDom d f).perf = s.perf := rfl

@[simp] theorem recordSeq_setDom (d : Nat) (f : Dom → Dom) : (s.setDom d f).recordSeq = s.recordSeq := rfl

@[simp] theorem allBusy_setDom (d : Nat) (f : Dom → Dom) : (s.setDom d f).allBusy = s.allBusy := rfl

@[simp] theorem recordIv_setDom (d : Nat) (f : Dom → Dom) : (s.setDom d f).recordIv = s.recordIv := rfl

@[simp] theorem ivStored_setDom (d : Nat) (f : Dom → Dom) : (s.setDom d f).ivStored = s.ivStored := rfl

/-! ### `State.setCmd` -/

@[simp] theorem pending_setCmd (d id : Nat) (f : Cmd → Cmd) : (s.setCmd d id f).pending = s.pending := rfl

@[simp] theorem free_setCmd (d id : Nat) (f : Cmd → Cmd) : (s.setCmd d id f).free = s.free := rfl

@[simp] theorem boot_setCmd (d id : Nat) (f : Cmd → Cmd) : (s.setCmd d id f).boot = s.boot := rfl

@[simp] theorem host_setCmd (d id : Nat) (f : Cmd → Cmd) : (s.setCmd d id f).host = s.host := rfl

@[simp] theorem link_setCmd (d id : Nat) (f : Cmd → Cmd) : (s.setCmd d id f).link = s.link := rfl

@[simp] theorem smb_setCmd (d id : Nat) (f : Cmd → Cmd) : (s.setCmd d id f).smb = s.smb := rfl

@[simp] theorem tap_setCmd (d id : Nat) (f : Cmd → Cmd) : (s.setCmd d id f).tap = s.tap := rfl

@[simp] theorem supplies_setCmd (d id : Nat) (f : Cmd → Cmd) : (s.setCmd d id f).supplies = s.supplies := rfl

@[simp] theorem clock_setCmd (d id : Nat) (f : Cmd → Cmd) : (s.setCmd d id f).clock = s.clock := rfl

@[simp] theorem chip_setCmd (d id : Nat) (f : Cmd → Cmd) : (s.setCmd d id f).chip = s.chip := rfl

@[simp] theorem sets_setCmd (d id : Nat) (f : Cmd → Cmd) : (s.setCmd d id f).sets = s.sets := rfl

@[simp] theorem regions_setCmd (d id : Nat) (f : Cmd → Cmd) : (s.setCmd d id f).regions = s.regions := rfl

@[simp] theorem blocks_setCmd (d id : Nat) (f : Cmd → Cmd) : (s.setCmd d id f).blocks = s.blocks := rfl

@[simp] theorem cores_setCmd (d id : Nat) (f : Cmd → Cmd) : (s.setCmd d id f).cores = s.cores := rfl

@[simp] theorem cells_setCmd (d id : Nat) (f : Cmd → Cmd) : (s.setCmd d id f).cells = s.cells := rfl

@[simp] theorem lius_setCmd (d id : Nat) (f : Cmd → Cmd) : (s.setCmd d id f).lius = s.lius := rfl

@[simp] theorem hashes_setCmd (d id : Nat) (f : Cmd → Cmd) : (s.setCmd d id f).hashes = s.hashes := rfl

@[simp] theorem wardens_setCmd (d id : Nat) (f : Cmd → Cmd) : (s.setCmd d id f).wardens = s.wardens := rfl

@[simp] theorem guy_setCmd (d id : Nat) (f : Cmd → Cmd) : (s.setCmd d id f).guy = s.guy := rfl

@[simp] theorem tamper_setCmd (d id : Nat) (f : Cmd → Cmd) : (s.setCmd d id f).tamper = s.tamper := rfl

@[simp] theorem ember_setCmd (d id : Nat) (f : Cmd → Cmd) : (s.setCmd d id f).ember = s.ember := rfl

@[simp] theorem life_setCmd (d id : Nat) (f : Cmd → Cmd) : (s.setCmd d id f).life = s.life := rfl

@[simp] theorem trail_setCmd (d id : Nat) (f : Cmd → Cmd) : (s.setCmd d id f).trail = s.trail := rfl

@[simp] theorem events_setCmd (d id : Nat) (f : Cmd → Cmd) : (s.setCmd d id f).events = s.events := rfl

@[simp] theorem perf_setCmd (d id : Nat) (f : Cmd → Cmd) : (s.setCmd d id f).perf = s.perf := rfl

@[simp] theorem recordSeq_setCmd (d id : Nat) (f : Cmd → Cmd) : (s.setCmd d id f).recordSeq = s.recordSeq := rfl

@[simp] theorem allBusy_setCmd (d id : Nat) (f : Cmd → Cmd) : (s.setCmd d id f).allBusy = s.allBusy := rfl

@[simp] theorem recordIv_setCmd (d id : Nat) (f : Cmd → Cmd) : (s.setCmd d id f).recordIv = s.recordIv := rfl

@[simp] theorem ivStored_setCmd (d id : Nat) (f : Cmd → Cmd) : (s.setCmd d id f).ivStored = s.ivStored := rfl

/-! ### `State.setTwin` -/

@[simp] theorem pending_setTwin (d : Nat) (f : Twin → Twin) : (s.setTwin d f).pending = s.pending := rfl

@[simp] theorem free_setTwin (d : Nat) (f : Twin → Twin) : (s.setTwin d f).free = s.free := rfl

@[simp] theorem boot_setTwin (d : Nat) (f : Twin → Twin) : (s.setTwin d f).boot = s.boot := rfl

@[simp] theorem host_setTwin (d : Nat) (f : Twin → Twin) : (s.setTwin d f).host = s.host := rfl

@[simp] theorem link_setTwin (d : Nat) (f : Twin → Twin) : (s.setTwin d f).link = s.link := rfl

@[simp] theorem smb_setTwin (d : Nat) (f : Twin → Twin) : (s.setTwin d f).smb = s.smb := rfl

@[simp] theorem tap_setTwin (d : Nat) (f : Twin → Twin) : (s.setTwin d f).tap = s.tap := rfl

@[simp] theorem supplies_setTwin (d : Nat) (f : Twin → Twin) : (s.setTwin d f).supplies = s.supplies := rfl

@[simp] theorem clock_setTwin (d : Nat) (f : Twin → Twin) : (s.setTwin d f).clock = s.clock := rfl

@[simp] theorem chip_setTwin (d : Nat) (f : Twin → Twin) : (s.setTwin d f).chip = s.chip := rfl

@[simp] theorem sets_setTwin (d : Nat) (f : Twin → Twin) : (s.setTwin d f).sets = s.sets := rfl

@[simp] theorem regions_setTwin (d : Nat) (f : Twin → Twin) : (s.setTwin d f).regions = s.regions := rfl

@[simp] theorem blocks_setTwin (d : Nat) (f : Twin → Twin) : (s.setTwin d f).blocks = s.blocks := rfl

@[simp] theorem cores_setTwin (d : Nat) (f : Twin → Twin) : (s.setTwin d f).cores = s.cores := rfl

@[simp] theorem cells_setTwin (d : Nat) (f : Twin → Twin) : (s.setTwin d f).cells = s.cells := rfl

@[simp] theorem lius_setTwin (d : Nat) (f : Twin → Twin) : (s.setTwin d f).lius = s.lius := rfl

@[simp] theorem hashes_setTwin (d : Nat) (f : Twin → Twin) : (s.setTwin d f).hashes = s.hashes := rfl

@[simp] theorem wardens_setTwin (d : Nat) (f : Twin → Twin) : (s.setTwin d f).wardens = s.wardens := rfl

@[simp] theorem guy_setTwin (d : Nat) (f : Twin → Twin) : (s.setTwin d f).guy = s.guy := rfl

@[simp] theorem tamper_setTwin (d : Nat) (f : Twin → Twin) : (s.setTwin d f).tamper = s.tamper := rfl

@[simp] theorem ember_setTwin (d : Nat) (f : Twin → Twin) : (s.setTwin d f).ember = s.ember := rfl

@[simp] theorem life_setTwin (d : Nat) (f : Twin → Twin) : (s.setTwin d f).life = s.life := rfl

@[simp] theorem trail_setTwin (d : Nat) (f : Twin → Twin) : (s.setTwin d f).trail = s.trail := rfl

@[simp] theorem events_setTwin (d : Nat) (f : Twin → Twin) : (s.setTwin d f).events = s.events := rfl

@[simp] theorem perf_setTwin (d : Nat) (f : Twin → Twin) : (s.setTwin d f).perf = s.perf := rfl

@[simp] theorem recordSeq_setTwin (d : Nat) (f : Twin → Twin) : (s.setTwin d f).recordSeq = s.recordSeq := rfl

@[simp] theorem allBusy_setTwin (d : Nat) (f : Twin → Twin) : (s.setTwin d f).allBusy = s.allBusy := rfl

@[simp] theorem recordIv_setTwin (d : Nat) (f : Twin → Twin) : (s.setTwin d f).recordIv = s.recordIv := rfl

@[simp] theorem ivStored_setTwin (d : Nat) (f : Twin → Twin) : (s.setTwin d f).ivStored = s.ivStored := rfl

/-! ### `State.setRegion` -/

@[simp] theorem pending_setRegion (r : Nat) (f : Region → Region) : (s.setRegion r f).pending = s.pending := rfl

@[simp] theorem free_setRegion (r : Nat) (f : Region → Region) : (s.setRegion r f).free = s.free := rfl

@[simp] theorem boot_setRegion (r : Nat) (f : Region → Region) : (s.setRegion r f).boot = s.boot := rfl

@[simp] theorem host_setRegion (r : Nat) (f : Region → Region) : (s.setRegion r f).host = s.host := rfl

@[simp] theorem link_setRegion (r : Nat) (f : Region → Region) : (s.setRegion r f).link = s.link := rfl

@[simp] theorem smb_setRegion (r : Nat) (f : Region → Region) : (s.setRegion r f).smb = s.smb := rfl

@[simp] theorem tap_setRegion (r : Nat) (f : Region → Region) : (s.setRegion r f).tap = s.tap := rfl

@[simp] theorem supplies_setRegion (r : Nat) (f : Region → Region) : (s.setRegion r f).supplies = s.supplies := rfl

@[simp] theorem clock_setRegion (r : Nat) (f : Region → Region) : (s.setRegion r f).clock = s.clock := rfl

@[simp] theorem chip_setRegion (r : Nat) (f : Region → Region) : (s.setRegion r f).chip = s.chip := rfl

@[simp] theorem sets_setRegion (r : Nat) (f : Region → Region) : (s.setRegion r f).sets = s.sets := rfl

@[simp] theorem doms_setRegion (r : Nat) (f : Region → Region) : (s.setRegion r f).doms = s.doms := rfl

@[simp] theorem blocks_setRegion (r : Nat) (f : Region → Region) : (s.setRegion r f).blocks = s.blocks := rfl

@[simp] theorem cores_setRegion (r : Nat) (f : Region → Region) : (s.setRegion r f).cores = s.cores := rfl

@[simp] theorem cells_setRegion (r : Nat) (f : Region → Region) : (s.setRegion r f).cells = s.cells := rfl

@[simp] theorem lius_setRegion (r : Nat) (f : Region → Region) : (s.setRegion r f).lius = s.lius := rfl

@[simp] theorem hashes_setRegion (r : Nat) (f : Region → Region) : (s.setRegion r f).hashes = s.hashes := rfl

@[simp] theorem wardens_setRegion (r : Nat) (f : Region → Region) : (s.setRegion r f).wardens = s.wardens := rfl

@[simp] theorem guy_setRegion (r : Nat) (f : Region → Region) : (s.setRegion r f).guy = s.guy := rfl

@[simp] theorem tamper_setRegion (r : Nat) (f : Region → Region) : (s.setRegion r f).tamper = s.tamper := rfl

@[simp] theorem ember_setRegion (r : Nat) (f : Region → Region) : (s.setRegion r f).ember = s.ember := rfl

@[simp] theorem life_setRegion (r : Nat) (f : Region → Region) : (s.setRegion r f).life = s.life := rfl

@[simp] theorem trail_setRegion (r : Nat) (f : Region → Region) : (s.setRegion r f).trail = s.trail := rfl

@[simp] theorem events_setRegion (r : Nat) (f : Region → Region) : (s.setRegion r f).events = s.events := rfl

@[simp] theorem perf_setRegion (r : Nat) (f : Region → Region) : (s.setRegion r f).perf = s.perf := rfl

@[simp] theorem recordSeq_setRegion (r : Nat) (f : Region → Region) : (s.setRegion r f).recordSeq = s.recordSeq := rfl

@[simp] theorem allBusy_setRegion (r : Nat) (f : Region → Region) : (s.setRegion r f).allBusy = s.allBusy := rfl

@[simp] theorem recordIv_setRegion (r : Nat) (f : Region → Region) : (s.setRegion r f).recordIv = s.recordIv := rfl

@[simp] theorem ivStored_setRegion (r : Nat) (f : Region → Region) : (s.setRegion r f).ivStored = s.ivStored := rfl

/-! ### `State.setBlock` -/

@[simp] theorem pending_setBlock (b : Nat) (f : Block → Block) : (s.setBlock b f).pending = s.pending := rfl

@[simp] theorem free_setBlock (b : Nat) (f : Block → Block) : (s.setBlock b f).free = s.free := rfl

@[simp] theorem boot_setBlock (b : Nat) (f : Block → Block) : (s.setBlock b f).boot = s.boot := rfl

@[simp] theorem host_setBlock (b : Nat) (f : Block → Block) : (s.setBlock b f).host = s.host := rfl

@[simp] theorem link_setBlock (b : Nat) (f : Block → Block) : (s.setBlock b f).link = s.link := rfl

@[simp] theorem smb_setBlock (b : Nat) (f : Block → Block) : (s.setBlock b f).smb = s.smb := rfl

@[simp] theorem tap_setBlock (b : Nat) (f : Block → Block) : (s.setBlock b f).tap = s.tap := rfl

@[simp] theorem supplies_setBlock (b : Nat) (f : Block → Block) : (s.setBlock b f).supplies = s.supplies := rfl

@[simp] theorem clock_setBlock (b : Nat) (f : Block → Block) : (s.setBlock b f).clock = s.clock := rfl

@[simp] theorem chip_setBlock (b : Nat) (f : Block → Block) : (s.setBlock b f).chip = s.chip := rfl

@[simp] theorem sets_setBlock (b : Nat) (f : Block → Block) : (s.setBlock b f).sets = s.sets := rfl

@[simp] theorem doms_setBlock (b : Nat) (f : Block → Block) : (s.setBlock b f).doms = s.doms := rfl

@[simp] theorem regions_setBlock (b : Nat) (f : Block → Block) : (s.setBlock b f).regions = s.regions := rfl

@[simp] theorem cores_setBlock (b : Nat) (f : Block → Block) : (s.setBlock b f).cores = s.cores := rfl

@[simp] theorem cells_setBlock (b : Nat) (f : Block → Block) : (s.setBlock b f).cells = s.cells := rfl

@[simp] theorem lius_setBlock (b : Nat) (f : Block → Block) : (s.setBlock b f).lius = s.lius := rfl

@[simp] theorem hashes_setBlock (b : Nat) (f : Block → Block) : (s.setBlock b f).hashes = s.hashes := rfl

@[simp] theorem wardens_setBlock (b : Nat) (f : Block → Block) : (s.setBlock b f).wardens = s.wardens := rfl

@[simp] theorem guy_setBlock (b : Nat) (f : Block → Block) : (s.setBlock b f).guy = s.guy := rfl

@[simp] theorem tamper_setBlock (b : Nat) (f : Block → Block) : (s.setBlock b f).tamper = s.tamper := rfl

@[simp] theorem ember_setBlock (b : Nat) (f : Block → Block) : (s.setBlock b f).ember = s.ember := rfl

@[simp] theorem life_setBlock (b : Nat) (f : Block → Block) : (s.setBlock b f).life = s.life := rfl

@[simp] theorem trail_setBlock (b : Nat) (f : Block → Block) : (s.setBlock b f).trail = s.trail := rfl

@[simp] theorem events_setBlock (b : Nat) (f : Block → Block) : (s.setBlock b f).events = s.events := rfl

@[simp] theorem perf_setBlock (b : Nat) (f : Block → Block) : (s.setBlock b f).perf = s.perf := rfl

@[simp] theorem recordSeq_setBlock (b : Nat) (f : Block → Block) : (s.setBlock b f).recordSeq = s.recordSeq := rfl

@[simp] theorem allBusy_setBlock (b : Nat) (f : Block → Block) : (s.setBlock b f).allBusy = s.allBusy := rfl

@[simp] theorem recordIv_setBlock (b : Nat) (f : Block → Block) : (s.setBlock b f).recordIv = s.recordIv := rfl

@[simp] theorem ivStored_setBlock (b : Nat) (f : Block → Block) : (s.setBlock b f).ivStored = s.ivStored := rfl

/-! ### `State.setCore` -/

@[simp] theorem pending_setCore (k : Nat) (f : Core → Core) : (s.setCore k f).pending = s.pending := rfl

@[simp] theorem free_setCore (k : Nat) (f : Core → Core) : (s.setCore k f).free = s.free := rfl

@[simp] theorem boot_setCore (k : Nat) (f : Core → Core) : (s.setCore k f).boot = s.boot := rfl

@[simp] theorem host_setCore (k : Nat) (f : Core → Core) : (s.setCore k f).host = s.host := rfl

@[simp] theorem link_setCore (k : Nat) (f : Core → Core) : (s.setCore k f).link = s.link := rfl

@[simp] theorem smb_setCore (k : Nat) (f : Core → Core) : (s.setCore k f).smb = s.smb := rfl

@[simp] theorem tap_setCore (k : Nat) (f : Core → Core) : (s.setCore k f).tap = s.tap := rfl

@[simp] theorem supplies_setCore (k : Nat) (f : Core → Core) : (s.setCore k f).supplies = s.supplies := rfl

@[simp] theorem clock_setCore (k : Nat) (f : Core → Core) : (s.setCore k f).clock = s.clock := rfl

@[simp] theorem chip_setCore (k : Nat) (f : Core → Core) : (s.setCore k f).chip = s.chip := rfl

@[simp] theorem sets_setCore (k : Nat) (f : Core → Core) : (s.setCore k f).sets = s.sets := rfl

@[simp] theorem doms_setCore (k : Nat) (f : Core → Core) : (s.setCore k f).doms = s.doms := rfl

@[simp] theorem regions_setCore (k : Nat) (f : Core → Core) : (s.setCore k f).regions = s.regions := rfl

@[simp] theorem blocks_setCore (k : Nat) (f : Core → Core) : (s.setCore k f).blocks = s.blocks := rfl

@[simp] theorem cells_setCore (k : Nat) (f : Core → Core) : (s.setCore k f).cells = s.cells := rfl

@[simp] theorem lius_setCore (k : Nat) (f : Core → Core) : (s.setCore k f).lius = s.lius := rfl

@[simp] theorem hashes_setCore (k : Nat) (f : Core → Core) : (s.setCore k f).hashes = s.hashes := rfl

@[simp] theorem wardens_setCore (k : Nat) (f : Core → Core) : (s.setCore k f).wardens = s.wardens := rfl

@[simp] theorem guy_setCore (k : Nat) (f : Core → Core) : (s.setCore k f).guy = s.guy := rfl

@[simp] theorem tamper_setCore (k : Nat) (f : Core → Core) : (s.setCore k f).tamper = s.tamper := rfl

@[simp] theorem ember_setCore (k : Nat) (f : Core → Core) : (s.setCore k f).ember = s.ember := rfl

@[simp] theorem life_setCore (k : Nat) (f : Core → Core) : (s.setCore k f).life = s.life := rfl

@[simp] theorem trail_setCore (k : Nat) (f : Core → Core) : (s.setCore k f).trail = s.trail := rfl

@[simp] theorem events_setCore (k : Nat) (f : Core → Core) : (s.setCore k f).events = s.events := rfl

@[simp] theorem perf_setCore (k : Nat) (f : Core → Core) : (s.setCore k f).perf = s.perf := rfl

@[simp] theorem recordSeq_setCore (k : Nat) (f : Core → Core) : (s.setCore k f).recordSeq = s.recordSeq := rfl

@[simp] theorem allBusy_setCore (k : Nat) (f : Core → Core) : (s.setCore k f).allBusy = s.allBusy := rfl

@[simp] theorem recordIv_setCore (k : Nat) (f : Core → Core) : (s.setCore k f).recordIv = s.recordIv := rfl

@[simp] theorem ivStored_setCore (k : Nat) (f : Core → Core) : (s.setCore k f).ivStored = s.ivStored := rfl

/-! ### `State.setCell` -/

@[simp] theorem pending_setCell (n : Nat) (f : Cell → Cell) : (s.setCell n f).pending = s.pending := rfl

@[simp] theorem free_setCell (n : Nat) (f : Cell → Cell) : (s.setCell n f).free = s.free := rfl

@[simp] theorem boot_setCell (n : Nat) (f : Cell → Cell) : (s.setCell n f).boot = s.boot := rfl

@[simp] theorem host_setCell (n : Nat) (f : Cell → Cell) : (s.setCell n f).host = s.host := rfl

@[simp] theorem link_setCell (n : Nat) (f : Cell → Cell) : (s.setCell n f).link = s.link := rfl

@[simp] theorem smb_setCell (n : Nat) (f : Cell → Cell) : (s.setCell n f).smb = s.smb := rfl

@[simp] theorem tap_setCell (n : Nat) (f : Cell → Cell) : (s.setCell n f).tap = s.tap := rfl

@[simp] theorem supplies_setCell (n : Nat) (f : Cell → Cell) : (s.setCell n f).supplies = s.supplies := rfl

@[simp] theorem clock_setCell (n : Nat) (f : Cell → Cell) : (s.setCell n f).clock = s.clock := rfl

@[simp] theorem chip_setCell (n : Nat) (f : Cell → Cell) : (s.setCell n f).chip = s.chip := rfl

@[simp] theorem sets_setCell (n : Nat) (f : Cell → Cell) : (s.setCell n f).sets = s.sets := rfl

@[simp] theorem doms_setCell (n : Nat) (f : Cell → Cell) : (s.setCell n f).doms = s.doms := rfl

@[simp] theorem regions_setCell (n : Nat) (f : Cell → Cell) : (s.setCell n f).regions = s.regions := rfl

@[simp] theorem blocks_setCell (n : Nat) (f : Cell → Cell) : (s.setCell n f).blocks = s.blocks := rfl

@[simp] theorem cores_setCell (n : Nat) (f : Cell → Cell) : (s.setCell n f).cores = s.cores := rfl

@[simp] theorem lius_setCell (n : Nat) (f : Cell → Cell) : (s.setCell n f).lius = s.lius := rfl

@[simp] theorem hashes_setCell (n : Nat) (f : Cell → Cell) : (s.setCell n f).hashes = s.hashes := rfl

@[simp] theorem wardens_setCell (n : Nat) (f : Cell → Cell) : (s.setCell n f).wardens = s.wardens := rfl

@[simp] theorem guy_setCell (n : Nat) (f : Cell → Cell) : (s.setCell n f).guy = s.guy := rfl

@[simp] theorem tamper_setCell (n : Nat) (f : Cell → Cell) : (s.setCell n f).tamper = s.tamper := rfl

@[simp] theorem ember_setCell (n : Nat) (f : Cell → Cell) : (s.setCell n f).ember = s.ember := rfl

@[simp] theorem life_setCell (n : Nat) (f : Cell → Cell) : (s.setCell n f).life = s.life := rfl

@[simp] theorem trail_setCell (n : Nat) (f : Cell → Cell) : (s.setCell n f).trail = s.trail := rfl

@[simp] theorem events_setCell (n : Nat) (f : Cell → Cell) : (s.setCell n f).events = s.events := rfl

@[simp] theorem perf_setCell (n : Nat) (f : Cell → Cell) : (s.setCell n f).perf = s.perf := rfl

@[simp] theorem recordSeq_setCell (n : Nat) (f : Cell → Cell) : (s.setCell n f).recordSeq = s.recordSeq := rfl

@[simp] theorem allBusy_setCell (n : Nat) (f : Cell → Cell) : (s.setCell n f).allBusy = s.allBusy := rfl

@[simp] theorem recordIv_setCell (n : Nat) (f : Cell → Cell) : (s.setCell n f).recordIv = s.recordIv := rfl

@[simp] theorem ivStored_setCell (n : Nat) (f : Cell → Cell) : (s.setCell n f).ivStored = s.ivStored := rfl

/-! ### `State.setLiu` -/

@[simp] theorem pending_setLiu (n : Nat) (f : Liu → Liu) : (s.setLiu n f).pending = s.pending := rfl

@[simp] theorem free_setLiu (n : Nat) (f : Liu → Liu) : (s.setLiu n f).free = s.free := rfl

@[simp] theorem boot_setLiu (n : Nat) (f : Liu → Liu) : (s.setLiu n f).boot = s.boot := rfl

@[simp] theorem host_setLiu (n : Nat) (f : Liu → Liu) : (s.setLiu n f).host = s.host := rfl

@[simp] theorem link_setLiu (n : Nat) (f : Liu → Liu) : (s.setLiu n f).link = s.link := rfl

@[simp] theorem smb_setLiu (n : Nat) (f : Liu → Liu) : (s.setLiu n f).smb = s.smb := rfl

@[simp] theorem tap_setLiu (n : Nat) (f : Liu → Liu) : (s.setLiu n f).tap = s.tap := rfl

@[simp] theorem supplies_setLiu (n : Nat) (f : Liu → Liu) : (s.setLiu n f).supplies = s.supplies := rfl

@[simp] theorem clock_setLiu (n : Nat) (f : Liu → Liu) : (s.setLiu n f).clock = s.clock := rfl

@[simp] theorem chip_setLiu (n : Nat) (f : Liu → Liu) : (s.setLiu n f).chip = s.chip := rfl

@[simp] theorem sets_setLiu (n : Nat) (f : Liu → Liu) : (s.setLiu n f).sets = s.sets := rfl

@[simp] theorem doms_setLiu (n : Nat) (f : Liu → Liu) : (s.setLiu n f).doms = s.doms := rfl

@[simp] theorem regions_setLiu (n : Nat) (f : Liu → Liu) : (s.setLiu n f).regions = s.regions := rfl

@[simp] theorem blocks_setLiu (n : Nat) (f : Liu → Liu) : (s.setLiu n f).blocks = s.blocks := rfl

@[simp] theorem cores_setLiu (n : Nat) (f : Liu → Liu) : (s.setLiu n f).cores = s.cores := rfl

@[simp] theorem cells_setLiu (n : Nat) (f : Liu → Liu) : (s.setLiu n f).cells = s.cells := rfl

@[simp] theorem hashes_setLiu (n : Nat) (f : Liu → Liu) : (s.setLiu n f).hashes = s.hashes := rfl

@[simp] theorem wardens_setLiu (n : Nat) (f : Liu → Liu) : (s.setLiu n f).wardens = s.wardens := rfl

@[simp] theorem guy_setLiu (n : Nat) (f : Liu → Liu) : (s.setLiu n f).guy = s.guy := rfl

@[simp] theorem tamper_setLiu (n : Nat) (f : Liu → Liu) : (s.setLiu n f).tamper = s.tamper := rfl

@[simp] theorem ember_setLiu (n : Nat) (f : Liu → Liu) : (s.setLiu n f).ember = s.ember := rfl

@[simp] theorem life_setLiu (n : Nat) (f : Liu → Liu) : (s.setLiu n f).life = s.life := rfl

@[simp] theorem trail_setLiu (n : Nat) (f : Liu → Liu) : (s.setLiu n f).trail = s.trail := rfl

@[simp] theorem events_setLiu (n : Nat) (f : Liu → Liu) : (s.setLiu n f).events = s.events := rfl

@[simp] theorem perf_setLiu (n : Nat) (f : Liu → Liu) : (s.setLiu n f).perf = s.perf := rfl

@[simp] theorem recordSeq_setLiu (n : Nat) (f : Liu → Liu) : (s.setLiu n f).recordSeq = s.recordSeq := rfl

@[simp] theorem allBusy_setLiu (n : Nat) (f : Liu → Liu) : (s.setLiu n f).allBusy = s.allBusy := rfl

@[simp] theorem recordIv_setLiu (n : Nat) (f : Liu → Liu) : (s.setLiu n f).recordIv = s.recordIv := rfl

@[simp] theorem ivStored_setLiu (n : Nat) (f : Liu → Liu) : (s.setLiu n f).ivStored = s.ivStored := rfl

/-! ### `State.setHash` -/

@[simp] theorem pending_setHash (n : Nat) (f : HashEngine → HashEngine) : (s.setHash n f).pending = s.pending := rfl

@[simp] theorem free_setHash (n : Nat) (f : HashEngine → HashEngine) : (s.setHash n f).free = s.free := rfl

@[simp] theorem boot_setHash (n : Nat) (f : HashEngine → HashEngine) : (s.setHash n f).boot = s.boot := rfl

@[simp] theorem host_setHash (n : Nat) (f : HashEngine → HashEngine) : (s.setHash n f).host = s.host := rfl

@[simp] theorem link_setHash (n : Nat) (f : HashEngine → HashEngine) : (s.setHash n f).link = s.link := rfl

@[simp] theorem smb_setHash (n : Nat) (f : HashEngine → HashEngine) : (s.setHash n f).smb = s.smb := rfl

@[simp] theorem tap_setHash (n : Nat) (f : HashEngine → HashEngine) : (s.setHash n f).tap = s.tap := rfl

@[simp] theorem supplies_setHash (n : Nat) (f : HashEngine → HashEngine) : (s.setHash n f).supplies = s.supplies := rfl

@[simp] theorem clock_setHash (n : Nat) (f : HashEngine → HashEngine) : (s.setHash n f).clock = s.clock := rfl

@[simp] theorem chip_setHash (n : Nat) (f : HashEngine → HashEngine) : (s.setHash n f).chip = s.chip := rfl

@[simp] theorem sets_setHash (n : Nat) (f : HashEngine → HashEngine) : (s.setHash n f).sets = s.sets := rfl

@[simp] theorem doms_setHash (n : Nat) (f : HashEngine → HashEngine) : (s.setHash n f).doms = s.doms := rfl

@[simp] theorem regions_setHash (n : Nat) (f : HashEngine → HashEngine) : (s.setHash n f).regions = s.regions := rfl

@[simp] theorem blocks_setHash (n : Nat) (f : HashEngine → HashEngine) : (s.setHash n f).blocks = s.blocks := rfl

@[simp] theorem cores_setHash (n : Nat) (f : HashEngine → HashEngine) : (s.setHash n f).cores = s.cores := rfl

@[simp] theorem cells_setHash (n : Nat) (f : HashEngine → HashEngine) : (s.setHash n f).cells = s.cells := rfl

@[simp] theorem lius_setHash (n : Nat) (f : HashEngine → HashEngine) : (s.setHash n f).lius = s.lius := rfl

@[simp] theorem wardens_setHash (n : Nat) (f : HashEngine → HashEngine) : (s.setHash n f).wardens = s.wardens := rfl

@[simp] theorem guy_setHash (n : Nat) (f : HashEngine → HashEngine) : (s.setHash n f).guy = s.guy := rfl

@[simp] theorem tamper_setHash (n : Nat) (f : HashEngine → HashEngine) : (s.setHash n f).tamper = s.tamper := rfl

@[simp] theorem ember_setHash (n : Nat) (f : HashEngine → HashEngine) : (s.setHash n f).ember = s.ember := rfl

@[simp] theorem life_setHash (n : Nat) (f : HashEngine → HashEngine) : (s.setHash n f).life = s.life := rfl

@[simp] theorem trail_setHash (n : Nat) (f : HashEngine → HashEngine) : (s.setHash n f).trail = s.trail := rfl

@[simp] theorem events_setHash (n : Nat) (f : HashEngine → HashEngine) : (s.setHash n f).events = s.events := rfl

@[simp] theorem perf_setHash (n : Nat) (f : HashEngine → HashEngine) : (s.setHash n f).perf = s.perf := rfl

@[simp] theorem recordSeq_setHash (n : Nat) (f : HashEngine → HashEngine) : (s.setHash n f).recordSeq = s.recordSeq := rfl

@[simp] theorem allBusy_setHash (n : Nat) (f : HashEngine → HashEngine) : (s.setHash n f).allBusy = s.allBusy := rfl

@[simp] theorem recordIv_setHash (n : Nat) (f : HashEngine → HashEngine) : (s.setHash n f).recordIv = s.recordIv := rfl

@[simp] theorem ivStored_setHash (n : Nat) (f : HashEngine → HashEngine) : (s.setHash n f).ivStored = s.ivStored := rfl

/-! ### `State.setWarden` -/

@[simp] theorem pending_setWarden (w : Nat) (f : Warden → Warden) : (s.setWarden w f).pending = s.pending := rfl

@[simp] theorem free_setWarden (w : Nat) (f : Warden → Warden) : (s.setWarden w f).free = s.free := rfl

@[simp] theorem boot_setWarden (w : Nat) (f : Warden → Warden) : (s.setWarden w f).boot = s.boot := rfl

@[simp] theorem host_setWarden (w : Nat) (f : Warden → Warden) : (s.setWarden w f).host = s.host := rfl

@[simp] theorem link_setWarden (w : Nat) (f : Warden → Warden) : (s.setWarden w f).link = s.link := rfl

@[simp] theorem smb_setWarden (w : Nat) (f : Warden → Warden) : (s.setWarden w f).smb = s.smb := rfl

@[simp] theorem tap_setWarden (w : Nat) (f : Warden → Warden) : (s.setWarden w f).tap = s.tap := rfl

@[simp] theorem supplies_setWarden (w : Nat) (f : Warden → Warden) : (s.setWarden w f).supplies = s.supplies := rfl

@[simp] theorem clock_setWarden (w : Nat) (f : Warden → Warden) : (s.setWarden w f).clock = s.clock := rfl

@[simp] theorem chip_setWarden (w : Nat) (f : Warden → Warden) : (s.setWarden w f).chip = s.chip := rfl

@[simp] theorem sets_setWarden (w : Nat) (f : Warden → Warden) : (s.setWarden w f).sets = s.sets := rfl

@[simp] theorem doms_setWarden (w : Nat) (f : Warden → Warden) : (s.setWarden w f).doms = s.doms := rfl

@[simp] theorem regions_setWarden (w : Nat) (f : Warden → Warden) : (s.setWarden w f).regions = s.regions := rfl

@[simp] theorem blocks_setWarden (w : Nat) (f : Warden → Warden) : (s.setWarden w f).blocks = s.blocks := rfl

@[simp] theorem cores_setWarden (w : Nat) (f : Warden → Warden) : (s.setWarden w f).cores = s.cores := rfl

@[simp] theorem cells_setWarden (w : Nat) (f : Warden → Warden) : (s.setWarden w f).cells = s.cells := rfl

@[simp] theorem lius_setWarden (w : Nat) (f : Warden → Warden) : (s.setWarden w f).lius = s.lius := rfl

@[simp] theorem hashes_setWarden (w : Nat) (f : Warden → Warden) : (s.setWarden w f).hashes = s.hashes := rfl

@[simp] theorem guy_setWarden (w : Nat) (f : Warden → Warden) : (s.setWarden w f).guy = s.guy := rfl

@[simp] theorem tamper_setWarden (w : Nat) (f : Warden → Warden) : (s.setWarden w f).tamper = s.tamper := rfl

@[simp] theorem ember_setWarden (w : Nat) (f : Warden → Warden) : (s.setWarden w f).ember = s.ember := rfl

@[simp] theorem life_setWarden (w : Nat) (f : Warden → Warden) : (s.setWarden w f).life = s.life := rfl

@[simp] theorem trail_setWarden (w : Nat) (f : Warden → Warden) : (s.setWarden w f).trail = s.trail := rfl

@[simp] theorem events_setWarden (w : Nat) (f : Warden → Warden) : (s.setWarden w f).events = s.events := rfl

@[simp] theorem perf_setWarden (w : Nat) (f : Warden → Warden) : (s.setWarden w f).perf = s.perf := rfl

@[simp] theorem recordSeq_setWarden (w : Nat) (f : Warden → Warden) : (s.setWarden w f).recordSeq = s.recordSeq := rfl

@[simp] theorem allBusy_setWarden (w : Nat) (f : Warden → Warden) : (s.setWarden w f).allBusy = s.allBusy := rfl

@[simp] theorem recordIv_setWarden (w : Nat) (f : Warden → Warden) : (s.setWarden w f).recordIv = s.recordIv := rfl

@[simp] theorem ivStored_setWarden (w : Nat) (f : Warden → Warden) : (s.setWarden w f).ivStored = s.ivStored := rfl

/-! ### `State.setStage` -/

@[simp] theorem pending_setStage (k : Nat) (x : StageSet) : (s.setStage k x).pending = s.pending := rfl

@[simp] theorem free_setStage (k : Nat) (x : StageSet) : (s.setStage k x).free = s.free := rfl

@[simp] theorem boot_setStage (k : Nat) (x : StageSet) : (s.setStage k x).boot = s.boot := rfl

@[simp] theorem host_setStage (k : Nat) (x : StageSet) : (s.setStage k x).host = s.host := rfl

@[simp] theorem link_setStage (k : Nat) (x : StageSet) : (s.setStage k x).link = s.link := rfl

@[simp] theorem smb_setStage (k : Nat) (x : StageSet) : (s.setStage k x).smb = s.smb := rfl

@[simp] theorem tap_setStage (k : Nat) (x : StageSet) : (s.setStage k x).tap = s.tap := rfl

@[simp] theorem supplies_setStage (k : Nat) (x : StageSet) : (s.setStage k x).supplies = s.supplies := rfl

@[simp] theorem clock_setStage (k : Nat) (x : StageSet) : (s.setStage k x).clock = s.clock := rfl

@[simp] theorem chip_setStage (k : Nat) (x : StageSet) : (s.setStage k x).chip = s.chip := rfl

@[simp] theorem doms_setStage (k : Nat) (x : StageSet) : (s.setStage k x).doms = s.doms := rfl

@[simp] theorem regions_setStage (k : Nat) (x : StageSet) : (s.setStage k x).regions = s.regions := rfl

@[simp] theorem blocks_setStage (k : Nat) (x : StageSet) : (s.setStage k x).blocks = s.blocks := rfl

@[simp] theorem cores_setStage (k : Nat) (x : StageSet) : (s.setStage k x).cores = s.cores := rfl

@[simp] theorem cells_setStage (k : Nat) (x : StageSet) : (s.setStage k x).cells = s.cells := rfl

@[simp] theorem lius_setStage (k : Nat) (x : StageSet) : (s.setStage k x).lius = s.lius := rfl

@[simp] theorem hashes_setStage (k : Nat) (x : StageSet) : (s.setStage k x).hashes = s.hashes := rfl

@[simp] theorem wardens_setStage (k : Nat) (x : StageSet) : (s.setStage k x).wardens = s.wardens := rfl

@[simp] theorem guy_setStage (k : Nat) (x : StageSet) : (s.setStage k x).guy = s.guy := rfl

@[simp] theorem tamper_setStage (k : Nat) (x : StageSet) : (s.setStage k x).tamper = s.tamper := rfl

@[simp] theorem ember_setStage (k : Nat) (x : StageSet) : (s.setStage k x).ember = s.ember := rfl

@[simp] theorem life_setStage (k : Nat) (x : StageSet) : (s.setStage k x).life = s.life := rfl

@[simp] theorem trail_setStage (k : Nat) (x : StageSet) : (s.setStage k x).trail = s.trail := rfl

@[simp] theorem events_setStage (k : Nat) (x : StageSet) : (s.setStage k x).events = s.events := rfl

@[simp] theorem perf_setStage (k : Nat) (x : StageSet) : (s.setStage k x).perf = s.perf := rfl

@[simp] theorem recordSeq_setStage (k : Nat) (x : StageSet) : (s.setStage k x).recordSeq = s.recordSeq := rfl

@[simp] theorem allBusy_setStage (k : Nat) (x : StageSet) : (s.setStage k x).allBusy = s.allBusy := rfl

@[simp] theorem recordIv_setStage (k : Nat) (x : StageSet) : (s.setStage k x).recordIv = s.recordIv := rfl

@[simp] theorem ivStored_setStage (k : Nat) (x : StageSet) : (s.setStage k x).ivStored = s.ivStored := rfl

/-! ### `State.setTamper` -/

@[simp] theorem pending_setTamper (f : Tamper → Tamper) : (s.setTamper f).pending = s.pending := rfl

@[simp] theorem free_setTamper (f : Tamper → Tamper) : (s.setTamper f).free = s.free := rfl

@[simp] theorem boot_setTamper (f : Tamper → Tamper) : (s.setTamper f).boot = s.boot := rfl

@[simp] theorem host_setTamper (f : Tamper → Tamper) : (s.setTamper f).host = s.host := rfl

@[simp] theorem link_setTamper (f : Tamper → Tamper) : (s.setTamper f).link = s.link := rfl

@[simp] theorem smb_setTamper (f : Tamper → Tamper) : (s.setTamper f).smb = s.smb := rfl

@[simp] theorem tap_setTamper (f : Tamper → Tamper) : (s.setTamper f).tap = s.tap := rfl

@[simp] theorem supplies_setTamper (f : Tamper → Tamper) : (s.setTamper f).supplies = s.supplies := rfl

@[simp] theorem clock_setTamper (f : Tamper → Tamper) : (s.setTamper f).clock = s.clock := rfl

@[simp] theorem chip_setTamper (f : Tamper → Tamper) : (s.setTamper f).chip = s.chip := rfl

@[simp] theorem sets_setTamper (f : Tamper → Tamper) : (s.setTamper f).sets = s.sets := rfl

@[simp] theorem doms_setTamper (f : Tamper → Tamper) : (s.setTamper f).doms = s.doms := rfl

@[simp] theorem regions_setTamper (f : Tamper → Tamper) : (s.setTamper f).regions = s.regions := rfl

@[simp] theorem blocks_setTamper (f : Tamper → Tamper) : (s.setTamper f).blocks = s.blocks := rfl

@[simp] theorem cores_setTamper (f : Tamper → Tamper) : (s.setTamper f).cores = s.cores := rfl

@[simp] theorem cells_setTamper (f : Tamper → Tamper) : (s.setTamper f).cells = s.cells := rfl

@[simp] theorem lius_setTamper (f : Tamper → Tamper) : (s.setTamper f).lius = s.lius := rfl

@[simp] theorem hashes_setTamper (f : Tamper → Tamper) : (s.setTamper f).hashes = s.hashes := rfl

@[simp] theorem wardens_setTamper (f : Tamper → Tamper) : (s.setTamper f).wardens = s.wardens := rfl

@[simp] theorem guy_setTamper (f : Tamper → Tamper) : (s.setTamper f).guy = s.guy := rfl

@[simp] theorem ember_setTamper (f : Tamper → Tamper) : (s.setTamper f).ember = s.ember := rfl

@[simp] theorem life_setTamper (f : Tamper → Tamper) : (s.setTamper f).life = s.life := rfl

@[simp] theorem trail_setTamper (f : Tamper → Tamper) : (s.setTamper f).trail = s.trail := rfl

@[simp] theorem events_setTamper (f : Tamper → Tamper) : (s.setTamper f).events = s.events := rfl

@[simp] theorem perf_setTamper (f : Tamper → Tamper) : (s.setTamper f).perf = s.perf := rfl

@[simp] theorem recordSeq_setTamper (f : Tamper → Tamper) : (s.setTamper f).recordSeq = s.recordSeq := rfl

@[simp] theorem allBusy_setTamper (f : Tamper → Tamper) : (s.setTamper f).allBusy = s.allBusy := rfl

@[simp] theorem recordIv_setTamper (f : Tamper → Tamper) : (s.setTamper f).recordIv = s.recordIv := rfl

@[simp] theorem ivStored_setTamper (f : Tamper → Tamper) : (s.setTamper f).ivStored = s.ivStored := rfl

/-! ### `State.setClock` -/

@[simp] theorem pending_setClock (f : Clock → Clock) : (s.setClock f).pending = s.pending := rfl

@[simp] theorem free_setClock (f : Clock → Clock) : (s.setClock f).free = s.free := rfl

@[simp] theorem boot_setClock (f : Clock → Clock) : (s.setClock f).boot = s.boot := rfl

@[simp] theorem host_setClock (f : Clock → Clock) : (s.setClock f).host = s.host := rfl

@[simp] theorem link_setClock (f : Clock → Clock) : (s.setClock f).link = s.link := rfl

@[simp] theorem smb_setClock (f : Clock → Clock) : (s.setClock f).smb = s.smb := rfl

@[simp] theorem tap_setClock (f : Clock → Clock) : (s.setClock f).tap = s.tap := rfl

@[simp] theorem supplies_setClock (f : Clock → Clock) : (s.setClock f).supplies = s.supplies := rfl

@[simp] theorem chip_setClock (f : Clock → Clock) : (s.setClock f).chip = s.chip := rfl

@[simp] theorem sets_setClock (f : Clock → Clock) : (s.setClock f).sets = s.sets := rfl

@[simp] theorem doms_setClock (f : Clock → Clock) : (s.setClock f).doms = s.doms := rfl

@[simp] theorem regions_setClock (f : Clock → Clock) : (s.setClock f).regions = s.regions := rfl

@[simp] theorem blocks_setClock (f : Clock → Clock) : (s.setClock f).blocks = s.blocks := rfl

@[simp] theorem cores_setClock (f : Clock → Clock) : (s.setClock f).cores = s.cores := rfl

@[simp] theorem cells_setClock (f : Clock → Clock) : (s.setClock f).cells = s.cells := rfl

@[simp] theorem lius_setClock (f : Clock → Clock) : (s.setClock f).lius = s.lius := rfl

@[simp] theorem hashes_setClock (f : Clock → Clock) : (s.setClock f).hashes = s.hashes := rfl

@[simp] theorem wardens_setClock (f : Clock → Clock) : (s.setClock f).wardens = s.wardens := rfl

@[simp] theorem guy_setClock (f : Clock → Clock) : (s.setClock f).guy = s.guy := rfl

@[simp] theorem tamper_setClock (f : Clock → Clock) : (s.setClock f).tamper = s.tamper := rfl

@[simp] theorem ember_setClock (f : Clock → Clock) : (s.setClock f).ember = s.ember := rfl

@[simp] theorem life_setClock (f : Clock → Clock) : (s.setClock f).life = s.life := rfl

@[simp] theorem trail_setClock (f : Clock → Clock) : (s.setClock f).trail = s.trail := rfl

@[simp] theorem events_setClock (f : Clock → Clock) : (s.setClock f).events = s.events := rfl

@[simp] theorem perf_setClock (f : Clock → Clock) : (s.setClock f).perf = s.perf := rfl

@[simp] theorem recordSeq_setClock (f : Clock → Clock) : (s.setClock f).recordSeq = s.recordSeq := rfl

@[simp] theorem allBusy_setClock (f : Clock → Clock) : (s.setClock f).allBusy = s.allBusy := rfl

@[simp] theorem recordIv_setClock (f : Clock → Clock) : (s.setClock f).recordIv = s.recordIv := rfl

@[simp] theorem ivStored_setClock (f : Clock → Clock) : (s.setClock f).ivStored = s.ivStored := rfl

/-! ### `State.pass` -/

@[simp] theorem pending_pass (dt : Nat) : (s.pass dt).pending = s.pending := rfl

@[simp] theorem free_pass (dt : Nat) : (s.pass dt).free = s.free := rfl

@[simp] theorem boot_pass (dt : Nat) : (s.pass dt).boot = s.boot := rfl

@[simp] theorem host_pass (dt : Nat) : (s.pass dt).host = s.host := rfl

@[simp] theorem link_pass (dt : Nat) : (s.pass dt).link = s.link := rfl

@[simp] theorem smb_pass (dt : Nat) : (s.pass dt).smb = s.smb := rfl

@[simp] theorem tap_pass (dt : Nat) : (s.pass dt).tap = s.tap := rfl

@[simp] theorem supplies_pass (dt : Nat) : (s.pass dt).supplies = s.supplies := rfl

@[simp] theorem chip_pass (dt : Nat) : (s.pass dt).chip = s.chip := rfl

@[simp] theorem sets_pass (dt : Nat) : (s.pass dt).sets = s.sets := rfl

@[simp] theorem doms_pass (dt : Nat) : (s.pass dt).doms = s.doms := rfl

@[simp] theorem regions_pass (dt : Nat) : (s.pass dt).regions = s.regions := rfl

@[simp] theorem blocks_pass (dt : Nat) : (s.pass dt).blocks = s.blocks := rfl

@[simp] theorem cores_pass (dt : Nat) : (s.pass dt).cores = s.cores := rfl

@[simp] theorem cells_pass (dt : Nat) : (s.pass dt).cells = s.cells := rfl

@[simp] theorem lius_pass (dt : Nat) : (s.pass dt).lius = s.lius := rfl

@[simp] theorem hashes_pass (dt : Nat) : (s.pass dt).hashes = s.hashes := rfl

@[simp] theorem wardens_pass (dt : Nat) : (s.pass dt).wardens = s.wardens := rfl

@[simp] theorem guy_pass (dt : Nat) : (s.pass dt).guy = s.guy := rfl

@[simp] theorem tamper_pass (dt : Nat) : (s.pass dt).tamper = s.tamper := rfl

@[simp] theorem ember_pass (dt : Nat) : (s.pass dt).ember = s.ember := rfl

@[simp] theorem life_pass (dt : Nat) : (s.pass dt).life = s.life := rfl

@[simp] theorem trail_pass (dt : Nat) : (s.pass dt).trail = s.trail := rfl

@[simp] theorem events_pass (dt : Nat) : (s.pass dt).events = s.events := rfl

@[simp] theorem perf_pass (dt : Nat) : (s.pass dt).perf = s.perf := rfl

@[simp] theorem recordSeq_pass (dt : Nat) : (s.pass dt).recordSeq = s.recordSeq := rfl

@[simp] theorem allBusy_pass (dt : Nat) : (s.pass dt).allBusy = s.allBusy := rfl

@[simp] theorem recordIv_pass (dt : Nat) : (s.pass dt).recordIv = s.recordIv := rfl

@[simp] theorem ivStored_pass (dt : Nat) : (s.pass dt).ivStored = s.ivStored := rfl

/-! ### `State.passTo` -/

@[simp] theorem pending_passTo (t : Nat) : (s.passTo t).pending = s.pending := rfl

@[simp] theorem free_passTo (t : Nat) : (s.passTo t).free = s.free := rfl

@[simp] theorem boot_passTo (t : Nat) : (s.passTo t).boot = s.boot := rfl

@[simp] theorem host_passTo (t : Nat) : (s.passTo t).host = s.host := rfl

@[simp] theorem link_passTo (t : Nat) : (s.passTo t).link = s.link := rfl

@[simp] theorem smb_passTo (t : Nat) : (s.passTo t).smb = s.smb := rfl

@[simp] theorem tap_passTo (t : Nat) : (s.passTo t).tap = s.tap := rfl

@[simp] theorem supplies_passTo (t : Nat) : (s.passTo t).supplies = s.supplies := rfl

@[simp] theorem chip_passTo (t : Nat) : (s.passTo t).chip = s.chip := rfl

@[simp] theorem sets_passTo (t : Nat) : (s.passTo t).sets = s.sets := rfl

@[simp] theorem doms_passTo (t : Nat) : (s.passTo t).doms = s.doms := rfl

@[simp] theorem regions_passTo (t : Nat) : (s.passTo t).regions = s.regions := rfl

@[simp] theorem blocks_passTo (t : Nat) : (s.passTo t).blocks = s.blocks := rfl

@[simp] theorem cores_passTo (t : Nat) : (s.passTo t).cores = s.cores := rfl

@[simp] theorem cells_passTo (t : Nat) : (s.passTo t).cells = s.cells := rfl

@[simp] theorem lius_passTo (t : Nat) : (s.passTo t).lius = s.lius := rfl

@[simp] theorem hashes_passTo (t : Nat) : (s.passTo t).hashes = s.hashes := rfl

@[simp] theorem wardens_passTo (t : Nat) : (s.passTo t).wardens = s.wardens := rfl

@[simp] theorem guy_passTo (t : Nat) : (s.passTo t).guy = s.guy := rfl

@[simp] theorem tamper_passTo (t : Nat) : (s.passTo t).tamper = s.tamper := rfl

@[simp] theorem ember_passTo (t : Nat) : (s.passTo t).ember = s.ember := rfl

@[simp] theorem life_passTo (t : Nat) : (s.passTo t).life = s.life := rfl

@[simp] theorem trail_passTo (t : Nat) : (s.passTo t).trail = s.trail := rfl

@[simp] theorem events_passTo (t : Nat) : (s.passTo t).events = s.events := rfl

@[simp] theorem perf_passTo (t : Nat) : (s.passTo t).perf = s.perf := rfl

@[simp] theorem recordSeq_passTo (t : Nat) : (s.passTo t).recordSeq = s.recordSeq := rfl

@[simp] theorem allBusy_passTo (t : Nat) : (s.passTo t).allBusy = s.allBusy := rfl

@[simp] theorem recordIv_passTo (t : Nat) : (s.passTo t).recordIv = s.recordIv := rfl

@[simp] theorem ivStored_passTo (t : Nat) : (s.passTo t).ivStored = s.ivStored := rfl

/-! ### What an update writes -/

theorem dom_setDom (d e : Nat) (f : Dom → Dom) : (s.setDom d f).dom e = if d = e then f (s.dom d) else s.dom e := Tab.get_put ..

@[simp] theorem dom_setDom_same (d : Nat) (f : Dom → Dom) : (s.setDom d f).dom d = f (s.dom d) := by simp [dom_setDom]

@[simp] theorem dom_setDom_other {d e : Nat} (h : e ≠ d) (f : Dom → Dom) : (s.setDom d f).dom e = s.dom e := by
  rw [dom_setDom, if_neg (Ne.symm h)]

theorem region_setRegion (r e : Nat) (f : Region → Region) : (s.setRegion r f).region e = if r = e then f (s.region r) else s.region e := Tab.get_put ..

@[simp] theorem region_setRegion_same (r : Nat) (f : Region → Region) : (s.setRegion r f).region r = f (s.region r) := by simp [region_setRegion]

@[simp] theorem region_setRegion_other {r e : Nat} (h : e ≠ r) (f : Region → Region) : (s.setRegion r f).region e = s.region e := by
  rw [region_setRegion, if_neg (Ne.symm h)]

theorem block_setBlock (b e : Nat) (f : Block → Block) : (s.setBlock b f).block e = if b = e then f (s.block b) else s.block e := Tab.get_put ..

@[simp] theorem block_setBlock_same (b : Nat) (f : Block → Block) : (s.setBlock b f).block b = f (s.block b) := by simp [block_setBlock]

@[simp] theorem block_setBlock_other {b e : Nat} (h : e ≠ b) (f : Block → Block) : (s.setBlock b f).block e = s.block e := by
  rw [block_setBlock, if_neg (Ne.symm h)]

theorem core_setCore (k e : Nat) (f : Core → Core) : (s.setCore k f).core e = if k = e then f (s.core k) else s.core e := Tab.get_put ..

@[simp] theorem core_setCore_same (k : Nat) (f : Core → Core) : (s.setCore k f).core k = f (s.core k) := by simp [core_setCore]

@[simp] theorem core_setCore_other {k e : Nat} (h : e ≠ k) (f : Core → Core) : (s.setCore k f).core e = s.core e := by
  rw [core_setCore, if_neg (Ne.symm h)]

theorem cell_setCell (n e : Nat) (f : Cell → Cell) : (s.setCell n f).cell e = if n = e then f (s.cell n) else s.cell e := Tab.get_put ..

@[simp] theorem cell_setCell_same (n : Nat) (f : Cell → Cell) : (s.setCell n f).cell n = f (s.cell n) := by simp [cell_setCell]

@[simp] theorem cell_setCell_other {n e : Nat} (h : e ≠ n) (f : Cell → Cell) : (s.setCell n f).cell e = s.cell e := by
  rw [cell_setCell, if_neg (Ne.symm h)]

theorem liu_setLiu (n e : Nat) (f : Liu → Liu) : (s.setLiu n f).liu e = if n = e then f (s.liu n) else s.liu e := Tab.get_put ..

@[simp] theorem liu_setLiu_same (n : Nat) (f : Liu → Liu) : (s.setLiu n f).liu n = f (s.liu n) := by simp [liu_setLiu]

@[simp] theorem liu_setLiu_other {n e : Nat} (h : e ≠ n) (f : Liu → Liu) : (s.setLiu n f).liu e = s.liu e := by
  rw [liu_setLiu, if_neg (Ne.symm h)]

theorem hash_setHash (n e : Nat) (f : HashEngine → HashEngine) : (s.setHash n f).hash e = if n = e then f (s.hash n) else s.hash e := Tab.get_put ..

@[simp] theorem hash_setHash_same (n : Nat) (f : HashEngine → HashEngine) : (s.setHash n f).hash n = f (s.hash n) := by simp [hash_setHash]

@[simp] theorem hash_setHash_other {n e : Nat} (h : e ≠ n) (f : HashEngine → HashEngine) : (s.setHash n f).hash e = s.hash e := by
  rw [hash_setHash, if_neg (Ne.symm h)]

theorem warden_setWarden (w e : Nat) (f : Warden → Warden) : (s.setWarden w f).warden e = if w = e then f (s.warden w) else s.warden e := Tab.get_put ..

@[simp] theorem warden_setWarden_same (w : Nat) (f : Warden → Warden) : (s.setWarden w f).warden w = f (s.warden w) := by simp [warden_setWarden]

@[simp] theorem warden_setWarden_other {w e : Nat} (h : e ≠ w) (f : Warden → Warden) : (s.setWarden w f).warden e = s.warden e := by
  rw [warden_setWarden, if_neg (Ne.symm h)]

theorem stage_setStage (k j : Nat) (x : StageSet) : (s.setStage k x).stage j = if k = j then x else s.stage j := Tab.get_put ..

@[simp] theorem stage_setStage_same (k : Nat) (x : StageSet) : (s.setStage k x).stage k = x := by simp [stage_setStage]

@[simp] theorem tamper_setTamper (f : Tamper → Tamper) : (s.setTamper f).tamper = f s.tamper := rfl

@[simp] theorem clock_setClock (f : Clock → Clock) : (s.setClock f).clock = f s.clock := rfl

/-! ### Reading another group -/

@[simp] theorem region_setDom (d : Nat) (f : Dom → Dom) (e : Nat) : (s.setDom d f).region e = s.region e := rfl

@[simp] theorem block_setDom (d : Nat) (f : Dom → Dom) (e : Nat) : (s.setDom d f).block e = s.block e := rfl

@[simp] theorem core_setDom (d : Nat) (f : Dom → Dom) (e : Nat) : (s.setDom d f).core e = s.core e := rfl

@[simp] theorem cell_setDom (d : Nat) (f : Dom → Dom) (e : Nat) : (s.setDom d f).cell e = s.cell e := rfl

@[simp] theorem liu_setDom (d : Nat) (f : Dom → Dom) (e : Nat) : (s.setDom d f).liu e = s.liu e := rfl

@[simp] theorem hash_setDom (d : Nat) (f : Dom → Dom) (e : Nat) : (s.setDom d f).hash e = s.hash e := rfl

@[simp] theorem warden_setDom (d : Nat) (f : Dom → Dom) (e : Nat) : (s.setDom d f).warden e = s.warden e := rfl

@[simp] theorem stage_setDom (d : Nat) (f : Dom → Dom) (e : Nat) : (s.setDom d f).stage e = s.stage e := rfl

@[simp] theorem region_setCmd (d id : Nat) (f : Cmd → Cmd) (e : Nat) : (s.setCmd d id f).region e = s.region e := rfl

@[simp] theorem block_setCmd (d id : Nat) (f : Cmd → Cmd) (e : Nat) : (s.setCmd d id f).block e = s.block e := rfl

@[simp] theorem core_setCmd (d id : Nat) (f : Cmd → Cmd) (e : Nat) : (s.setCmd d id f).core e = s.core e := rfl

@[simp] theorem cell_setCmd (d id : Nat) (f : Cmd → Cmd) (e : Nat) : (s.setCmd d id f).cell e = s.cell e := rfl

@[simp] theorem liu_setCmd (d id : Nat) (f : Cmd → Cmd) (e : Nat) : (s.setCmd d id f).liu e = s.liu e := rfl

@[simp] theorem hash_setCmd (d id : Nat) (f : Cmd → Cmd) (e : Nat) : (s.setCmd d id f).hash e = s.hash e := rfl

@[simp] theorem warden_setCmd (d id : Nat) (f : Cmd → Cmd) (e : Nat) : (s.setCmd d id f).warden e = s.warden e := rfl

@[simp] theorem stage_setCmd (d id : Nat) (f : Cmd → Cmd) (e : Nat) : (s.setCmd d id f).stage e = s.stage e := rfl

@[simp] theorem region_setTwin (d : Nat) (f : Twin → Twin) (e : Nat) : (s.setTwin d f).region e = s.region e := rfl

@[simp] theorem block_setTwin (d : Nat) (f : Twin → Twin) (e : Nat) : (s.setTwin d f).block e = s.block e := rfl

@[simp] theorem core_setTwin (d : Nat) (f : Twin → Twin) (e : Nat) : (s.setTwin d f).core e = s.core e := rfl

@[simp] theorem cell_setTwin (d : Nat) (f : Twin → Twin) (e : Nat) : (s.setTwin d f).cell e = s.cell e := rfl

@[simp] theorem liu_setTwin (d : Nat) (f : Twin → Twin) (e : Nat) : (s.setTwin d f).liu e = s.liu e := rfl

@[simp] theorem hash_setTwin (d : Nat) (f : Twin → Twin) (e : Nat) : (s.setTwin d f).hash e = s.hash e := rfl

@[simp] theorem warden_setTwin (d : Nat) (f : Twin → Twin) (e : Nat) : (s.setTwin d f).warden e = s.warden e := rfl

@[simp] theorem stage_setTwin (d : Nat) (f : Twin → Twin) (e : Nat) : (s.setTwin d f).stage e = s.stage e := rfl

@[simp] theorem dom_setRegion (r : Nat) (f : Region → Region) (e : Nat) : (s.setRegion r f).dom e = s.dom e := rfl

@[simp] theorem cmd_setRegion (r : Nat) (f : Region → Region) (e i : Nat) : (s.setRegion r f).cmd e i = s.cmd e i := rfl

@[simp] theorem block_setRegion (r : Nat) (f : Region → Region) (e : Nat) : (s.setRegion r f).block e = s.block e := rfl

@[simp] theorem core_setRegion (r : Nat) (f : Region → Region) (e : Nat) : (s.setRegion r f).core e = s.core e := rfl

@[simp] theorem cell_setRegion (r : Nat) (f : Region → Region) (e : Nat) : (s.setRegion r f).cell e = s.cell e := rfl

@[simp] theorem liu_setRegion (r : Nat) (f : Region → Region) (e : Nat) : (s.setRegion r f).liu e = s.liu e := rfl

@[simp] theorem hash_setRegion (r : Nat) (f : Region → Region) (e : Nat) : (s.setRegion r f).hash e = s.hash e := rfl

@[simp] theorem warden_setRegion (r : Nat) (f : Region → Region) (e : Nat) : (s.setRegion r f).warden e = s.warden e := rfl

@[simp] theorem stage_setRegion (r : Nat) (f : Region → Region) (e : Nat) : (s.setRegion r f).stage e = s.stage e := rfl

@[simp] theorem dom_setBlock (b : Nat) (f : Block → Block) (e : Nat) : (s.setBlock b f).dom e = s.dom e := rfl

@[simp] theorem cmd_setBlock (b : Nat) (f : Block → Block) (e i : Nat) : (s.setBlock b f).cmd e i = s.cmd e i := rfl

@[simp] theorem region_setBlock (b : Nat) (f : Block → Block) (e : Nat) : (s.setBlock b f).region e = s.region e := rfl

@[simp] theorem core_setBlock (b : Nat) (f : Block → Block) (e : Nat) : (s.setBlock b f).core e = s.core e := rfl

@[simp] theorem cell_setBlock (b : Nat) (f : Block → Block) (e : Nat) : (s.setBlock b f).cell e = s.cell e := rfl

@[simp] theorem liu_setBlock (b : Nat) (f : Block → Block) (e : Nat) : (s.setBlock b f).liu e = s.liu e := rfl

@[simp] theorem hash_setBlock (b : Nat) (f : Block → Block) (e : Nat) : (s.setBlock b f).hash e = s.hash e := rfl

@[simp] theorem warden_setBlock (b : Nat) (f : Block → Block) (e : Nat) : (s.setBlock b f).warden e = s.warden e := rfl

@[simp] theorem stage_setBlock (b : Nat) (f : Block → Block) (e : Nat) : (s.setBlock b f).stage e = s.stage e := rfl

@[simp] theorem dom_setCore (k : Nat) (f : Core → Core) (e : Nat) : (s.setCore k f).dom e = s.dom e := rfl

@[simp] theorem cmd_setCore (k : Nat) (f : Core → Core) (e i : Nat) : (s.setCore k f).cmd e i = s.cmd e i := rfl

@[simp] theorem region_setCore (k : Nat) (f : Core → Core) (e : Nat) : (s.setCore k f).region e = s.region e := rfl

@[simp] theorem block_setCore (k : Nat) (f : Core → Core) (e : Nat) : (s.setCore k f).block e = s.block e := rfl

@[simp] theorem cell_setCore (k : Nat) (f : Core → Core) (e : Nat) : (s.setCore k f).cell e = s.cell e := rfl

@[simp] theorem liu_setCore (k : Nat) (f : Core → Core) (e : Nat) : (s.setCore k f).liu e = s.liu e := rfl

@[simp] theorem hash_setCore (k : Nat) (f : Core → Core) (e : Nat) : (s.setCore k f).hash e = s.hash e := rfl

@[simp] theorem warden_setCore (k : Nat) (f : Core → Core) (e : Nat) : (s.setCore k f).warden e = s.warden e := rfl

@[simp] theorem stage_setCore (k : Nat) (f : Core → Core) (e : Nat) : (s.setCore k f).stage e = s.stage e := rfl

@[simp] theorem dom_setCell (n : Nat) (f : Cell → Cell) (e : Nat) : (s.setCell n f).dom e = s.dom e := rfl

@[simp] theorem cmd_setCell (n : Nat) (f : Cell → Cell) (e i : Nat) : (s.setCell n f).cmd e i = s.cmd e i := rfl

@[simp] theorem region_setCell (n : Nat) (f : Cell → Cell) (e : Nat) : (s.setCell n f).region e = s.region e := rfl

@[simp] theorem block_setCell (n : Nat) (f : Cell → Cell) (e : Nat) : (s.setCell n f).block e = s.block e := rfl

@[simp] theorem core_setCell (n : Nat) (f : Cell → Cell) (e : Nat) : (s.setCell n f).core e = s.core e := rfl

@[simp] theorem liu_setCell (n : Nat) (f : Cell → Cell) (e : Nat) : (s.setCell n f).liu e = s.liu e := rfl

@[simp] theorem hash_setCell (n : Nat) (f : Cell → Cell) (e : Nat) : (s.setCell n f).hash e = s.hash e := rfl

@[simp] theorem warden_setCell (n : Nat) (f : Cell → Cell) (e : Nat) : (s.setCell n f).warden e = s.warden e := rfl

@[simp] theorem stage_setCell (n : Nat) (f : Cell → Cell) (e : Nat) : (s.setCell n f).stage e = s.stage e := rfl

@[simp] theorem dom_setLiu (n : Nat) (f : Liu → Liu) (e : Nat) : (s.setLiu n f).dom e = s.dom e := rfl

@[simp] theorem cmd_setLiu (n : Nat) (f : Liu → Liu) (e i : Nat) : (s.setLiu n f).cmd e i = s.cmd e i := rfl

@[simp] theorem region_setLiu (n : Nat) (f : Liu → Liu) (e : Nat) : (s.setLiu n f).region e = s.region e := rfl

@[simp] theorem block_setLiu (n : Nat) (f : Liu → Liu) (e : Nat) : (s.setLiu n f).block e = s.block e := rfl

@[simp] theorem core_setLiu (n : Nat) (f : Liu → Liu) (e : Nat) : (s.setLiu n f).core e = s.core e := rfl

@[simp] theorem cell_setLiu (n : Nat) (f : Liu → Liu) (e : Nat) : (s.setLiu n f).cell e = s.cell e := rfl

@[simp] theorem hash_setLiu (n : Nat) (f : Liu → Liu) (e : Nat) : (s.setLiu n f).hash e = s.hash e := rfl

@[simp] theorem warden_setLiu (n : Nat) (f : Liu → Liu) (e : Nat) : (s.setLiu n f).warden e = s.warden e := rfl

@[simp] theorem stage_setLiu (n : Nat) (f : Liu → Liu) (e : Nat) : (s.setLiu n f).stage e = s.stage e := rfl

@[simp] theorem dom_setHash (n : Nat) (f : HashEngine → HashEngine) (e : Nat) : (s.setHash n f).dom e = s.dom e := rfl

@[simp] theorem cmd_setHash (n : Nat) (f : HashEngine → HashEngine) (e i : Nat) : (s.setHash n f).cmd e i = s.cmd e i := rfl

@[simp] theorem region_setHash (n : Nat) (f : HashEngine → HashEngine) (e : Nat) : (s.setHash n f).region e = s.region e := rfl

@[simp] theorem block_setHash (n : Nat) (f : HashEngine → HashEngine) (e : Nat) : (s.setHash n f).block e = s.block e := rfl

@[simp] theorem core_setHash (n : Nat) (f : HashEngine → HashEngine) (e : Nat) : (s.setHash n f).core e = s.core e := rfl

@[simp] theorem cell_setHash (n : Nat) (f : HashEngine → HashEngine) (e : Nat) : (s.setHash n f).cell e = s.cell e := rfl

@[simp] theorem liu_setHash (n : Nat) (f : HashEngine → HashEngine) (e : Nat) : (s.setHash n f).liu e = s.liu e := rfl

@[simp] theorem warden_setHash (n : Nat) (f : HashEngine → HashEngine) (e : Nat) : (s.setHash n f).warden e = s.warden e := rfl

@[simp] theorem stage_setHash (n : Nat) (f : HashEngine → HashEngine) (e : Nat) : (s.setHash n f).stage e = s.stage e := rfl

@[simp] theorem dom_setWarden (w : Nat) (f : Warden → Warden) (e : Nat) : (s.setWarden w f).dom e = s.dom e := rfl

@[simp] theorem cmd_setWarden (w : Nat) (f : Warden → Warden) (e i : Nat) : (s.setWarden w f).cmd e i = s.cmd e i := rfl

@[simp] theorem region_setWarden (w : Nat) (f : Warden → Warden) (e : Nat) : (s.setWarden w f).region e = s.region e := rfl

@[simp] theorem block_setWarden (w : Nat) (f : Warden → Warden) (e : Nat) : (s.setWarden w f).block e = s.block e := rfl

@[simp] theorem core_setWarden (w : Nat) (f : Warden → Warden) (e : Nat) : (s.setWarden w f).core e = s.core e := rfl

@[simp] theorem cell_setWarden (w : Nat) (f : Warden → Warden) (e : Nat) : (s.setWarden w f).cell e = s.cell e := rfl

@[simp] theorem liu_setWarden (w : Nat) (f : Warden → Warden) (e : Nat) : (s.setWarden w f).liu e = s.liu e := rfl

@[simp] theorem hash_setWarden (w : Nat) (f : Warden → Warden) (e : Nat) : (s.setWarden w f).hash e = s.hash e := rfl

@[simp] theorem stage_setWarden (w : Nat) (f : Warden → Warden) (e : Nat) : (s.setWarden w f).stage e = s.stage e := rfl

@[simp] theorem dom_setStage (k : Nat) (x : StageSet) (e : Nat) : (s.setStage k x).dom e = s.dom e := rfl

@[simp] theorem cmd_setStage (k : Nat) (x : StageSet) (e i : Nat) : (s.setStage k x).cmd e i = s.cmd e i := rfl

@[simp] theorem region_setStage (k : Nat) (x : StageSet) (e : Nat) : (s.setStage k x).region e = s.region e := rfl

@[simp] theorem block_setStage (k : Nat) (x : StageSet) (e : Nat) : (s.setStage k x).block e = s.block e := rfl

@[simp] theorem core_setStage (k : Nat) (x : StageSet) (e : Nat) : (s.setStage k x).core e = s.core e := rfl

@[simp] theorem cell_setStage (k : Nat) (x : StageSet) (e : Nat) : (s.setStage k x).cell e = s.cell e := rfl

@[simp] theorem liu_setStage (k : Nat) (x : StageSet) (e : Nat) : (s.setStage k x).liu e = s.liu e := rfl

@[simp] theorem hash_setStage (k : Nat) (x : StageSet) (e : Nat) : (s.setStage k x).hash e = s.hash e := rfl

@[simp] theorem warden_setStage (k : Nat) (x : StageSet) (e : Nat) : (s.setStage k x).warden e = s.warden e := rfl

@[simp] theorem dom_setTamper (f : Tamper → Tamper) (e : Nat) : (s.setTamper f).dom e = s.dom e := rfl

@[simp] theorem cmd_setTamper (f : Tamper → Tamper) (e i : Nat) : (s.setTamper f).cmd e i = s.cmd e i := rfl

@[simp] theorem region_setTamper (f : Tamper → Tamper) (e : Nat) : (s.setTamper f).region e = s.region e := rfl

@[simp] theorem block_setTamper (f : Tamper → Tamper) (e : Nat) : (s.setTamper f).block e = s.block e := rfl

@[simp] theorem core_setTamper (f : Tamper → Tamper) (e : Nat) : (s.setTamper f).core e = s.core e := rfl

@[simp] theorem cell_setTamper (f : Tamper → Tamper) (e : Nat) : (s.setTamper f).cell e = s.cell e := rfl

@[simp] theorem liu_setTamper (f : Tamper → Tamper) (e : Nat) : (s.setTamper f).liu e = s.liu e := rfl

@[simp] theorem hash_setTamper (f : Tamper → Tamper) (e : Nat) : (s.setTamper f).hash e = s.hash e := rfl

@[simp] theorem warden_setTamper (f : Tamper → Tamper) (e : Nat) : (s.setTamper f).warden e = s.warden e := rfl

@[simp] theorem stage_setTamper (f : Tamper → Tamper) (e : Nat) : (s.setTamper f).stage e = s.stage e := rfl

@[simp] theorem dom_setClock (f : Clock → Clock) (e : Nat) : (s.setClock f).dom e = s.dom e := rfl

@[simp] theorem cmd_setClock (f : Clock → Clock) (e i : Nat) : (s.setClock f).cmd e i = s.cmd e i := rfl

@[simp] theorem region_setClock (f : Clock → Clock) (e : Nat) : (s.setClock f).region e = s.region e := rfl

@[simp] theorem block_setClock (f : Clock → Clock) (e : Nat) : (s.setClock f).block e = s.block e := rfl

@[simp] theorem core_setClock (f : Clock → Clock) (e : Nat) : (s.setClock f).core e = s.core e := rfl

@[simp] theorem cell_setClock (f : Clock → Clock) (e : Nat) : (s.setClock f).cell e = s.cell e := rfl

@[simp] theorem liu_setClock (f : Clock → Clock) (e : Nat) : (s.setClock f).liu e = s.liu e := rfl

@[simp] theorem hash_setClock (f : Clock → Clock) (e : Nat) : (s.setClock f).hash e = s.hash e := rfl

@[simp] theorem warden_setClock (f : Clock → Clock) (e : Nat) : (s.setClock f).warden e = s.warden e := rfl

@[simp] theorem stage_setClock (f : Clock → Clock) (e : Nat) : (s.setClock f).stage e = s.stage e := rfl

@[simp] theorem dom_pass (dt : Nat) (e : Nat) : (s.pass dt).dom e = s.dom e := rfl

@[simp] theorem cmd_pass (dt : Nat) (e i : Nat) : (s.pass dt).cmd e i = s.cmd e i := rfl

@[simp] theorem region_pass (dt : Nat) (e : Nat) : (s.pass dt).region e = s.region e := rfl

@[simp] theorem block_pass (dt : Nat) (e : Nat) : (s.pass dt).block e = s.block e := rfl

@[simp] theorem core_pass (dt : Nat) (e : Nat) : (s.pass dt).core e = s.core e := rfl

@[simp] theorem cell_pass (dt : Nat) (e : Nat) : (s.pass dt).cell e = s.cell e := rfl

@[simp] theorem liu_pass (dt : Nat) (e : Nat) : (s.pass dt).liu e = s.liu e := rfl

@[simp] theorem hash_pass (dt : Nat) (e : Nat) : (s.pass dt).hash e = s.hash e := rfl

@[simp] theorem warden_pass (dt : Nat) (e : Nat) : (s.pass dt).warden e = s.warden e := rfl

@[simp] theorem stage_pass (dt : Nat) (e : Nat) : (s.pass dt).stage e = s.stage e := rfl

@[simp] theorem dom_passTo (t : Nat) (e : Nat) : (s.passTo t).dom e = s.dom e := rfl

@[simp] theorem cmd_passTo (t : Nat) (e i : Nat) : (s.passTo t).cmd e i = s.cmd e i := rfl

@[simp] theorem region_passTo (t : Nat) (e : Nat) : (s.passTo t).region e = s.region e := rfl

@[simp] theorem block_passTo (t : Nat) (e : Nat) : (s.passTo t).block e = s.block e := rfl

@[simp] theorem core_passTo (t : Nat) (e : Nat) : (s.passTo t).core e = s.core e := rfl

@[simp] theorem cell_passTo (t : Nat) (e : Nat) : (s.passTo t).cell e = s.cell e := rfl

@[simp] theorem liu_passTo (t : Nat) (e : Nat) : (s.passTo t).liu e = s.liu e := rfl

@[simp] theorem hash_passTo (t : Nat) (e : Nat) : (s.passTo t).hash e = s.hash e := rfl

@[simp] theorem warden_passTo (t : Nat) (e : Nat) : (s.passTo t).warden e = s.warden e := rfl

@[simp] theorem stage_passTo (t : Nat) (e : Nat) : (s.passTo t).stage e = s.stage e := rfl

end Sys2Proof.Machine
end

