-- ==== Sys2Proof/Laws/Doms.lean ====
section
/-!
SUPPORT. Sys2Proof/Laws/Doms.lean: what a row's entries, events, counters and engines leave of the domains: all of them.
-/

namespace Sys2Proof.Machine

@[simp] theorem doms_foldl {α : Type} (l : List α) (f : State → α → State) (s : State) (h : ∀ t a, (f t a).doms = t.doms) : (l.foldl f s).doms = s.doms := by
  induction l generalizing s with
  | nil => rfl
  | cons a l ih => rw [List.foldl_cons, ih, h]

variable (s : State)

/-! ### Entries, messages and events -/

@[simp] theorem doms_fresh (n : Nat) : (s.fresh n).2.doms = s.doms := rfl

@[simp] theorem doms_trailAs (code origin severity flags : Nat) (data : Bytes) (toMram : Bool) (time : Nat) :
    (s.trailAs code origin severity flags data toMram time).doms = s.doms := by
  unfold State.trailAs
  dsimp only
  split
  · split <;> rfl
  · split <;> rfl

@[simp] theorem doms_log (code origin severity : Nat) (data : Bytes) : (s.log code origin severity data).doms = s.doms := doms_trailAs ..

@[simp] theorem doms_message (v : Nat) (now : Bool) : (s.message v now).doms = s.doms := by
  unfold State.message
  dsimp only
  (repeat' split) <;> rfl

@[simp] theorem doms_eventEdge (source : Nat) : (s.eventEdge source).doms = s.doms := by
  unfold State.eventEdge
  dsimp only
  split <;> simp

@[simp] theorem doms_raise (source : Nat) : (s.raise source).doms = s.doms := by
  unfold State.raise
  split
  · rfl
  · rw [doms_eventEdge]

@[simp] theorem doms_regionEvent (r kind : Nat) : (s.regionEvent r kind).doms = s.doms := doms_raise ..

/-! ### Counters -/

@[simp] theorem doms_bump (kind unit index n : Nat) : (s.bump kind unit index n).doms = s.doms := by
  unfold State.bump
  dsimp only
  (repeat' split) <;> rfl

@[simp] theorem doms_count (kind unit event : Nat) (dom : Option Nat) (n : Nat) : (s.count kind unit event dom n).doms = s.doms := by
  unfold State.count
  exact doms_foldl _ _ _ fun t i => by split <;> simp

/-! ### Seeds and the blinding DRBG -/

@[simp] theorem doms_setEntropy (r : Nat) (f : EntropyRegion → EntropyRegion) : (s.setEntropy r f).doms = s.doms := rfl

theorem doms_takeSeedOf {s t : State} {r : Nat} {after : Option Nat} {a : Bytes} (h : s.takeSeedOf r after = some (a, t)) : t.doms = s.doms := by
  simp only [State.takeSeedOf, Option.map_eq_some_iff, Prod.mk.injEq] at h
  obtain ⟨_, _, _, rfl⟩ := h
  rfl

@[simp] theorem doms_setBorrowing (r : Nat) (on : Bool) : (s.setBorrowing r on).doms = s.doms := by
  unfold State.setBorrowing
  split <;> simp

theorem doms_regionSeed {s t : State} {r : Nat} {a : Bytes} (h : s.regionSeed r = some (a, t)) : t.doms = s.doms := by
  unfold State.regionSeed State.borrow at h
  split at h
  · next hp => cases h; exact doms_takeSeedOf hp
  · split at h
    · simp only [Option.bind_eq_some_iff, Option.map_eq_some_iff, Prod.mk.injEq] at h
      obtain ⟨_, _, p, hp, rfl, rfl⟩ := h
      rw [doms_count, doms_setBorrowing, doms_takeSeedOf hp]
    · cases h

@[simp] theorem doms_reseedBlinding (r : Nat) : (s.reseedBlinding r).doms = s.doms := by
  unfold State.reseedBlinding
  split
  · rfl
  · split
    · next h => rw [doms_setEntropy, doms_regionSeed h]
    · rfl

@[simp] theorem doms_blind (r : Nat) (ns : List Nat) : (s.blind r ns).2.doms = s.doms := by
  unfold State.blind
  dsimp only
  split <;> simp

/-! ### Engines and the key cache -/

@[simp] theorem doms_setJob (k slot : Nat) (f : Job → Job) : (s.setJob k slot f).doms = s.doms := rfl

@[simp] theorem doms_chooseWork (l : Nat) : (s.chooseWork l).doms = s.doms := by
  unfold State.chooseWork
  dsimp only
  (repeat' split) <;> rfl

@[simp] theorem doms_goOn (l : Nat) : (s.goOn l).doms = s.doms := by
  unfold State.goOn
  split <;> simp

@[simp] theorem doms_leaveContext (l x : Nat) : (s.leaveContext l x).doms = s.doms := by
  unfold State.leaveContext
  simp

@[simp] theorem doms_feedHash (r : Nat) : (s.feedHash r).doms = s.doms := by
  unfold State.feedHash
  dsimp only
  split
  · rfl
  · split <;> rfl

@[simp] theorem doms_feedHashes (r : Nat) : (s.feedHashes r).doms = s.doms := doms_foldl _ _ _ fun t _ => doms_feedHash t r

@[simp] theorem doms_cacheEntry (r : Nat) (e : CacheEntry) (v : Bytes) : (s.cacheEntry r e v).doms = s.doms := by
  unfold State.cacheEntry
  dsimp only
  split <;> rfl

@[simp] theorem doms_scopeKey (k : Nat) (job : Nat × Nat) (owner : Nat) (attr : Option Attr) (path value : Bytes) :
    (s.scopeKey k job owner attr path value).2.doms = s.doms := doms_cacheEntry ..

@[simp] theorem doms_holdKeys (k : Nat) (job : Nat × Nat) (l : List Held) : (s.holdKeys k job l).doms = s.doms :=
  doms_foldl _ _ _ fun _ _ => by split <;> simp

@[simp] theorem doms_endFirmwareJob (k : Nat) (j : Job) : (s.endFirmwareJob k j).doms = s.doms := by
  unfold State.endFirmwareJob
  dsimp only
  split
  · rw [doms_foldl _ _ _ fun t n => doms_setCell t n _, doms_count]
  · split <;> simp
  · split <;> simp

@[simp] theorem doms_endFirmware (d : Nat) (c : Cmd) : (s.endFirmware d c).doms = s.doms := by
  unfold State.endFirmware
  dsimp only
  split
  · rfl
  · rw [doms_feedHashes, doms_setCore, doms_foldl _ _ _ fun t j => doms_endFirmwareJob t c.core j]

@[simp] theorem doms_worked (d : Nat) (c : Cmd) (w : Work) : (s.worked d c w).doms = s.doms := by
  unfold State.worked
  split <;> simp

end Sys2Proof.Machine
end

