-- ==== Sys2Proof/Laws/Keep2.lean ====
section
/-!
SUPPORT. Sys2Proof/Laws/Keep2.lean: what Units, Run, Officers, Post, Access, CoreMemory, Response, Cache, Staging, Perf, Clock keep of a state.
-/

namespace Sys2Proof.Machine

-- One lemma after the other: the many threads of a side-by-side elaboration hold memory.
set_option Elab.async false

@[simp] theorem State.setJob_fixed (s : State) (k slot : Nat) (f : Job → Job) : (State.setJob s k slot f).fixed = s.fixed := by
  unfold State.setJob
  simp_all

@[simp] theorem State.chooseWork_fixed (s : State) (l : Nat) : (State.chooseWork s l).fixed = s.fixed := by
  unfold State.chooseWork
  dsimp only; (repeat' split) <;> simp_all

@[simp] theorem State.leaveContext_fixed (s : State) (l x : Nat) : (State.leaveContext s l x).fixed = s.fixed := by
  unfold State.leaveContext
  simp_all

@[simp] theorem State.goOn_fixed (s : State) (l : Nat) : (State.goOn s l).fixed = s.fixed := by
  unfold State.goOn
  (repeat' split) <;> simp_all

@[simp] theorem State.feedHash_fixed (s : State) (r : Nat) : (State.feedHash s r).fixed = s.fixed := by
  unfold State.feedHash
  dsimp only; (repeat' split) <;> simp_all

@[simp] theorem State.feedHashes_fixed (s : State) (r : Nat) : (State.feedHashes s r).fixed = s.fixed := by
  unfold State.feedHashes
  simp_all

@[simp] theorem State.dropJobs_fixed (s : State) (mine : Nat → Bool) : (State.dropJobs s mine).fixed = s.fixed := by
  unfold State.dropJobs
  simp_all

@[simp] theorem State.withKeysOf_fixed (s : State) (c : Cmd) : (State.withKeysOf s c).fixed = s.fixed := by
  unfold State.withKeysOf
  exact foldl_fixed _ _ _ fun _ _ => by first | (split <;> simp; done) | (dsimp only; (repeat' split) <;> simp; done)

-- One lemma after the other: the many threads of a side-by-side elaboration hold memory.
set_option Elab.async false

@[simp] theorem State.before_fixed (s : State) (c : Cmd) : (State.before s c).fixed = s.fixed := by
  unfold State.before
  split
  · exact foldl_fixed _ _ _ fun t x => by split <;> simp
  · rfl

@[simp] theorem State.endFirmwareJob_fixed (s : State) (k : Nat) (j : Job) : (State.endFirmwareJob s k j).fixed = s.fixed := by
  unfold State.endFirmwareJob
  dsimp only; (repeat' split) <;> simp_all

@[simp] theorem State.endFirmware_fixed (s : State) (d : Nat) (c : Cmd) : (State.endFirmware s d c).fixed = s.fixed := by
  unfold State.endFirmware
  dsimp only; (repeat' split) <;> simp_all

@[simp] theorem State.worked_fixed (s : State) (d : Nat) (c : Cmd) (w : Work) : (State.worked s d c w).fixed = s.fixed := by
  unfold State.worked
  (repeat' split) <;> simp_all

@[simp] theorem State.runOp_fixed (s : State) (code d id : Nat) (f : State → Cmd → Work) : (State.runOp s code d id f).Keeps s := by
  unfold State.runOp
  dsimp only; (repeat' split) <;> simp_all

@[simp] theorem State.flooredFor_fixed (s : State) (d : Nat) (c : Cmd) (as : List Approval) : (State.flooredFor s d c as).fixed = s.fixed := by
  unfold State.flooredFor
  dsimp only; (repeat' split) <;> simp_all

@[simp] theorem State.runMgmt_fixed (s : State) (code d id : Nat) (f : Cmd → List Approval → Work) : (State.runMgmt s code d id f).Keeps s := by
  unfold State.runMgmt
  (repeat' split) <;> simp_all

@[simp] theorem State.runStaged_fixed (s : State) (code d id : Nat) (f : State → Cmd → State) (hf : ∀ y0 y1, (f y0 y1).fixed = y0.fixed) : (State.runStaged s code d id f).Keeps s := by
  unfold State.runStaged
  (repeat' split) <;> simp_all

@[simp] theorem State.endCalls_fixed (s : State) (code d id : Nat) : (State.endCalls s code d id).fixed = s.fixed := by
  unfold State.endCalls
  (repeat' split) <;> simp_all

@[simp] theorem State.freed_fixed (s : State) (code d id : Nat) : (s.freed code d id).fixed = s.fixed := by
  unfold State.freed
  (repeat' split) <;> simp_all

@[simp] theorem execOfficerAdd_fixed (dom id : Nat) (s : State) : (execOfficerAdd dom id s).Keeps s := by
  unfold execOfficerAdd
  simp_all

@[simp] theorem execOfficerRemove_fixed (dom id : Nat) (s : State) : (execOfficerRemove dom id s).Keeps s := by
  unfold execOfficerRemove
  simp_all

@[simp] theorem execQuorumSet_fixed (dom id : Nat) (s : State) : (execQuorumSet dom id s).Keeps s := by
  unfold execQuorumSet
  simp_all

@[simp] theorem execRosterSeal_fixed (dom id : Nat) (s : State) : (execRosterSeal dom id s).Keeps s := by
  unfold execRosterSeal
  simp_all

@[simp] theorem execRosterRead_fixed (dom id : Nat) (s : State) : (execRosterRead dom id s).Keeps s := by
  unfold execRosterRead
  simp_all

@[simp] theorem State.aggregate_fixed (s : State) (d q : Nat) (now : Bool) : (State.aggregate s d q now).fixed = s.fixed := by
  unfold State.aggregate
  dsimp only; (repeat' split) <;> simp_all

@[simp] theorem State.post_fixed (s : State) (d q : Nat) (x : Completion) (now : Bool) : (State.post s d q x now).fixed = s.fixed := by
  unfold State.post
  dsimp only; (repeat' split) <;> simp_all

@[simp] theorem State.mgmtLog_fixed (s : State) (d : Nat) (e : Entry) (seq status : Nat) (digest : Bytes) : (State.mgmtLog s d e seq status digest).fixed = s.fixed := by
  unfold State.mgmtLog
  simp_all

@[simp] theorem State.mgmtEntry_fixed (s : State) (d : Nat) (c : Cmd) : (State.mgmtEntry s d c).fixed = s.fixed := by
  unfold State.mgmtEntry
  (repeat' split) <;> simp_all

@[simp] theorem State.refuse_fixed (s : State) (d q : Nat) (e : Entry) (f : Fail) : (State.refuse s d q e f).fixed = s.fixed := by
  unfold State.refuse
  dsimp only; (repeat' split) <;> simp_all

@[simp] theorem State.finishCmd_fixed (s : State) (d : Nat) (c : Cmd) : (State.finishCmd s d c).fixed = s.fixed := by
  unfold State.finishCmd
  (repeat' split) <;> simp_all

@[simp] theorem State.forward_fixed (s : State) (d : Nat) (c : Cmd) (digest : Bytes) : (State.forward s d c digest).fixed = s.fixed := by
  unfold State.forward
  dsimp only; (repeat' split) <;> simp_all

@[simp] theorem State.releaseTwin_fixed (s : State) (d : Nat) : (State.releaseTwin s d).fixed = s.fixed := by
  unfold State.releaseTwin
  simp_all

@[simp] theorem State.twinMode_fixed (s : State) (d : Nat) (mode : TwinMode) : (State.twinMode s d mode).fixed = s.fixed := by
  unfold State.twinMode
  (repeat' split) <;> simp_all

@[simp] theorem State.diverge_fixed (s : State) (d seq : Nat) : (State.diverge s d seq).fixed = s.fixed := by
  unfold State.diverge
  simp_all

@[simp] theorem State.compareTwin_fixed (s : State) (d : Nat) (c : Cmd) (mine theirs : Bytes) : (State.compareTwin s d c mine theirs).fixed = s.fixed := by
  unfold State.compareTwin
  (repeat' split) <;> simp_all

@[simp] theorem State.linkCmd_fixed (s : State) (d : Nat) (c : Cmd) : (State.linkCmd s d c).fixed = s.fixed := by
  unfold State.linkCmd
  dsimp only; (repeat' split) <;> simp_all

@[simp] theorem State.cut_fixed (s : State) (d : Nat) (c : Cmd) : (State.cut s d c).fixed = s.fixed := by
  unfold State.cut
  (repeat' split) <;> simp_all

@[simp] theorem State.abortPost_fixed (s : State) (d : Nat) (c : Cmd) (source : Nat) : (State.abortPost s d c source).fixed = s.fixed := by
  unfold State.abortPost
  (repeat' split) <;> simp_all

@[simp] theorem State.setAside_fixed (s : State) (d : Nat) (c : Cmd) : (State.setAside s d c).fixed = s.fixed := by
  unfold State.setAside
  simp_all

@[simp] theorem State.abortCmd_fixed (s : State) (source : Nat) (p : Posting) (d : Nat) (c : Cmd) : (State.abortCmd s source p d c).fixed = s.fixed := by
  unfold State.abortCmd
  dsimp only; (repeat' split) <;> simp_all

@[simp] theorem State.abortDom_fixed (s : State) (source : Nat) (p : Posting) (only : Cmd → Bool) (d : Nat) : (State.abortDom s source p only d).fixed = s.fixed := by
  unfold State.abortDom
  simp_all

@[simp] theorem State.postAborted_fixed (s : State) : (State.postAborted s).fixed = s.fixed := by
  unfold State.postAborted
  (repeat' split) <;> simp_all

@[simp] theorem State.dropAborted_fixed (s : State) : (State.dropAborted s).fixed = s.fixed := by
  unfold State.dropAborted
  simp_all

@[simp] theorem State.cancelDom_fixed (s : State) (d : Nat) : (State.cancelDom s d).fixed = s.fixed := by
  unfold State.cancelDom
  simp_all

@[simp] theorem State.opWrite_fixed (s : State) (base offset size value : Nat) (f : State → State) (hf : ∀ y0, (f y0).fixed = y0.fixed) : (State.opWrite s base offset size value f).Keeps s := by
  unfold State.opWrite
  (repeat' split) <;> simp_all

@[simp] theorem State.readReply_fixed (s : State) (v : Nat) : (State.readReply s v).fixed = s.fixed := by
  unfold State.readReply
  simp_all

@[simp] theorem State.opRead_fixed (s : State) (offset size : Nat) (f : State → Nat × State) (hf : ∀ y0, (f y0).2.fixed = y0.fixed) : (State.opRead s offset size f).Keeps s := by
  unfold State.opRead
  dsimp only; (repeat' split) <;> simp_all

@[simp] theorem State.pitchWrite_fixed (s : State) (d base offset size value : Nat) (f : State → State) (hf : ∀ y0, (f y0).fixed = y0.fixed) : (State.pitchWrite s d base offset size value f).Keeps s := by
  unfold State.pitchWrite
  dsimp only; (repeat' split) <;> simp_all

@[simp] theorem State.setWord_fixed (s : State) (k a : Nat) (w : KWord) : (State.setWord s k a w).fixed = s.fixed := by
  unfold State.setWord
  (repeat' split) <;> simp_all

@[simp] theorem State.setByte_fixed (s : State) (k a : Nat) (b : Byte) : (State.setByte s k a b).fixed = s.fixed := by
  unfold State.setByte
  simp_all

@[simp] theorem State.putBytesAt_fixed (s : State) (k a : Nat) (bs : Bytes) : (State.putBytesAt s k a bs).fixed = s.fixed := by
  unfold State.putBytesAt
  simp_all

@[simp] theorem State.prepare_fixed (s : State) (k : Nat) (colour a n : Nat) : (State.prepare s k colour a n).fixed = s.fixed := by
  unfold State.prepare
  (repeat' split) <;> simp_all

@[simp] theorem State.loadBits_fixed (s : State) (k a : Nat) (bs : Bytes) : (State.loadBits s k a bs).fixed = s.fixed := by
  unfold State.loadBits
  simp_all

@[simp] theorem State.losePower_fixed (s : State) : (State.losePower s).fixed = s.fixed := rfl

@[simp] theorem State.setTamper_fixed (s : State) (f : Tamper → Tamper) : (State.setTamper s f).fixed = s.fixed := by
  unfold State.setTamper
  simp_all

@[simp] theorem State.lockPitch_fixed (s : State) (p : Nat) : (State.lockPitch s p).fixed = s.fixed := by
  unfold State.lockPitch
  dsimp only; (repeat' split) <;> simp_all

@[simp] theorem State.setShed_fixed (s : State) (on : Bool) : (State.setShed s on).fixed = s.fixed := by
  unfold State.setShed
  dsimp only; (repeat' split) <;> simp_all

@[simp] theorem State.abortAll_fixed (s : State) (source : Nat) (p : Posting) : (State.abortAll s source p).fixed = s.fixed := by
  unfold State.abortAll
  simp_all

@[simp] theorem State.lockModule_fixed (s : State) (source : Nat) (p : Posting) : (State.lockModule s source p).fixed = s.fixed := by
  have h (u : State) (d : DeviceState) : ({ u with boot := { u.boot with state := d } } : State).fixed = u.fixed := rfl
  unfold State.lockModule
  dsimp only
  split
  · simp
  · simp only [State.raise_fixed, State.log_fixed, State.abortAll_fixed]
    rw [State.foldDoms_fixed _ _ _ (fun t a => by split <;> simp), State.driveHealth_fixed, h, State.wakeModule_fixed]

@[simp] theorem State.endDebug_fixed (s : State) : (State.endDebug s).fixed = s.fixed := by
  unfold State.endDebug
  simp_all

@[simp] theorem State.lock_fixed (s : State) (source : Nat) : (State.lock s source).fixed = s.fixed := by
  unfold State.lock
  dsimp only; (repeat' split) <;> simp_all

@[simp] theorem State.lockCause_fixed (s : State) (flag : Nat) : (State.lockCause s flag).fixed = s.fixed := by
  unfold State.lockCause
  simp_all

@[simp] theorem State.strikeOne_fixed (s : State) : (State.strikeOne s).fixed = s.fixed := by
  unfold State.strikeOne
  simp_all

@[simp] theorem State.strikeTwo_fixed (s : State) : (State.strikeTwo s).fixed = s.fixed := by
  unfold State.strikeTwo
  simp_all

@[simp] theorem State.strikeThree_fixed (s : State) : (State.strikeThree s).fixed = s.fixed := by
  unfold State.strikeThree
  simp_all

@[simp] theorem State.strikeStages_fixed (s : State) : (State.strikeStages s).fixed = s.fixed := by
  unfold State.strikeStages
  simp_all

@[simp] theorem State.struck_fixed (s : State) (halt : Bool) : (State.struck s halt).fixed = s.fixed := by
  unfold State.struck
  dsimp only; (repeat' split) <;> simp_all

@[simp] theorem State.strike_fixed (s : State) (halt : Bool) : (State.strike s halt).fixed = s.fixed := by
  unfold State.strike
  dsimp only; (repeat' split) <;> simp_all

@[simp] theorem State.respond_fixed (s : State) (n : Nat) (r : Response) : (State.respond s n r).fixed = s.fixed := by
  unfold State.respond
  dsimp only; (repeat' split) <;> simp_all

@[simp] theorem State.unwrapIn_fixed (s : State) (n owner : Nat) : (State.unwrapIn s n owner).fixed = s.fixed := by
  unfold State.unwrapIn
  simp_all

@[simp] theorem State.loadCached_fixed (s : State) (r b owner h : Nat) : (State.loadCached s r b owner h).fixed = s.fixed := by
  unfold State.loadCached
  dsimp only; (repeat' split) <;> simp_all

@[simp] theorem State.loadKeys_fixed (s : State) (r b d : Nat) (e : Entry) : (State.loadKeys s r b d e).fixed = s.fixed := by
  unfold State.loadKeys
  exact foldl_fixed _ _ _ fun t k => by split <;> simp

@[simp] theorem State.loadChildren_fixed (s : State) (k d : Nat) (c : Cmd) (excess : Bool) : (State.loadChildren s k d c excess).fixed = s.fixed := by
  unfold State.loadChildren
  exact foldl_fixed _ _ _ fun _ _ => by first | (split <;> simp; done) | (dsimp only; (repeat' split) <;> simp; done)

@[simp] theorem State.loadOverride_fixed (s : State) (k d : Nat) (c : Cmd) : (State.loadOverride s k d c).fixed = s.fixed := by
  unfold State.loadOverride
  exact foldl_fixed _ _ _ fun _ _ => by first | (split <;> simp; done) | (dsimp only; (repeat' split) <;> simp; done)

@[simp] theorem State.heedBudgets_fixed (s : State) : (State.heedBudgets s).fixed = s.fixed := by
  unfold State.heedBudgets
  simp [apply_ite State.fixed]

@[simp] theorem State.applyTamper_fixed (s : State) (b : Bytes) : (State.applyTamper s b).fixed = s.fixed := by
  have h (u : State) (ns : List Nat) : ({ u with life := u.life.burnFuses ns u.now } : State).fixed = u.fixed := rfl
  unfold State.applyTamper
  dsimp only
  rw [foldl_fixed _ _ _ (fun t n => by simp), State.setTamper_fixed, State.setTamper_fixed]
  exact h ..

@[simp] theorem State.setConf_fixed (s : State) (p : Nat) (conf : PitchConf) : (State.setConf s p conf).fixed = s.fixed := by
  unfold State.setConf
  simp_all

@[simp] theorem State.applySet_fixed (s : State) (k : Nat) (b : Bytes) : (State.applySet s k b).fixed = s.fixed := by
  unfold State.applySet
  (repeat' split) <;> simp_all

@[simp] theorem State.stageOutcome_fixed (s : State) (k : Nat) (f : Option Fail) (set : StageSet) : (State.stageOutcome s k f set).fixed = s.fixed := by
  unfold State.stageOutcome
  (repeat' split) <;> simp_all

@[simp] theorem State.instant_fixed (s : State) (k : Nat) (now : Bool) : (State.instant s k now).2.fixed = s.fixed := by
  unfold State.instant
  dsimp only; (repeat' split) <;> simp_all

@[simp] theorem State.applyDue_fixed (s : State) (boundary : Nat) : (State.applyDue s boundary).fixed = s.fixed := by
  unfold State.applyDue
  simp_all

@[simp] theorem State.reachInstant_fixed (s : State) (boundary : Nat) : (State.reachInstant s boundary).fixed = s.fixed := by
  unfold State.reachInstant
  dsimp only; (repeat' split) <;> simp_all

@[simp] theorem State.passToTai_fixed (s : State) (t : Nat) : (State.passToTai s t).fixed = s.fixed := by
  unfold State.passToTai
  (repeat' split) <;> simp_all

@[simp] theorem execStagedInstant_fixed (boundary : Nat) (s : State) : (execStagedInstant boundary s).Keeps s := by
  unfold execStagedInstant
  (repeat' split) <;> simp_all

@[simp] theorem State.pendSet_fixed (s : State) (k when_ second : Nat) : (State.pendSet s k when_ second).fixed = s.fixed := by
  unfold State.pendSet
  simp_all

@[simp] theorem State.failPending_fixed (s : State) : (State.failPending s).fixed = s.fixed := by
  unfold State.failPending
  simp_all

@[simp] theorem State.dropSet_fixed (s : State) (k : Nat) : (State.dropSet s k).fixed = s.fixed := by
  unfold State.dropSet
  simp_all

@[simp] theorem State.writeSet_fixed (s : State) (d k o : Nat) (data : Bytes) : (State.writeSet s d k o data).fixed = s.fixed := by
  unfold State.writeSet
  simp_all

@[simp] theorem execStageWrite_fixed (dom id : Nat) (s : State) : (execStageWrite dom id s).Keeps s := by
  unfold execStageWrite
  simp_all

@[simp] theorem execStageCheck_fixed (dom id : Nat) (s : State) : (execStageCheck dom id s).Keeps s := by
  unfold execStageCheck
  simp_all

@[simp] theorem execStageCommit_fixed (dom id : Nat) (s : State) : (execStageCommit dom id s).Keeps s := by
  unfold execStageCommit
  simp_all

@[simp] theorem execStageDiscard_fixed (dom id : Nat) (s : State) : (execStageDiscard dom id s).Keeps s := by
  unfold execStageDiscard
  simp_all

@[simp] theorem execStageStatus_fixed (dom id : Nat) (s : State) : (execStageStatus dom id s).Keeps s := by
  unfold execStageStatus
  simp_all

@[simp] theorem execPerfSelect_fixed (offset size value : Nat) (s : State) : (execPerfSelect offset size value s).Keeps s := by
  unfold execPerfSelect
  simp [apply_ite State.fixed]

@[simp] theorem execPerfConfigSelect_fixed (offset size value : Nat) (s : State) : (execPerfConfigSelect offset size value s).Keeps s := by
  unfold execPerfConfigSelect
  simp [apply_ite State.fixed]

@[simp] theorem execPerfValueRead_fixed (offset size : Nat) (s : State) : (execPerfValueRead offset size s).Keeps s := by
  unfold execPerfValueRead
  apply State.opRead_fixed; intro s; dsimp only; simp

@[simp] theorem execPerfConfigRead_fixed (offset size : Nat) (s : State) : (execPerfConfigRead offset size s).Keeps s := by
  unfold execPerfConfigRead
  apply State.opRead_fixed; intro s; dsimp only; simp

@[simp] theorem execPerfValueWrite_fixed (offset size value : Nat) (s : State) : (execPerfValueWrite offset size value s).Keeps s := by
  unfold execPerfValueWrite
  simp [apply_ite State.fixed]

@[simp] theorem execPerfConfig_fixed (offset size value : Nat) (s : State) : (execPerfConfig offset size value s).Keeps s := by
  unfold execPerfConfig
  simp [apply_ite State.fixed]

@[simp] theorem execPortWindowEnd_fixed (link outbound : Bool) (bytes : Nat) (s : State) : (execPortWindowEnd link outbound bytes s).Keeps s := by
  unfold execPortWindowEnd
  dsimp only; (repeat' split) <;> simp_all

@[simp] theorem execPerfGrant_fixed (dom id : Nat) (s : State) : (execPerfGrant dom id s).Keeps s := by
  unfold execPerfGrant
  simp_all

@[simp] theorem execPerfSamples_fixed (dom id : Nat) (s : State) : (execPerfSamples dom id s).Keeps s := by
  unfold execPerfSamples
  simp_all

@[simp] theorem State.setPerfGrant_fixed (s : State) (p : Nat) (on : Bool) : (State.setPerfGrant s p on).fixed = s.fixed := by
  unfold State.setPerfGrant
  (repeat' split) <;> simp_all

@[simp] theorem State.takeSamples_fixed (s : State) (b n : Nat) : (State.takeSamples s b n).fixed = s.fixed := by
  unfold State.takeSamples
  simp_all

@[simp] theorem State.setClock_fixed (s : State) (f : Clock → Clock) : (State.setClock s f).fixed = s.fixed := by
  unfold State.setClock
  simp_all

@[simp] theorem State.clockTo_fixed (s : State) (new : ClockState) : (State.clockTo s new).fixed = s.fixed := by
  unfold State.clockTo
  (repeat' split) <;> simp_all

@[simp] theorem State.rejectPulse_fixed (s : State) (cause : Nat) : (State.rejectPulse s cause).fixed = s.fixed := by
  unfold State.rejectPulse
  simp_all

@[simp] theorem State.acceptPulse_fixed (s : State) (edge at_ k : Nat) : (State.acceptPulse s edge at_ k).fixed = s.fixed := by
  unfold State.acceptPulse
  dsimp only; (repeat' split) <;> simp_all

@[simp] theorem execTickInPulse_fixed (wait high : Nat) (s : State) : (execTickInPulse wait high s).Keeps s := by
  unfold execTickInPulse
  dsimp only; (repeat' split) <;> simp_all

@[simp] theorem execTickTimeout_fixed (s : State) : (execTickTimeout s).Keeps s := by
  unfold execTickTimeout
  (repeat' split) <;> simp_all

@[simp] theorem execHoldoverLimit_fixed (s : State) : (execHoldoverLimit s).Keeps s := by
  unfold execHoldoverLimit
  (repeat' split) <;> simp_all

@[simp] theorem State.passEdges_fixed (s : State) (lo hi : Nat) : (State.passEdges s lo hi).fixed = s.fixed := by
  unfold State.passEdges
  simp_all

@[simp] theorem execKeyValidityEdge_fixed (time : Nat) (s : State) : (execKeyValidityEdge time s).Keeps s := by
  unfold execKeyValidityEdge
  (repeat' split) <;> simp_all

@[simp] theorem execTimeSet_fixed (dom id : Nat) (s : State) : (execTimeSet dom id s).Keeps s := by
  unfold execTimeSet
  simp_all

@[simp] theorem execTimeRead_fixed (dom id : Nat) (s : State) : (execTimeRead dom id s).Keeps s := by
  unfold execTimeRead
  simp_all

@[simp] theorem State.writeOutput_fixed (s : State) (d : Nat) (c : Cmd) : (State.writeOutput s d c).fixed = s.fixed := by
  unfold State.writeOutput
  (repeat' split) <;> simp_all

@[simp] theorem State.applyTimeSet_fixed (s : State) (second : Nat) : (State.applyTimeSet s second).fixed = s.fixed := by
  unfold State.applyTimeSet
  simp_all

@[simp] theorem execSecondBoundary_fixed (s : State) : (execSecondBoundary s).Keeps s := by
  unfold execSecondBoundary
  dsimp only; (repeat' split) <;> simp_all

end Sys2Proof.Machine
end

