-- ==== Sys2Proof/Laws/Keep3.lean ====
section
/-!
SUPPORT. Sys2Proof/Laws/Keep3.lean: what CustomFunctions, Keys, LifeCycle, Queues, Pitches, Logs, Tamper, Twin keep of a state.
-/

namespace Sys2Proof.Machine

-- One lemma after the other: the many threads of a side-by-side elaboration hold memory.
set_option Elab.async false

@[simp] theorem execCfLoad_fixed (dom id : Nat) (s : State) : (execCfLoad dom id s).Keeps s := by
  unfold execCfLoad
  simp_all

@[simp] theorem execCfAccept_fixed (dom id : Nat) (s : State) : (execCfAccept dom id s).Keeps s := by
  unfold execCfAccept
  simp_all

@[simp] theorem execCfBind_fixed (dom id : Nat) (s : State) : (execCfBind dom id s).Keeps s := by
  unfold execCfBind
  simp_all

@[simp] theorem execCfUnbind_fixed (dom id : Nat) (s : State) : (execCfUnbind dom id s).Keeps s := by
  unfold execCfUnbind
  simp_all

@[simp] theorem execCfDelete_fixed (dom id : Nat) (s : State) : (execCfDelete dom id s).Keeps s := by
  unfold execCfDelete
  simp_all

@[simp] theorem execCfInfo_fixed (dom id : Nat) (s : State) : (execCfInfo dom id s).Keeps s := by
  unfold execCfInfo
  simp_all

@[simp] theorem execKeyGenerate_fixed (dom id : Nat) (s : State) : (execKeyGenerate dom id s).Keeps s :=
  (State.runMgmt_fixed _ _ _ _ _).after (State.endCalls_fixed ..)

@[simp] theorem State.carryKey_fixed (s : State) (code d id : Nat) : (State.carryKey s code d id).fixed = s.fixed := by
  unfold State.carryKey
  (repeat' split) <;> simp_all

@[simp] theorem execKeyLoad_fixed (dom id : Nat) (s : State) : (execKeyLoad dom id s).Keeps s :=
  (State.runMgmt_fixed _ _ _ _ _).after (State.carryKey_fixed ..)

@[simp] theorem execKeyPublicLoad_fixed (dom id : Nat) (s : State) : (execKeyPublicLoad dom id s).Keeps s := by
  unfold execKeyPublicLoad
  simp_all

@[simp] theorem execKeyReplace_fixed (dom id : Nat) (s : State) : (execKeyReplace dom id s).Keeps s :=
  (State.runMgmt_fixed _ _ _ _ _).after ((State.carryKey_fixed ..).trans (State.endCalls_fixed ..))

@[simp] theorem execKeyDestroy_fixed (dom id : Nat) (s : State) : (execKeyDestroy dom id s).Keeps s := by
  unfold execKeyDestroy
  simp_all

@[simp] theorem execKeyAttrRestrict_fixed (dom id : Nat) (s : State) : (execKeyAttrRestrict dom id s).Keeps s := by
  unfold execKeyAttrRestrict
  simp_all

@[simp] theorem execKeyInfo_fixed (dom id : Nat) (s : State) : (execKeyInfo dom id s).Keeps s := by
  unfold execKeyInfo
  simp_all

@[simp] theorem execKeyPublicRead_fixed (dom id : Nat) (s : State) : (execKeyPublicRead dom id s).Keeps s := by
  unfold execKeyPublicRead
  simp_all

@[simp] theorem execKeyTransportInfo_fixed (dom id : Nat) (s : State) : (execKeyTransportInfo dom id s).Keeps s := by
  have h := State.runMgmt_fixed (s.freed 0x0409 dom id) 0x0409 dom id fun _ _ => keyTransportWork s
  unfold Answer.Keeps at h ⊢
  rw [State.freed_fixed] at h
  exact h

@[simp] theorem execKeyGrant_fixed (dom id : Nat) (s : State) : (execKeyGrant dom id s).Keeps s := by
  unfold execKeyGrant
  simp_all

@[simp] theorem execKeyList_fixed (dom id : Nat) (s : State) : (execKeyList dom id s).Keeps s := by
  unfold execKeyList
  simp_all

-- One lemma after the other: the many threads of a side-by-side elaboration hold memory.
set_option Elab.async false

@[simp] theorem execLcStatus_fixed (dom id : Nat) (s : State) : (execLcStatus dom id s).Keeps s := by
  unfold execLcStatus
  simp_all

@[simp] theorem execLcDigestBurn_fixed (dom id : Nat) (s : State) : (execLcDigestBurn dom id s).Keeps s := by
  unfold execLcDigestBurn
  simp_all

@[simp] theorem execLcModeSet_fixed (dom id : Nat) (s : State) : (execLcModeSet dom id s).Keeps s := by
  unfold execLcModeSet
  simp_all

@[simp] theorem execDebugUnlock_fixed (dom id : Nat) (s : State) : (execDebugUnlock dom id s).Keeps s := by
  unfold execDebugUnlock
  simp_all

@[simp] theorem execDebugLock_fixed (dom id : Nat) (s : State) : (execDebugLock dom id s).Keeps s := by
  unfold execDebugLock
  simp_all

@[simp] theorem execFwInstall_fixed (dom id : Nat) (s : State) : (execFwInstall dom id s).Keeps s := by
  unfold execFwInstall
  simp_all

@[simp] theorem execQueueCreate_fixed (dom id : Nat) (s : State) : (execQueueCreate dom id s).Keeps s := by
  unfold execQueueCreate
  simp_all

@[simp] theorem execQueueDelete_fixed (dom id : Nat) (s : State) : (execQueueDelete dom id s).Keeps s := by
  unfold execQueueDelete
  simp_all

@[simp] theorem execQueueStatus_fixed (dom id : Nat) (s : State) : (execQueueStatus dom id s).Keeps s := by
  unfold execQueueStatus
  simp_all

@[simp] theorem execQueueRoute_fixed (dom id : Nat) (s : State) : (execQueueRoute dom id s).Keeps s := by
  unfold execQueueRoute
  simp_all

@[simp] theorem execQueueRecover_fixed (dom id : Nat) (s : State) : (execQueueRecover dom id s).Keeps s := by
  unfold execQueueRecover
  simp_all

@[simp] theorem execSeqGapSet_fixed (dom id : Nat) (s : State) : (execSeqGapSet dom id s).Keeps s := by
  unfold execSeqGapSet
  simp_all

@[simp] theorem execPitchCreate_fixed (dom id : Nat) (s : State) : (execPitchCreate dom id s).Keeps s := by
  unfold execPitchCreate
  simp_all

@[simp] theorem State.discardWaiting_fixed (s : State) (d : Nat) : (State.discardWaiting s d).fixed = s.fixed := by
  unfold State.discardWaiting
  simp_all

@[simp] theorem State.finishRow_fixed (s : State) (d id : Nat) (w : Work) : (State.finishRow s d id w).fixed = s.fixed := by
  unfold State.finishRow
  simp_all

@[simp] theorem execPitchDestroy_fixed (dom id : Nat) (s : State) : (execPitchDestroy dom id s).Keeps s := by
  unfold execPitchDestroy
  apply State.runStaged_fixed; intro s c; dsimp only; (repeat' split) <;> simp

@[simp] theorem State.pitchResetEntry_fixed (s : State) (p cancelled discarded : Nat) : (State.pitchResetEntry s p cancelled discarded).fixed = s.fixed := by
  unfold State.pitchResetEntry
  simp_all

@[simp] theorem State.resetPoint_fixed (s : State) (p : Nat) : (State.resetPoint s p).fixed = s.fixed := by
  unfold State.resetPoint
  simp_all

@[simp] theorem execPitchReset_fixed (dom id : Nat) (s : State) : (execPitchReset dom id s).Keeps s := by
  unfold execPitchReset
  apply State.runStaged_fixed; intro s c; dsimp only; (repeat' split) <;> simp

@[simp] theorem execPitchLock_fixed (dom id : Nat) (s : State) : (execPitchLock dom id s).Keeps s := by
  unfold execPitchLock
  simp_all

@[simp] theorem execPitchUnlock_fixed (dom id : Nat) (s : State) : (execPitchUnlock dom id s).Keeps s := by
  unfold execPitchUnlock
  simp_all

@[simp] theorem execPitchInfo_fixed (dom id : Nat) (s : State) : (execPitchInfo dom id s).Keeps s := by
  unfold execPitchInfo
  simp_all

@[simp] theorem execDirtyLogStart_fixed (dom id : Nat) (s : State) : (execDirtyLogStart dom id s).Keeps s := by
  unfold execDirtyLogStart
  simp_all

@[simp] theorem State.flushRow_fixed (s : State) (d : Nat) (c : Cmd) (stop : Bool) : (State.flushRow s d c stop).fixed = s.fixed := by
  unfold State.flushRow
  dsimp only; (repeat' split) <;> simp_all

@[simp] theorem execDirtyLogFlush_fixed (dom id : Nat) (s : State) : (execDirtyLogFlush dom id s).Keeps s := by
  unfold execDirtyLogFlush
  simp_all

@[simp] theorem execDirtyLogStop_fixed (dom id : Nat) (s : State) : (execDirtyLogStop dom id s).Keeps s := by
  unfold execDirtyLogStop
  simp_all

theorem State.createPitch_fixed (s : State) (p : Nat) (c : PitchConf) : ∀ t, (State.createPitch s p c) = some t → t.fixed = s.fixed := by
  intro t h
  simp only [State.createPitch, Option.map_eq_some_iff] at h
  obtain ⟨u, hu, rfl⟩ := h
  have := State.startDrbg_fixed _ _ _ hu
  simpa using this

@[simp] theorem State.destroyPitch_fixed (s : State) (p : Nat) : (State.destroyPitch s p).fixed = s.fixed := by
  unfold State.destroyPitch
  simp_all

@[simp] theorem State.lockByCommand_fixed (s : State) (p : Nat) : (State.lockByCommand s p).fixed = s.fixed := by
  unfold State.lockByCommand
  dsimp only; (repeat' split) <;> simp_all

@[simp] theorem State.unlockByCommand_fixed (s : State) (p : Nat) : (State.unlockByCommand s p).fixed = s.fixed := by
  unfold State.unlockByCommand
  simp_all

@[simp] theorem State.writeHeld_fixed (s : State) : (State.writeHeld s).fixed = s.fixed := by
  unfold State.writeHeld
  simp_all

@[simp] theorem State.logFailed_fixed (s : State) (address : Bytes) : (State.logFailed s address).fixed = s.fixed := by
  unfold State.logFailed
  (repeat' split) <;> simp_all

@[simp] theorem State.logFail_fixed (s : State) (sram : Bool) (address : Nat) : (State.logFail s sram address).fixed = s.fixed := by
  unfold State.logFail
  dsimp only; (repeat' split) <;> simp_all

@[simp] theorem State.logTested_fixed (s : State) (before : Trail) : (State.logTested s before).fixed = s.fixed := by
  unfold State.logTested
  dsimp only; (repeat' split) <;> simp_all

@[simp] theorem State.testLog_fixed (s : State) (sram mram : Bool) : (State.testLog s sram mram).fixed = s.fixed := by
  unfold State.testLog
  simp_all

@[simp] theorem State.rotateLog_fixed (s : State) : (State.rotateLog s).fixed = s.fixed := by
  unfold State.rotateLog
  dsimp only; (repeat' split) <;> simp_all

@[simp] theorem execTrailFlush_fixed (s : State) : (execTrailFlush s).Keeps s := by
  unfold execTrailFlush
  simp_all

@[simp] theorem execCheckpointSign_fixed (seq : Nat) (s : State) : (execCheckpointSign seq s).Keeps s := by
  unfold execCheckpointSign
  (repeat' split) <;> simp_all

@[simp] theorem execLogMemoryFail_fixed (sram : Bool) (address : Nat) (s : State) : (execLogMemoryFail sram address s).Keeps s := by
  unfold execLogMemoryFail
  (repeat' split) <;> simp_all

@[simp] theorem execLogRotate_fixed (dom id : Nat) (sram mram : Bool) (s : State) : (execLogRotate dom id sram mram s).Keeps s := by
  unfold execLogRotate
  simp_all

@[simp] theorem execLogExport_fixed (dom id : Nat) (s : State) : (execLogExport dom id s).Keeps s := by
  unfold execLogExport
  simp_all

@[simp] theorem execLogCheckpointRead_fixed (dom id : Nat) (s : State) : (execLogCheckpointRead dom id s).Keeps s := by
  unfold execLogCheckpointRead
  simp_all

@[simp] theorem execLogRateSet_fixed (dom id : Nat) (s : State) : (execLogRateSet dom id s).Keeps s := by
  unfold execLogRateSet
  simp_all

@[simp] theorem State.setRate_fixed (s : State) (code rate burst : Nat) : (State.setRate s code rate burst).fixed = s.fixed := by
  unfold State.setRate
  simp_all

@[simp] theorem execLogStatus_fixed (dom id : Nat) (s : State) : (execLogStatus dom id s).Keeps s := by
  unfold execLogStatus
  simp_all

@[simp] theorem execEventRoute_fixed (dom id : Nat) (s : State) : (execEventRoute dom id s).Keeps s := by
  unfold execEventRoute
  simp_all

@[simp] theorem execEventStatus_fixed (dom id : Nat) (s : State) : (execEventStatus dom id s).Keeps s := by
  unfold execEventStatus
  simp_all

@[simp] theorem execEventClear_fixed (dom id : Nat) (s : State) : (execEventClear dom id s).Keeps s := by
  unfold execEventClear
  simp_all

@[simp] theorem State.clearEvents_fixed (s : State) (l : List Nat) : (State.clearEvents s l).fixed = s.fixed := by
  unfold State.clearEvents
  simp_all

@[simp] theorem State.setRoute_fixed (s : State) (x : Nat) (r : Route) : (State.setRoute s x r).fixed = s.fixed := by
  unfold State.setRoute
  (repeat' split) <;> simp_all

@[simp] theorem State.alarmSides_fixed (s : State) (n detector : Nat) : (State.alarmSides s n detector).fixed = s.fixed := by
  unfold State.alarmSides
  dsimp only; (repeat' split) <;> simp_all

@[simp] theorem State.alarm_fixed (s : State) (n detector : Nat) : (State.alarm s n detector).fixed = s.fixed := by
  unfold State.alarm
  dsimp only; (repeat' split) <;> simp_all

@[simp] theorem execTamperAlarm_fixed (source detector : Nat) (s : State) : (execTamperAlarm source detector s).Keeps s := by
  unfold execTamperAlarm
  (repeat' split) <;> simp_all

@[simp] theorem State.alarmEnd_fixed (s : State) (source detector : Nat) : (State.alarmEnd s source detector).fixed = s.fixed := by
  unfold State.alarmEnd
  (repeat' split) <;> simp_all

@[simp] theorem execTamperAlarmEnd_fixed (source detector : Nat) (s : State) : (execTamperAlarmEnd source detector s).Keeps s := by
  unfold execTamperAlarmEnd
  simp_all

@[simp] theorem execShedEnd_fixed (s : State) : (execShedEnd s).Keeps s := by
  unfold execShedEnd
  (repeat' split) <;> simp_all

@[simp] theorem State.mismatchReport_fixed (s : State) (r : Nat) : (State.mismatchReport s r).fixed = s.fixed := by
  unfold State.mismatchReport
  dsimp only; (repeat' split) <;> simp_all

@[simp] theorem execTamperStatus_fixed (dom id : Nat) (s : State) : (execTamperStatus dom id s).Keeps s := by
  unfold execTamperStatus
  simp_all

@[simp] theorem execTamperClear_fixed (dom id : Nat) (s : State) : (execTamperClear dom id s).Keeps s := by
  unfold execTamperClear
  simp_all

@[simp] theorem State.leaveLock_fixed (s : State) : (State.leaveLock s).fixed = s.fixed := by
  unfold State.leaveLock
  simp_all

@[simp] theorem State.clearTamper_fixed (s : State) (mask : Nat) : (State.clearTamper s mask).fixed = s.fixed := by
  unfold State.clearTamper
  dsimp only; (repeat' split) <;> simp_all

@[simp] theorem State.excursion_fixed (s : State) (index value : Nat) : (State.excursion s index value).fixed = s.fixed := by
  unfold State.excursion
  dsimp only; (repeat' split) <;> simp_all

@[simp] theorem execEmberSourceChange_fixed (external : Bool) (s : State) : (execEmberSourceChange external s).Keeps s := by
  unfold execEmberSourceChange
  dsimp only; (repeat' split) <;> simp_all

@[simp] theorem execCellCutoff_fixed (s : State) : (execCellCutoff s).Keeps s := by
  unfold execCellCutoff
  (repeat' split) <;> simp_all

@[simp] theorem execEmberCollapse_fixed (s : State) : (execEmberCollapse s).Keeps s := by
  unfold execEmberCollapse
  (repeat' split) <;> simp_all

@[simp] theorem State.tell_fixed (s : State) (d kind : Nat) (body : Bytes) : (State.tell s d kind body).fixed = s.fixed := by
  unfold State.tell
  simp_all

@[simp] theorem State.tellAck_fixed (s : State) (d seq flag : Nat) : (State.tellAck s d seq flag).fixed = s.fixed := by
  unfold State.tellAck
  simp_all

@[simp] theorem State.resendRecords_fixed (s : State) (d : Nat) : (State.resendRecords s d).fixed = s.fixed := by
  unfold State.resendRecords
  simp_all

@[simp] theorem State.setTwin_fixed (s : State) (d : Nat) (f : Twin → Twin) : (State.setTwin s d f).fixed = s.fixed := by
  unfold State.setTwin
  simp_all

@[simp] theorem State.judgeLag_fixed (s : State) (d : Nat) : (State.judgeLag s d).fixed = s.fixed := by
  unfold State.judgeLag
  simp_all

@[simp] theorem execTwinLagTime_fixed (dom : Nat) (s : State) : (execTwinLagTime dom s).Keeps s := by
  unfold execTwinLagTime
  dsimp only; (repeat' split) <;> simp_all

@[simp] theorem execTwinJoin_fixed (dom id : Nat) (s : State) : (execTwinJoin dom id s).Keeps s := by
  unfold execTwinJoin
  simp_all

@[simp] theorem execTwinEstablish_fixed (dom id : Nat) (s : State) : (execTwinEstablish dom id s).Keeps s := by
  unfold execTwinEstablish
  apply State.runStaged_fixed
  intro s c
  dsimp only
  split
  · rfl
  · split
    · simp
    · split
      · rfl
      · split
        · rfl
        · next h => simpa using State.takeTwo_fixed _ _ _ _ _ h

@[simp] theorem execTwinDetach_fixed (dom id : Nat) (s : State) : (execTwinDetach dom id s).Keeps s := by
  unfold execTwinDetach
  simp_all

@[simp] theorem execTwinResume_fixed (dom id : Nat) (s : State) : (execTwinResume dom id s).Keeps s := by
  unfold execTwinResume
  apply State.runStaged_fixed; intro s c; dsimp only; (repeat' split) <;> simp

@[simp] theorem execTwinPromote_fixed (dom id : Nat) (s : State) : (execTwinPromote dom id s).Keeps s := by
  unfold execTwinPromote
  simp_all

@[simp] theorem execTwinDemote_fixed (dom id : Nat) (s : State) : (execTwinDemote dom id s).Keeps s := by
  unfold execTwinDemote
  simp [apply_ite State.fixed]

@[simp] theorem execTwinStatus_fixed (dom id : Nat) (s : State) : (execTwinStatus dom id s).Keeps s := by
  unfold execTwinStatus
  simp_all

@[simp] theorem execDigestRead_fixed (dom id : Nat) (s : State) : (execDigestRead dom id s).Keeps s := by
  unfold execDigestRead
  simp [apply_ite State.fixed]

@[simp] theorem execTwinDissolve_fixed (dom id : Nat) (s : State) : (execTwinDissolve dom id s).Keeps s := by
  unfold execTwinDissolve
  simp_all

@[simp] theorem State.twinTurn_fixed (s : State) (d : Nat) : (State.twinTurn s d).fixed = s.fixed := by
  unfold State.twinTurn
  simp_all

@[simp] theorem State.refuseWaiting_fixed (s : State) (d : Nat) : (State.refuseWaiting s d).fixed = s.fixed := by
  unfold State.refuseWaiting
  simp_all

@[simp] theorem State.applyTwin_fixed (s : State) (d : Nat) (t : Twin) : (State.applyTwin s d t).fixed = s.fixed := by
  unfold State.applyTwin
  dsimp only; (repeat' split) <;> simp_all

@[simp] theorem State.handOver_fixed (s : State) (d : Nat) : (State.handOver s d).fixed = s.fixed := by
  unfold State.handOver
  simp_all

@[simp] theorem State.dissolveTwin_fixed (s : State) (d : Nat) : (State.dissolveTwin s d).fixed = s.fixed := by
  unfold State.dissolveTwin
  simp_all

@[simp] theorem State.applyRecord_fixed (s : State) (d : Nat) (b : Bytes) : (State.applyRecord s d b).fixed = s.fixed := by
  unfold State.applyRecord
  dsimp only; (repeat' split) <;> simp_all

@[simp] theorem State.joinTwin_fixed (s : State) (d : Nat) (b : Bytes) : (State.joinTwin s d b).fixed = s.fixed := by
  unfold State.joinTwin
  dsimp only; (repeat' split) <;> simp_all

@[simp] theorem State.takeOver_fixed (s : State) (d : Nat) (b : Bytes) : (State.takeOver s d b).fixed = s.fixed := by
  unfold State.takeOver
  dsimp only; (repeat' split) <;> simp_all

@[simp] theorem State.answerResume_fixed (s : State) (d : Nat) : (State.answerResume s d).fixed = s.fixed := by
  unfold State.answerResume
  dsimp only; (repeat' split) <;> simp_all

@[simp] theorem State.resumed_fixed (s : State) (d : Nat) : (State.resumed s d).fixed = s.fixed := by
  unfold State.resumed
  dsimp only; (repeat' split) <;> simp_all

@[simp] theorem State.resumeReply_fixed (s : State) (d seq flag : Nat) : (State.resumeReply s d seq flag).fixed = s.fixed := by
  unfold State.resumeReply
  dsimp only; (repeat' split) <;> simp_all

@[simp] theorem State.recordAcked_fixed (s : State) (d seq : Nat) : (State.recordAcked s d seq).fixed = s.fixed := by
  unfold State.recordAcked
  simp_all

@[simp] theorem State.twinAck_fixed (s : State) (d seq flag : Nat) : (State.twinAck s d seq flag).fixed = s.fixed := by
  unfold State.twinAck
  dsimp only; (repeat' split) <;> simp_all

@[simp] theorem State.twinMessage_fixed (s : State) (m : Bytes) : (State.twinMessage s m).fixed = s.fixed := by
  unfold State.twinMessage
  (repeat' split) <;> simp_all

@[simp] theorem State.ackFrames_fixed (s : State) : (State.ackFrames s).fixed = s.fixed := by
  unfold State.ackFrames
  simp_all

@[simp] theorem State.takePiece_fixed (s : State) (p : Bytes) : (State.takePiece s p).fixed = s.fixed := by
  unfold State.takePiece
  (repeat' split) <;> simp_all

@[simp] theorem State.heartbeatEntry_fixed (s : State) (e : Bytes) : (State.heartbeatEntry s e).fixed = s.fixed := by
  unfold State.heartbeatEntry
  dsimp only; (repeat' split) <;> simp_all

@[simp] theorem State.framesAcked_fixed (s : State) (epoch n : Nat) : (State.framesAcked s epoch n).fixed = s.fixed := by
  unfold State.framesAcked
  simp_all

@[simp] theorem State.frameRow_fixed (s : State) (bytes : Bytes) (types : List Nat) : (State.frameRow s bytes types).fixed = s.fixed := by
  unfold State.frameRow
  split
  · rfl
  · have := (State.acceptFrame_fixed s.wakeModule bytes).trans (State.wakeModule_fixed s)
    split <;> next h => rw [h] at this; simpa using this

@[simp] theorem execRecord_fixed (bytes : Bytes) (s : State) : (execRecord bytes s).Keeps s := by
  unfold execRecord
  simp_all

@[simp] theorem execAck_fixed (bytes : Bytes) (s : State) : (execAck bytes s).Keeps s := by
  unfold execAck
  simp_all

@[simp] theorem execHeartbeat_fixed (bytes : Bytes) (s : State) : (execHeartbeat bytes s).Keeps s := by
  unfold execHeartbeat
  simp_all

@[simp] theorem execHeartbeatSend_fixed (s : State) : (execHeartbeatSend s).Keeps s := by
  unfold execHeartbeatSend
  (repeat' split) <;> simp_all

@[simp] theorem execTwinResend_fixed (s : State) : (execTwinResend s).Keeps s := by
  unfold execTwinResend
  (repeat' split) <;> simp_all

@[simp] theorem State.failAwaiting_fixed (s : State) (d code : Nat) : (State.failAwaiting s d code).fixed = s.fixed := by
  unfold State.failAwaiting
  (repeat' split) <;> simp_all

@[simp] theorem execTwinTimeout_fixed (dom : Nat) (s : State) : (execTwinTimeout dom s).Keeps s := by
  unfold execTwinTimeout
  dsimp only; (repeat' split) <;> simp_all

end Sys2Proof.Machine
end

