-- ==== Sys2Proof/Laws/Keep4.lean ====
section
/-!
SUPPORT. Sys2Proof/Laws/Keep4.lean: what Commit, Resets, Faults, Transport, Fetch, Symmetric, Start, Traps, Arithmetic keep of a state.
-/

namespace Sys2Proof.Machine

-- One lemma after the other: the many threads of a side-by-side elaboration hold memory.
set_option Elab.async false

-- One lemma after the other: the many threads of a side-by-side elaboration hold memory.
set_option Elab.async false

@[simp] theorem State.resendAfterLock_fixed (s : State) (was : Bool) : (State.resendAfterLock s was).fixed = s.fixed := by
  unfold State.resendAfterLock
  (repeat' split) <;> simp_all

@[simp] theorem State.rotated_fixed (s : State) (sram mram : Bool) : (State.rotated s sram mram).fixed = s.fixed := by
  unfold State.rotated
  simp_all

@[simp] theorem State.journalEffect_fixed (s : State) (d : Nat) (c : Cmd) (x0 : Effect) : (State.journalEffect s d c x0).fixed = s.fixed := by
  unfold State.journalEffect
  (repeat' split) <;> simp_all

@[simp] theorem State.refusalEntry_fixed (s : State) (d : Nat) (c : Cmd) : (State.refusalEntry s d c).fixed = s.fixed := by
  unfold State.refusalEntry
  (repeat' split) <;> simp_all

@[simp] theorem State.countOut_fixed (s : State) (d : Nat) (c : Cmd) : (State.countOut s d c).fixed = s.fixed := by
  unfold State.countOut
  (repeat' split) <;> simp_all

@[simp] theorem State.keepForTwin_fixed (s : State) (d : Nat) (c : Cmd) : (State.keepForTwin s d c).fixed = s.fixed := by
  unfold State.keepForTwin
  simp_all

@[simp] theorem State.recommit_fixed (s : State) (d : Nat) (c : Cmd) : (State.recommit s d c).fixed = s.fixed := by
  unfold State.recommit
  dsimp only; (repeat' split) <;> simp_all

@[simp] theorem execChainLink_fixed (dom id : Nat) (s : State) : (execChainLink dom id s).Keeps s := by
  unfold execChainLink
  (repeat' split) <;> simp_all

@[simp] theorem State.resetEntry_fixed (s : State) (kind : ResetKind) (trigger cancelled discarded : Nat) : (State.resetEntry s kind trigger cancelled discarded).fixed = s.fixed := by
  unfold State.resetEntry
  simp_all

@[simp] theorem State.cancelHost_fixed (s : State) (d : Nat) : (State.cancelHost s d).fixed = s.fixed := by
  unfold State.cancelHost
  simp_all

@[simp] theorem State.clearBlocks_fixed (s : State) : (State.clearBlocks s).fixed = s.fixed := by
  unfold State.clearBlocks
  simp_all

@[simp] theorem State.hostReset_fixed (s : State) (kind : ResetKind) (trigger : Nat) : (State.hostReset s kind trigger).fixed = s.fixed := by
  unfold State.hostReset
  simp_all

@[simp] theorem State.hostResetNow_fixed (s : State) (kind : ResetKind) (trigger : Nat) : (State.hostResetNow s kind trigger).fixed = s.fixed := by
  unfold State.hostResetNow
  (repeat' split) <;> simp_all

@[simp] theorem execWarmReset_fixed (trigger : WarmTrigger) (s : State) : (execWarmReset trigger s).Keeps s := by
  unfold execWarmReset
  (repeat' split) <;> simp_all

@[simp] theorem execDeviceReset_fixed (s : State) : (execDeviceReset s).Keeps s := by
  unfold execDeviceReset
  (repeat' split) <;> simp_all

@[simp] theorem State.trainHost_fixed (s : State) : (State.trainHost s).fixed = s.fixed := by
  unfold State.trainHost
  (repeat' split) <;> simp_all

@[simp] theorem execPerstNRelease_fixed (s : State) : (execPerstNRelease s).Keeps s := by
  unfold execPerstNRelease
  simp_all

@[simp] theorem execRefclkRestored_fixed (s : State) : (execRefclkRestored s).Keeps s := by
  unfold execRefclkRestored
  (repeat' split) <;> simp_all

@[simp] theorem execP12vExcursion_fixed (millivolt duration : Nat) (s : State) : (execP12vExcursion millivolt duration s).Keeps s := by
  unfold execP12vExcursion
  dsimp only; (repeat' split) <;> simp_all

@[simp] theorem execP3v3AuxLoss_fixed (duration : Nat) (s : State) : (execP3v3AuxLoss duration s).Keeps s := by
  unfold execP3v3AuxLoss
  (repeat' split) <;> simp_all

@[simp] theorem State.faultEntry_fixed (s : State) (code origin seq unit count : Nat) : (State.faultEntry s code origin seq unit count).fixed = s.fixed := by
  unfold State.faultEntry
  simp_all

@[simp] theorem State.rerun_fixed (s : State) (which : Cmd → Bool) (inside outside : Option Nat) : (State.rerun s which inside outside).fixed = s.fixed := by
  unfold State.rerun
  simp_all

@[simp] theorem State.resetCore_fixed (s : State) (k : Nat) : (State.resetCore s k).fixed = s.fixed := by
  unfold State.resetCore
  simp_all

@[simp] theorem State.regionReset_fixed (s : State) (r : Nat) : (State.regionReset s r).fixed = s.fixed := by
  unfold State.regionReset
  simp [apply_ite State.fixed]

@[simp] theorem State.isolateRegion_fixed (s : State) (r : Nat) : (State.isolateRegion s r).fixed = s.fixed := by
  unfold State.isolateRegion
  dsimp only; (repeat' split) <;> simp_all

@[simp] theorem execRegionIsolate_fixed (region : Nat) (s : State) : (execRegionIsolate region s).Keeps s := by
  unfold execRegionIsolate
  (repeat' split) <;> simp_all

@[simp] theorem execRegionSelfTest_fixed (region : Nat) (pass : Bool) (s : State) : (execRegionSelfTest region pass s).Keeps s := by
  unfold execRegionSelfTest
  (repeat' split) <;> simp [apply_ite State.fixed]

@[simp] theorem State.rerunBlock_fixed (s : State) (k : Nat) (all : Bool) (inside outside : Option Nat) : (State.rerunBlock s k all inside outside).fixed = s.fixed := by
  unfold State.rerunBlock
  simp_all

@[simp] theorem State.quarantineBlock_fixed (s : State) (k : Nat) (inside outside : Option Nat) : (State.quarantineBlock s k inside outside).fixed = s.fixed := by
  unfold State.quarantineBlock
  dsimp only; (repeat' split) <;> simp_all

@[simp] theorem State.escalate_fixed (s : State) (k : Nat) (kind : EngineKind) (j : Job) : (State.escalate s k kind j).fixed = s.fixed := by
  unfold State.escalate
  dsimp only; (repeat' split) <;> simp_all

@[simp] theorem State.blockTested_fixed (s : State) (block : Nat) (pass : Bool) : (State.blockTested s block pass).fixed = s.fixed := by
  unfold State.blockTested
  dsimp only; (repeat' split) <;> simp_all

@[simp] theorem execBlockSelfTest_fixed (block : Nat) (pass : Bool) (s : State) : (execBlockSelfTest block pass s).Keeps s := by
  unfold execBlockSelfTest
  split
  · exact (keeps_next _ _).mpr rfl
  · exact (keeps_next _ _).mpr ((State.blockTested_fixed ..).trans (State.passTo_fixed ..))

@[simp] theorem State.moveTail_fixed (s : State) (d q offset value t : Nat) : (State.moveTail s d q offset value t).fixed = s.fixed := by
  unfold State.moveTail
  dsimp only; (repeat' split) <;> simp_all

@[simp] theorem State.moveHead_fixed (s : State) (d q offset value h : Nat) : (State.moveHead s d q offset value h).fixed = s.fixed := by
  unfold State.moveHead
  dsimp only; (repeat' split) <;> simp_all

@[simp] theorem State.bootQueue_fixed (s : State) (d value : Nat) : (State.bootQueue s d value).fixed = s.fixed := by
  unfold State.bootQueue
  dsimp only; (repeat' split) <;> simp_all

@[simp] theorem State.doorbell_fixed (s : State) (d q offset size value : Nat) : (State.doorbell s d q offset size value).fixed = s.fixed := by
  unfold State.doorbell
  (repeat' split) <;> simp_all

@[simp] theorem State.pageWrite_fixed (s : State) (d base offset size value : Nat) (f : State → State) (hf : ∀ y0, (f y0).fixed = y0.fixed) : (State.pageWrite s d base offset size value f).Keeps s := by
  unfold State.pageWrite
  (repeat' split) <;> simp_all

@[simp] theorem State.bell_fixed (s : State) (d base offset size value : Nat) (f : State → State) (hf : ∀ y0, (f y0).fixed = y0.fixed) : (State.bell s d base offset size value f).Keeps s := by
  unfold State.bell
  split
  · simp
  · apply State.pageWrite_fixed
    intro s
    split
    · simp
    · exact hf s

@[simp] theorem execSqTail_fixed (dom queue offset size value : Nat) (s : State) : (execSqTail dom queue offset size value s).Keeps s := by
  unfold execSqTail
  simp_all

@[simp] theorem execBootWord_fixed (dom value : Nat) (s : State) : (execBootWord dom value s).Keeps s := by
  unfold execBootWord
  simp_all

@[simp] theorem State.headWrite_fixed (s : State) (d q offset size value : Nat) : (State.headWrite s d q offset size value).fixed = s.fixed := by
  unfold State.headWrite
  (repeat' split) <;> simp_all

@[simp] theorem execCqHead_fixed (dom queue offset size value : Nat) (s : State) : (execCqHead dom queue offset size value s).Keeps s := by
  unfold execCqHead
  (repeat' split) <;> simp_all

@[simp] theorem State.writeSeqNext_fixed (s : State) (d base offset size value : Nat) : (State.writeSeqNext s d base offset size value).fixed = s.fixed := by
  unfold State.writeSeqNext
  dsimp only; (repeat' split) <;> simp_all

@[simp] theorem execSeqNext_fixed (dom offset size value : Nat) (s : State) : (execSeqNext dom offset size value s).Keeps s := by
  unfold execSeqNext
  (repeat' split) <;> simp_all

@[simp] theorem State.ackEvents_fixed (s : State) (d offset size value : Nat) : (State.ackEvents s d offset size value).fixed = s.fixed := by
  unfold State.ackEvents
  simp_all

@[simp] theorem execEventAck_fixed (dom offset size value : Nat) (s : State) : (execEventAck dom offset size value s).Keeps s := by
  unfold execEventAck
  (repeat' split) <;> simp_all

@[simp] theorem State.moveCursor_fixed (s : State) (offset size value : Nat) : (State.moveCursor s offset size value).fixed = s.fixed := by
  unfold State.moveCursor
  simp_all

@[simp] theorem execTrailCursor_fixed (offset size value : Nat) (s : State) : (execTrailCursor offset size value s).Keeps s := by
  unfold execTrailCursor
  simp_all

@[simp] theorem State.sendPending_fixed (s : State) (v : Nat) : (State.sendPending s v).fixed = s.fixed := by
  unfold State.sendPending
  dsimp only; (repeat' split) <;> simp_all

@[simp] theorem State.msixWrite_fixed (s : State) (o size value : Nat) : (State.msixWrite s o size value).fixed = s.fixed := by
  unfold State.msixWrite
  (repeat' split) <;> simp_all

@[simp] theorem State.writeRegister_fixed (s : State) (page : Page) (o size value : Nat) : (State.writeRegister s page o size value).Keeps s := by
  unfold State.writeRegister
  dsimp only; (repeat' split) <;> simp_all

@[simp] theorem execRegisterWrite_fixed (page : Page) (offset size value : Nat) (s : State) : (execRegisterWrite page offset size value s).Keeps s := by
  unfold execRegisterWrite
  simp_all

@[simp] theorem execMsixUnmask_fixed (vector : Nat) (s : State) : (execMsixUnmask vector s).Keeps s := by
  unfold execMsixUnmask
  (repeat' split) <;> simp_all

@[simp] theorem execSeqGapExpiry_fixed (dom : Nat) (s : State) : (execSeqGapExpiry dom s).Keeps s := by
  unfold execSeqGapExpiry
  dsimp only; (repeat' split) <;> simp_all

@[simp] theorem execAggTimeExpiry_fixed (dom queue : Nat) (s : State) : (execAggTimeExpiry dom queue s).Keeps s := by
  unfold execAggTimeExpiry
  dsimp only; (repeat' split) <;> simp_all

@[simp] theorem execUnexpectedCompletion_fixed (tag : Nat) (s : State) : (execUnexpectedCompletion tag s).Keeps s := by
  unfold execUnexpectedCompletion
  (repeat' split) <;> simp_all

@[simp] theorem State.queueError_fixed (s : State) (d q cause : Nat) : (State.queueError s d q cause).fixed = s.fixed := by
  unfold State.queueError
  simp_all

@[simp] theorem State.takeEntry_fixed (s : State) (d q slot : Nat) (raw : Bytes) : (State.takeEntry s d q slot raw).fixed = s.fixed := by
  unfold State.takeEntry
  dsimp only; (repeat' split) <;> simp_all

@[simp] theorem State.admitEntry_fixed (s : State) (d q slot : Nat) (raw : Bytes) : (State.admitEntry s d q slot raw).fixed = s.fixed := by
  unfold State.admitEntry
  dsimp only; (repeat' split) <;> simp_all

@[simp] theorem execEntryFetched_fixed (dom queue : Nat) (bytes : Bytes) (s : State) : (execEntryFetched dom queue bytes s).Keeps s := by
  unfold execEntryFetched
  (repeat' split) <;> simp_all

@[simp] theorem State.readOut_fixed (s : State) (d : Nat) (c : Cmd) (p : DmaPart) : (State.readOut s d c p).fixed = s.fixed := by
  unfold State.readOut
  simp_all

@[simp] theorem execDmaReadDone_fixed (dom id : Nat) (part : DmaPart) (bytes : Bytes) (s : State) : (execDmaReadDone dom id part bytes s).Keeps s := by
  unfold execDmaReadDone
  dsimp only; (repeat' split) <;> simp_all

theorem State.readFailed_fixed (s : State) (what : ReadOf) (cause : DmaError) (index : Nat) : ∀ t, (State.readFailed s what cause index) = some t → t.fixed = s.fixed := by
  unfold State.readFailed
  (repeat' split) <;> simp_all

@[simp] theorem execDmaReadFail_fixed (what : ReadOf) (cause : DmaError) (index : Nat) (s : State) : (execDmaReadFail what cause index s).Keeps s := by
  unfold execDmaReadFail
  rw [keeps_next]
  cases h : s.readFailed what cause index with
  | none => rfl
  | some t => exact State.readFailed_fixed _ _ _ _ _ h

@[simp] theorem execCompletionTimeout_fixed (request : Request) (s : State) : (execCompletionTimeout request s).Keeps s := by
  unfold execCompletionTimeout
  dsimp only
  split
  · split
    · next h => rw [keeps_next]; have := State.readFailed_fixed _ _ _ _ _ h; exact this
    · simp
  · split
    · rw [keeps_next]; have := State.dirtyFail_fixed s; exact this _
    · simp
  · split <;> simp

@[simp] theorem execSymEcbEncrypt_fixed (dom id : Nat) (s : State) : (execSymEcbEncrypt dom id s).Keeps s := by
  unfold execSymEcbEncrypt
  simp_all

@[simp] theorem execSymEcbDecrypt_fixed (dom id : Nat) (s : State) : (execSymEcbDecrypt dom id s).Keeps s := by
  unfold execSymEcbDecrypt
  simp_all

@[simp] theorem execSymCtrEncrypt_fixed (dom id : Nat) (s : State) : (execSymCtrEncrypt dom id s).Keeps s := by
  unfold execSymCtrEncrypt
  simp_all

@[simp] theorem execSymCtrDecrypt_fixed (dom id : Nat) (s : State) : (execSymCtrDecrypt dom id s).Keeps s := by
  unfold execSymCtrDecrypt
  simp_all

@[simp] theorem execXtsEncrypt_fixed (dom id : Nat) (s : State) : (execXtsEncrypt dom id s).Keeps s := by
  unfold execXtsEncrypt
  simp_all

@[simp] theorem execXtsDecrypt_fixed (dom id : Nat) (s : State) : (execXtsDecrypt dom id s).Keeps s := by
  unfold execXtsDecrypt
  simp_all

@[simp] theorem execSymCbcEncrypt_fixed (dom id : Nat) (s : State) : (execSymCbcEncrypt dom id s).Keeps s := by
  unfold execSymCbcEncrypt
  simp_all

@[simp] theorem execSymCbcDecrypt_fixed (dom id : Nat) (s : State) : (execSymCbcDecrypt dom id s).Keeps s := by
  unfold execSymCbcDecrypt
  simp_all

@[simp] theorem State.recompute_fixed (s : State) (code d id : Nat) : (State.recompute s code d id).fixed = s.fixed := by
  unfold State.recompute
  (repeat' split) <;> simp_all

@[simp] theorem State.runGcm_fixed (s : State) (code d id : Nat) (agree : Bool) : (State.runGcm s code d id agree).Keeps s := by
  unfold State.runGcm
  (repeat' split) <;> simp_all

@[simp] theorem execGcmEncrypt_fixed (dom : Nat) (run : GcmRun) (s : State) : (execGcmEncrypt dom run s).Keeps s := by
  unfold execGcmEncrypt
  simp_all

@[simp] theorem execGcmDecrypt_fixed (dom : Nat) (run : GcmRun) (s : State) : (execGcmDecrypt dom run s).Keeps s := by
  unfold execGcmDecrypt
  simp_all

@[simp] theorem State.chargeDeficits_fixed (s : State) (r : Nat) (l : List Candidate) (x : Candidate) : (State.chargeDeficits s r l x).fixed = s.fixed := by
  unfold State.chargeDeficits
  simp_all

@[simp] theorem State.countCache_fixed (before after : State) (r d : Nat) (e : Entry) : (State.countCache before after r d e).fixed = after.fixed := by
  unfold State.countCache
  simp

@[simp] theorem State.take_fixed (s : State) (k : Nat) (t : Trap) (interrupt : Bool) (resume : BitVec 64) : (State.take s k t interrupt resume).fixed = s.fixed := by
  unfold State.take
  dsimp only; (repeat' split) <;> simp_all

@[simp] theorem State.machineCheck_fixed (s : State) (k a : Nat) : (State.machineCheck s k a).fixed = s.fixed := by
  unfold State.machineCheck
  simp_all

@[simp] theorem State.clearInvocation_fixed (s : State) (k : Nat) (i : Invocation) : (State.clearInvocation s k i).fixed = s.fixed := by
  unfold State.clearInvocation
  simp_all

@[simp] theorem State.endInvocation_fixed (s : State) (k : Nat) (i : Invocation) (w : Work) : (State.endInvocation s k i w).fixed = s.fixed := by
  unfold State.endInvocation
  dsimp only; (repeat' split) <;> simp_all

@[simp] theorem State.trapEntry_fixed (s : State) (i : Invocation) (K : Core) : (State.trapEntry s i K).fixed = s.fixed := by
  unfold State.trapEntry
  simp_all

@[simp] theorem State.trap_fixed (s : State) (k : Nat) (t : Trap) : (State.trap s k t).fixed = s.fixed := by
  unfold State.trap
  dsimp only; (repeat' split) <;> simp_all

@[simp] theorem State.retire_fixed (s : State) (k : Nat) (function : Bool) : (State.retire s k function).fixed = s.fixed := by
  unfold State.retire
  dsimp only; (repeat' split) <;> simp_all

@[simp] theorem State.complete_fixed (s : State) (k : Nat) (r : Except Stop State) (h : ∀ t, r = .ok t → t.fixed = s.fixed) : (s.complete k r).Keeps s := by
  unfold State.complete
  split
  · simp
  · simp
  · next t => simp [h t rfl]

@[simp] theorem State.insn_fixed (s : State) (k w : Nat) (f : Except Stop State) (h : ∀ t, f = .ok t → t.fixed = s.fixed) : (State.insn s k w f).Keeps s := by
  unfold State.insn
  split
  · simp
  · dsimp only
    split
    · simp
    · simp
    · simp
    · split
      · simp
      · exact State.complete_fixed _ _ _ h

@[simp] theorem State.insnCore_fixed (s : State) (k w : Nat) (f : Core → Except Stop Core) : (State.insnCore s k w f).Keeps s := by
  refine State.insn_fixed s k w _ ?_
  intro t h
  cases hf : f (s.core k) with
  | error e => rw [hf] at h; cases h
  | ok K => rw [hf] at h; cases h; simp

@[simp] theorem State.alu_fixed (s : State) (k w : Nat) (rd : BitVec 5) (rs : List (BitVec 5)) (rule : List (List Tag)) (f : BitVec 64 → List KWord → KWord) : (State.alu s k w rd rs rule f).Keeps s := by
  unfold State.alu
  simp_all

@[simp] theorem State.compare_fixed (s : State) (k w : Nat) (rd rs1 rs2 : BitVec 5) (rule : List (List Tag)) (f : KWord → KWord → Bool) : (State.compare s k w rd rs1 rs2 rule f).Keeps s := by
  unfold State.compare
  simp_all

@[simp] theorem State.constant_fixed (s : State) (k w : Nat) (rd : BitVec 5) (f : BitVec 64 → KWord) : (State.constant s k w rd f).Keeps s := by
  unfold State.constant
  simp_all

@[simp] theorem execAdd_fixed (core : Nat) (rd rs1 rs2 : BitVec 5) (s : State) : (execAdd core rd rs1 rs2 s).Keeps s := by
  unfold execAdd
  simp_all

@[simp] theorem execSub_fixed (core : Nat) (rd rs1 rs2 : BitVec 5) (s : State) : (execSub core rd rs1 rs2 s).Keeps s := by
  unfold execSub
  simp_all

@[simp] theorem execMul_fixed (core : Nat) (rd rs1 rs2 : BitVec 5) (s : State) : (execMul core rd rs1 rs2 s).Keeps s := by
  unfold execMul
  simp_all

@[simp] theorem execMulhu_fixed (core : Nat) (rd rs1 rs2 : BitVec 5) (s : State) : (execMulhu core rd rs1 rs2 s).Keeps s := by
  unfold execMulhu
  simp_all

@[simp] theorem execDiv_fixed (core : Nat) (rd rs1 rs2 : BitVec 5) (s : State) : (execDiv core rd rs1 rs2 s).Keeps s := by
  unfold execDiv
  simp_all

@[simp] theorem execRem_fixed (core : Nat) (rd rs1 rs2 : BitVec 5) (s : State) : (execRem core rd rs1 rs2 s).Keeps s := by
  unfold execRem
  simp_all

@[simp] theorem execNeg_fixed (core : Nat) (rd rs1 : BitVec 5) (s : State) : (execNeg core rd rs1 s).Keeps s := by
  unfold execNeg
  simp_all

@[simp] theorem execAnd_fixed (core : Nat) (rd rs1 rs2 : BitVec 5) (s : State) : (execAnd core rd rs1 rs2 s).Keeps s := by
  unfold execAnd
  simp_all

@[simp] theorem execOr_fixed (core : Nat) (rd rs1 rs2 : BitVec 5) (s : State) : (execOr core rd rs1 rs2 s).Keeps s := by
  unfold execOr
  simp_all

@[simp] theorem execXor_fixed (core : Nat) (rd rs1 rs2 : BitVec 5) (s : State) : (execXor core rd rs1 rs2 s).Keeps s := by
  unfold execXor
  simp_all

@[simp] theorem execNot_fixed (core : Nat) (rd rs1 : BitVec 5) (s : State) : (execNot core rd rs1 s).Keeps s := by
  unfold execNot
  simp_all

@[simp] theorem execShl_fixed (core : Nat) (rd rs1 rs2 : BitVec 5) (s : State) : (execShl core rd rs1 rs2 s).Keeps s := by
  unfold execShl
  simp_all

@[simp] theorem execShr_fixed (core : Nat) (rd rs1 rs2 : BitVec 5) (s : State) : (execShr core rd rs1 rs2 s).Keeps s := by
  unfold execShr
  simp_all

@[simp] theorem execSar_fixed (core : Nat) (rd rs1 rs2 : BitVec 5) (s : State) : (execSar core rd rs1 rs2 s).Keeps s := by
  unfold execSar
  simp_all

@[simp] theorem execAddi_fixed (core : Nat) (rd rs1 : BitVec 5) (imm : BitVec 14) (s : State) : (execAddi core rd rs1 imm s).Keeps s := by
  unfold execAddi
  simp_all

@[simp] theorem execAndi_fixed (core : Nat) (rd rs1 : BitVec 5) (imm : BitVec 14) (s : State) : (execAndi core rd rs1 imm s).Keeps s := by
  unfold execAndi
  simp_all

@[simp] theorem execOri_fixed (core : Nat) (rd rs1 : BitVec 5) (imm : BitVec 14) (s : State) : (execOri core rd rs1 imm s).Keeps s := by
  unfold execOri
  simp_all

@[simp] theorem execXori_fixed (core : Nat) (rd rs1 : BitVec 5) (imm : BitVec 14) (s : State) : (execXori core rd rs1 imm s).Keeps s := by
  unfold execXori
  simp_all

@[simp] theorem execShli_fixed (core : Nat) (rd rs1 : BitVec 5) (imm : BitVec 14) (s : State) : (execShli core rd rs1 imm s).Keeps s := by
  unfold execShli
  simp_all

@[simp] theorem execShri_fixed (core : Nat) (rd rs1 : BitVec 5) (imm : BitVec 14) (s : State) : (execShri core rd rs1 imm s).Keeps s := by
  unfold execShri
  simp_all

@[simp] theorem execSari_fixed (core : Nat) (rd rs1 : BitVec 5) (imm : BitVec 14) (s : State) : (execSari core rd rs1 imm s).Keeps s := by
  unfold execSari
  simp_all

@[simp] theorem execLi_fixed (core : Nat) (rd : BitVec 5) (imm : BitVec 19) (s : State) : (execLi core rd imm s).Keeps s := by
  unfold execLi
  simp_all

@[simp] theorem execLib_fixed (core : Nat) (rd : BitVec 5) (imm : BitVec 19) (s : State) : (execLib core rd imm s).Keeps s := by
  unfold execLib
  simp_all

@[simp] theorem execLih_fixed (core : Nat) (rd : BitVec 5) (k : BitVec 2) (imm : BitVec 16) (s : State) : (execLih core rd k imm s).Keeps s := by
  unfold execLih
  simp_all

@[simp] theorem execMkerr_fixed (core : Nat) (rd : BitVec 5) (imm : BitVec 19) (s : State) : (execMkerr core rd imm s).Keeps s := by
  unfold execMkerr
  (repeat' split) <;> simp_all

@[simp] theorem execAdda_fixed (core : Nat) (rd rs1 rs2 : BitVec 5) (s : State) : (execAdda core rd rs1 rs2 s).Keeps s := by
  unfold execAdda
  simp_all

@[simp] theorem execAddai_fixed (core : Nat) (rd rs1 : BitVec 5) (imm : BitVec 14) (s : State) : (execAddai core rd rs1 imm s).Keeps s := by
  unfold execAddai
  simp_all

@[simp] theorem execSuba_fixed (core : Nat) (rd rs1 rs2 : BitVec 5) (s : State) : (execSuba core rd rs1 rs2 s).Keeps s := by
  unfold execSuba
  simp_all

@[simp] theorem execTadd_fixed (core : Nat) (rd rs1 rs2 : BitVec 5) (s : State) : (execTadd core rd rs1 rs2 s).Keeps s := by
  unfold execTadd
  simp_all

@[simp] theorem execTsub_fixed (core : Nat) (rd rs1 rs2 : BitVec 5) (s : State) : (execTsub core rd rs1 rs2 s).Keeps s := by
  unfold execTsub
  simp_all

@[simp] theorem execCeq_fixed (core : Nat) (rd rs1 rs2 : BitVec 5) (s : State) : (execCeq core rd rs1 rs2 s).Keeps s := by
  unfold execCeq
  simp_all

@[simp] theorem execCne_fixed (core : Nat) (rd rs1 rs2 : BitVec 5) (s : State) : (execCne core rd rs1 rs2 s).Keeps s := by
  unfold execCne
  simp_all

@[simp] theorem execClt_fixed (core : Nat) (rd rs1 rs2 : BitVec 5) (s : State) : (execClt core rd rs1 rs2 s).Keeps s := by
  unfold execClt
  simp_all

@[simp] theorem execCle_fixed (core : Nat) (rd rs1 rs2 : BitVec 5) (s : State) : (execCle core rd rs1 rs2 s).Keeps s := by
  unfold execCle
  simp_all

@[simp] theorem execCltu_fixed (core : Nat) (rd rs1 rs2 : BitVec 5) (s : State) : (execCltu core rd rs1 rs2 s).Keeps s := by
  unfold execCltu
  simp_all

@[simp] theorem execCleu_fixed (core : Nat) (rd rs1 rs2 : BitVec 5) (s : State) : (execCleu core rd rs1 rs2 s).Keeps s := by
  unfold execCleu
  simp_all

@[simp] theorem execSel_fixed (core : Nat) (rd rs1 rs2 rs3 : BitVec 5) (s : State) : (execSel core rd rs1 rs2 rs3 s).Keeps s := by
  unfold execSel
  simp_all

@[simp] theorem execMov_fixed (core : Nat) (rd rs1 : BitVec 5) (s : State) : (execMov core rd rs1 s).Keeps s := by
  unfold execMov
  simp_all

@[simp] theorem execRetag_fixed (core : Nat) (rd rs1 : BitVec 5) (t : BitVec 4) (s : State) : (execRetag core rd rs1 t s).Keeps s := by
  unfold execRetag
  (repeat' split) <;> simp_all

@[simp] theorem execTagof_fixed (core : Nat) (rd rs1 : BitVec 5) (s : State) : (execTagof core rd rs1 s).Keeps s := by
  unfold execTagof
  simp_all

@[simp] theorem execErrcode_fixed (core : Nat) (rd rs1 : BitVec 5) (s : State) : (execErrcode core rd rs1 s).Keeps s := by
  unfold execErrcode
  simp_all

@[simp] theorem execClmul_fixed (core : Nat) (rd rs1 rs2 : BitVec 5) (s : State) : (execClmul core rd rs1 rs2 s).Keeps s := by
  unfold execClmul
  simp_all

@[simp] theorem execClmulh_fixed (core : Nat) (rd rs1 rs2 : BitVec 5) (s : State) : (execClmulh core rd rs1 rs2 s).Keeps s := by
  unfold execClmulh
  simp_all

end Sys2Proof.Machine
end

