-- ==== Sys2Proof/Laws/Keep5.lean ====
section
/-!
SUPPORT. Sys2Proof/Laws/Keep5.lean: what Entropy, SelfTest, Boot, Branches, Power, Bus, CoreSystem, Engines, Cells keep of a state.
-/

namespace Sys2Proof.Machine

-- One lemma after the other: the many threads of a side-by-side elaboration hold memory.
set_option Elab.async false

-- One lemma after the other: the many threads of a side-by-side elaboration hold memory.
set_option Elab.async false

@[simp] theorem State.setSrc_fixed (s : State) (r i : Nat) (f : Source → Source) : (State.setSrc s r i f).fixed = s.fixed := by
  unfold State.setSrc
  simp_all

@[simp] theorem State.healthFail_fixed (s : State) (r i : Nat) (l w : List Bool) : (State.healthFail s r i l w).fixed = s.fixed := by
  unfold State.healthFail
  dsimp only; (repeat' split) <;> simp_all

@[simp] theorem execRepetitionCountFail_fixed (region source : Nat) (samples : List Bool) (s : State) : (execRepetitionCountFail region source samples s).Keeps s := by
  unfold execRepetitionCountFail
  dsimp only; (repeat' split) <;> simp_all

@[simp] theorem execAdaptiveWindowEnd_fixed (region source : Nat) (samples : List Bool) (s : State) : (execAdaptiveWindowEnd region source samples s).Keeps s := by
  unfold execAdaptiveWindowEnd
  dsimp only; (repeat' split) <;> simp_all

@[simp] theorem State.beginCapture_fixed (s : State) (r i : Nat) : (State.beginCapture s r i).fixed = s.fixed := by
  unfold State.beginCapture
  dsimp only; (repeat' split) <;> simp_all

@[simp] theorem State.startupTest_fixed (s : State) (r i : Nat) (l : List Bool) : (State.startupTest s r i l).fixed = s.fixed := by
  unfold State.startupTest
  dsimp only; (repeat' split) <;> simp_all

@[simp] theorem execSourceStartupTest_fixed (region source : Nat) (samples : List Bool) (s : State) : (execSourceStartupTest region source samples s).Keeps s := by
  unfold execSourceStartupTest
  dsimp only; (repeat' split) <;> simp_all

@[simp] theorem execSourceRetest_fixed (region source : Nat) (samples : List Bool) (s : State) : (execSourceRetest region source samples s).Keeps s := by
  unfold execSourceRetest
  dsimp only; (repeat' split) <;> simp_all

@[simp] theorem State.firstKeys_fixed (s : State) : (State.firstKeys s).fixed = s.fixed := by
  unfold State.firstKeys
  dsimp only; (repeat' split) <;> simp_all

theorem State.giveSecret_fixed (s : State) : ∀ t, (State.giveSecret s) = some t → t.fixed = s.fixed := by
  intro t h
  unfold State.giveSecret at h
  (repeat' split at h) <;> simp only [Option.map_eq_some_iff, Prod.exists, reduceCtorEq] at h
  all_goals
    obtain ⟨x, u, hu, rfl⟩ := h
    have := State.secret_fixed _ _ _ hu
    simpa using this

@[simp] theorem State.giveSecrets_fixed (n : Nat) (s : State) : (State.giveSecrets n s).fixed = s.fixed := by
  induction n generalizing s with
  | zero => rfl
  | succ n ih =>
    rw [State.giveSecrets]
    split
    · next t h => rw [ih, State.giveSecret_fixed _ _ h]
    · rfl

@[simp] theorem State.rootAndDig_fixed (s : State) (d : Nat) : (State.rootAndDig s d).fixed = s.fixed := by
  unfold State.rootAndDig
  dsimp only; (repeat' split) <;> simp_all

@[simp] theorem State.startGenerators_fixed (s : State) : (State.startGenerators s).fixed = s.fixed := by
  unfold State.startGenerators
  dsimp only; (repeat' split) <;> simp_all

@[simp] theorem State.seeded_fixed (s : State) : (State.seeded s).fixed = s.fixed := by
  unfold State.seeded
  simp_all

@[simp] theorem execSeedConditioned_fixed (region : Nat) (s : State) : (execSeedConditioned region s).Keeps s := by
  unfold execSeedConditioned
  (repeat' split) <;> simp_all

@[simp] theorem execSeedBorrow_fixed (region : Nat) (s : State) : (execSeedBorrow region s).Keeps s := by
  unfold execSeedBorrow
  dsimp only; (repeat' split) <;> simp_all

@[simp] theorem execEmberMaskRefresh_fixed (s : State) : (execEmberMaskRefresh s).Keeps s := by
  unfold execEmberMaskRefresh
  (repeat' split) <;> simp_all

@[simp] theorem execRandomReady_fixed (s : State) : (execRandomReady s).Keeps s := by
  unfold execRandomReady
  dsimp only; (repeat' split) <;> simp_all

@[simp] theorem execEntropyWaitExpiry_fixed (dom id : Nat) (s : State) : (execEntropyWaitExpiry dom id s).Keeps s := by
  unfold execEntropyWaitExpiry
  dsimp only; (repeat' split) <;> simp_all

@[simp] theorem execRandomGenerate_fixed (dom id : Nat) (s : State) : (execRandomGenerate dom id s).Keeps s := by
  unfold execRandomGenerate
  simp_all

@[simp] theorem execRawEntropy_fixed (dom id : Nat) (s : State) : (execRawEntropy dom id s).Keeps s := by
  unfold execRawEntropy
  dsimp only; (repeat' split) <;> simp_all

@[simp] theorem State.releaseCapture_fixed (s : State) (r i : Nat) : (State.releaseCapture s r i).fixed = s.fixed := by
  unfold State.releaseCapture
  dsimp only; (repeat' split) <;> simp_all

@[simp] theorem execRawCaptureEnd_fixed (region source : Nat) (samples : List Bool) (s : State) : (execRawCaptureEnd region source samples s).Keeps s := by
  unfold execRawCaptureEnd
  dsimp only; (repeat' split) <;> simp_all

@[simp] theorem execEntropyStatus_fixed (dom id : Nat) (s : State) : (execEntropyStatus dom id s).Keeps s := by
  unfold execEntropyStatus
  simp_all

@[simp] theorem State.testFailed_fixed (s : State) (r kind : Nat) : (State.testFailed s r kind).fixed = s.fixed := by
  unfold State.testFailed
  simp_all

@[simp] theorem State.conditionerTested_fixed (s : State) (r : Nat) (failed : Bool) : (State.conditionerTested s r failed).fixed = s.fixed := by
  unfold State.conditionerTested
  dsimp only; (repeat' split) <;> simp_all

@[simp] theorem State.testRegion_fixed (s : State) (r tests result : Nat) : (State.testRegion s r tests result).fixed = s.fixed := by
  unfold State.testRegion
  dsimp only; (repeat' split) <;> simp_all

@[simp] theorem execSelfTest_fixed (dom id : Nat) (results : List Nat) (s : State) : (execSelfTest dom id results s).Keeps s := by
  unfold execSelfTest
  dsimp only; (repeat' split) <;> simp_all

@[simp] theorem State.advancedEntries_fixed (before s : State) : (State.advancedEntries before s).fixed = s.fixed := by
  unfold State.advancedEntries
  exact foldl_fixed _ _ _ fun t a => by simp

@[simp] theorem State.resumeLog_fixed (s : State) : (State.resumeLog s).fixed = s.fixed := by
  unfold State.resumeLog
  dsimp only; (repeat' split) <;> simp_all

@[simp] theorem State.raiseOwed_fixed (s : State) : (State.raiseOwed s).fixed = s.fixed := by
  unfold State.raiseOwed
  simp_all

@[simp] theorem State.stateTaken_fixed (s : State) (was : LifeCycle) (wiped : Option LifeCycle) : (State.stateTaken s was wiped).fixed = s.fixed := by
  unfold State.stateTaken
  (repeat' split) <;> simp_all

@[simp] theorem State.bootFirmware_fixed (s : State) (fw0 fw1 : Bool) : (State.bootFirmware s fw0 fw1).fixed = s.fixed := by
  unfold State.bootFirmware
  simp_all

@[simp] theorem State.bootLog_fixed (s : State) (kind : ResetKind) (sram mram : Bool) (reps : List (Nat × Nat)) (wiped : Option LifeCycle) (cancelled discarded : Nat) : (State.bootLog s kind sram mram reps wiped cancelled discarded).fixed = s.fixed := by
  unfold State.bootLog
  dsimp only; (repeat' split) <;> simp_all

@[simp] theorem State.startSources_fixed (s : State) : (State.startSources s).fixed = s.fixed := by
  unfold State.startSources
  simp_all

@[simp] theorem State.unitRetired_fixed (s : State) (kind i r event : Nat) : (State.unitRetired s kind i r event).fixed = s.fixed := by
  unfold State.unitRetired
  simp_all

@[simp] theorem State.bootTested_fixed (s : State) (t : BootTests) : (State.bootTested s t).fixed = s.fixed := by
  have h (u : State) (b : Tab Block) : ({ u with blocks := b } : State).fixed = u.fixed := rfl
  unfold State.bootTested
  dsimp only
  have tail (u : State) (hu : u.fixed = s.fixed) :
      (if ((List.range 8).any fun r => bit (t.kats.getD r 0) 1) = true then u.lockCause lockSelfTest else u).fixed = s.fixed := by
    split
    · rw [State.lockCause_fixed, hu]
    · exact hu
  apply tail
  rw [foldl_fixed _ _ _ (fun _ _ => State.testRegion_fixed ..), foldl_fixed _ _ _ (fun u r => by split <;> simp),
    foldl_fixed _ _ _ (fun _ _ => by simp), foldl_fixed _ _ _ (fun _ _ => by simp), foldl_fixed _ _ _ (fun _ _ => by simp)]
  refine Eq.trans (h _ _) ?_
  rw [foldl_fixed _ _ _ (fun _ _ => by simp)]

@[simp] theorem State.powerUp_fixed (s : State) : (State.powerUp s).fixed = s.fixed := by
  unfold State.powerUp
  simp_all

@[simp] theorem State.bootLock_fixed (s : State) : (State.bootLock s).fixed = s.fixed := by
  unfold State.bootLock
  simp_all

@[simp] theorem State.ignoredEntry_fixed (s : State) : (State.ignoredEntry s).fixed = s.fixed := by
  unfold State.ignoredEntry
  (repeat' split) <;> simp_all

@[simp] theorem State.bootHalted_fixed (s : State) : (State.bootHalted s).fixed = s.fixed := by
  unfold State.bootHalted
  simp_all

@[simp] theorem State.branch_fixed (s : State) (k w : Nat) (rd : BitVec 5) (off : Int) (on : Bool) : (State.branch s k w rd off on).Keeps s := by
  unfold State.branch
  simp_all

@[simp] theorem execBt_fixed (core : Nat) (rd : BitVec 5) (imm : BitVec 19) (s : State) : (execBt core rd imm s).Keeps s := by
  unfold execBt
  simp_all

@[simp] theorem execBf_fixed (core : Nat) (rd : BitVec 5) (imm : BitVec 19) (s : State) : (execBf core rd imm s).Keeps s := by
  unfold execBf
  simp_all

@[simp] theorem execJ_fixed (core : Nat) (off : BitVec 24) (s : State) : (execJ core off s).Keeps s := by
  unfold execJ
  simp_all

@[simp] theorem execJal_fixed (core : Nat) (off : BitVec 24) (s : State) : (execJal core off s).Keeps s := by
  unfold execJal
  simp_all

@[simp] theorem execJr_fixed (core : Nat) (rs1 : BitVec 5) (s : State) : (execJr core rs1 s).Keeps s := by
  unfold execJr
  simp_all

@[simp] theorem execJalr_fixed (core : Nat) (rs1 : BitVec 5) (s : State) : (execJalr core rs1 s).Keeps s := by
  unfold execJalr
  simp_all

@[simp] theorem execLeac_fixed (core : Nat) (rd : BitVec 5) (imm : BitVec 19) (s : State) : (execLeac core rd imm s).Keeps s := by
  unfold execLeac
  simp_all

@[simp] theorem State.sourcesTo_fixed (s : State) (r : Nat) (new : SourceState) : (State.sourcesTo s r new).fixed = s.fixed := by
  unfold State.sourcesTo
  simp [apply_ite State.fixed]

@[simp] theorem State.powerTo_fixed (s : State) (r : Nat) (p : PowerState) : (State.powerTo s r p).fixed = s.fixed := by
  unfold State.powerTo
  (repeat' split) <;> simp_all

@[simp] theorem State.regionUp_fixed (s : State) (r : Nat) (restarts : Bool) : (State.regionUp s r restarts).fixed = s.fixed := by
  unfold State.regionUp
  (repeat' split) <;> simp_all

@[simp] theorem execGovernorDecision_fixed (region : Nat) (s : State) : (execGovernorDecision region s).Keeps s := by
  unfold execGovernorDecision
  dsimp only; (repeat' split) <;> simp_all

@[simp] theorem execRegionExitStart_fixed (region : Nat) (s : State) : (execRegionExitStart region s).Keeps s := by
  have h (x : Nat) (f : Nat → Boot) : ({ s.passTo x with boot := f x } : State).fixed = s.fixed := State.passTo_fixed s x
  unfold execRegionExitStart
  dsimp only
  split
  · split
    · next t _ =>
      split
      · simp
      · generalize t - 10000 - 3000000 = x
        exact (keeps_next _ _).mpr (h x fun x => { (s.passTo x).boot with waking := some (s.passTo x).now })
    · simp
  · (repeat' split) <;> simp

@[simp] theorem execBivvyEnter_fixed (s : State) : (execBivvyEnter s).Keeps s := by
  unfold execBivvyEnter
  (repeat' split) <;> simp_all

@[simp] theorem execWake_fixed (region : Nat) (s : State) : (execWake region s).Keeps s := by
  unfold execWake
  (repeat' split) <;> simp_all

theorem wake_keeps (u s : State) (b : Boot) (f : State → Nat → State) (hf : ∀ t r, (f t r).fixed = t.fixed) (l : List Nat)
    (hu : u.fixed = s.fixed) : Answer.Keeps (.next (l.foldl f { u with boot := b })) s := by
  rw [keeps_next, foldl_fixed _ _ _ hf]
  exact hu

@[simp] theorem execPowerStateExit_fixed (region : Nat) (failed : List Nat) (s : State) : (execPowerStateExit region failed s).Keeps s := by
  unfold execPowerStateExit
  split
  · exact (keeps_next _ _).mpr rfl
  · split
    · split
      · exact (keeps_next _ _).mpr rfl
      · split
        · exact (keeps_next _ _).mpr rfl
        · refine wake_keeps _ _ _ _ ?_ _ (State.passTo_fixed s _)
          intro t r
          split
          · rfl
          · dsimp only
            split <;> simp
    · split
      · exact (keeps_next _ _).mpr rfl
      · split
        · exact (keeps_next _ _).mpr rfl
        · dsimp only
          rw [keeps_next]
          split <;> simp

@[simp] theorem execThermalHold_fixed (die : Int) (flow : Nat) (s : State) : (execThermalHold die flow s).Keeps s := by
  unfold execThermalHold
  split
  · simp
  · dsimp only
    rw [keeps_next, foldl_fixed _ _ _ (fun t r => by simp), foldl_fixed]
    · simp
    · intro t k
      split
      · rw [State.clearInvocation_fixed]; split <;> simp
      · rfl

@[simp] theorem execThermalRelease_fixed (die : Int) (flow : Nat) (s : State) : (execThermalRelease die flow s).Keeps s := by
  unfold execThermalRelease
  (repeat' split) <;> simp_all

@[simp] theorem State.badPec_fixed (s : State) : (State.badPec s).fixed = s.fixed := by
  unfold State.badPec
  simp_all

@[simp] theorem State.packetIn_fixed (s : State) (b : Bytes) : (State.packetIn s b).2.fixed = s.fixed := by
  unfold State.packetIn
  dsimp only; (repeat' split) <;> simp_all

@[simp] theorem State.packetsOut_fixed (s : State) (request m : Bytes) : (State.packetsOut s request m).fixed = s.fixed := by
  unfold State.packetsOut
  simp_all

@[simp] theorem State.busRow_fixed (s : State) (command : Nat × Nat × Nat) (b : Bytes) (f : State → Bytes → Bytes × State) (hf : ∀ y0 y1, (f y0 y1).2.fixed = y0.fixed) : (State.busRow s command b f).Keeps s := by
  unfold State.busRow
  split
  · simp
  · split
    · simp
    · have := (State.packetIn_fixed s.wakeModule b).trans (State.wakeModule_fixed s)
      split
      · next h => rw [h] at this; simpa using this
      · next h =>
          rw [h] at this
          split
          · simpa [hf] using this
          · split
            · simp
            · simpa using this

@[simp] theorem execSetEndpointId_fixed (packet : Bytes) (s : State) : (execSetEndpointId packet s).Keeps s := by
  unfold execSetEndpointId
  apply State.busRow_fixed; intro s c; dsimp only; (repeat' split) <;> simp

@[simp] theorem execGetEndpointId_fixed (packet : Bytes) (s : State) : (execGetEndpointId packet s).Keeps s := by
  unfold execGetEndpointId
  simp_all

@[simp] theorem execGetEndpointUuid_fixed (packet : Bytes) (s : State) : (execGetEndpointUuid packet s).Keeps s := by
  unfold execGetEndpointUuid
  simp_all

@[simp] theorem execGetMctpVersionSupport_fixed (packet : Bytes) (s : State) : (execGetMctpVersionSupport packet s).Keeps s := by
  unfold execGetMctpVersionSupport
  apply State.busRow_fixed; intro s c; dsimp only; (repeat' split) <;> simp

@[simp] theorem execGetMessageTypeSupport_fixed (packet : Bytes) (s : State) : (execGetMessageTypeSupport packet s).Keeps s := by
  unfold execGetMessageTypeSupport
  simp_all

@[simp] theorem execGetTid_fixed (packet : Bytes) (s : State) : (execGetTid packet s).Keeps s := by
  unfold execGetTid
  simp_all

@[simp] theorem execGetPldmVersion_fixed (packet : Bytes) (s : State) : (execGetPldmVersion packet s).Keeps s := by
  unfold execGetPldmVersion
  apply State.busRow_fixed; intro s c; dsimp only; (repeat' split) <;> simp

@[simp] theorem execGetPldmTypes_fixed (packet : Bytes) (s : State) : (execGetPldmTypes packet s).Keeps s := by
  unfold execGetPldmTypes
  simp_all

@[simp] theorem execGetPldmCommands_fixed (packet : Bytes) (s : State) : (execGetPldmCommands packet s).Keeps s := by
  unfold execGetPldmCommands
  apply State.busRow_fixed
  intro s m
  split <;> rfl

@[simp] theorem State.setLevel_fixed (s : State) (n v : Nat) : (State.setLevel s n v).fixed = s.fixed := by
  unfold State.setLevel
  simp_all

@[simp] theorem execGetSensorReading_fixed (packet : Bytes) (reading : Int) (s : State) : (execGetSensorReading packet reading s).Keeps s := by
  unfold execGetSensorReading
  apply State.busRow_fixed; intro s c; dsimp only; (repeat' split) <;> simp

@[simp] theorem execGetStateSensorReadings_fixed (packet : Bytes) (s : State) : (execGetStateSensorReadings packet s).Keeps s := by
  unfold execGetStateSensorReadings
  apply State.busRow_fixed; intro s c; dsimp only; (repeat' split) <;> simp

@[simp] theorem execGetPdrRepositoryInfo_fixed (packet : Bytes) (s : State) : (execGetPdrRepositoryInfo packet s).Keeps s := by
  unfold execGetPdrRepositoryInfo
  simp_all

@[simp] theorem execGetPdr_fixed (packet : Bytes) (s : State) : (execGetPdr packet s).Keeps s := by
  unfold execGetPdr
  apply State.busRow_fixed; intro s c; dsimp only; (repeat' split) <;> simp

@[simp] theorem execSmbusArp_fixed (packet : Bytes) (s : State) : (execSmbusArp packet s).Keeps s := by
  unfold execSmbusArp
  (repeat' split) <;> simp_all

@[simp] theorem execSmbClkTimeout_fixed (s : State) : (execSmbClkTimeout s).Keeps s := by
  unfold execSmbClkTimeout
  simp_all

@[simp] theorem execSmbDatTimeout_fixed (s : State) : (execSmbDatTimeout s).Keeps s := by
  unfold execSmbDatTimeout
  simp_all

@[simp] theorem execAlertResponseAddress_fixed (s : State) : (execAlertResponseAddress s).Keeps s := by
  unfold execAlertResponseAddress
  (repeat' split) <;> simp_all

@[simp] theorem execCsrr_fixed (core : Nat) (rd : BitVec 5) (csr : BitVec 14) (s : State) : (execCsrr core rd csr s).Keeps s := by
  unfold execCsrr
  (repeat' split) <;> simp_all

@[simp] theorem execCsrw_fixed (core : Nat) (rd : BitVec 5) (csr : BitVec 14) (s : State) : (execCsrw core rd csr s).Keeps s := by
  unfold execCsrw
  (repeat' split) <;> simp_all

@[simp] theorem execRswap_fixed (core : Nat) (s : State) : (execRswap core s).Keeps s := by
  unfold execRswap
  simp_all

@[simp] theorem execEret_fixed (core : Nat) (s : State) : (execEret core s).Keeps s := by
  unfold execEret
  simp_all

@[simp] theorem execIllegalInsn_fixed (core : Nat) (word : BitVec 32) (s : State) : (execIllegalInsn core word s).Keeps s := by
  unfold execIllegalInsn
  dsimp only; (repeat' split) <;> simp_all

@[simp] theorem execTimer_fixed (core : Nat) (s : State) : (execTimer core s).Keeps s := by
  unfold execTimer
  (repeat' split) <;> simp_all

@[simp] theorem State.watchdog_fixed (s : State) (k : Nat) : (State.watchdog s k).fixed = s.fixed := by
  unfold State.watchdog
  dsimp only; (repeat' split) <;> simp_all

@[simp] theorem execWatchdog_fixed (report : BlockReport) (s : State) : (execWatchdog report s).Keeps s := by
  unfold execWatchdog
  dsimp only
  generalize report.core = k
  generalize report.event = e
  (repeat' split) <;> simp

@[simp] theorem execPerfInterrupt_fixed (core : Nat) (s : State) : (execPerfInterrupt core s).Keeps s := by
  unfold execPerfInterrupt
  (repeat' split) <;> simp_all

@[simp] theorem State.cfMemory_fixed (s : State) (k colour : Nat) (c : Cmd) (image : Bytes) (l : List Area) (bases : List Nat) : (State.cfMemory s k colour c image l bases).fixed = s.fixed := by
  unfold State.cfMemory
  simp_all

@[simp] theorem execCfInvoke_fixed (dom id colour : Nat) (areas : List Nat) (s : State) : (execCfInvoke dom id colour areas s).Keeps s := by
  unfold execCfInvoke
  dsimp only; (repeat' split) <;> simp_all

@[simp] theorem State.endJob_fixed (s : State) (k slot status : Nat) : (State.endJob s k slot status).fixed = s.fixed := by
  unfold State.endJob
  (repeat' split) <;> simp_all

@[simp] theorem State.issue_fixed (s : State) (k : Nat) (kind : EngineKind) (rd : BitVec 5) (a : Nat) (d : List KWord) (x : Judged) : (State.issue s k kind rd a d x).fixed = s.fixed := by
  unfold State.issue
  dsimp only; (repeat' split) <;> simp_all

@[simp] theorem State.enqueue_fixed (s : State) (k op : Nat) (kind : EngineKind) (rd rs1 : BitVec 5) (judge : List KWord → Judged) (feed : State → State) (hfeed : ∀ y0, (feed y0).fixed = y0.fixed) : (State.enqueue s k op kind rd rs1 judge feed).Keeps s := by
  unfold State.enqueue
  dsimp only; (repeat' split) <;> simp_all

@[simp] theorem execEwait_fixed (core : Nat) (rd rs1 : BitVec 5) (s : State) : (execEwait core rd rs1 s).Keeps s := by
  unfold execEwait
  simp_all

@[simp] theorem execEwaita_fixed (core : Nat) (rd : BitVec 5) (s : State) : (execEwaita core rd s).Keeps s := by
  unfold execEwaita
  simp_all

@[simp] theorem State.scope_fixed (s : State) (k slot : Nat) (value : Bytes) : (State.scope s k slot value).fixed = s.fixed := by
  unfold State.scope
  dsimp only; (repeat' split) <;> simp_all

-- One lemma after the other: the many threads of a side-by-side elaboration hold memory.
set_option Elab.async false

@[simp] theorem State.keyForRun_fixed (s : State) (k : Nat) (w : List KWord) : (State.keyForRun s k w).2.fixed = s.fixed := by
  unfold State.keyForRun
  dsimp only; (repeat' split) <;> simp_all

@[simp] theorem State.feedCell_fixed (s : State) (k : Nat) : (State.feedCell s k).fixed = s.fixed := by
  unfold State.feedCell
  split
  · rfl
  · next j x _ =>
    have h := s.keyForRun_fixed k j.words
    split
    · next v u _ hk =>
      rw [hk] at h
      simpa using h
    · rfl

@[simp] theorem State.awaitClear_fixed (s : State) (k : Nat) : (State.awaitClear s k).fixed = s.fixed := by
  unfold State.awaitClear
  dsimp only; (repeat' split) <;> simp_all

@[simp] theorem State.feedCells_fixed (s : State) (k : Nat) : (State.feedCells s k).fixed = s.fixed := by
  unfold State.feedCells
  simp_all

@[simp] theorem execEnqc_fixed (core : Nat) (rd rs1 : BitVec 5) (s : State) : (execEnqc core rd rs1 s).Keeps s := by
  unfold execEnqc
  simp_all

@[simp] theorem State.deliver_fixed (s : State) (cell n : Nat) : (State.deliver s cell n).fixed = s.fixed := by
  unfold State.deliver
  dsimp only; (repeat' split) <;> simp_all

@[simp] theorem State.runFor_fixed (s : State) (cell cycles : Nat) : (State.runFor s cell cycles).fixed = s.fixed := by
  unfold State.runFor
  simp_all

@[simp] theorem execCellRunEnd_fixed (cell : Nat) (s : State) : (execCellRunEnd cell s).Keeps s := by
  unfold execCellRunEnd
  dsimp only; (repeat' split) <;> simp_all

@[simp] theorem execCellJobEnd_fixed (core slot : Nat) (s : State) : (execCellJobEnd core slot s).Keeps s := by
  unfold execCellJobEnd
  (repeat' split) <;> simp_all

@[simp] theorem State.quarantineCell_fixed (s : State) (i : Nat) : (State.quarantineCell s i).fixed = s.fixed := by
  unfold State.quarantineCell
  simp_all

@[simp] theorem State.cellFails_fixed (s : State) (i block : Nat) (aged : Bool) : (State.cellFails s i block aged).fixed = s.fixed := by
  unfold State.cellFails
  dsimp only; (repeat' split) <;> simp_all

@[simp] theorem execCellMismatch_fixed (cell block : Nat) (s : State) : (execCellMismatch cell block s).Keeps s := by
  unfold execCellMismatch
  (repeat' split) <;> simp_all

@[simp] theorem execCellAgeOut_fixed (cell block : Nat) (s : State) : (execCellAgeOut cell block s).Keeps s := by
  unfold execCellAgeOut
  (repeat' split) <;> simp_all

@[simp] theorem State.cellTested_fixed (s : State) (cell : Nat) (pass : Bool) : (State.cellTested s cell pass).fixed = s.fixed := by
  unfold State.cellTested
  dsimp only; (repeat' split) <;> simp_all

@[simp] theorem execCellSelfTest_fixed (cell : Nat) (pass : Bool) (s : State) : (execCellSelfTest cell pass s).Keeps s := by
  unfold execCellSelfTest
  split
  · exact (keeps_next _ _).mpr rfl
  · exact (keeps_next _ _).mpr ((State.cellTested_fixed ..).trans (State.passTo_fixed ..))

end Sys2Proof.Machine
end

