-- ==== Sys2Proof/Laws/Keep6.lean ====
section
/-!
SUPPORT. Sys2Proof/Laws/Keep6.lean: what LongInteger, LiuJobs, HashJobs, Cancel, Debug, Host, Payment, KeyWrap, Launch, LoadStore, Spdm, Session keep of a state.
-/

namespace Sys2Proof.Machine

-- One lemma after the other: the many threads of a side-by-side elaboration hold memory.
set_option Elab.async false

@[simp] theorem execPkSign_fixed (dom id : Nat) (s : State) : (execPkSign dom id s).Keeps s := by
  unfold execPkSign
  simp_all

@[simp] theorem execPkVerify_fixed (dom id : Nat) (s : State) : (execPkVerify dom id s).Keeps s := by
  unfold execPkVerify
  simp_all

@[simp] theorem execKemEncapsulate_fixed (dom id : Nat) (s : State) : (execKemEncapsulate dom id s).Keeps s := by
  unfold execKemEncapsulate
  simp_all

@[simp] theorem execHybridEncapsulate_fixed (dom id : Nat) (s : State) : (execHybridEncapsulate dom id s).Keeps s := by
  unfold execHybridEncapsulate
  simp_all

@[simp] theorem execKemDecapsulate_fixed (dom id : Nat) (s : State) : (execKemDecapsulate dom id s).Keeps s := by
  unfold execKemDecapsulate
  simp_all

@[simp] theorem execHybridDecapsulate_fixed (dom id : Nat) (s : State) : (execHybridDecapsulate dom id s).Keeps s := by
  unfold execHybridDecapsulate
  simp_all

@[simp] theorem execAgreeStatic_fixed (dom id : Nat) (s : State) : (execAgreeStatic dom id s).Keeps s := by
  unfold execAgreeStatic
  simp_all

@[simp] theorem execAgreeEphemeral_fixed (dom id : Nat) (s : State) : (execAgreeEphemeral dom id s).Keeps s := by
  unfold execAgreeEphemeral
  simp_all

@[simp] theorem execRsaOaepEncrypt_fixed (dom id : Nat) (s : State) : (execRsaOaepEncrypt dom id s).Keeps s := by
  unfold execRsaOaepEncrypt
  simp_all

@[simp] theorem execRsaOaepDecrypt_fixed (dom id : Nat) (s : State) : (execRsaOaepDecrypt dom id s).Keeps s := by
  have h := State.runOp_fixed (s.freed 0x1708 dom id) 0x1708 dom id fun s c => oaepDecryptWork s dom c
  unfold Answer.Keeps at h ⊢
  rw [State.freed_fixed] at h
  exact h

@[simp] theorem execLiModExp_fixed (dom id : Nat) (s : State) : (execLiModExp dom id s).Keeps s := by
  unfold execLiModExp
  simp_all

@[simp] theorem execLiModMul_fixed (dom id : Nat) (s : State) : (execLiModMul dom id s).Keeps s := by
  unfold execLiModMul
  simp_all

@[simp] theorem execLiModAdd_fixed (dom id : Nat) (s : State) : (execLiModAdd dom id s).Keeps s := by
  unfold execLiModAdd
  simp_all

@[simp] theorem execLiModSub_fixed (dom id : Nat) (s : State) : (execLiModSub dom id s).Keeps s := by
  unfold execLiModSub
  simp_all

@[simp] theorem execLiModInv_fixed (dom id : Nat) (s : State) : (execLiModInv dom id s).Keeps s := by
  unfold execLiModInv
  simp_all

@[simp] theorem State.chargeLiu_fixed (s : State) (r : Nat) (l : List Candidate) (x : Candidate) : (State.chargeLiu s r l x).fixed = s.fixed := by
  unfold State.chargeLiu
  simp_all

@[simp] theorem State.feedLiu_fixed (s : State) (r : Nat) : (State.feedLiu s r).fixed = s.fixed := by
  unfold State.feedLiu
  dsimp only; (repeat' split) <;> simp_all

@[simp] theorem State.feedLius_fixed (s : State) (r : Nat) : (State.feedLius s r).fixed = s.fixed := by
  unfold State.feedLius
  simp_all

@[simp] theorem execEnql_fixed (core : Nat) (rd rs1 : BitVec 5) (s : State) : (execEnql core rd rs1 s).Keeps s := by
  unfold execEnql
  simp_all

@[simp] theorem execLiuSegmentEnd_fixed (liu : Nat) (s : State) : (execLiuSegmentEnd liu s).Keeps s := by
  unfold execLiuSegmentEnd
  (repeat' split) <;> simp_all

@[simp] theorem State.holdSecrets_fixed (s : State) (k : Nat) (j : Job) : (State.holdSecrets s k j).fixed = s.fixed := by
  unfold State.holdSecrets
  (repeat' split) <;> simp_all

@[simp] theorem execLiuJobEnd_fixed (liu context : Nat) (s : State) : (execLiuJobEnd liu context s).Keeps s := by
  unfold execLiuJobEnd
  dsimp only; (repeat' split) <;> simp_all

@[simp] theorem State.evict_fixed (s : State) (r : Nat) (kind : EngineKind) : (State.evict s r kind).fixed = s.fixed := by
  unfold State.evict
  (repeat' split) <;> simp_all

@[simp] theorem State.quarantineLiu_fixed (s : State) (l : Nat) : (State.quarantineLiu s l).fixed = s.fixed := by
  unfold State.quarantineLiu
  simp_all

@[simp] theorem State.liuFails_fixed (s : State) (l x k : Nat) (j : Job) : (State.liuFails s l x k j).fixed = s.fixed := by
  unfold State.liuFails
  dsimp only; (repeat' split) <;> simp_all

@[simp] theorem execLiuCheckFail_fixed (liu : Nat) (ecc : Bool) (s : State) : (execLiuCheckFail liu ecc s).Keeps s := by
  unfold execLiuCheckFail
  (repeat' split) <;> simp_all

@[simp] theorem execLiuScrubEnd_fixed (liu context : Nat) (ok : Bool) (s : State) : (execLiuScrubEnd liu context ok s).Keeps s := by
  unfold execLiuScrubEnd
  (repeat' split) <;> simp_all

@[simp] theorem State.liuTested_fixed (s : State) (liu : Nat) (pass : Bool) : (State.liuTested s liu pass).fixed = s.fixed := by
  unfold State.liuTested
  dsimp only; (repeat' split) <;> simp_all

@[simp] theorem execLiuSelfTest_fixed (liu : Nat) (pass : Bool) (s : State) : (execLiuSelfTest liu pass s).Keeps s := by
  unfold execLiuSelfTest
  split
  · exact (keeps_next _ _).mpr rfl
  · exact (keeps_next _ _).mpr ((State.liuTested_fixed ..).trans (State.passTo_fixed ..))

@[simp] theorem execEnqh_fixed (core : Nat) (rd rs1 : BitVec 5) (s : State) : (execEnqh core rd rs1 s).Keeps s := by
  unfold execEnqh
  simp_all

@[simp] theorem execHashJobEnd_fixed (hash : Nat) (s : State) : (execHashJobEnd hash s).Keeps s := by
  unfold execHashJobEnd
  dsimp only; (repeat' split) <;> simp_all

@[simp] theorem State.quarantineHash_fixed (s : State) (h : Nat) : (State.quarantineHash s h).fixed = s.fixed := by
  unfold State.quarantineHash
  simp_all

@[simp] theorem execHashLaneMismatch_fixed (hash : Nat) (s : State) : (execHashLaneMismatch hash s).Keeps s := by
  unfold execHashLaneMismatch
  dsimp only; (repeat' split) <;> simp_all

@[simp] theorem State.hashTested_fixed (s : State) (hash : Nat) (pass : Bool) : (State.hashTested s hash pass).fixed = s.fixed := by
  unfold State.hashTested
  dsimp only; (repeat' split) <;> simp_all

@[simp] theorem execHashSelfTest_fixed (hash : Nat) (pass : Bool) (s : State) : (execHashSelfTest hash pass s).Keeps s := by
  unfold execHashSelfTest
  split
  · exact (keeps_next _ _).mpr rfl
  · exact (keeps_next _ _).mpr ((State.hashTested_fixed ..).trans (State.passTo_fixed ..))

@[simp] theorem State.stopRuns_fixed (s : State) (k : Nat) (j : Job) : (State.stopRuns s k j).2.fixed = s.fixed := by
  unfold State.stopRuns
  generalize s.cellsOf k j.slot = l
  suffices h : ∀ p : Nat × State, (l.foldl (fun p n =>
      let (v, s) := p.2.fresh 4
      let done := leNat v % ((s.cell n).blocks + 1)
      (p.1 + done, (s.deliver n done).count 0 k 0x10 (some j.dom) done)) p).2.fixed = p.2.fixed from h (0, s)
  induction l with
  | nil => intro p; rfl
  | cons n l ih => intro p; rw [List.foldl_cons, ih]; simp

@[simp] theorem State.cancelJobs_fixed (s : State) (k : Nat) : (State.cancelJobs s k).fixed = s.fixed := by
  unfold State.cancelJobs
  refine foldl_fixed _ _ _ fun t a => ?_
  dsimp only
  split <;> simp

@[simp] theorem execCancel_fixed (core : Nat) (s : State) : (execCancel core s).Keeps s := by
  unfold execCancel
  dsimp only; (repeat' split) <;> simp_all

@[simp] theorem State.leaveExtest_fixed (s : State) : (State.leaveExtest s).fixed = s.fixed := by
  unfold State.leaveExtest
  simp_all

@[simp] theorem State.enterExtest_fixed (s : State) : (State.enterExtest s).fixed = s.fixed := by
  unfold State.enterExtest
  simp_all

@[simp] theorem State.shiftOut_fixed (s : State) (b : Bytes) : (State.shiftOut s b).fixed = s.fixed := by
  unfold State.shiftOut
  simp_all

@[simp] theorem State.refusedEntry_fixed (s : State) : (State.refusedEntry s).fixed = s.fixed := by
  unfold State.refusedEntry
  dsimp only; (repeat' split) <;> simp_all

@[simp] theorem execTapInstruction_fixed (ir : TapInstr) (data : Bytes) (trst : Bool) (s : State) : (execTapInstruction ir data trst s).Keeps s := by
  unfold execTapInstruction
  dsimp only; (repeat' split) <;> simp_all

@[simp] theorem execTrstNAssert_fixed (s : State) : (execTrstNAssert s).Keeps s := by
  unfold execTrstNAssert
  dsimp only; (repeat' split) <;> simp_all

@[simp] theorem State.debugRead_fixed (s : State) (t : DebugTarget) : (State.debugRead s t).2.fixed = s.fixed := by
  unfold State.debugRead
  (repeat' split) <;> simp_all

@[simp] theorem State.debugRefuse_fixed (s : State) : (State.debugRefuse s).fixed = s.fixed := by
  unfold State.debugRefuse
  dsimp only; (repeat' split) <;> simp_all

@[simp] theorem State.sendAllPending_fixed (s : State) : (State.sendAllPending s).fixed = s.fixed := by
  unfold State.sendAllPending
  simp_all

@[simp] theorem State.configWord_fixed (s : State) (offset : Nat) : (State.configWord s offset).2.fixed = s.fixed := by
  unfold State.configWord
  simp_all

@[simp] theorem State.configReply_fixed (s : State) (z0 : ConfigField) : (State.configReply s z0).fixed = s.fixed := by
  unfold State.configReply
  (repeat' split) <;> simp_all

@[simp] theorem execPcieConfigRequest_fixed (field : ConfigField) (value : Nat) (s : State) : (execPcieConfigRequest field value s).Keeps s := by
  unfold execPcieConfigRequest
  (repeat' split) <;> simp_all

@[simp] theorem execDirtyBitmapCas_fixed (dom word : Nat) (result : CasResult) (s : State) : (execDirtyBitmapCas dom word result s).Keeps s := by
  unfold execDirtyBitmapCas
  dsimp only; (repeat' split) <;> simp_all

@[simp] theorem execMacCompute_fixed (dom id : Nat) (s : State) : (execMacCompute dom id s).Keeps s := by
  unfold execMacCompute
  simp_all

@[simp] theorem execMacCheck_fixed (dom id : Nat) (s : State) : (execMacCheck dom id s).Keeps s := by
  unfold execMacCheck
  simp_all

@[simp] theorem execPinBlockTranslate_fixed (dom id : Nat) (s : State) : (execPinBlockTranslate dom id s).Keeps s := by
  unfold execPinBlockTranslate
  simp_all

@[simp] theorem execPinCheck_fixed (dom id : Nat) (s : State) : (execPinCheck dom id s).Keeps s := by
  unfold execPinCheck
  simp_all

@[simp] theorem execDukptPinTranslate_fixed (dom id : Nat) (s : State) : (execDukptPinTranslate dom id s).Keeps s := by
  unfold execDukptPinTranslate
  simp_all

@[simp] theorem execDukptMacCheck_fixed (dom id : Nat) (s : State) : (execDukptMacCheck dom id s).Keeps s := by
  unfold execDukptMacCheck
  simp_all

@[simp] theorem execDukptDecrypt_fixed (dom id : Nat) (s : State) : (execDukptDecrypt dom id s).Keeps s := by
  unfold execDukptDecrypt
  simp_all

@[simp] theorem execDukptIkWrap_fixed (dom id : Nat) (s : State) : (execDukptIkWrap dom id s).Keeps s := by
  unfold execDukptIkWrap
  simp_all

@[simp] theorem execCardArqcCheck_fixed (dom id : Nat) (s : State) : (execCardArqcCheck dom id s).Keeps s := by
  unfold execCardArqcCheck
  simp_all

@[simp] theorem execCardArpcCompute_fixed (dom id : Nat) (s : State) : (execCardArpcCompute dom id s).Keeps s := by
  unfold execCardArpcCompute
  simp_all

@[simp] theorem execHashCompute_fixed (dom id : Nat) (s : State) : (execHashCompute dom id s).Keeps s := by
  unfold execHashCompute
  simp_all

@[simp] theorem execKeyWrap_fixed (dom id : Nat) (s : State) : (execKeyWrap dom id s).Keeps s := by
  unfold execKeyWrap
  simp_all

@[simp] theorem execKeyUnwrap_fixed (dom id : Nat) (s : State) : (execKeyUnwrap dom id s).Keeps s := by
  unfold execKeyUnwrap
  simp_all

@[simp] theorem State.issueFirmware_fixed (s : State) (k d id : Nat) (p : Plan) : (State.issueFirmware s k d id p).fixed = s.fixed := by
  unfold State.issueFirmware
  simp_all

@[simp] theorem State.issueCalls_fixed (s : State) (k d : Nat) (c : Cmd) (l : List Call) : (State.issueCalls s k d c l).fixed = s.fixed := by
  unfold State.issueCalls
  simp_all

@[simp] theorem State.launch_fixed (s : State) (k d : Nat) (c : Cmd) : (State.launch s k d c).fixed = s.fixed := by
  unfold State.launch
  simp_all

@[simp] theorem State.startManaged_fixed (s : State) (d : Nat) (c : Cmd) : (State.startManaged s d c).fixed = s.fixed := by
  unfold State.startManaged
  dsimp only; (repeat' split) <;> simp_all

@[simp] theorem State.dispatch_fixed (s : State) (d r b : Nat) (c : Cmd) : (State.dispatch s d r b c).fixed = s.fixed := by
  unfold State.dispatch
  dsimp only; (repeat' split) <;> simp_all

@[simp] theorem execCommandStart_fixed (dom id region block : Nat) (s : State) : (execCommandStart dom id region block s).Keeps s := by
  unfold execCommandStart
  dsimp only; (repeat' split) <;> simp_all

@[simp] theorem execLdw_fixed (core : Nat) (rd rs1 : BitVec 5) (imm : BitVec 14) (s : State) : (execLdw core rd rs1 imm s).Keeps s := by
  refine State.insn_fixed _ _ _ _ ?_
  intro t h
  obtain ⟨a, b, _, _, rfl⟩ := bind_map_ok h
  simp

@[simp] theorem execStw_fixed (core : Nat) (rd rs1 : BitVec 5) (imm : BitVec 14) (s : State) : (execStw core rd rs1 imm s).Keeps s := by
  refine State.insn_fixed _ _ _ _ ?_
  intro t h
  obtain ⟨a, b, _, _, rfl⟩ := bind_map_ok h
  simp

@[simp] theorem execLdb_fixed (core : Nat) (rd rs1 : BitVec 5) (imm : BitVec 14) (s : State) : (execLdb core rd rs1 imm s).Keeps s := by
  refine State.insn_fixed _ _ _ _ ?_
  intro t h
  obtain ⟨a, b, _, _, rfl⟩ := bind_map_ok h
  simp

@[simp] theorem execStb_fixed (core : Nat) (rd rs1 : BitVec 5) (imm : BitVec 14) (s : State) : (execStb core rd rs1 imm s).Keeps s := by
  refine State.insn_fixed _ _ _ _ ?_
  intro t h
  simp only [except_bind_ok] at h
  obtain ⟨a, _, h⟩ := h
  split at h
  · cases h
  · simp only [except_map_ok] at h
    obtain ⟨_, _, rfl⟩ := h
    simp

@[simp] theorem State.withReply_fixed (s : State) (r : Reply) : (State.withReply s r).2.2.fixed = s.fixed := by
  unfold State.withReply
  simp_all

@[simp] theorem State.answer_fixed (s : State) (m : Bytes) (secured : Bool) : (State.answer s m secured).2.2.fixed = s.fixed := by
  unfold State.answer
  dsimp only; (repeat' split) <;> simp_all

@[simp] theorem State.reply_fixed (s : State) (type : Nat) (r : Bytes) (malformed : Bool) : (State.reply s type r malformed).fixed = s.fixed := by
  unfold State.reply
  (repeat' split) <;> simp_all

@[simp] theorem State.answerObject_fixed (s : State) (b : Bytes) : (State.answerObject s b).fixed = s.fixed := by
  unfold State.answerObject
  dsimp only; (repeat' split) <;> simp_all

@[simp] theorem State.doeRow_fixed (s : State) (code : Nat) (b : Bytes) : (State.doeRow s code b).Keeps s := by
  unfold State.doeRow
  dsimp only; (repeat' split) <;> simp_all

@[simp] theorem State.answerHeld_fixed (s : State) : (State.answerHeld s).fixed = s.fixed := by
  unfold State.answerHeld
  (repeat' split) <;> simp_all

@[simp] theorem execGetVersion_fixed (object : Bytes) (s : State) : (execGetVersion object s).Keeps s := by
  unfold execGetVersion
  simp_all

@[simp] theorem execGetCapabilities_fixed (object : Bytes) (s : State) : (execGetCapabilities object s).Keeps s := by
  unfold execGetCapabilities
  simp_all

@[simp] theorem execNegotiateAlgorithms_fixed (object : Bytes) (s : State) : (execNegotiateAlgorithms object s).Keeps s := by
  unfold execNegotiateAlgorithms
  simp_all

@[simp] theorem execGetDigests_fixed (object : Bytes) (s : State) : (execGetDigests object s).Keeps s := by
  unfold execGetDigests
  simp_all

@[simp] theorem execGetCertificate_fixed (object : Bytes) (s : State) : (execGetCertificate object s).Keeps s := by
  unfold execGetCertificate
  simp_all

@[simp] theorem execChallenge_fixed (object : Bytes) (s : State) : (execChallenge object s).Keeps s := by
  unfold execChallenge
  simp_all

@[simp] theorem execGetMeasurements_fixed (object : Bytes) (s : State) : (execGetMeasurements object s).Keeps s := by
  unfold execGetMeasurements
  simp_all

@[simp] theorem execKeyExchange_fixed (object : Bytes) (s : State) : (execKeyExchange object s).Keeps s := by
  unfold execKeyExchange
  simp_all

@[simp] theorem execFinish_fixed (object : Bytes) (s : State) : (execFinish object s).Keeps s := by
  unfold execFinish
  simp_all

@[simp] theorem execSpdmHeartbeat_fixed (object : Bytes) (s : State) : (execSpdmHeartbeat object s).Keeps s := by
  unfold execSpdmHeartbeat
  simp_all

@[simp] theorem execKeyUpdate_fixed (object : Bytes) (s : State) : (execKeyUpdate object s).Keeps s := by
  unfold execKeyUpdate
  simp_all

@[simp] theorem execEndSession_fixed (object : Bytes) (s : State) : (execEndSession object s).Keeps s := by
  unfold execEndSession
  simp_all

@[simp] theorem execIdeKm_fixed (object : Bytes) (s : State) : (execIdeKm object s).Keeps s := by
  unfold execIdeKm
  simp_all

@[simp] theorem execDoeAbort_fixed (s : State) : (execDoeAbort s).Keeps s := by
  unfold execDoeAbort
  simp_all

@[simp] theorem execIdeIntegrityFail_fixed (stream : Nat) (s : State) : (execIdeIntegrityFail stream s).Keeps s := by
  unfold execIdeIntegrityFail
  dsimp only; (repeat' split) <;> simp_all

-- One lemma after the other: the many threads of a side-by-side elaboration hold memory.
set_option Elab.async false

@[simp] theorem execLinkTrained_fixed (half : Bool) (s : State) : (execLinkTrained half s).Keeps s := by
  unfold execLinkTrained
  (repeat' split) <;> simp_all

@[simp] theorem execLaneFail_fixed (s : State) : (execLaneFail s).Keeps s := by
  unfold execLaneFail
  (repeat' split) <;> simp_all

@[simp] theorem execFrameTimeout_fixed (fec : Bool) (s : State) : (execFrameTimeout fec s).Keeps s := by
  unfold execFrameTimeout
  (repeat' split) <;> simp_all

@[simp] theorem State.refuseSession_fixed (s : State) : (State.refuseSession s).fixed = s.fixed := by
  unfold State.refuseSession
  simp_all

theorem State.openExchange_fixed (s : State) : ∀ a0 t, (State.openExchange s) = some (a0, t) → t.fixed = s.fixed := by
  intro a t h
  simp only [State.openExchange, Option.map_eq_some_iff, Prod.mk.injEq, Prod.exists] at h
  obtain ⟨x, y, u, hu, _, rfl⟩ := h
  have := State.takeTwo_fixed _ _ _ _ _ hu
  exact this

theorem State.answerExchange_fixed (s : State) (p : Bytes) : ∀ a0 a1 t, (State.answerExchange s p) = some (a0, a1, t) → t.fixed = s.fixed := by
  intro a b t h
  simp only [State.answerExchange, Option.map_eq_some_iff, Prod.mk.injEq, Prod.exists] at h
  obtain ⟨x, y, u, hu, _, _, rfl⟩ := h
  exact State.takeTwo_fixed _ _ _ _ _ hu

@[simp] theorem State.keysReady_fixed (s : State) (kz : Bytes) : (State.keysReady s kz).fixed = s.fixed := by
  unfold State.keysReady
  simp_all

@[simp] theorem State.sendPlain_fixed (s : State) (type : Nat) (p : Bytes) : (State.sendPlain s type p).fixed = s.fixed := by
  unfold State.sendPlain
  simp_all

@[simp] theorem execHello_fixed (bytes : Bytes) (s : State) : (execHello bytes s).Keeps s := by
  unfold execHello
  split
  · simp
  · split
    · simp
    · extract_lets serial chain initiator l u
      have hu : u.fixed = s.fixed := rfl
      clear_value u
      split
      · simpa using hu
      · split
        · split
          · next h => rw [keeps_next, State.sendPlain_fixed, State.openExchange_fixed _ _ _ h, hu]
          · simpa using hu
        · simpa using hu

@[simp] theorem execKeySetup_fixed (bytes : Bytes) (s : State) : (execKeySetup bytes s).Keeps s := by
  unfold execKeySetup
  split
  · simp
  · split
    · simp
    · dsimp only
      split
      · split
        · simp
        · simp
      · split
        · simp
        · split
          · simp
          · next h => rw [keeps_next, State.keysReady_fixed, State.sendPlain_fixed, State.answerExchange_fixed _ _ _ _ _ h]; rfl

@[simp] theorem execKeyConfirm_fixed (bytes : Bytes) (s : State) : (execKeyConfirm bytes s).Keeps s := by
  unfold execKeyConfirm
  split
  · simp
  · have := State.acceptFrame_fixed s bytes
    split
    · next h => rw [h] at this; simpa using this
    · next h =>
        rw [h] at this
        dsimp only
        split
        · rw [keeps_next, State.flushQueued_fixed, State.sessionChange_fixed]; exact this
        · simpa using this

@[simp] theorem State.nextEpoch_fixed (s : State) (kz : Bytes) : (State.nextEpoch s kz).fixed = s.fixed := by
  unfold State.nextEpoch
  simp_all

@[simp] theorem State.sendRekey_fixed (s : State) (p : Bytes) : (State.sendRekey s p).fixed = s.fixed := by
  unfold State.sendRekey
  simp_all

@[simp] theorem execRekey_fixed (bytes : Bytes) (s : State) : (execRekey bytes s).Keeps s := by
  unfold execRekey
  split
  · simp
  · split
    · split
      · simp
      · dsimp only
        split
        · next h => rw [keeps_next, State.sendRekey_fixed, State.openExchange_fixed _ _ _ h]; split <;> simp
        · rw [keeps_next]; split <;> simp
    · split
      · simp
      · have := State.acceptFrame_fixed s bytes
        split
        · next h => rw [h] at this; simpa using this
        · next h =>
            rw [h] at this
            dsimp only
            split
            · simpa using this
            · split
              · split
                · simpa using this
                · simpa using this
              · split
                · simpa using this
                · split
                  · simpa using this
                  · next h => rw [keeps_next, State.flushQueued_fixed, State.nextEpoch_fixed, State.sendRekey_fixed, State.answerExchange_fixed _ _ _ _ _ h]; exact this

@[simp] theorem execClose_fixed (bytes : Bytes) (s : State) : (execClose bytes s).Keeps s := by
  unfold execClose
  split
  · simp
  · have := State.acceptFrame_fixed s bytes
    split <;> next h => rw [h] at this; simpa using this

end Sys2Proof.Machine
end

