-- ==== Sys2Proof/Laws/Keep7.lean ====
section
/-!
SUPPORT. Sys2Proof/Laws/Keep7.lean: what Streams, Wardens keep of a state.
-/

namespace Sys2Proof.Machine

-- One lemma after the other: the many threads of a side-by-side elaboration hold memory.
set_option Elab.async false

theorem StreamInsn.perform_fixed (x : StreamInsn) (k : Nat) (f : Element → State → ElementResult) (s : State)
    (hf : ∀ e r, f e s = .ok r → r.1.fixed = s.fixed) : ∀ t, (StreamInsn.perform x k f s) = .ok t → t.fixed = s.fixed := by
  intro t h
  unfold StreamInsn.perform at h
  dsimp only at h
  cases hx : x.enter (s.core k) (s.core k).span.isSome with
  | error e => rw [hx] at h; cases h
  | ok u =>
    rw [hx] at h
    simp only [Except.bind] at h
    split at h
    · cases h; simp
    · cases hf' : f _ s with
      | error e => rw [hf'] at h; cases h
      | ok r => rw [hf'] at h; cases h; simpa using hf _ _ hf'

@[simp] theorem State.stream_fixed (s : State) (k : Nat) (x : StreamInsn) (f : Element → State → ElementResult) (hf : ∀ e r, f e s = .ok r → r.1.fixed = s.fixed) : (State.stream s k x f).Keeps s := by
  have hp := State.complete_fixed s k _ (StreamInsn.perform_fixed x k f s hf)
  unfold State.stream
  dsimp only
  (repeat' split) <;> simp_all

theorem Element.copy_fixed (x : Element) (s : State) : ∀ r, Element.copy x s = .ok r → r.1.fixed = s.fixed := by
  intro r h
  unfold Element.copy at h
  (repeat' split at h) <;> (simp only [except_bind_ok, except_map_ok] at h; grind [State.setWord_fixed, State.setByte_fixed])

theorem Element.fill_fixed (e : Bool) (x : Element) (s : State) : ∀ r, Element.fill e x s = .ok r → r.1.fixed = s.fixed := by
  intro r h
  unfold Element.fill at h
  (repeat' split at h) <;> (simp only [except_bind_ok, except_map_ok] at h; grind [State.setWord_fixed, State.setByte_fixed])

theorem Element.same_fixed (x : Element) (s : State) : ∀ r, Element.same x s = .ok r → r.1.fixed = s.fixed := by
  intro r h
  unfold Element.same at h
  (repeat' split at h) <;> (simp only [except_map_ok] at h; grind [State.setWord_fixed, State.setByte_fixed])

theorem Element.find_fixed (x : Element) (s : State) : ∀ r, Element.find x s = .ok r → r.1.fixed = s.fixed := by
  intro r h
  unfold Element.find at h
  (repeat' split at h) <;> (simp only [except_map_ok] at h; grind [State.setWord_fixed, State.setByte_fixed])

theorem Element.xor_fixed (x : Element) (s : State) : ∀ r, Element.xor x s = .ok r → r.1.fixed = s.fixed := by
  intro r h
  unfold Element.xor at h
  (repeat' split at h) <;> (simp only [except_map_ok] at h; grind [State.setWord_fixed, State.setByte_fixed])

theorem Element.exchange_fixed (x : Element) (s : State) : ∀ r, Element.exchange x s = .ok r → r.1.fixed = s.fixed := by
  intro r h
  unfold Element.exchange at h
  (repeat' split at h) <;> (simp only [except_bind_ok, except_map_ok] at h; grind [State.setWord_fixed, State.setByte_fixed])

@[simp] theorem execScopy_fixed (core : Nat) (rd rs : BitVec 5) (width e : Bool) (s : State) : (execScopy core rd rs width e s).Keeps s := by
  refine State.stream_fixed _ _ _ _ ?_
  intro x r h
  exact Element.copy_fixed _ _ _ h

@[simp] theorem execSfill_fixed (core : Nat) (rd rs : BitVec 5) (width e : Bool) (s : State) : (execSfill core rd rs width e s).Keeps s := by
  refine State.stream_fixed _ _ _ _ ?_
  intro x r h
  exact Element.fill_fixed _ _ _ _ h

@[simp] theorem execScmp_fixed (core : Nat) (rd rs : BitVec 5) (width e : Bool) (s : State) : (execScmp core rd rs width e s).Keeps s := by
  refine State.stream_fixed _ _ _ _ ?_
  intro x r h
  exact Element.same_fixed _ _ _ h

@[simp] theorem execSfind_fixed (core : Nat) (rd rs : BitVec 5) (width e : Bool) (s : State) : (execSfind core rd rs width e s).Keeps s := by
  refine State.stream_fixed _ _ _ _ ?_
  intro x r h
  exact Element.find_fixed _ _ _ h

@[simp] theorem execSxor_fixed (core : Nat) (rd rs : BitVec 5) (width e : Bool) (s : State) : (execSxor core rd rs width e s).Keeps s := by
  refine State.stream_fixed _ _ _ _ ?_
  intro x r h
  exact Element.xor_fixed _ _ _ h

@[simp] theorem execSexch_fixed (core : Nat) (rd rs : BitVec 5) (width e : Bool) (s : State) : (execSexch core rd rs width e s).Keeps s := by
  refine State.stream_fixed _ _ _ _ ?_
  intro x r h
  exact Element.exchange_fixed _ _ _ h

@[simp] theorem execSpan_fixed (core : Nat) (stop : BitVec 2) (s : State) : (execSpan core stop s).Keeps s := by
  unfold execSpan
  dsimp only; (repeat' split) <;> simp_all

@[simp] theorem State.pathFlags_fixed (s : State) : (State.pathFlags s).fixed = s.fixed := by
  unfold State.pathFlags
  simp_all

@[simp] theorem State.countFailure_fixed (s : State) (w : Nat) : (State.countFailure s w).fixed = s.fixed := by
  unfold State.countFailure
  simp_all

@[simp] theorem State.resetWarden_fixed (s : State) (w : Nat) : (State.resetWarden s w).fixed = s.fixed := by
  unfold State.resetWarden
  simp [apply_ite State.fixed]

@[simp] theorem State.wardensHalt_fixed (s : State) : (State.wardensHalt s).fixed = s.fixed := by
  have := State.bootHalted_fixed s
  simp only [State.fixed, Fixed.mk.injEq, Prod.mk.injEq] at this ⊢
  simp [State.wardensHalt, this]

@[simp] theorem State.doubleFailure_fixed (s : State) (w cause : Nat) : (State.doubleFailure s w cause).fixed = s.fixed := by
  have h (u : State) (l : List JournalEntry) :
      ({ u with guy := { u.guy with rebuilding := true, preparing := none, journal := l } } : State).fixed = u.fixed := rfl
  unfold State.doubleFailure
  dsimp only
  have tail (u : State) (hu : u.fixed = s.fixed) :
      (if ((u.warden 0).state = .failed && (u.warden 1).state = .failed) = true then u.wardensHalt else u).fixed = s.fixed := by
    split
    · rw [State.wardensHalt_fixed, hu]
    · exact hu
  apply tail
  rw [foldl_fixed _ _ _ (fun u w => by split <;> simp), State.lockCause_fixed, State.log_fixed]
  exact (h _ _).trans (State.holdOutputs_fixed s)

@[simp] theorem execWardenHeartbeat_fixed (warden loop : Nat) (wire fabric : Bool) (s : State) : (execWardenHeartbeat warden loop wire fabric s).Keeps s := by
  unfold execWardenHeartbeat
  (repeat' split) <;> simp_all

@[simp] theorem State.redoManagement_fixed (s : State) : (State.redoManagement s).fixed = s.fixed := by
  unfold State.redoManagement
  simp_all

@[simp] theorem State.refetchEntries_fixed (s : State) : (State.refetchEntries s).fixed = s.fixed := by
  unfold State.refetchEntries
  simp_all

@[simp] theorem State.applyHeldInstant_fixed (s : State) : (State.applyHeldInstant s).fixed = s.fixed := by
  unfold State.applyHeldInstant
  dsimp only; (repeat' split) <;> simp_all

@[simp] theorem execJournalEntry_fixed (intact : Bool) (s : State) : (execJournalEntry intact s).Keeps s := by
  unfold execJournalEntry
  dsimp only; (repeat' split) <;> simp_all

@[simp] theorem execJournalCheckpoint_fixed (s : State) : (execJournalCheckpoint s).Keeps s := by
  unfold execJournalCheckpoint
  (repeat' split) <;> simp_all

@[simp] theorem State.snapshotTo_fixed (s : State) (w : Nat) : (State.snapshotTo s w).fixed = s.fixed := by
  unfold State.snapshotTo
  simp_all

@[simp] theorem execWardenSynced_fixed (warden : Nat) (s : State) : (execWardenSynced warden s).Keeps s := by
  unfold execWardenSynced
  (repeat' split) <;> simp_all

@[simp] theorem execWardenRebuild_fixed (s : State) : (execWardenRebuild s).Keeps s := by
  have h (u : State) : ({ u with guy := { u.guy with rebuilding := false } } : State).fixed = u.fixed := rfl
  unfold execWardenRebuild
  split
  · exact (keeps_next _ _).mpr rfl
  · dsimp only
    rw [keeps_next, State.answerHeld_fixed, State.releaseHeld_fixed, State.applyHeldInstant_fixed, State.refetchEntries_fixed, h]
    exact foldl_fixed _ _ _ fun t d => State.abortDom_fixed t _ _ _ d

@[simp] theorem execTakebackHoldoff_fixed (s : State) : (execTakebackHoldoff s).Keeps s := by
  unfold execTakebackHoldoff
  split
  · exact (keeps_next _ _).mpr rfl
  · exact guy_keeps _ _ _ rfl (State.passTo_fixed s _)

@[simp] theorem State.abandonTakeback_fixed (s : State) : (State.abandonTakeback s).fixed = s.fixed := by
  unfold State.abandonTakeback
  simp_all

@[simp] theorem execTakebackAbandon_fixed (s : State) : (execTakebackAbandon s).Keeps s := by
  unfold execTakebackAbandon
  split
  · exact (keeps_next _ _).mpr rfl
  · split
    · exact (keeps_next _ _).mpr rfl
    · exact guy_keeps _ _ _ rfl (State.passTo_fixed s _)

end Sys2Proof.Machine
end

