-- ==== Sys2Proof/Laws/Evolve.lean ====
section
/-!
SUPPORT. Sys2Proof/Laws/Evolve.lean: how the few operations change a state that Laws/Keep.lean leaves out: fuses are only ever burned, the arbiter's
code is one of its grants, and the vote code is that of the life-cycle state.
-/

namespace Sys2Proof.Machine

-- One lemma after the other: the many threads of a side-by-side elaboration hold memory.
set_option Elab.async false

/-- Every bit that is set in `a` is set in `b`. -/
def FuseGrows (a b : BitVec 256) : Prop := b &&& a = a

theorem fuseGrows_refl (a : BitVec 256) : FuseGrows a a := by simp [FuseGrows]

theorem fuseGrows_trans {a b c : BitVec 256} (h : FuseGrows a b) (k : FuseGrows b c) : FuseGrows a c := by
  unfold FuseGrows at *
  calc c &&& a = c &&& (b &&& a) := by rw [h]
    _ = (c &&& b) &&& a := by rw [BitVec.and_assoc]
    _ = a := by rw [k, h]

/-- The fuses of each copy grow. -/
def LifeCycleReg.Grows (a b : LifeCycleReg) : Prop :=
  FuseGrows a.copy0 b.copy0 ∧ FuseGrows a.copy1 b.copy1 ∧ FuseGrows a.copy2 b.copy2

theorem grows_refl (a : LifeCycleReg) : a.Grows a := ⟨fuseGrows_refl _, fuseGrows_refl _, fuseGrows_refl _⟩

theorem grows_trans {a b c : LifeCycleReg} (h : a.Grows b) (k : b.Grows c) : a.Grows c :=
  ⟨fuseGrows_trans h.1 k.1, fuseGrows_trans h.2.1 k.2.1, fuseGrows_trans h.2.2 k.2.2⟩

theorem fuseGrows_or (a v : BitVec 256) : FuseGrows a (a ||| v) := by
  unfold FuseGrows
  ext i
  simp only [BitVec.getElem_and, BitVec.getElem_or]
  cases a[i] <;> simp

theorem fuseGrows_burn (a : BitVec 256) (k : Nat) : FuseGrows a (otpBurn a k) := fuseGrows_or ..

theorem fuseGrows_ite {p : Prop} [Decidable p] {a b c : BitVec 256} (h : FuseGrows a b) (k : FuseGrows a c) : FuseGrows a (if p then b else c) := by
  split
  · exact h
  · exact k

theorem grows_withCopies (l : LifeCycleReg) (f : BitVec 256 → BitVec 256) (fails : Option Nat) (hf : ∀ c, FuseGrows c (f c)) :
    l.Grows (l.withCopies f fails) :=
  ⟨fuseGrows_ite (fuseGrows_refl _) (hf _), fuseGrows_ite (fuseGrows_refl _) (hf _), fuseGrows_ite (fuseGrows_refl _) (hf _)⟩

theorem grows_foldl {α : Type} (f : LifeCycleReg → α → LifeCycleReg) (hf : ∀ (l : LifeCycleReg) a, l.Grows (f l a)) (xs : List α) (l : LifeCycleReg) :
    l.Grows (xs.foldl f l) := by
  induction xs generalizing l with
  | nil => exact grows_refl l
  | cons a xs ih => exact grows_trans (hf l a) (ih _)

theorem fuseGrows_foldl (f : BitVec 256 → Nat → BitVec 256) (hf : ∀ c k, FuseGrows c (f c k)) (xs : List Nat) (c : BitVec 256) :
    FuseGrows c (xs.foldl f c) := by
  induction xs generalizing c with
  | nil => exact fuseGrows_refl c
  | cons a xs ih => exact fuseGrows_trans (hf c a) (ih _)

theorem grows_burnCopies (l : LifeCycleReg) (k n : Nat) : l.Grows (l.burnCopies k n) := by
  unfold LifeCycleReg.burnCopies LifeCycleReg.Grows
  refine ⟨?_, ?_, ?_⟩ <;> (dsimp only; split <;> first | exact fuseGrows_burn _ _ | exact fuseGrows_refl _)

theorem grows_burnPart (l : LifeCycleReg) (k : Nat) (b : OtpBurn) : l.Grows (l.burnPart k b) := by
  refine grows_trans (grows_burnCopies l k b.copies) ?_
  unfold LifeCycleReg.burnPart
  dsimp only
  split
  · exact ⟨fuseGrows_or _ _, fuseGrows_refl _, fuseGrows_refl _⟩
  · exact ⟨fuseGrows_refl _, fuseGrows_or _ _, fuseGrows_refl _⟩
  · exact ⟨fuseGrows_refl _, fuseGrows_refl _, fuseGrows_or _ _⟩
  · exact grows_refl _

theorem grows_burnRaw (l : LifeCycleReg) (n : Nat) (v : BitVec 256) : l.Grows (l.burnRaw n v) :=
  ⟨fuseGrows_ite (fuseGrows_or _ _) (fuseGrows_refl _), fuseGrows_ite (fuseGrows_or _ _) (fuseGrows_refl _),
    fuseGrows_ite (fuseGrows_or _ _) (fuseGrows_refl _)⟩

theorem grows_repair (l : LifeCycleReg) (fails : Option Nat) : l.Grows (l.repair fails) := by
  unfold LifeCycleReg.repair
  refine grows_trans (b := l.completePartial fails) ?_ ?_
  · refine grows_foldl _ (fun l k => ?_) _ _
    split
    · exact grows_withCopies _ _ _ fun c => fuseGrows_ite (fuseGrows_burn _ _) (fuseGrows_refl _)
    · exact grows_refl _
  · unfold LifeCycleReg.mendDissent
    dsimp only
    split
    · exact grows_refl _
    · refine grows_withCopies _ _ _ fun c => fuseGrows_ite ?_ (fuseGrows_refl _)
      exact fuseGrows_foldl _ (fun c k => fuseGrows_ite (fuseGrows_burn _ _) (fuseGrows_refl _)) _ _

theorem grows_wiped (l : LifeCycleReg) (k : Nat) (fails : Option Nat) : l.Grows (l.wiped k fails) :=
  grows_trans (grows_withCopies _ _ _ fun _ => fuseGrows_burn _ _) (grows_burnCopies _ _ _)

theorem grows_boot (l : LifeCycleReg) (fails : Option Nat) : l.Grows (l.boot fails).1 := by
  refine grows_trans (grows_repair l fails) ?_
  unfold LifeCycleReg.boot
  dsimp only
  split
  · exact grows_wiped _ _ _
  · exact grows_wiped _ _ _
  · exact grows_refl _

theorem vote_boot (l : LifeCycleReg) (fails : Option Nat) : (l.boot fails).1.vote = (l.boot fails).1.state.voteCode := rfl

/-- The codes of the arbiter: each warden's grant, and the two of a moving grant. -/
def LegalGrant (c : BitVec 16) : Prop := c = grantA ∨ c = grantB ∨ c = movingToA ∨ c = movingToB

/-- What every command keeps of a state: the queue, every set fuse, a legal arbiter code, and the vote code of the life-cycle state. -/
structure State.Evolves (s t : State) : Prop where
  queue : t.pending = s.pending
  fuses : s.life.Grows t.life
  grant : t.guy.code = s.guy.code ∨ LegalGrant t.guy.code
  vote : (t.life.state = s.life.state ∧ t.life.vote = s.life.vote) ∨ t.life.vote = t.life.state.voteCode

theorem State.Evolves.trans {s t u : State} (h : s.Evolves t) (k : t.Evolves u) : s.Evolves u where
  queue := k.queue.trans h.queue
  fuses := grows_trans h.fuses k.fuses
  grant := by
    rcases k.grant with g | g
    · rw [g]; exact h.grant
    · exact .inr g
  vote := by
    rcases k.vote with ⟨a, b⟩ | v
    · rcases h.vote with ⟨c, d⟩ | v
      · exact .inl ⟨a.trans c, b.trans d⟩
      · exact .inr (by rw [a, b]; exact v)
    · exact .inr v

theorem State.evolves_of_fixed {s t : State} (h : t.fixed = s.fixed) : s.Evolves t := by
  simp only [State.fixed, Fixed.mk.injEq, Prod.mk.injEq] at h
  obtain ⟨a, b, ⟨c, d, e⟩, f, g⟩ := h
  exact ⟨a, by unfold LifeCycleReg.Grows; rw [c, d, e]; exact grows_refl s.life, .inl b, .inl ⟨g, f⟩⟩

theorem State.Evolves.refl (s : State) : s.Evolves s := State.evolves_of_fixed rfl

/-- A change that keeps what `fixed` holds may follow. -/
theorem State.Evolves.then {s t u : State} (h : s.Evolves t) (k : u.fixed = t.fixed) : s.Evolves u := h.trans (State.evolves_of_fixed k)

/-- An answer whose next state evolves from a state. -/
def Answer.Evolves (a : Answer) (s : State) : Prop := ∀ t, a = .next t → s.Evolves t

theorem evolves_next (t s : State) : Answer.Evolves (.next t) s ↔ s.Evolves t := by
  constructor
  · intro h; exact h t rfl
  · intro h u hu; cases hu; exact h

theorem Answer.Keeps.evolves {a : Answer} {s : State} (h : a.Keeps s) : a.Evolves s := fun t ht => State.evolves_of_fixed (h t ht)

theorem State.evolves_foldl {α : Type} (f : State → α → State) (hf : ∀ (t : State) a, t.Evolves (f t a)) (xs : List α) (s : State) :
    s.Evolves (xs.foldl f s) := by
  induction xs generalizing s with
  | nil => exact .refl s
  | cons a xs ih => exact (hf s a).trans (ih _)

/-- Only the life-cycle group changes. -/
theorem State.evolves_life (s : State) (l : LifeCycleReg) (h : s.life.Grows l)
    (v : (l.state = s.life.state ∧ l.vote = s.life.vote) ∨ l.vote = l.state.voteCode) : s.Evolves { s with life := l } :=
  ⟨rfl, h, .inl rfl, v⟩

/-- Only the GUYLINE group changes. -/
theorem State.evolves_guy (s : State) (g : Guyline) (h : g.code = s.guy.code ∨ LegalGrant g.code) :
    s.Evolves { s with guy := g } :=
  ⟨rfl, grows_refl _, h, .inl ⟨rfl, rfl⟩⟩

theorem State.evolves_after {s t u : State} (k : u.fixed = t.fixed) (h : s.Evolves t) : s.Evolves u := h.then k

/-- What is burned of an attempt bit leaves the fuses of the state, and the state. -/
theorem attempted_keeps (l : LifeCycleReg) (t : Nat) (b : OtpBurn) :
    l.Grows (l.attempted t b) ∧ (l.attempted t b).state = l.state ∧ (l.attempted t b).vote = l.vote := by
  unfold LifeCycleReg.attempted LifeCycleReg.burnAttempt
  split <;> exact ⟨grows_refl l, rfl, rfl⟩

theorem burnPart_keeps (l : LifeCycleReg) (k : Nat) (b : OtpBurn) : (l.burnPart k b).state = l.state ∧ (l.burnPart k b).vote = l.vote := by
  unfold LifeCycleReg.burnPart
  dsimp only
  split <;> exact ⟨rfl, rfl⟩

theorem grows_change (l : LifeCycleReg) (x : LcChange) : l.Grows (l.change x) := by
  unfold LifeCycleReg.change
  split
  · exact grows_burnCopies l _ 3
  all_goals exact grows_refl l

theorem State.setLife_evolves (s : State) (x : LcChange) : s.Evolves (s.setLife x) := by
  refine s.evolves_life _ (grows_change _ _) (.inl ?_)
  unfold LifeCycleReg.change
  split <;> exact ⟨rfl, rfl⟩

theorem State.losePower_evolves (s t : State) (h : s.Evolves t) : s.Evolves t.losePower := h.then (State.losePower_fixed t)

theorem transitionRow_evolves (s : State) (d : Nat) (b : OtpBurn) (c : Cmd) : s.Evolves (transitionRow s d b c) := by
  unfold transitionRow
  dsimp only
  split
  · exact State.evolves_of_fixed (by simp)
  · have h0 : s.Evolves (s.setCmd d c.id fun c => { c with stage := 1 }) := State.evolves_of_fixed (State.setCmd_fixed ..)
    generalize (s.setCmd d c.id fun c => { c with stage := 1 }) = u at h0 ⊢
    obtain ⟨hg, hs, hv⟩ := attempted_keeps u.life (byteAt c.param 0) b
    generalize u.life.attempted (byteAt c.param 0) b = l at hg hs hv ⊢
    have hl (m : LifeCycleReg) (g : l.Grows m) (e : m.state = l.state ∧ m.vote = l.vote) (x : Supplies) :
        s.Evolves { u with life := m, supplies := x } :=
      h0.trans ((u.evolves_life m (grows_trans hg g) (.inl ⟨e.1.trans hs, e.2.trans hv⟩)).then rfl)
    have hp := hl _ (grows_burnPart l (transitionField (byteAt c.param 0)) b) (burnPart_keeps ..)
    split
    · exact State.losePower_evolves _ _ (hl l (grows_refl l) ⟨rfl, rfl⟩ _)
    · split
      · split
        · exact State.losePower_evolves _ _ (hp _)
        · split
          · exact State.evolves_after (State.setCmd_fixed _ _ _ _) (hp u.supplies)
          · exact State.evolves_after (State.setCmd_fixed _ _ _ _) (hl l (grows_refl l) ⟨rfl, rfl⟩ u.supplies)
      · exact State.evolves_after (State.setCmd_fixed _ _ _ _) (hl { l with wrong := l.wrong + 1 } (grows_refl l) ⟨rfl, rfl⟩ u.supplies)

theorem execLcTransition_evolves (dom id : Nat) (burn : OtpBurn) (s : State) : (execLcTransition dom id burn s).Evolves s := by
  unfold execLcTransition State.runStaged
  split
  · exact (evolves_next _ _).mpr (.refl s)
  · split
    · split
      · exact (evolves_next _ _).mpr (transitionRow_evolves _ _ _ _)
      · split
        · exact (evolves_next _ _).mpr (State.evolves_of_fixed (by simp))
        · dsimp only
          split
          · exact (evolves_next _ _).mpr (State.evolves_of_fixed (by simp))
          · exact (evolves_next _ _).mpr (State.Evolves.trans (State.evolves_of_fixed (by simp)) (transitionRow_evolves _ _ _ _))
    · exact (evolves_next _ _).mpr (.refl s)

theorem State.applyEffect_evolves (s : State) (d : Nat) (c : Cmd) (e : Effect) : s.Evolves (s.applyEffect d c e) := by
  cases e with
  | lifeCycle x => exact s.setLife_evolves x
  | pitchCreate p conf =>
    refine State.evolves_of_fixed ?_
    change ((s.createPitch p conf).getD s).fixed = s.fixed
    cases h : s.createPitch p conf with
    | none => rfl
    | some t => exact State.createPitch_fixed _ _ _ _ h
  | keyAttr o h a =>
    refine State.evolves_of_fixed ?_
    unfold State.applyEffect
    dsimp only
    split <;> simp
  | setNow k =>
    refine State.evolves_of_fixed ?_
    unfold State.applyEffect
    dsimp only
    split <;> simp
  | _ => exact State.evolves_of_fixed (by simp [State.applyEffect])

theorem State.commit_evolves (s : State) (d : Nat) (check : EmberCheck) (c : Cmd) : s.Evolves (s.commit d check c) := by
  have hf (f : State → Effect → State) (hf : ∀ (t : State) e, t.Evolves (f t e)) (u : State) (hu : u.fixed = s.fixed) (l : List Effect) :
      s.Evolves (l.foldl f u) := (State.evolves_of_fixed hu).trans (State.evolves_foldl f hf l u)
  unfold State.commit
  extract_lets _ c1 _ c2 _ s1 s2 s3 s4 s5 s6 s7 c3 s8 s9 _
  have h3 : s3.fixed = s.fixed := by
    simp only [s3, State.refusalEntry_fixed, State.mgmtEntry_fixed, s2]
    split <;> simp [s1]
  have h5 : s5.fixed = s.fixed := by
    simp only [s5, s4]
    split <;> simp [h3]
  have h6 : s.Evolves s6 := hf _ (fun t e => (State.evolves_of_fixed (State.journalEffect_fixed _ _ _ _)).trans
    (State.applyEffect_evolves _ _ _ _)) s5 h5 _
  have h8 : s.Evolves s8 := h6.then (by simp [s8, s7])
  have h9 : s.Evolves s9 := h8.then (by simp [s9])
  have h : s.Evolves (if c3.atBoundary = true then s8 else if c3.cls.chains = true then s9 else s9.finishCmd d c3) := by
    split
    · exact h8
    · split
      · exact h9
      · exact h9.then (State.finishCmd_fixed _ _ _)
  split
  · refine h.then ?_
    rw [State.settle_fixed, State.resumePlacement_fixed]
  · exact h.then (State.noteReady_fixed _ _)

theorem execCommitPoint_evolves (dom : Nat) (done : Committing) (s : State) : (execCommitPoint dom done s).Evolves s := by
  unfold execCommitPoint
  split
  · exact (evolves_next _ _).mpr (.refl s)
  · split
    · split
      · exact (evolves_next _ _).mpr (State.evolves_of_fixed rfl)
      · refine (evolves_next _ _).mpr ?_
        split
        · exact State.evolves_of_fixed (State.recommit_fixed ..)
        · exact s.commit_evolves dom done.check _
    · exact (evolves_next _ _).mpr (.refl s)

theorem State.rebooted_evolves (s : State) (kind : ResetKind) : s.Evolves (s.rebooted kind) :=
  ⟨rfl, grows_refl _, .inr (.inl rfl), .inl ⟨rfl, rfl⟩⟩

theorem State.collapseTest_evolves (s : State) : s.Evolves s.collapseTest := by
  unfold State.collapseTest
  split
  · exact .refl s
  · exact ⟨rfl, grows_refl _, .inl rfl, .inl ⟨rfl, rfl⟩⟩

theorem State.wipe_evolves (s : State) : s.Evolves s.wipe := ⟨rfl, grows_refl _, .inl rfl, .inl ⟨rfl, rfl⟩⟩

theorem State.bootFuses_evolves (s : State) (fails : Option Nat) : s.Evolves (s.bootFuses fails).1 := by
  unfold State.bootFuses
  dsimp only
  have h (e : Ember) : s.Evolves { s with life := (s.life.boot fails).1, ember := e } :=
    (s.evolves_life (s.life.boot fails).1 (grows_boot _ _) (.inr (vote_boot _ _))).then rfl
  split
  · exact (h _).trans (State.wipe_evolves _)
  · exact h _

theorem State.bootRest_fixed (s u : State) (kind : ResetKind) (tests : BootTests) (was : LifeCycle) (reps : List (Nat × Nat))
    (wiped : Option LifeCycle) (c d : Nat) :
    (let t := (u.bootLog kind tests.sram tests.mram reps wiped c d).bootFirmware tests.fw0 tests.fw1
     let t := t.stateTaken was wiped
     let t := (t.wardenTo 0 .selfTest).wardenTo 1 .selfTest
     let t := if t.tamper.strikePending then { t with doms := t.doms.map fun (p : Nat × Dom) => (p.1, { p.2 with keys := [] }) } else t
     let t := if wiped.isSome then t else State.advancedEntries s t
     (t.startSources.bootTested tests).trainHost).fixed = u.fixed := by
  dsimp only
  rw [State.trainHost_fixed, State.bootTested_fixed, State.startSources_fixed]
  have h (v : State) : ((v.wardenTo 0 .selfTest).wardenTo 1 .selfTest).fixed = v.fixed := by simp
  have h1 : (((u.bootLog kind tests.sram tests.mram reps wiped c d).bootFirmware tests.fw0 tests.fw1).stateTaken was wiped).fixed = u.fixed := by
    simp
  generalize (((u.bootLog kind tests.sram tests.mram reps wiped c d).bootFirmware tests.fw0 tests.fw1).stateTaken was wiped) = v at h1 ⊢
  have h2 := h v
  generalize (v.wardenTo 0 .selfTest).wardenTo 1 .selfTest = w at h2 ⊢
  have h3 : (if w.tamper.strikePending = true then { w with doms := w.doms.map fun (p : Nat × Dom) => (p.1, { p.2 with keys := [] }) }
      else w).fixed = w.fixed := by split <;> rfl
  split
  · exact h3.trans (h2.trans h1)
  · exact (State.advancedEntries_fixed _ _).trans (h3.trans (h2.trans h1))

theorem State.bootStart_evolves (s : State) (kind : ResetKind) (tests : BootTests) : s.Evolves (s.bootStart kind tests) := by
  unfold State.bootStart
  refine State.evolves_after (State.bootRest_fixed s _ _ _ _ _ _ _ _) ?_
  refine State.Evolves.trans ?_ (State.bootFuses_evolves _ _)
  refine State.Evolves.trans ?_ (State.collapseTest_evolves _)
  have h1 : s.Evolves { s with trail := if kind = ResetKind.cold then s.trail else s.trail.flush } := State.evolves_of_fixed rfl
  exact (h1.trans (State.rebooted_evolves _ kind)).trans ⟨rfl, grows_refl _, .inl rfl, .inl ⟨rfl, rfl⟩⟩

theorem execColdReset_evolves (sram mram : Bool) (fw : Bool × Bool) (units : UnitTests) (s : State) :
    (execColdReset sram mram fw units s).Evolves s := by
  unfold execColdReset
  split
  · exact (evolves_next _ _).mpr (.refl s)
  · exact (evolves_next _ _).mpr ((State.evolves_of_fixed (by simp)).trans (State.bootStart_evolves _ _ _))

theorem execLifeCycleReset_evolves (sram mram : Bool) (fw : Bool × Bool) (units : UnitTests) (s : State) :
    (execLifeCycleReset sram mram fw units s).Evolves s := by
  unfold execLifeCycleReset
  split
  · exact (evolves_next _ _).mpr (State.bootStart_evolves _ _ _)
  · exact (evolves_next _ _).mpr (.refl s)

theorem execStrikeReset_evolves (sram mram : Bool) (fw : Bool × Bool) (units : UnitTests) (s : State) :
    (execStrikeReset sram mram fw units s).Evolves s := by
  unfold execStrikeReset
  split
  · refine (evolves_next _ _).mpr (State.Evolves.trans (State.evolves_of_fixed ?_) (State.bootStart_evolves _ _ _))
    simp
  · exact (evolves_next _ _).mpr (.refl s)

theorem State.bootWardens_evolves (s : State) (a b : Bool) : s.Evolves (s.bootWardens a b) := by
  have h (u : State) : u.Evolves { u with guy := { u.guy with code := if a then grantA else grantB } } :=
    State.evolves_guy _ _ (.inr (by unfold LegalGrant; cases a <;> simp))
  unfold State.bootWardens
  refine State.Evolves.then (State.Evolves.trans (State.evolves_of_fixed ?_) (h _)) ((State.wardenTo_fixed ..).trans (State.wardenTo_fixed ..))
  exact (State.setWarden_fixed ..).trans (State.setWarden_fixed ..)

theorem State.bootDone_evolves (s : State) (a b : Bool) : s.Evolves (s.bootDone a b) := by
  unfold State.bootDone
  refine (s.bootWardens_evolves a b).then ?_
  rw [State.trainHost_fixed, State.setTamper_fixed]
  have h := State.ignoredEntry_fixed (s.bootWardens a b)
  generalize (s.bootWardens a b).ignoredEntry = u at h ⊢
  rw [← h]
  dsimp only
  split
  · rw [State.bootLock_fixed, State.foldDoms_fixed _ _ _ (fun t p => State.pitchEvent_fixed ..)]; rfl
  · rw [State.foldDoms_fixed _ _ _ (fun t p => State.pitchEvent_fixed ..)]; rfl

theorem execBootEnd_evolves (wardenA wardenB : Bool) (s : State) : (execBootEnd wardenA wardenB s).Evolves s := by
  unfold execBootEnd
  split
  · dsimp only
    have h : s.Evolves (if s.boot.step < 7 then s.bootStart .cold {} else s) := by
      split
      · exact s.bootStart_evolves _ _
      · exact .refl s
    split
    · exact (evolves_next _ _).mpr (h.then (by simp))
    · exact (evolves_next _ _).mpr (h.trans (State.bootDone_evolves _ _ _))
  · exact (evolves_next _ _).mpr (.refl s)

theorem State.moveGrant_evolves (s : State) : s.Evolves s.moveGrant := by
  unfold State.moveGrant
  dsimp only
  refine (State.Evolves.trans (State.evolves_of_fixed (State.holdOutputs_fixed s)) (State.evolves_guy _ _ (.inr ?_))).then
    ((State.wardenTo_fixed _ _ _).trans (State.wardenTo_fixed _ _ _))
  unfold LegalGrant
  dsimp only
  split <;> simp

theorem State.wardenFails_evolves (s : State) (w : Nat) : s.Evolves (s.wardenFails w) := by
  have h := State.evolves_of_fixed (State.countFailure_fixed s w)
  unfold State.wardenFails
  dsimp only
  split
  · split
    · exact h.trans (State.moveGrant_evolves _)
    · exact h.then (State.doubleFailure_fixed _ _ _)
  · exact h.then (State.resetWarden_fixed _ _)

theorem State.endGap_evolves (s : State) : s.Evolves s.endGap := by
  have h (u : State) (n : Nat) : u.Evolves { u with guy := { u.guy with code := if n = 0 then grantA else grantB } } :=
    State.evolves_guy _ _ (.inr (by unfold LegalGrant; dsimp only; split <;> simp))
  have tail (u : State) (b : Bool) (old new cause : Nat) :
      (if b = true then (u.resetWarden old).redoManagement.refetchEntries.applyHeldInstant.releaseHeld.answerHeld
       else u.doubleFailure new cause).fixed = u.fixed := by split <;> simp
  unfold State.endGap
  refine State.evolves_after (tail _ _ _ _ _) (State.evolves_after (State.log_fixed ..) (State.Evolves.trans ?_ (h _ _)))
  exact State.evolves_of_fixed (foldl_fixed _ _ _ fun t a => State.applyEntry_fixed _ _ _)

theorem execSwitchOver_evolves (gap : Nat) (s : State) : (execSwitchOver gap s).Evolves s := by
  unfold execSwitchOver
  split
  · exact (evolves_next _ _).mpr (.refl s)
  · exact (evolves_next _ _).mpr ((State.evolves_of_fixed (State.pass_fixed _ _)).trans (State.endGap_evolves _))

theorem execHeartbeatMiss_evolves (warden : Nat) (fabric tap : Bool) (s : State) : (execHeartbeatMiss warden fabric tap s).Evolves s := by
  unfold execHeartbeatMiss
  split
  · exact (evolves_next _ _).mpr (.refl s)
  · dsimp only
    generalize hu : (s.passTo _).setWarden warden _ = u
    have h : s.Evolves u.pathFlags := State.evolves_of_fixed (by rw [← hu]; simp)
    have h1 := fun code origin sev data => h.then (State.log_fixed u.pathFlags code origin sev data)
    (repeat' split) <;> refine (evolves_next _ _).mpr ?_ <;> first
      | exact h
      | exact h1 _ _ _ _
      | exact h.trans (State.wardenFails_evolves _ _)
      | exact (h1 _ _ _ _).then (State.raise_fixed _ _)

theorem execLockstepFault_evolves (warden : Nat) (s : State) : (execLockstepFault warden s).Evolves s := by
  unfold execLockstepFault
  split
  · exact (evolves_next _ _).mpr (.refl s)
  · exact (evolves_next _ _).mpr ((State.evolves_of_fixed (State.setWarden_fixed ..)).trans (State.wardenFails_evolves _ _))

theorem execWardenPeriodicSelfTest_evolves (warden : Nat) (pass : Bool) (s : State) : (execWardenPeriodicSelfTest warden pass s).Evolves s := by
  unfold execWardenPeriodicSelfTest
  split
  · exact (evolves_next _ _).mpr (.refl s)
  · exact (evolves_next _ _).mpr ((State.evolves_of_fixed (State.setWarden_fixed ..)).trans (State.wardenFails_evolves _ _))

theorem State.grantTo_evolves (s : State) (w : Nat) : s.Evolves (s.grantTo w) := by
  unfold State.grantTo
  refine (State.evolves_guy s _ (.inr ?_)).then (State.wardenTo_fixed _ _ _)
  unfold LegalGrant
  dsimp only
  split <;> simp

theorem execWardenSelfTestEnd_evolves (warden : Nat) (pass : Bool) (s : State) : (execWardenSelfTestEnd warden pass s).Evolves s := by
  have tail (v : State) (hv : s.Evolves v) :
      Answer.Evolves (let a := (v.warden 0).state
        let b := (v.warden 1).state
        if a = .syncing then .next (if b = .syncing then (v.grantTo 0).snapshotTo 1 else v.grantTo 0)
        else if a = .failed && b = .syncing then .next (v.grantTo 1)
        else if a = .failed && b = .failed then .next v.wardensHalt
        else .next v) s := by
    dsimp only
    split
    · refine (evolves_next _ _).mpr (hv.trans ?_)
      split
      · exact (v.grantTo_evolves 0).then (State.snapshotTo_fixed _ _)
      · exact v.grantTo_evolves 0
    · split
      · exact (evolves_next _ _).mpr (hv.trans (v.grantTo_evolves 1))
      · split
        · exact (evolves_next _ _).mpr (hv.then (State.wardensHalt_fixed _))
        · exact (evolves_next _ _).mpr hv
  unfold execWardenSelfTestEnd
  split
  · exact (evolves_next _ _).mpr (.refl s)
  · generalize (s.warden warden).testFrom + 200000000 = x
    have k : s.Evolves (s.passTo x) := State.evolves_of_fixed (State.passTo_fixed s x)
    generalize s.passTo x = u at k ⊢
    dsimp only
    split
    · split <;> exact (evolves_next _ _).mpr (k.then (by simp))
    · exact tail _ (k.then (by rw [State.setWarden_fixed, State.wardenTo_fixed]))

theorem execTakeback_evolves (gap : Nat) (s : State) : (execTakeback gap s).Evolves s := by
  have ha (u : State) : u.Evolves { u with guy := { u.guy with code := movingToA, lastCause := 4, preparing := none } } :=
    State.evolves_guy _ _ (.inr (.inr (.inr (.inl rfl))))
  have hb (u : State) : u.Evolves { u with guy := { u.guy with code := grantA } } := State.evolves_guy _ _ (.inr (.inl rfl))
  unfold execTakeback
  split
  · exact (evolves_next _ _).mpr (.refl s)
  · split
    · exact (evolves_next _ _).mpr (.refl s)
    · split
      · exact (evolves_next _ _).mpr (State.evolves_of_fixed (State.abandonTakeback_fixed s))
      · refine (evolves_next _ _).mpr ?_
        dsimp only
        refine State.Evolves.then ?_ ((State.answerHeld_fixed _).trans ((State.releaseHeld_fixed _).trans (State.log_fixed ..)))
        refine State.Evolves.trans ?_ (hb _)
        refine State.Evolves.then ?_ (State.setWarden_fixed ..)
        refine State.Evolves.then ?_ ((State.pass_fixed ..).trans ((State.wardenTo_fixed ..).trans (State.wardenTo_fixed ..)))
        exact (State.evolves_of_fixed (State.holdOutputs_fixed s)).trans (ha _)

theorem State.debugWrite_evolves (s : State) (x : DebugTarget) (b : Bytes) : (s.debugWrite x b).Evolves s := by
  unfold State.debugWrite
  split <;> first
    | exact (evolves_next _ _).mpr (s.evolves_life _ (grows_burnRaw _ _ _) (.inl ⟨rfl, rfl⟩))
    | exact (evolves_next _ _).mpr (State.evolves_of_fixed (by simp))
    | exact Answer.Keeps.evolves (State.writeRegister_fixed _ _ _ _ _)

theorem execDebugAccess_evolves (target : DebugTarget) (write : Option Bytes) (s : State) : (execDebugAccess target write s).Evolves s := by
  unfold execDebugAccess
  dsimp only
  (repeat' split) <;> first
    | exact State.debugWrite_evolves _ _ _
    | exact (evolves_next _ _).mpr (State.evolves_of_fixed (by simp))

end Sys2Proof.Machine
end

