-- ==== Sys2Proof/Laws/Insn.lean ====
section
/-!
SUPPORT. Sys2Proof/Laws/Insn.lean: what the shared shapes of KTW instructions answer, said once: an instruction that completes, one that traps, and
the checks of operand tags.
-/

namespace Sys2Proof.Machine

/-! ### The shapes -/

/-- A core that executes a word completes what its meaning gives. -/
theorem insn_executes {s : State} {k w : Nat} (h : s.Executes k w) (f : Except Stop State) : s.insn k w f = s.complete k f := by
  obtain ⟨hw, hs, hf⟩ := h
  unfold State.insn
  simp only [hw, hs, Option.isSome_none, Bool.false_eq_true, if_false, Nat.add_zero]
  rw [hf]

theorem insnCore_ok {s : State} {k w : Nat} {f : Core → Except Stop Core} {K : Core} (h : s.Executes k w) (hf : f (s.core k) = .ok K) :
    s.insnCore k w f = .next (s.became k K) := by
  unfold State.insnCore
  rw [insn_executes h, hf]
  rfl

theorem insnCore_trap {s : State} {k w : Nat} {f : Core → Except Stop Core} {t : Trap} (h : s.Executes k w) (hf : f (s.core k) = .error (.trap t)) :
    s.insnCore k w f = .next (s.trap k t) := by
  unfold State.insnCore
  rw [insn_executes h, hf]
  rfl

theorem insnCore_stall {s : State} {k w : Nat} {f : Core → Except Stop Core} (h : s.Executes k w) (hf : f (s.core k) = .error .stall) :
    s.insnCore k w f = .next s := by
  unfold State.insnCore
  rw [insn_executes h, hf]
  rfl

/-! ### The checks of operand tags (R283) -/

/-- No tag of a list is one that the first three checks stop on. -/
def plainTags (l : List Tag) : Prop := (∀ t ∈ l, t.illegal = false) ∧ Tag.empty ∉ l ∧ Tag.err ∉ l

theorem find_tag (l : List Operand) (t : Tag) (h : t ∉ l.map fun o => o.word.tag) : l.find? (fun o => o.word.tag = t) = none := by
  rw [List.find?_eq_none]
  intro x hx
  simp only [decide_eq_true_eq]
  exact fun e => h (List.mem_map.mpr ⟨x, hx, e⟩)

theorem checkHeld_ok {l : List Operand} (h : ∀ t ∈ l.map (fun o => o.word.tag), t.illegal = false) (h' : Tag.empty ∉ l.map (fun o => o.word.tag)) :
    checkHeld l = .ok () := by
  unfold checkHeld
  have hi : (l.find? fun o => o.word.tag.illegal) = none := by
    rw [List.find?_eq_none]
    exact fun x hx => by simp [h _ (List.mem_map.mpr ⟨x, hx, rfl⟩)]
  rw [hi, find_tag l .empty h']

theorem checkErr_ok {l : List Operand} (h : Tag.err ∉ l.map (fun o => o.word.tag)) : checkErr l = .ok () := by
  unfold checkErr firstErr
  rw [find_tag l .err h]
  rfl

/-- The tags of the operands are a tuple of the rule. -/
theorem checkTags_ok (l : List Operand) : ∀ (rule : List (List Tag)), (l.map fun o => o.word.tag) ∈ rule → checkTags rule l = .ok () := by
  induction l with
  | nil => intro rule _; rfl
  | cons o os ih =>
    intro rule h
    rw [checkTags]
    have hm : (os.map fun o => o.word.tag) ∈ (rule.filter fun t => t.head? == some o.word.tag).map List.tail :=
      List.mem_map.mpr ⟨_, List.mem_filter.mpr ⟨h, by simp⟩, rfl⟩
    generalize hr : (rule.filter fun t => t.head? == some o.word.tag).map List.tail = r at hm
    cases r with
    | nil => simp at hm
    | cons a as => exact ih _ hm

theorem propagate_ok {l : List Operand} {rule : List (List Tag)} (f : List KWord → KWord) (hp : plainTags (l.map fun o => o.word.tag))
    (h : (l.map fun o => o.word.tag) ∈ rule) : propagate l rule f = .ok (f (l.map Operand.word)) := by
  unfold propagate
  rw [checkHeld_ok hp.1 hp.2.1]
  have he : firstErr l = none := by unfold firstErr; rw [find_tag l .err hp.2.2]; rfl
  simp only [he, checkTags_ok l rule h]

theorem consume_ok {l : List Operand} {rule : List (List Tag)} (hp : plainTags (l.map fun o => o.word.tag))
    (h : (l.map fun o => o.word.tag) ∈ rule) : consume l rule = .ok (l.map Operand.word) := by
  unfold consume
  rw [checkHeld_ok hp.1 hp.2.1, checkErr_ok hp.2.2]
  simp only [checkTags_ok l rule h]

@[simp] theorem operands_words (K : Core) (rs : List (BitVec 5)) : (K.operands rs).map Operand.word = rs.map K.reg := by
  unfold Core.operands
  rw [List.map_map, List.zipIdx_eq_zip_range']
  simp only [Function.comp_def]
  have : ∀ (l : List (BitVec 5)) (n : Nat), (l.zip (List.range' n l.length)).map (fun x => K.reg x.1) = l.map K.reg := by
    intro l
    induction l with
    | nil => intro n; rfl
    | cons a l ih => intro n; simp [List.range'_succ, ih]
  simpa using this rs 0

@[simp] theorem operands_tags (K : Core) (rs : List (BitVec 5)) : (K.operands rs).map (fun o => o.word.tag) = rs.map fun r => (K.reg r).tag := by
  have h : (K.operands rs).map (fun o => o.word.tag) = ((K.operands rs).map Operand.word).map KWord.tag := by rw [List.map_map]; rfl
  rw [h, operands_words, List.map_map]
  rfl

/-- An instruction that writes a function of its operands, whose tags the rule lists. -/
theorem alu_ok {s : State} {k w : Nat} {rd : BitVec 5} {rs : List (BitVec 5)} {rule : List (List Tag)} {f : BitVec 64 → List KWord → KWord}
    (h : s.Executes k w) (hr : (rs.map fun r => ((s.core k).reg r).tag) ∈ rule) (hp : ∀ l ∈ rule, plainTags l) :
    s.alu k w rd rs rule f = .next (s.wrote k rd (f (s.core k).pc (rs.map (s.core k).reg))) := by
  unfold State.alu
  refine insnCore_ok h ?_
  rw [propagate_ok]
  · simp [Except.map]
  · simpa using hp _ hr
  · simpa using hr

/-- An instruction that writes a BOOL of two registers. -/
theorem compare_ok {s : State} {k w : Nat} {rd a b : BitVec 5} {rule : List (List Tag)} {f : KWord → KWord → Bool} (h : s.Executes k w)
    (hr : [((s.core k).reg a).tag, ((s.core k).reg b).tag] ∈ rule) (hp : ∀ l ∈ rule, plainTags l) :
    s.compare k w rd a b rule f = .next (s.wrote k rd (kBool (f ((s.core k).reg a) ((s.core k).reg b)))) := by
  unfold State.compare
  refine insnCore_ok h ?_
  rw [consume_ok]
  · simp [Except.map, two]
  · simpa using hp _ hr
  · simpa using hr

/-- An instruction that writes a constant. -/
theorem constant_ok {s : State} {k w : Nat} {rd : BitVec 5} {f : BitVec 64 → KWord} (h : s.Executes k w) :
    s.constant k w rd f = .next (s.wrote k rd (f (s.core k).pc)) := insnCore_ok h rfl

end Sys2Proof.Machine
end

