-- ==== Sys2Proof/Laws/Memory.lean ====
section
/-!
SUPPORT. Sys2Proof/Laws/Memory.lean: every operation on the memories keeps their one form, and the state after reset has it.
-/

namespace Sys2Proof.Machine

theorem putBytes_wf (bs : Bytes) (t : List Host.Cell) (o : Nat) (h : Memory.wf t = true) : Memory.wf (putBytes t o bs) = true := by
  induction bs generalizing t o with
  | nil => exact h
  | cons b bs ih => exact ih _ _ (Tab.wf_put t 0 o b h)

theorem State.core_memory (s : State) (k : Nat) (h : s.memoryWf = true) : Tab.wf {} (s.core k).mem = true := by
  simp only [State.memoryWf, Bool.and_eq_true] at h
  exact Tab.all_get s.cores {} k (fun K => Tab.wf {} K.mem) rfl h.1

theorem State.region_memory (s : State) (r : Nat) (h : s.memoryWf = true) : Memory.wf (s.region r).buffer = true := by
  simp only [State.memoryWf, Bool.and_eq_true] at h
  exact Tab.all_get s.regions {} r (fun R => Memory.wf R.buffer) rfl h.2

/-- A change of a core that keeps the form of its memory. -/
theorem State.setCore_memoryWf (s : State) (k : Nat) (f : Core → Core) (hf : Tab.wf {} (f (s.core k)).mem = true) (h : s.memoryWf = true) :
    (s.setCore k f).memoryWf = true := by
  simp only [State.memoryWf, Bool.and_eq_true] at h ⊢
  exact ⟨Tab.all_put s.cores {} k _ _ hf h.1, h.2⟩

/-- A change of a region that keeps the form of its buffer. -/
theorem State.setRegion_memoryWf (s : State) (r : Nat) (f : Region → Region) (hf : Memory.wf (f (s.region r)).buffer = true)
    (h : s.memoryWf = true) : (s.setRegion r f).memoryWf = true := by
  simp only [State.memoryWf, Bool.and_eq_true] at h ⊢
  exact ⟨h.1, Tab.all_put s.regions {} r _ _ hf h.2⟩

theorem State.setWord_memoryWf (s : State) (k a : Nat) (w : KWord) (h : s.memoryWf = true) : (s.setWord k a w).memoryWf = true := by
  unfold State.setWord
  split
  · exact s.setCore_memoryWf _ _ (Tab.wf_put _ _ _ _ (s.core_memory k h)) h
  · exact s.setRegion_memoryWf _ _ (putBytes_wf _ _ _ (s.region_memory _ h)) h

theorem State.setByte_memoryWf (s : State) (k a : Nat) (b : Byte) (h : s.memoryWf = true) : (s.setByte k a b).memoryWf = true :=
  s.setWord_memoryWf _ _ _ h

theorem State.putBytesAt_memoryWf (s : State) (k a : Nat) (bs : Bytes) (h : s.memoryWf = true) : (s.putBytesAt k a bs).memoryWf = true := by
  unfold State.putBytesAt
  generalize bs.zipIdx = l
  induction l generalizing s with
  | nil => exact h
  | cons p l ih => exact ih _ (s.setByte_memoryWf _ _ _ h)

theorem State.loadBits_memoryWf (s : State) (k a : Nat) (bs : Bytes) (h : s.memoryWf = true) : (s.loadBits k a bs).memoryWf = true := by
  unfold State.loadBits
  generalize (chunks 8 bs).zipIdx = l
  induction l generalizing s with
  | nil => exact h
  | cons p l ih => exact ih _ (s.setWord_memoryWf _ _ _ h)

theorem State.prepare_memoryWf (s : State) (k colour a n : Nat) (h : s.memoryWf = true) : (s.prepare k colour a n).memoryWf = true := by
  unfold State.prepare
  split
  · exact h
  · split
    · exact s.setCore_memoryWf _ _ (Tab.wf_filter _ _ _ (s.core_memory k h)) h
    · exact s.setRegion_memoryWf _ _ (Tab.wf_filter _ _ _ (s.region_memory _ h)) h

/-- The state after reset lists no memory. -/
theorem reset_memoryWf : State.reset.memoryWf = true := rfl

end Sys2Proof.Machine
end

