-- ==== Sys2Proof/Laws/Rows.lean ====
section
/-!
SUPPORT. Sys2Proof/Laws/Rows.lean: what a row of an opcode does to its command, said once for the rows of one step and of several.
-/

namespace Sys2Proof.Machine

-- One lemma after the other: the many threads of a side-by-side elaboration hold memory.
set_option Elab.async false

/-! ### A command that a row changes -/

theorem find_map_id (l : List Cmd) (id : Nat) (f : Cmd → Cmd) (c : Cmd) (hf : ∀ x : Cmd, (f x).id = x.id) (h : l.find? (fun x => x.id == id) = some c) :
    (l.map fun x => if x.id = id then f x else x).find? (fun x => x.id == id) = some (f c) := by
  induction l with
  | nil => simp at h
  | cons a l ih =>
    rw [List.map_cons]
    by_cases ha : a.id = id
    · simp only [List.find?_cons, ha, beq_self_eq_true, Option.some.injEq] at h
      subst h
      simp [ha, hf]
    · simp only [List.find?_cons, ha, if_false] at h ⊢
      have hb : (a.id == id) = false := by simpa using ha
      rw [hb] at h ⊢
      exact ih h

theorem find_map_other (l : List Cmd) (id x : Nat) (f : Cmd → Cmd) (hf : ∀ y : Cmd, (f y).id = y.id) (h : x ≠ id) :
    (l.map fun y => if y.id = id then f y else y).find? (fun y => y.id == x) = l.find? fun y => y.id == x := by
  induction l with
  | nil => rfl
  | cons a l ih =>
    rw [List.map_cons]
    by_cases ha : a.id = id
    · have hb : (id == x) = false := by simpa using Ne.symm h
      simp [ha, hf, ih, hb]
    · simp [List.find?_cons, ha, ih]

/-- A command reads as the row leaves it. -/
theorem cmd_setCmd {s : State} {d id : Nat} {c : Cmd} (f : Cmd → Cmd) (hf : ∀ x : Cmd, (f x).id = x.id) (h : s.cmd d id = some c) :
    (s.setCmd d id f).cmd d id = some (f c) := by
  unfold State.cmd State.setCmd at *
  rw [dom_setDom_same]
  exact find_map_id _ _ _ _ hf h

/-- Every other command of the domain reads as before. -/
theorem cmd_setCmd_other {s : State} {d id x : Nat} (f : Cmd → Cmd) (hf : ∀ y : Cmd, (f y).id = y.id) (h : x ≠ id) :
    (s.setCmd d id f).cmd d x = s.cmd d x := by
  unfold State.cmd State.setCmd at *
  rw [dom_setDom_same]
  exact find_map_other _ _ _ _ hf h

/-- A command of another domain reads as before. -/
theorem cmd_setCmd_dom {s : State} {d id e x : Nat} (f : Cmd → Cmd) (h : e ≠ d) : (s.setCmd d id f).cmd e x = s.cmd e x := by
  unfold State.cmd State.setCmd
  rw [dom_setDom_other _ h]

@[simp] theorem id_failWith (c : Cmd) (f : Fail) : (c.failWith f).id = c.id := rfl

@[simp] theorem id_finish (c : Cmd) (w : Work) : (c.finish w).id = c.id := by
  unfold Cmd.finish
  repeat' split
  all_goals rfl

/-- A command that a row finishes has the row's result. -/
theorem got_finish (c : Cmd) (w : Work) : c.Got w (c.finish w) := by
  unfold Cmd.Got Cmd.finish
  refine ⟨id_finish c w, ?_⟩
  cases w with
  | error f => exact ⟨rfl, rfl, rfl, rfl, rfl⟩
  | ok r => cases hl : r.late <;> by_cases h : c.tooLong r.out.length <;> simp [h, hl, Cmd.failWith]

/-! ### Rows of one step -/

/-- A row of an operational opcode ends its command. -/
theorem runOp_ends {s : State} {d id code : Nat} {c : Cmd} (f : State → Cmd → Work) (h : s.Started d id code c) (hb : s.blindWaits c = false) :
    ∃ t x, s.runOp code d id f = .next t ∧ t.cmd d id = some x ∧ c.Got (f s c) x := by
  obtain ⟨hc, hp, ho, hr⟩ := h
  have hs : s.before c = s := by simp [State.before, hr]
  refine ⟨(s.worked d c (f s c)).setCmd d id fun x => x.finish (f s c), c.finish (f s c), ?_, cmd_setCmd _ (fun _ => id_finish _ _) ?_, got_finish _ _⟩
  · simp [State.runOp, hc, hp, ho, hb, hs]
  · rw [← hc]
    unfold State.cmd State.dom
    rw [doms_worked]

/-- No other operation computes with a private key. -/
theorem blindWaits_public {s : State} {c : Cmd} {code : Nat} (ho : c.entry.opcode = code) (h : privateOp code = false) : s.blindWaits c = false := by
  simp [State.blindWaits, ho, h]

/-- A journal entry changes the wardens' journal and digests alone. -/
theorem frame_journal (s : State) (k : JournalKind) (d seq : Nat) (data : Bytes) :
    { s.journal k d seq data with guy := s.guy, wardens := s.wardens } = s := by
  unfold State.journal
  split
  · rfl
  · split
    · unfold State.applyJournal State.applyEntry
      split <;> rfl
    · rfl

@[simp] theorem doms_journal (s : State) (k : JournalKind) (d seq : Nat) (data : Bytes) : (s.journal k d seq data).doms = s.doms := by
  have h := congrArg State.doms (frame_journal s k d seq data)
  exact h

/-- The write of an approval floor changes the floor, and the wardens' journal, alone. -/
theorem frame_floored (s : State) (d : Nat) (c : Cmd) (as : List Approval) :
    { s.flooredFor d c as with doms := s.doms, guy := s.guy, wardens := s.wardens } = s ∧
      ∀ e, { (s.flooredFor d c as).dom e with roster := (s.dom e).roster } = s.dom e := by
  unfold State.flooredFor
  split
  · exact ⟨rfl, fun e => rfl⟩
  · refine ⟨?_, fun e => ?_⟩
    · generalize hu : State.setDom s d _ = u
      have h := frame_journal u .floorWrite d c.seq (leBytes 8 (c.seq + 1))
      generalize u.journal .floorWrite d c.seq (leBytes 8 (c.seq + 1)) = v at h ⊢
      have := congrArg (fun w : State => { w with doms := s.doms, guy := s.guy, wardens := s.wardens }) (h.trans hu.symm)
      exact this
    · unfold State.dom
      rw [doms_journal]
      change { (s.setDom d _).dom e with roster := (s.dom e).roster } = s.dom e
      rw [dom_setDom]
      split
      · next h => subst h; rfl
      · rfl

/-- It leaves every command as it is. -/
theorem cmd_floored (s : State) (d : Nat) (c : Cmd) (as : List Approval) (e x : Nat) : (s.flooredFor d c as).cmd e x = s.cmd e x := by
  have h := congrArg Dom.cmds ((frame_floored s d c as).2 e)
  exact congrArg (fun l : List Cmd => l.find? fun y => y.id == x) h

/-- A row of a management opcode whose approvals stand ends its command, behind the checks of its own entry. -/
theorem runMgmt_checked {s : State} {d id code : Nat} {c : Cmd} {as : List Approval} (f : Cmd → List Approval → Work) (h : s.Started d id code c)
    (ht : c.twinDigest = none) (ha : s.checkApprovals d c = .ok as) :
    ∃ t x, s.runMgmt code d id f = .next t ∧ t.cmd d id = some x ∧ c.Got (c.ownChecks (f c as)) x := by
  obtain ⟨hc, hp, ho, _⟩ := h
  have hr : s.runMgmt code d id f = .next ((s.flooredFor d c as).setCmd d id fun y =>
      { y.finish (y.ownChecks (f y as)) with floored := y.floored || as != [] }) := by
    simp [State.runMgmt, hc, hp, ho, ht, ha]
  exact ⟨_, _, hr, cmd_setCmd (fun y => { y.finish (y.ownChecks (f y as)) with floored := y.floored || as != [] }) (fun y => id_finish _ _)
    ((cmd_floored ..).trans hc), got_finish c _⟩

/-- Where its entry names nothing that its form leaves out, its command has the row's result. -/
theorem runMgmt_ends {s : State} {d id code : Nat} {c : Cmd} {as : List Approval} (f : Cmd → List Approval → Work) (h : s.Started d id code c)
    (ha : s.Approved d c as) : ∃ t x, s.runMgmt code d id f = .next t ∧ t.cmd d id = some x ∧ c.Got (f c as) x := by
  have hw : c.ownChecks (f c as) = f c as := by simp [Cmd.ownChecks, ha.2.2]
  have h := runMgmt_checked f h ha.1 ha.2.1
  rwa [hw] at h

/-! ### Rows of several steps -/

/-- The first row of a command whose approvals stand goes on from a state in which the command is marked as floored. -/
theorem runStaged_first {s : State} {d id code : Nat} {c : Cmd} {as : List Approval} (f : State → Cmd → State) (h : s.Started d id code c)
    (ha : s.checkApprovals d c = .ok as) (hz : entryZero c.raw = none) (hs : c.stage = 0) :
    ∃ u, s.runStaged code d id f = .next (f u c) ∧ u.cmd d id = some { c with floored := c.floored || as != [] } ∧
      { u with doms := s.doms, guy := s.guy, wardens := s.wardens } = s ∧
      ∀ e, { u.dom e with cmds := (s.dom e).cmds, roster := (s.dom e).roster } = s.dom e := by
  obtain ⟨hc, hp, ho, _⟩ := h
  have hr : s.runStaged code d id f = .next (f ((s.flooredFor d c as).setCmd d id fun c => { c with floored := c.floored || as != [] }) c) := by
    unfold State.runStaged
    rw [hc]
    simp [hp, ho, ha, hs, hz]
  have hf := frame_floored s d c as
  have hk := cmd_floored s d c as d id
  generalize s.flooredFor d c as = u at *
  refine ⟨_, hr, cmd_setCmd (fun y => { y with floored := y.floored || as != [] }) (fun _ => rfl) (hk.trans hc), hf.1, fun e => ?_⟩
  unfold State.setCmd
  rw [dom_setDom]
  have := hf.2 e
  split
  · next h => subst h; rw [← this]; rfl
  · rw [← this]

/-- A later row of a command goes on from the state. -/
theorem runStaged_later {s : State} {d id code : Nat} {c : Cmd} (f : State → Cmd → State) (h : s.Started d id code c) (hs : 0 < c.stage) :
    s.runStaged code d id f = .next (f s c) := by
  obtain ⟨hc, hp, ho, _⟩ := h
  simp [State.runStaged, hc, hp, ho, hs]

end Sys2Proof.Machine
end

