-- ==== Sys2Proof/WellFormed.lean ====
section
/-!
DEFINITION. Sys2Proof/WellFormed.lean: which operands name a unit, a queue, a size or an entry the module has.
-/

namespace Sys2Proof

/-- Whether the operands of a command lie in the ranges of R14, R30 and R43. -/
def WellFormed (i : Instr) : Bool :=
  match i with
  | .sqTail dom queue offset size _ => decide (dom ≤ 256) && decide (queue < 16) && decide (offset < 8) && decide (size = 4 ∨ size = 8)
  | .bootWord dom _ => decide (dom ≤ 256)
  | .cqHead dom queue offset size _ => decide (dom ≤ 256) && decide (queue < 16) && decide (offset < 8) && decide (size = 4 ∨ size = 8)
  | .seqNext dom offset size _ => decide (dom ≤ 256) && decide (offset < 8) && decide (size = 4 ∨ size = 8)
  | .eventAck dom offset size _ => decide (dom < 256) && decide (offset < 8) && decide (size = 4 ∨ size = 8)
  | .trailCursor offset size _ => decide (offset < 8) && decide (size = 4 ∨ size = 8)
  | .perfSelect offset size _ => decide (offset < 8) && decide (size = 4 ∨ size = 8)
  | .perfValueRead offset size => decide (offset < 8) && decide (size = 4 ∨ size = 8)
  | .perfValueWrite offset size _ => decide (offset < 8) && decide (size = 4 ∨ size = 8)
  | .perfConfigSelect offset size _ => decide (offset < 8) && decide (size = 4 ∨ size = 8)
  | .perfConfig offset size _ => decide (offset < 8) && decide (size = 4 ∨ size = 8)
  | .perfConfigRead offset size => decide (offset < 8) && decide (size = 4 ∨ size = 8)
  | .registerWrite _ _ _ _ => true
  | .entryFetched dom queue bytes => decide (dom ≤ 256) && decide (queue < 16) && decide (bytes.length = 64)
  | .dmaReadFail _ _ _ => true
  | .commandStart dom _ region block => decide (dom ≤ 256) && decide (region < 8) && decide (block < 12)
  | .commitPoint dom _ => decide (dom ≤ 256)
  | .chainLink dom _ => decide (dom ≤ 256)
  | .seqGapExpiry dom => decide (dom ≤ 256)
  | .aggTimeExpiry dom queue => decide (dom ≤ 256) && decide (queue < 16)
  | .completionTimeout _ => true
  | .unexpectedCompletion _ => true
  | .queueCreate dom _ => decide (dom ≤ 256)
  | .queueDelete dom _ => decide (dom ≤ 256)
  | .queueStatus dom _ => decide (dom ≤ 256)
  | .queueRoute dom _ => decide (dom ≤ 256)
  | .queueRecover dom _ => decide (dom ≤ 256)
  | .seqGapSet dom _ => decide (dom ≤ 256)
  | .pitchCreate dom _ => decide (dom ≤ 256)
  | .pitchDestroy dom _ => decide (dom ≤ 256)
  | .pitchReset dom _ => decide (dom ≤ 256)
  | .pitchLock dom _ => decide (dom ≤ 256)
  | .pitchUnlock dom _ => decide (dom ≤ 256)
  | .pitchInfo dom _ => decide (dom ≤ 256)
  | .dirtyLogStart dom _ => decide (dom ≤ 256)
  | .dirtyLogFlush dom _ => decide (dom ≤ 256)
  | .dirtyLogStop dom _ => decide (dom ≤ 256)
  | .stageWrite dom _ => decide (dom ≤ 256)
  | .stageCheck dom _ => decide (dom ≤ 256)
  | .stageCommit dom _ => decide (dom ≤ 256)
  | .stageDiscard dom _ => decide (dom ≤ 256)
  | .stageStatus dom _ => decide (dom ≤ 256)
  | .stagedInstant _ => true
  | .keyGenerate dom _ => decide (dom ≤ 256)
  | .keyLoad dom _ => decide (dom ≤ 256)
  | .keyPublicLoad dom _ => decide (dom ≤ 256)
  | .keyReplace dom _ => decide (dom ≤ 256)
  | .keyDestroy dom _ => decide (dom ≤ 256)
  | .keyAttrRestrict dom _ => decide (dom ≤ 256)
  | .keyInfo dom _ => decide (dom ≤ 256)
  | .keyPublicRead dom _ => decide (dom ≤ 256)
  | .keyTransportInfo dom _ => decide (dom ≤ 256)
  | .keyGrant dom _ => decide (dom ≤ 256)
  | .keyList dom _ => decide (dom ≤ 256)
  | .officerAdd dom _ => decide (dom ≤ 256)
  | .officerRemove dom _ => decide (dom ≤ 256)
  | .quorumSet dom _ => decide (dom ≤ 256)
  | .rosterSeal dom _ => decide (dom ≤ 256)
  | .rosterRead dom _ => decide (dom ≤ 256)
  | .timeSet dom _ => decide (dom ≤ 256)
  | .timeRead dom _ => decide (dom ≤ 256)
  | .logRotate dom _ _ _ => decide (dom ≤ 256)
  | .logExport dom _ => decide (dom ≤ 256)
  | .logCheckpointRead dom _ => decide (dom ≤ 256)
  | .logRateSet dom _ => decide (dom ≤ 256)
  | .logStatus dom _ => decide (dom ≤ 256)
  | .eventRoute dom _ => decide (dom ≤ 256)
  | .eventStatus dom _ => decide (dom ≤ 256)
  | .eventClear dom _ => decide (dom ≤ 256)
  | .perfGrant dom _ => decide (dom ≤ 256)
  | .perfSamples dom _ => decide (dom ≤ 256)
  | .lcStatus dom _ => decide (dom ≤ 256)
  | .lcTransition dom _ _ => decide (dom ≤ 256)
  | .lcDigestBurn dom _ => decide (dom ≤ 256)
  | .lcModeSet dom _ => decide (dom ≤ 256)
  | .debugUnlock dom _ => decide (dom ≤ 256)
  | .debugLock dom _ => decide (dom ≤ 256)
  | .fwInstall dom _ => decide (dom ≤ 256)
  | .tamperStatus dom _ => decide (dom ≤ 256)
  | .tamperClear dom _ => decide (dom ≤ 256)
  | .twinJoin dom _ => decide (dom ≤ 256)
  | .twinEstablish dom _ => decide (dom ≤ 256)
  | .twinDetach dom _ => decide (dom ≤ 256)
  | .twinResume dom _ => decide (dom ≤ 256)
  | .twinPromote dom _ => decide (dom ≤ 256)
  | .twinDemote dom _ => decide (dom ≤ 256)
  | .twinStatus dom _ => decide (dom ≤ 256)
  | .digestRead dom _ => decide (dom ≤ 256)
  | .twinDissolve dom _ => decide (dom ≤ 256)
  | .cfLoad dom _ => decide (dom ≤ 256)
  | .cfAccept dom _ => decide (dom ≤ 256)
  | .cfBind dom _ => decide (dom ≤ 256)
  | .cfUnbind dom _ => decide (dom ≤ 256)
  | .cfDelete dom _ => decide (dom ≤ 256)
  | .cfInfo dom _ => decide (dom ≤ 256)
  | .cfInvoke dom _ _ _ => decide (dom ≤ 256)
  | .symEcbEncrypt dom _ => decide (dom ≤ 256)
  | .symEcbDecrypt dom _ => decide (dom ≤ 256)
  | .symCtrEncrypt dom _ => decide (dom ≤ 256)
  | .symCtrDecrypt dom _ => decide (dom ≤ 256)
  | .xtsEncrypt dom _ => decide (dom ≤ 256)
  | .xtsDecrypt dom _ => decide (dom ≤ 256)
  | .symCbcEncrypt dom _ => decide (dom ≤ 256)
  | .symCbcDecrypt dom _ => decide (dom ≤ 256)
  | .gcmEncrypt dom _ => decide (dom ≤ 256)
  | .gcmDecrypt dom _ => decide (dom ≤ 256)
  | .macCompute dom _ => decide (dom ≤ 256)
  | .macCheck dom _ => decide (dom ≤ 256)
  | .pinBlockTranslate dom _ => decide (dom ≤ 256)
  | .pinCheck dom _ => decide (dom ≤ 256)
  | .dukptPinTranslate dom _ => decide (dom ≤ 256)
  | .dukptMacCheck dom _ => decide (dom ≤ 256)
  | .dukptDecrypt dom _ => decide (dom ≤ 256)
  | .dukptIkWrap dom _ => decide (dom ≤ 256)
  | .cardArqcCheck dom _ => decide (dom ≤ 256)
  | .cardArpcCompute dom _ => decide (dom ≤ 256)
  | .hashCompute dom _ => decide (dom ≤ 256)
  | .pkSign dom _ => decide (dom ≤ 256)
  | .pkVerify dom _ => decide (dom ≤ 256)
  | .kemEncapsulate dom _ => decide (dom ≤ 256)
  | .kemDecapsulate dom _ => decide (dom ≤ 256)
  | .agreeStatic dom _ => decide (dom ≤ 256)
  | .agreeEphemeral dom _ => decide (dom ≤ 256)
  | .hybridEncapsulate dom _ => decide (dom ≤ 256)
  | .hybridDecapsulate dom _ => decide (dom ≤ 256)
  | .rsaOaepEncrypt dom _ => decide (dom ≤ 256)
  | .rsaOaepDecrypt dom _ => decide (dom ≤ 256)
  | .randomGenerate dom _ => decide (dom ≤ 256)
  | .rawEntropy dom _ => decide (dom ≤ 256)
  | .rawCaptureEnd region source _ => decide (region < 8) && decide (source < 3)
  | .entropyStatus dom _ => decide (dom ≤ 256)
  | .selfTest dom _ _ => decide (dom ≤ 256)
  | .keyWrap dom _ => decide (dom ≤ 256)
  | .keyUnwrap dom _ => decide (dom ≤ 256)
  | .liModExp dom _ => decide (dom ≤ 256)
  | .liModMul dom _ => decide (dom ≤ 256)
  | .liModAdd dom _ => decide (dom ≤ 256)
  | .liModSub dom _ => decide (dom ≤ 256)
  | .liModInv dom _ => decide (dom ≤ 256)
  | .add core _ _ _ => decide (core < 96)
  | .sub core _ _ _ => decide (core < 96)
  | .mul core _ _ _ => decide (core < 96)
  | .mulhu core _ _ _ => decide (core < 96)
  | .div core _ _ _ => decide (core < 96)
  | .rem core _ _ _ => decide (core < 96)
  | .neg core _ _ => decide (core < 96)
  | .and core _ _ _ => decide (core < 96)
  | .or core _ _ _ => decide (core < 96)
  | .xor core _ _ _ => decide (core < 96)
  | .not core _ _ => decide (core < 96)
  | .shl core _ _ _ => decide (core < 96)
  | .shr core _ _ _ => decide (core < 96)
  | .sar core _ _ _ => decide (core < 96)
  | .addi core _ _ _ => decide (core < 96)
  | .andi core _ _ _ => decide (core < 96)
  | .ori core _ _ _ => decide (core < 96)
  | .xori core _ _ _ => decide (core < 96)
  | .shli core _ _ _ => decide (core < 96)
  | .shri core _ _ _ => decide (core < 96)
  | .sari core _ _ _ => decide (core < 96)
  | .li core _ _ => decide (core < 96)
  | .lib core _ _ => decide (core < 96)
  | .lih core _ _ _ => decide (core < 96)
  | .mkerr core _ _ => decide (core < 96)
  | .adda core _ _ _ => decide (core < 96)
  | .addai core _ _ _ => decide (core < 96)
  | .suba core _ _ _ => decide (core < 96)
  | .tadd core _ _ _ => decide (core < 96)
  | .tsub core _ _ _ => decide (core < 96)
  | .ceq core _ _ _ => decide (core < 96)
  | .cne core _ _ _ => decide (core < 96)
  | .clt core _ _ _ => decide (core < 96)
  | .cle core _ _ _ => decide (core < 96)
  | .cltu core _ _ _ => decide (core < 96)
  | .cleu core _ _ _ => decide (core < 96)
  | .sel core _ _ _ _ => decide (core < 96)
  | .mov core _ _ => decide (core < 96)
  | .retag core _ _ _ => decide (core < 96)
  | .tagof core _ _ => decide (core < 96)
  | .errcode core _ _ => decide (core < 96)
  | .clmul core _ _ _ => decide (core < 96)
  | .clmulh core _ _ _ => decide (core < 96)
  | .ldw core _ _ _ => decide (core < 96)
  | .stw core _ _ _ => decide (core < 96)
  | .ldb core _ _ _ => decide (core < 96)
  | .stb core _ _ _ => decide (core < 96)
  | .bt core _ _ => decide (core < 96)
  | .bf core _ _ => decide (core < 96)
  | .j core _ => decide (core < 96)
  | .jal core _ => decide (core < 96)
  | .jr core _ => decide (core < 96)
  | .jalr core _ => decide (core < 96)
  | .leac core _ _ => decide (core < 96)
  | .scopy core _ _ _ _ => decide (core < 96)
  | .sfill core _ _ _ _ => decide (core < 96)
  | .scmp core _ _ _ _ => decide (core < 96)
  | .sfind core _ _ _ _ => decide (core < 96)
  | .sxor core _ _ _ _ => decide (core < 96)
  | .sexch core _ _ _ _ => decide (core < 96)
  | .span core _ => decide (core < 96)
  | .enqc core _ _ => decide (core < 96)
  | .enql core _ _ => decide (core < 96)
  | .enqh core _ _ => decide (core < 96)
  | .ewait core _ _ => decide (core < 96)
  | .ewaita core _ => decide (core < 96)
  | .csrr core _ _ => decide (core < 96)
  | .csrw core _ _ => decide (core < 96)
  | .rswap core => decide (core < 96)
  | .eret core => decide (core < 96)
  | .cancel core => decide (core < 96)
  | .watchdog r => decide (r.core < 96) && (match r.event with | .overrun => true | .memoryError a _ => decide (a < 2 ^ 64))
  | .perfInterrupt core => decide (core < 96)
  | .timer core => decide (core < 96)
  | .cellRunEnd cell => decide (cell < 2304)
  | .cellJobEnd core _ => decide (core < 96)
  | .cellMismatch cell _ => decide (cell < 2304)
  | .cellAgeOut cell _ => decide (cell < 2304)
  | .cellSelfTest cell _ => decide (cell < 2304)
  | .liuSegmentEnd liu => decide (liu < 32)
  | .liuJobEnd liu context => decide (liu < 32 ∧ context < 4)
  | .liuCheckFail liu _ => decide (liu < 32)
  | .liuScrubEnd liu _ _ => decide (liu < 32)
  | .liuSelfTest liu _ => decide (liu < 32)
  | .hashJobEnd hash => decide (hash < 32)
  | .hashLaneMismatch hash => decide (hash < 32)
  | .blockSelfTest block _ => decide (block < 96)
  | .regionIsolate region => decide (region < 8)
  | .regionSelfTest region _ => decide (region < 8)
  | .repetitionCountFail region source _ => decide (region < 8) && decide (source < 3)
  | .adaptiveWindowEnd region source _ => decide (region < 8) && decide (source < 3)
  | .sourceStartupTest region source _ => decide (region < 8) && decide (source < 3)
  | .sourceRetest region source _ => decide (region < 8) && decide (source < 3)
  | .seedConditioned region => decide (region < 8)
  | .seedBorrow region => decide (region < 8)
  | .entropyWaitExpiry dom _ => decide (dom ≤ 256)
  | .randomReady => true
  | .tickInPulse _ _ => true
  | .tickTimeout => true
  | .holdoverLimit => true
  | .secondBoundary => true
  | .keyValidityEdge _ => true
  | .governorDecision region => decide (region < 8)
  | .regionExitStart region => decide (region < 8)
  | .bivvyEnter => true
  | .wake region => decide (region ≤ 8)
  | .thermalHold _ _ => true
  | .thermalRelease _ _ => true
  | .wardenHeartbeat warden _ _ _ => decide (warden < 2)
  | .heartbeatMiss warden _ _ => decide (warden < 2)
  | .lockstepFault warden => decide (warden < 2)
  | .wardenPeriodicSelfTest warden _ => decide (warden < 2)
  | .switchOver _ => true
  | .journalEntry _ => true
  | .journalCheckpoint => true
  | .wardenSelfTestEnd warden _ => decide (warden < 2)
  | .wardenSynced warden => decide (warden < 2)
  | .takebackHoldoff => true
  | .takeback _ => true
  | .takebackAbandon => true
  | .tamperAlarm source _ => decide (source < 10)
  | .strikeReset _ _ _ t => t.kats.length ≤ 8 && t.kats.all (· < 8) && t.cells.all (· < 2304) && t.lius.all (· < 32) && t.hashes.all (· < 32)
  | .shedEnd => true
  | .emberMaskRefresh => true
  | .emberSourceChange _ => true
  | .cellCutoff => true
  | .trailFlush => true
  | .checkpointSign _ => true
  | .logMemoryFail _ _ => true
  | .coldReset _ _ _ t => t.kats.length ≤ 8 && t.kats.all (· < 8) && t.cells.all (· < 2304) && t.lius.all (· < 32) && t.hashes.all (· < 32)
  | .bootEnd _ _ => true
  | .warmReset _ => true
  | .perstNRelease => true
  | .deviceReset => true
  | .lifeCycleReset _ _ _ t => t.kats.length ≤ 8 && t.kats.all (· < 8) && t.cells.all (· < 2304) && t.lius.all (· < 32) && t.hashes.all (· < 32)
  | .p12vExcursion _ _ => true
  | .p3v3AuxLoss _ => true
  | .pcieConfigRequest _ _ => true
  | .msixUnmask vector => decide (vector < 2048)
  | .dirtyBitmapCas dom _ _ => decide (dom < 256)
  | .getVersion _ => true
  | .getCapabilities _ => true
  | .negotiateAlgorithms _ => true
  | .getDigests _ => true
  | .getCertificate _ => true
  | .challenge _ => true
  | .getMeasurements _ => true
  | .keyExchange _ => true
  | .finish _ => true
  | .spdmHeartbeat _ => true
  | .keyUpdate _ => true
  | .endSession _ => true
  | .doeAbort => true
  | .ideKm _ => true
  | .ideIntegrityFail _ => true
  | .linkTrained _ => true
  | .laneFail => true
  | .frameTimeout _ => true
  | .hello _ => true
  | .keySetup _ => true
  | .keyConfirm _ => true
  | .record _ => true
  | .ack _ => true
  | .heartbeat _ => true
  | .heartbeatSend => true
  | .rekey _ => true
  | .close _ => true
  | .twinResend => true
  | .twinTimeout dom => decide (dom < 256)
  | .twinLagTime dom => decide (dom < 256)
  | .setEndpointId _ => true
  | .getEndpointId _ => true
  | .getEndpointUuid _ => true
  | .getMctpVersionSupport _ => true
  | .getMessageTypeSupport _ => true
  | .getTid _ => true
  | .getPldmVersion _ => true
  | .getPldmTypes _ => true
  | .getPldmCommands _ => true
  | .getSensorReading _ _ => true
  | .getStateSensorReadings _ => true
  | .getPdrRepositoryInfo _ => true
  | .getPdr _ => true
  | .smbusArp _ => true
  | .smbClkTimeout => true
  | .tapInstruction _ _ _ => true
  | .debugAccess _ _ => true
  | .dmaReadDone dom _ _ _ => decide (dom ≤ 256)
  | .powerStateExit region _ => decide (region ≤ 8)
  | .tamperAlarmEnd source _ => decide (source < 10)
  | .emberCollapse => true
  | .hashSelfTest hash _ => decide (hash < 32)
  | .portWindowEnd _ _ _ => true
  | .refclkRestored => true
  | .illegalInsn core _ => decide (core < 96)
  | .alertResponseAddress => true
  | .smbDatTimeout => true
  | .trstNAssert => true
  | .wardenRebuild => true

end Sys2Proof
end

