-- ==== Sys2Proof/Tests/Slice0.lean ====
section
/-!
SUPPORT. Sys2Proof/Tests/Slice0.lean: well-formedness, small runs of one command, and states and operands that meet the hypotheses of the statements.
-/

namespace Sys2Proof.Tests

open Sys2Proof Sys2Proof.Machine

-- Each `decide +kernel` waits for the kernel's checks before it: elaborated side by side, the tests would hold one thread each while they wait.
set_option Elab.async false

/-! ### Small states -/

/-- A module that runs, with its host link up. -/
def up : State :=
  { boot := { state := .ready, step := 12, randomReady := true }, host := { linkUp := true, memSpace := true, busMaster := true, pasidEnable := true } }

/-- A command that runs. -/
def cmd (code : Nat) (param : Bytes := []) (input : Bytes := []) : Cmd :=
  { id := 1, phase := .running, entry := { opcode := code, outLen := 8192 }, param := param, input := input }

/-- A state whose domain holds one command. -/
def holding (s : State) (d : Nat) (c : Cmd) : State := s.setDom d fun D => { D with cmds := [c] }

/-- The state an answer goes on with. -/
def after (a : Host.Outcome State Fault Refusal) : State :=
  match a with
  | .next t => t
  | _ => State.reset

/-- Whether an answer is a next state. -/
def goesOn (a : Host.Outcome State Fault Refusal) : Bool :=
  match a with
  | .next _ => true
  | _ => false

theorem goesOn_after {a : Host.Outcome State Fault Refusal} (h : goesOn a = true) : a = .next (after a) := by
  cases a <;> first | rfl | cases h

theorem cmd_holding (s : State) (d : Nat) (c : Cmd) : (holding s d c).cmd d c.id = some c := by
  simp only [holding, State.cmd, Dom.cmd, State.dom, State.setDom, Tab.get_put_same]
  simp

theorem started_holding (s : State) (d : Nat) (c : Cmd) (h : c.phase = .running) (r : c.redo = false := by rfl) :
    (holding s d c).Started d c.id c.entry.opcode c := ⟨cmd_holding s d c, h, rfl, r⟩

/-! ### Invariants -/

theorem witness_StepsKeepInvariant : State.reset.Inv ∧ step State.reset = .next (after (step State.reset)) :=
  ⟨by unfold State.Inv; decide +kernel, goesOn_after rfl⟩

/-- A module whose fuses are blown takes a step. -/
theorem witness_FusesStayBlown :
    let s : State := { life := ({} : LifeCycleReg).burnCopies 3 3, pending := [.coldReset true true (true, true) {}] }
    step s = .next (after (step s)) ∧ s.life ≠ ({} : LifeCycleReg) :=
  ⟨goesOn_after (by decide +kernel), by decide +kernel⟩

/-- A command that changes the state while others wait. -/
theorem witness_CommandsKeepQueue :
    let s : State := { up with pending := [.laneFail] }
    exec (.linkTrained true) s = .next (after (exec (.linkTrained true) s)) :=
  goesOn_after (by decide +kernel)

/-- A module without power whose fuses have moved on. -/
def movedOn : State :=
  { boot := { powered := false }, life := ({} : LifeCycleReg).burnCopies 3 3 }

theorem witness_LifeCycleMovesAtBoots :
    exec (.coldReset true true (true, true) {}) movedOn = .next (after (exec (.coldReset true true (true, true) {}) movedOn)) ∧
      (after (exec (.coldReset true true (true, true) {}) movedOn)).life.state ≠ movedOn.life.state :=
  ⟨goesOn_after (by decide +kernel), by decide +kernel⟩

/-- A command of the operator runs, and no approval is needed. -/
def Runs (s : State) (c : Cmd) : Prop := s.Started 256 1 c.entry.opcode c ∧ s.Approved 256 c []

theorem runs_holding (s : State) (c : Cmd) (h : c.id = 1 ∧ c.phase = .running ∧ c.redo = false ∧ c.twinDigest = none ∧ c.cond.lifeCycle = 0 ∧ c.entry.len5 = 0 ∧
    entryZero c.raw = none) : Runs (holding s 256 c) c := by
  obtain ⟨h1, h2, r, h3, h4, h5, h6⟩ := h
  refine ⟨?_, h3, ?_, h6⟩
  · have := started_holding s 256 c h2 r
    rw [h1] at this
    exact this
  · unfold State.checkApprovals State.rolesNeeded
    simp [h4, h5, noRoster, operator]

/-! ### Operands of the operational rows -/

theorem witness_OperationalRowsFrame :
    (Instr.entropyStatus 256 1).operational = some (256, 1) ∧
      exec (.entropyStatus 256 1) (holding up 256 (cmd 0x1803)) = .next (after (exec (.entropyStatus 256 1) (holding up 256 (cmd 0x1803)))) :=
  ⟨rfl, goesOn_after (by decide +kernel)⟩

theorem witness_ManagementRowsFrame :
    (Instr.eventClear 256 1).management = some (256, 1) ∧
      exec (.eventClear 256 1) (holding up 256 (cmd 0x0708)) = .next (after (exec (.eventClear 256 1) (holding up 256 (cmd 0x0708)))) :=
  ⟨rfl, goesOn_after (by decide +kernel)⟩

/-- Every opcode whose row only asks for a command that runs, as the operator's command and as a pitch's. -/
theorem witness_Started : ∀ code ∈ [0x1001, 0x1002, 0x1003, 0x1004, 0x1005, 0x1006, 0x1007, 0x1008, 0x1009, 0x100A, 0x1101, 0x1102, 0x1201, 0x1202, 0x1301,
      0x1302, 0x1303, 0x1304, 0x1401, 0x1402, 0x1601, 0x1602, 0x1701, 0x1702, 0x1703, 0x1704, 0x1705, 0x1706, 0x1707, 0x1708, 0x1901, 0x1902],
    ∀ d, (holding up d (cmd code)).Started d 1 code (cmd code) := fun code _ d => started_holding up d (cmd code) rfl

theorem witness_CipherRowsEnd :
    (holding up 0 (cmd 0x1001)).Started 0 1 0x1001 (cmd 0x1001) ∧ symTagsAgree (holding up 0 (cmd 0x1009)) 0 (cmd 0x1009) 0x1009 = true ∧
      symTagsAgree (holding up 255 (cmd 0x100A)) 255 (cmd 0x100A) 0x100A = true := ⟨started_holding up 0 (cmd 0x1001) rfl, by decide +kernel⟩

theorem witness_PaymentRowsEnd : (holding up 255 (cmd 0x1401)).Started 255 1 0x1401 (cmd 0x1401) := started_holding up 255 (cmd 0x1401) rfl

/-- A module whose region 0 has its blinding DRBG, after some calls since its reseed. -/
def blinding (calls : Nat) : State := up.setEntropy 0 fun e => { e with blinding := { inst := true, sinceReseed := calls } }

theorem witness_PublicKeyRowsEnd :
    (holding up 0 (cmd 0x1902)).Started 0 1 0x1902 (cmd 0x1902) ∧ (holding up 0 (cmd 0x1601)).blindWaits (cmd 0x1601) = true ∧
      (∀ calls ∈ [0, 2 ^ 48 - 8], (holding (blinding calls) 0 (cmd 0x1601)).blindWaits (cmd 0x1601) = false) ∧ (holding up 0 (cmd 0x1703)).blindWaits (cmd 0x1902) = false :=
  ⟨started_holding up 0 (cmd 0x1902) rfl, by decide +kernel⟩

/-- A block for OPERAND_LEN 1, with the exponent's length. -/
def liBlock (e : Byte) : Bytes := [1, 0, e, 0]

theorem witness_ModularRowsCompute :
    (cmd 0x1A01 (liBlock 1) [3, 2, 0]).LiInput 3 [2] (some 0) ∧ (cmd 0x1A02 (liBlock 0) [255, 254, 0]).LiInput 255 [254, 0] none ∧
      (cmd 0x1A05 (liBlock 0) [9, 2]).LiInput 9 [2] none ∧ Nat.gcd 2 9 = 1 ∧ (cmd 0x1A05 (liBlock 0) [9, 3]).LiInput 9 [3] none ∧ Nat.gcd 3 9 ≠ 1 ∧
      (∀ code ∈ [0x1A01, 0x1A02, 0x1A03, 0x1A04, 0x1A05], (holding up 0 (cmd code (liBlock 0) [9, 2, 1])).Started 0 1 code (cmd code (liBlock 0) [9, 2, 1])) ∧
      (cmd 0x1A01 (liBlock 1)).tooLong (field (liBlock 1) 0 2) = false ∧ (cmd 0x1A05 (liBlock 0)).tooLong (field (liBlock 0) 0 2) = false := by
  refine ⟨?_, ?_, ?_, by decide, ?_, by decide, fun code _ => started_holding up 0 (cmd code (liBlock 0) [9, 2, 1]) rfl,
    by decide, by decide⟩
  · refine ⟨?_, ?_, ?_, ?_, ?_, ?_, ?_, ?_, ?_, ?_, ?_⟩ <;> decide +kernel
  · refine ⟨?_, ?_, ?_, ?_, ?_, ?_, ?_, ?_, ?_, ?_, ?_⟩ <;> decide +kernel
  · refine ⟨?_, ?_, ?_, ?_, ?_, ?_, ?_, ?_, ?_, ?_, ?_⟩ <;> decide +kernel
  · refine ⟨?_, ?_, ?_, ?_, ?_, ?_, ?_, ?_, ?_, ?_, ?_⟩ <;> decide +kernel

theorem witness_HashAndRandomRowsEnd :
    (holding up 0 (cmd 0x1501 [1])).Started 0 1 0x1501 (cmd 0x1501 [1]) ∧ noCount (cmd 0x1501 [1]) eHashParam = none ∧ byteAt [1] 0 = 1 ∧ field [1] 4 4 = 0 ∧
      byteAt [8, 0, 0, 0, 1] 0 = 8 ∧ field [8, 0, 0, 0, 1] 4 4 = 1 ∧
      (holding up 0 (cmd 0x1801 [1])).Started 0 1 0x1801 (cmd 0x1801 [1]) ∧ field [1] 0 4 = 1 ∧ field [1] 8 2 = (cmd 0x1801 [1]).input.length ∧
      (holding up 0 (cmd 0x1803)).Started 0 1 0x1803 (cmd 0x1803) ∧ (cmd 0x1803).tooLong 96 = false :=
  ⟨started_holding _ _ _ rfl, by decide, by decide, by decide, by decide, by decide, started_holding _ _ _ rfl, by decide, by decide,
    started_holding _ _ _ rfl, by decide⟩

/-- RAW_ENTROPY of 128 bytes from a source. -/
def rawCmd (stage : Nat) : Cmd := { cmd 0x1802 [7, 2, 0, 0, 128] with cond := { started := true }, stage := stage }

/-- The source under capture. -/
def capturing : State := (holding up 256 (rawCmd 1)).setEntropy 7 fun e => e.setSource 2 fun x => { x with state := .standby, capture := some (256, 1), startState := some 2 }

theorem witness_CapturesAndSelfTestsEnd :
    (holding up 256 (rawCmd 0)).Started 256 1 0x1802 (rawCmd 0) ∧ rawFail (holding up 256 (rawCmd 0)) 256 (rawCmd 0) = none ∧
      ((holding up 256 (rawCmd 0)).source 7 2).capture = none ∧
      capturing.Started 256 1 0x1802 (rawCmd 1) ∧ (capturing.source 7 2).capture = some (256, 1) ∧ (capturing.source 7 2).startState = some 2 ∧
      (List.replicate 1024 true).length = 8 * field (rawCmd 1).param 4 4 ∧
      (holding up 0 (cmd 0x1F01 [3])).Started 0 1 0x1F01 (cmd 0x1F01 [3]) ∧ byteAt [3] 0 % 4 ≠ 0 ∧
      (∀ r, bit (selfTestByte (byteAt [3] 0 % 4) (([] : List Nat).getD r 0)) 1 = false) :=
  ⟨started_holding _ _ _ rfl, by decide +kernel, by decide +kernel, started_holding up 256 (rawCmd 1) rfl, by decide +kernel, by decide +kernel,
    by decide +kernel, started_holding _ _ _ rfl, by decide, fun r => by simp; decide⟩

/-! ### Operands of the management rows -/

/-- The operator holds a command, in a state. -/
def op (s : State) (c : Cmd) : State := holding s 256 c

/-- A module with a queue of the operator in ERROR and one that is active. -/
def queues : State := up.setDom 256 fun D =>
  (D.setQueue 15 fun Q => { Q with state := .error }).setQueue 1 fun Q => { Q with state := .active }

theorem witness_QueueRowsEnd :
    (∀ c ∈ [cmd 0x0101 [1], cmd 0x0102 [1], cmd 0x0102 [15], cmd 0x0103 [0], cmd 0x0104 [15, 0, 0, 0, 0xFF, 0xFF, 0, 0, 0xE8, 3], cmd 0x0105 [15],
      cmd 0x0106 (leBytes 8 1000), cmd 0x0106 (leBytes 8 1000000000)], Runs (op queues c) c) ∧
      ((op queues (cmd 0x0102 [1])).dom 256).queue 1 ≠ {} ∧ (((op queues (cmd 0x0102 [15])).dom 256).queue 15).state ≠ .absent ∧
      (op queues (cmd 0x0104 [15])).vectorOk 256 0xFFFF = true ∧ (((op queues (cmd 0x0105 [15])).dom 256).queue 15).state = .error ∧
      field [15, 0, 0, 0, 0xFF, 0xFF, 0, 0, 0xE8, 3] 4 2 = 0xFFFF ∧ field [15, 0, 0, 0, 0xFF, 0xFF, 0, 0, 0xE8, 3] 8 2 = 1000 ∧
      field (leBytes 8 1000) 0 8 = 1000 ∧ field (leBytes 8 1000000000) 0 8 = 1000000000 ∧
      (let c := { cmd 0x0103 with entry := { opcode := 0x0103, len5 := 16 } }
       (op queues c).Started 256 1 0x0103 c ∧ c.twinDigest = none ∧
         (match (op queues c).checkApprovals 256 c with | .error f => f | .ok _ => (0, 0)) = (eApprovalForm, 0x00FF)) ∧
      (let c := { cmd 0x0103 with raw := [3, 1] ++ zeros 14 ++ [1] ++ zeros 47 }
       (op queues c).Started 256 1 0x0103 c ∧ ((op queues c).checkApprovals 256 c).toOption = some [] ∧ entryZero c.raw = some (eQueueParam, 16)) := by
  refine ⟨fun c h => runs_holding _ _ ?_, by decide +kernel, by decide +kernel, by decide +kernel, by decide +kernel, by decide +kernel, by decide +kernel,
    by decide +kernel, by decide +kernel, ⟨started_holding _ _ _ rfl, rfl, by decide +kernel⟩, started_holding _ _ _ rfl, by decide +kernel, by decide +kernel⟩
  revert c; decide +kernel

/-- A configuration at the ends of its ranges. -/
def smallConf : PitchConf :=
  { pasid := 1, vectorBase := 32, vectorCount := 1, regionMask := 1, queueQuota := 1, admitDepth := 16, weights := List.replicate 8 1
    capBlocks := 1, capLius := 1, capHash := 1, cacheQuota := 16, mramQuota := 64, entropyWait := 1, windows := List.replicate 8 (1, 0) }

/-- A module with a pitch in a mode, with a dirty log in a mode. -/
def pitched (m : PitchMode) (y : DirtyMode) : State := up.setDom 3 fun D => { D with mode := m, conf := smallConf, dirty := { mode := y } }

/-- A block that names pitch 3. -/
def three : Bytes := [3]

/-- The block of DIRTY_LOG_START for one page. -/
def dirtyBlock : Bytes := [3] ++ zeros 23 ++ leBytes 4 1

/-- DIRTY_LOG_START, placed while the operator could reach the first megabyte. -/
def dirtyCmd : Cmd := { cmd 0x0208 dirtyBlock with cond := { windows := [(0, 0xFFFFF)] } }

/-- A module whose operator may reach the first megabyte. -/
def windowed : State := { pitched .active .off with chip := { windows := [(0, 0xFFFFF)] } }

theorem witness_PitchRowsEnd :
    (∀ c ∈ [cmd 0x0201 (three ++ zeros 15 ++ smallConf.bytes), cmd 0x0204 three, cmd 0x0205 three, cmd 0x0206 three, dirtyCmd, cmd 0x0202 three,
      { cmd 0x0202 three with stage := 1 }, cmd 0x0203 three, { cmd 0x0203 three with stage := 1 }, cmd 0x0209 three, { cmd 0x0209 three with stage := 1 }, { cmd 0x0209 three with stage := 2 },
      cmd 0x020A three, { cmd 0x020A three with stage := 1 }, { cmd 0x020A three with stage := 2 }],
      ∀ s ∈ [up, windowed, pitched .active .off, pitched .locked .running, pitched .resetting .failed], Runs (op s c) c) ∧
      byteAt (three ++ zeros 15 ++ smallConf.bytes) 0 = 3 ∧ ((op up (cmd 0x0201)).dom 3).mode = .absent ∧
      (op up (cmd 0x0201)).createFail 3 (pitchConfAt (three ++ zeros 15 ++ smallConf.bytes) 16) = none ∧
      ((op (pitched .active .off) (cmd 0x0204)).dom 3).mode = .active ∧ ((op (pitched .locked .running) (cmd 0x0205)).dom 3).mode = .locked ∧
      ((op windowed (cmd 0x0208)).dom 3).dirty.mode = .off ∧ field dirtyBlock 24 4 = 1 ∧ field dirtyBlock 8 8 = 0 ∧
      usedWindows ((op windowed dirtyCmd).confSeen 3 dirtyCmd.placedAt).windows = [] ∧ inWindows dirtyCmd.cond.windows 0 (8 * ceilDiv 1 64) = true ∧
      (cmd 0x0203).outSpace = 8192 ∧ ((op (pitched .resetting .failed) (cmd 0x0203)).dom 3).idle = true ∧
      (op (pitched .resetting .failed) (cmd 0x0203)).dmaDone 3 = true ∧
      ((op (pitched .locked .running) (cmd 0x0209)).dom 3).dirty.mode = .running ∧ ((op (pitched .locked .running) (cmd 0x0209)).dom 3).dirty.unseen = [] ∧
      (op (pitched .locked .running) (cmd 0x0209)).dmaDone 3 = true ∧
      (let s := { pitched .active .running with host := { up.host with waiting := [.output 3 none 0 []] } }
       (op s (cmd 0x0209)).dmaDone 3 = false ∧ ((op s (cmd 0x020A)).dom 3).dirty.mode = .running ∧ ((op s (cmd 0x0209)).dom 3).mode ≠ .absent) ∧
      ((op (pitched .locked .running) (cmd 0x0209)).dom 3).dirty.flush = [] ∧
      ((op (pitched .resetting .failed) (cmd 0x020A)).dom 3).dirty.mode = .failed := by
  refine ⟨fun c h s _ => runs_holding _ _ ?_, by decide +kernel⟩
  revert c; decide +kernel

theorem witness_StagingRowsEnd :
    (∀ c ∈ [cmd 0x0301 [0], cmd 0x0302 [1, 3], cmd 0x0303 [2], cmd 0x0304 [1, 3], cmd 0x0305 [0]], Runs (op (pitched .active .off) c) c) ∧
      (op (pitched .active .off) (cmd 0x0301)).namedSet 256 (cmd 0x0301 [0]) = .ok 256 ∧
      (op (pitched .active .off) (cmd 0x0302)).namedSet 256 (cmd 0x0302 [1, 3]) = .ok 3 ∧
      (op (pitched .active .off) (cmd 0x0303)).namedSet 256 (cmd 0x0303 [2]) = .ok 257 ∧
      ((op ((pitched .active .off).setStage 3 { state := .pending }) (cmd 0x0304)).stage 3).state ≠ .empty := by
  refine ⟨fun c h => runs_holding _ _ ?_, rfl, rfl, rfl, by decide +kernel⟩
  revert c; decide +kernel

/-- A command with a handle it writes, of the operator's kind 02. -/
def keyed (code : Nat) (param : Bytes) : Cmd := { cmd code param with entry := { opcode := code, outLen := 8192, access := 0x11, handle0 := 0x800005 } }

/-- The operator's key of that handle. -/
def oneKey : State := up.setDom 256 fun D => { D with keys := [(canonical 0x800005, {})] }

theorem witness_KeyRowsEnd :
    (∀ code ∈ [0x0401, 0x0402, 0x0403, 0x0404, 0x0405, 0x0406, 0x0407, 0x0408, 0x0409, 0x040A, 0x040B],
      Runs (op oneKey (keyed code [3, 1])) (keyed code [3, 1])) ∧
      handleFail 256 (keyed 0x0405 []).entry true [0, 1, 2] = none ∧ (op oneKey (keyed 0x0405 [])).keyPresent (ownerOf 256 0x800005) 0x800005 = true ∧
      handleFail 256 (keyed 0x040A []).entry true [2] = none ∧ byteAt [3, 1] 1 = 1 := by
  refine ⟨fun code _ => runs_holding _ _ ⟨rfl, rfl, rfl, rfl, rfl, rfl, (by decide : entryZero [] = none)⟩, by decide +kernel⟩

/-- A module whose clock is LOCKED and trusted, and whose trail holds an entry and a checkpoint. -/
def booked : State :=
  { up with clock := { state := .locked, set := true, tai := 7999999999 }, trail := { sram := [{ seq := 1, code := 0x0703 }, { seq := 2, code := 2 }], unflushed := 2, nextSeq := 3 } }

theorem witness_LedgerRowsEnd :
    (∀ c ∈ [cmd 0x0501, cmd 0x0502, cmd 0x0503, cmd 0x0504, cmd 0x0505, cmd 0x0601 (leBytes 8 8), cmd 0x0602, cmd 0x0701,
      cmd 0x0702 (leBytes 8 1 ++ leBytes 4 1), cmd 0x0702 (leBytes 8 1 ++ leBytes 4 65536), cmd 0x0703 (leBytes 8 2),
      cmd 0x0704 (leBytes 4 0x0703 ++ leBytes 4 1 ++ leBytes 2 1), cmd 0x0704 (leBytes 4 0x0703 ++ leBytes 4 1000000 ++ leBytes 2 1), cmd 0x0705, cmd 0x0706,
      cmd 0x0707, cmd 0x0708, cmd 0x0801 [3, 1], cmd 0x0802 [95]], ∀ s ∈ [booked, pitched .active .off], Runs (op s c) c) ∧
      ((op booked (cmd 0x0504)).dom 256).roster.isSealed = false ∧ (op booked (cmd 0x0601)).clock.state = .locked ∧
      (op booked (cmd 0x0601)).clock.trusted = true ∧ (op booked (cmd 0x0601)).clock.nextSecond ≤ field (leBytes 8 8) 0 8 ∧
      (op booked (cmd 0x0702)).trail.oldest = 1 ∧ (op booked (cmd 0x0703)).trail.entry 2 = some { seq := 2, code := 2 } ∧
      exempt (field (leBytes 4 0x0703 ++ leBytes 4 1 ++ leBytes 2 1) 0 2) = false ∧ field (leBytes 4 0x0703 ++ leBytes 4 1 ++ leBytes 2 1) 4 4 = 1 ∧
      field (leBytes 4 0x0703 ++ leBytes 4 1000000 ++ leBytes 2 1) 4 4 = 1000000 ∧ (cmd 0x0707).tooLong 64 = false ∧
      ((op (pitched .active .off) (cmd 0x0801)).dom 3).mode ≠ .absent := by
  refine ⟨fun c h s _ => runs_holding _ _ ?_, by decide +kernel⟩
  revert c; decide +kernel

theorem witness_LifeCycleRowsEnd :
    (∀ c ∈ [cmd 0x0901, cmd 0x0903, cmd 0x0904 [3], cmd 0x0904 [7], cmd 0x0905, cmd 0x0906, cmd 0x0907, cmd 0x0A01, cmd 0x0A02 [1, 2]], Runs (op up c) c) ∧
      (cmd 0x0901).tooLong 64 = false ∧ up.life.digest 6 = none ∧ (∀ n, n < 10 → bit (field [1, 2] 0 2) n = true → up.tamper.alarm.getLsbD n = false) ∧
      (let s := up.setTamper fun t => { t with alarm := 0x201 }
       Runs (op s (cmd 0x0A02 [0, 2])) (cmd 0x0A02 [0, 2]) ∧ bit (field [0, 2] 0 2) 9 = true ∧ (op s (cmd 0x0A02)).tamper.alarm.getLsbD 9 = true ∧
         (∀ j, j < 9 → bit (field [0, 2] 0 2) j = true → (op s (cmd 0x0A02)).tamper.alarm.getLsbD j = false) ∧
         (let c := { cmd 0x0A02 [0, 2] with phase := .computed, effects := [.tamperClear 0x200] }
          (op s c).cmd 256 1 = some c ∧ c.effects = [.tamperClear (field c.param 0 2)])) := by
  refine ⟨fun c h => runs_holding _ _ ?_, by decide +kernel, by decide +kernel, by decide +kernel, runs_holding _ _ ⟨rfl, rfl, rfl, rfl, rfl, rfl, rfl⟩, by decide +kernel⟩
  revert c; decide +kernel

/-- A module in FIELD with a digest of transition 6. -/
def fielded (digest : Bytes) : State := { up with life := { ({} : LifeCycleReg).burnCopies 3 3 with state := .field, digests := [(6, digest)] } }

theorem witness_TransitionBurnsAttempt :
    (∀ c ∈ [cmd 0x0902 [8], cmd 0x0902 [6]], ∀ s ∈ [up, fielded [], fielded (sha384 (zeros 32))], Runs (op s c) c ∧ entryZero c.raw = none ∧ c.stage = 0) ∧
      transitionFail (op up (cmd 0x0902)) 8 = some (eLcParam, 0) ∧ transitionFail (op (fielded []) (cmd 0x0902)) 6 = none ∧
      ((op (fielded []) (cmd 0x0902)).life.attempted 6 { copies := 3 }).digest 6 ≠ some (sha384 (slice [6] 16 32)) ∧
      transitionFail (op (fielded (sha384 (zeros 32))) (cmd 0x0902)) 6 = none ∧
      (∀ b ∈ [({ copies := 0, cut := true, attempt := 2 } : OtpBurn), { copies := 2, bits := 31, cut := true }, { copies := 2, bits := 9 }, { copies := 3 }],
        ((op (fielded (sha384 (zeros 32))) (cmd 0x0902)).life.attempted 6 b).digest 6 = some (sha384 (slice [6] 16 32))) ∧
      ((op (fielded (sha384 (zeros 32))) (cmd 0x0902)).life.attempted 6 { copies := 3 }).digest 6 = some (sha384 (slice [6] 16 32)) ∧ (cmd 0x0902).tooLong 16 = false := by
  refine ⟨fun c h s _ => ⟨runs_holding _ _ ?_, ?_⟩, by decide +kernel⟩ <;> revert c <;> decide +kernel

/-- A module whose source has a response. -/
def answering (n : Nat) (r : Response) : State := up.setTamper fun t => { t with responses := t.responses.set n r }

theorem witness_TamperEventsAct :
    (∀ p ∈ [(0, Response.none), (9, .note), (1, .shed), (4, .lock), (0, .strike), (9, .strikeHalt)],
      let s := answering p.1 p.2
      s.tamper.response p.1 = p.2 ∧ s.tamper.emberMachine = true ∧ s.detects p.1 (2 * p.1 % 16) = true ∧ s.tamper.alarm.getLsbD p.1 = false ∧
        s.tamper.inForce.code < 2 ∧ s.tamper.striking = false ∧ s.boot.powered = true ∧ s.boot.held = false ∧ s.boot.state = .ready) ∧
      (let s := up.setTamper fun t => { t with alarm := 0x200, pairs := [18], inForce := .shed, shed := true, shedSince := some 5 }
       s.tamper.alarm.getLsbD 9 = true ∧ removeNat s.tamper.pairs 18 = [] ∧ s.tamper.shedSince = some 5 ∧ s.tamper.inForce = .shed) ∧
      (let s := up.setTamper fun t => { t with alarm := 0x101, detectorA := 0x101 }
       s.tamper.alarm.getLsbD 8 = true ∧ s.codesAssigned = true ∧ s.tamper.alarm.getLsbD 0 = true ∧ s.tamper.detectorB.getLsbD 0 = false ∧
         ({ s with guy := { code := 0 } }).codesAssigned = false) ∧
      (let s := { up with supplies := { emberSource := .cell } }
       s.supplies.emberSource = .cell) ∧
      (let s := { up with boot := { powered := false }, supplies := { emberSource := .holdup } }
       s.boot.powered = false ∧ s.supplies.emberSource = .holdup) := by decide +kernel

/-- A command that runs and needs no approval: one of the operator's here, or one of a pitch that needs none. -/
theorem runs_pitch (s : State) (d : Nat) (c : Cmd) (h : c.id = 1 ∧ c.phase = .running ∧ c.redo = false ∧ c.twinDigest = none ∧ ((holding s d c).checkApprovals d c).toOption = some [] ∧
    entryZero c.raw = none) :
    (holding s d c).Started d 1 c.entry.opcode c ∧ (holding s d c).Approved d c [] := by
  obtain ⟨h1, h2, r, h3, h4, h5⟩ := h
  refine ⟨?_, h3, ?_, h5⟩
  · have := started_holding s d c h2 r
    rw [h1] at this
    exact this
  · revert h4
    cases (holding s d c).checkApprovals d c with
    | error f => intro h; cases h
    | ok l => intro h; cases h; rfl

/-- A module whose link is SECURE, with a domain in a twin state. -/
def twinned (d : Nat) (m : TwinMode) (r : TwinRole) : State :=
  { (pitched .active .off).setDom d fun D => { D with twin := { mode := m, role := r } } with link := { mode := .secure } }

/-- The block of TWIN_ESTABLISH at the lower ends of its ranges. -/
def twinBlock : Bytes := [9, 1, 0, 0] ++ leBytes 4 1 ++ leBytes 4 10 ++ leBytes 4 100

/-- A module with two seeds in region 0. -/
def twoSeeds (s : State) : State := s.setEntropy 0 fun e => { e with pool := [{ bytes := zeros 48 }, { bytes := zeros 48 }] }

/-- The commands of a pitch that need an approval are the operator's here, in a life-cycle state that asks for none: no approval can be written out, since
the serial number that it signs is a value of the module's own (Config.serial). -/
theorem witness_TwinRowsEnd :
    (∀ c ∈ [cmd 0x0B01 [9], cmd 0x0B03, cmd 0x0B04, cmd 0x0B06, { cmd 0x0B06 with stage := 1 }, cmd 0x0B07, cmd 0x0B08],
      ∀ s ∈ [twinned 3 .none .none, twinned 3 .attached .primary, twinned 3 .detached .primary],
      (holding s 3 c).Started 3 1 c.entry.opcode c ∧ (holding s 3 c).Approved 3 c []) ∧
      (∀ c ∈ [cmd 0x0B02 twinBlock, cmd 0x0B05, cmd 0x0B09], ∀ s ∈ [twoSeeds (twinned 256 .none .none), twinned 256 .detached .secondary], Runs (op s c) c) ∧
      establishFail twinBlock = none ∧
      (let s := op (twoSeeds (twinned 256 .none .none)) (cmd 0x0B02)
       (s.dom 256).twin.mode = .none ∧ s.link.mode = .secure ∧ (s.dom 256).settledBefore 1 = true ∧ (s.takeTwo (s.seedOrderOf 256)).isSome = true) ∧
      (let s := holding (twinned 3 .none .none) 3 (cmd 0x0B01)
       (s.dom 3).twin.mode = .none ∧ (s.dom 3).keys = [] ∧ (s.dom 3).roster.officers = [] ∧ s.link.mode = .secure) ∧
      (let s := holding (twinned 3 .attached .primary) 3 { cmd 0x0B06 with stage := 1 }
       (s.dom 3).twin.mode = .attached ∧ (s.dom 3).twin.role = .primary ∧ (s.dom 3).twin.unacked = [] ∧ (∀ x ∈ (s.dom 3).cmds, x.id < 1 → x.mayChain = false) ∧
         ∀ x ∈ (s.dom 3).cmds, x.id < 1 → x.mayChain = true → x.digest.isSome = true) ∧
      (let s := holding (twinned 3 .detached .primary) 3 { cmd 0x0B06 with stage := 1 }
       (s.dom 3).twin.mode ≠ .attached) ∧
      (let s := holding (twinned 3 .detached .primary) 3 (cmd 0x0B04)
       (s.dom 3).twin.mode = .detached ∧ (s.dom 3).twin.role = .primary ∧ s.link.mode = .secure) ∧
      (let s := op (twinned 256 .detached .secondary) (cmd 0x0B05)
       (s.dom 256).twin.mode = .detached ∧ (s.dom 256).twin.role = .secondary) := by
  refine ⟨fun c h s k => runs_pitch _ _ _ ⟨?_, ?_, ?_, ?_, ?_, ?_⟩, fun c h s _ => runs_holding _ _ ?_, by decide +kernel⟩ <;> revert c <;> (try revert s) <;> decide +kernel

/-- A small custom-function image with an empty signature: one instruction word pair, one entry point, STACK 4,096 and BUDGET 1,000. -/
def smallImage : Bytes :=
  ascii "KTWIMG01" ++ leBytes 4 8 ++ zeros 8 ++ leBytes 4 4096 ++ leBytes 4 1000 ++ [1, 2, 0x21, 0] ++ zeros 104 ++ zeros 96

/-- A module with a domain whose slot 7 is in a state, and whose group 0x7F is bound to a slot. -/
def imaged (d : Nat) (k : CfState) (slot : Nat) : State :=
  (pitched .active .off).setDom d fun D =>
    { D with conf := smallConf, cfImages := if k = .empty then [] else [(7, { state := k, image := smallImage, digest := sha384 smallImage })], cfGroups := [(0x7F, { slot := slot })] }

/-- A CF_INVOKE of entry point 0 of group 0x7F, at the core of region 0, block 11. -/
def invoke (access : Nat) : Cmd :=
  { id := 1, phase := .running, region := 0, block := 11, entry := { opcode := 0x7F00, access := access, outLen := 16 }, param := zeros 128, input := zeros 16
    cond := { cfImage := some smallImage, cfGroup := some (7, 1, 1000) } }

/-- The block of CF_LOAD for slot 7. -/
def loadBlock : Bytes := [7] ++ zeros 15 ++ sha384 smallImage ++ smallImage

/-- The block of CF_BIND for group 0x40, at the lower end of BUDGET. -/
def bindBlock : Bytes := [0x40, 7, 4, 0] ++ leBytes 4 1000 ++ zeros 8 ++ sha384 smallImage

/-- CF_ACCEPT and CF_BIND need approvals: see witness_TwinRowsEnd. -/
theorem witness_CustomFunctionRowsEnd :
    (∀ c ∈ [cmd 0x0C01 loadBlock, cmd 0x0C04 [0x7F], cmd 0x0C05 [7], cmd 0x0C06 [3]], ∀ s ∈ [imaged 3 .empty 0xFF, imaged 3 .accepted 6],
      (holding s 3 c).Started 3 1 c.entry.opcode c ∧ (holding s 3 c).Approved 3 c []) ∧
      (∀ c ∈ [cmd 0x0C02 ([3, 7] ++ zeros 14 ++ sha384 smallImage), cmd 0x0C03 bindBlock], ∀ s ∈ [imaged 3 .loaded 6, imaged 256 .accepted 6], Runs (op s c) c) ∧
      (let D := (holding (imaged 3 .empty 0xFF) 3 (cmd 0x0C01)).dom 3
       (D.image 7).state = .empty ∧ loadBlock.drop 64 = smallImage ∧ slice loadBlock 16 48 = sha384 smallImage ∧ imageFail smallImage = none ∧
         D.mramUsed + roundUp smallImage.length 4096 ≤ ((holding (imaged 3 .empty 0xFF) 3 (cmd 0x0C01)).confSeen 3 0).mramQuota * 1024) ∧
      (let D := (op (imaged 3 .loaded 6) (cmd 0x0C02)).dom 3
       (D.image 7).state = .loaded ∧ (D.image 7).digest = slice ([3, 7] ++ zeros 14 ++ sha384 smallImage) 16 48) ∧
      (let D := (op (imaged 256 .accepted 6) (cmd 0x0C03)).dom 256
       isGroup 0x40 = true ∧ field bindBlock 4 4 = 1000 ∧ (D.image 7).state = .accepted ∧ (D.image 7).digest = slice bindBlock 16 48 ∧
         field bindBlock 4 4 ≤ imageBudget (D.image 7).image ∧ (D.group 0x40).slot = 0xFF) ∧
      (let D := (holding (imaged 3 .accepted 6) 3 (cmd 0x0C04)).dom 3
       isGroup 0x7F = true ∧ (D.group 0x7F).slot ≠ 0xFF ∧ (D.image 7).state ≠ .empty ∧ D.bound 7 = none) ∧
      (∀ access ∈ [0x00, 0x88], (holding up 3 (invoke access)).cmd 3 1 = some (invoke access)) ∧
      (let s := holding up 3 (invoke 0x88)
       isCustom 0x7F00 = true ∧ s.coreRuns 11 = true ∧ (s.core 11).function = false ∧ (s.core 11).invocations = [] ∧
         (invoke 0x88).entry.valid 3 = true ∧ (invoke 0x88).entry.writes 3 = true ∧
         (∀ j, j < 3 → ((invoke 0x88).entry.valid j && (invoke 0x88).entry.writes j) = false) ∧
         (∀ i, i < 4 → ((invoke 0).entry.valid i && (invoke 0).entry.writes i) = false) ∧
         (let l := cfAreas (invoke 0) smallImage 1 [0, 0x1000, 0x3000, 0x4000, windowBase, windowBase + 0x2000, windowBase + 0x4000]
          areasApart (l.filter fun a => a.len != 0) = true ∧ ∀ p ∈ l.zipIdx, s.areaFree 11 p.2 p.1 = true)) := by
  refine ⟨fun c h s k => runs_pitch _ _ _ ⟨?_, ?_, ?_, ?_, ?_, ?_⟩, fun c h s _ => runs_holding _ _ ?_, by decide +kernel⟩ <;> revert c <;> (try revert s) <;> decide +kernel

/-! ### Registers and the journey of an entry -/

/-- A module whose pitch 3 has queue 15, of 16 entries, with 15 completions posted. -/
def ringed : State := (pitched .active .off).setDom 3 fun D => D.setQueue 15 fun Q => { Q with state := .active, sizeLog2 := 4, cqTail := 15, sqTail := 1 }

theorem witness_MailboxRegistersTakeWrites :
    ringed.BellsOpen 3 ∧ up.BellsOpen 256 ∧ ringed.PageOpen 3 ∧ ((ringed.dom 3).queue 15).state ≠ .absent ∧ 15 < 2 ^ ((ringed.dom 3).queue 15).sizeLog2 ∧
      2 ^ ((ringed.dom 3).queue 15).sizeLog2 ≤ 16 ∧ (ringed.dom 3).bootable = true ∧
      (15 + 2 ^ 4 - ((ringed.dom 3).queue 15).cqHead) % 2 ^ 4 ≤ ((ringed.dom 3).queue 15).unconsumed ∧
      ((pitched .active .off).dom 3).unfinished = 0 ∧ ((pitched .active .off).dom 3).drained = true ∧ ((pitched .active .off).dom 3).seqNext < 2 ^ 64 ∧
      ((holding ringed 3 (cmd 0x1001)).dom 3).unfinished ≠ 0 ∧ up.barOpen = true ∧ up.trail.cursor < 2 ^ 64 ∧
      regular 0 8 = true ∧ regular 4 4 = true ∧ regular 0 4 = true ∧ regular 4 8 = false ∧ regular 1 4 = false ∧
      (15 + 2 ^ 4 - ((ringed.dom 3).queue 15).cqHead) % 2 ^ 4 = ((ringed.dom 3).queue 15).unconsumed ∧
      (let s := ringed.setDom 3 fun D => D.setQueue 15 fun Q => { Q with cqTail := 14 }
       ((s.dom 3).queue 15).unconsumed < (15 + 2 ^ 4 - ((s.dom 3).queue 15).cqHead) % 2 ^ 4) := by
  unfold State.BellsOpen State.PageOpen
  decide +kernel

/-- Bit 31 of a selection, and counters at the ends of Table 18-1: a core's, a region's, a port's. -/
theorem witness_RegisterWritesAct :
    up.barOpen = true ∧ (pitched .active .off).PageOpen 3 ∧ up.boot.bivvy = false ∧
      (let s := { up with boot := { up.boot with bivvy := true } }
       s.boot.bivvy = true ∧ s.boot.waking = none ∧ { s with boot := { s.boot with waking := some 0 } }.boot.waking.isSome = true) ∧ up.host.functionMask = false ∧ { up with host := { up.host with msixEnable := true } }.host.msixEnable = true ∧
      up.perf.select < 2 ^ 64 ∧ up.perf.configSelect < 2 ^ 64 ∧
      (∀ v ∈ [0, 0x05F7, 0x1000, 0x1077, 0x2000, 0x2011], perfExists (selKind (selMask v)) (selUnit (selMask v)) (selIndex (selMask v)) = true) ∧
      (∀ v ∈ [0x0600, 0x0008, 0x1080, 0x2020, 0x3000], perfExists (selKind (selMask v)) (selUnit (selMask v)) (selIndex (selMask v)) = false) ∧
      (∀ a ∈ [0, 0x05F5, 0x1000, 0x1077],
        let s := { up with perf := { select := a, configSelect := a } }
        perfProgrammable (selKind a) (selIndex a) = true ∧ s.perfAsleep (selKind a) (selUnit a) = false ∧
          s.perf.value (selKind a) (selUnit a) (selIndex a) < 2 ^ 64 ∧ (selKind a = 0 → selIndex a < 6)) ∧
      (perfEvents 0).contains (0x14 % 256) = true ∧ (perfEvents 1).contains (0x2B % 256) = true ∧ selKind 0x2011 = 2 ∧
      up.boot.powered = true ∧ up.boot.held = false ∧
      (let s := { up with perf := { portFull := [(perfKey 2 1 1, 1)] } }
       (s.perf.conf 2 (b2n true) (b2n true)).enable = true ∧ Tab.get s.perf.portFull 0 (perfKey 2 (b2n true) (b2n true)) = 1) := by
  unfold State.PageOpen
  decide +kernel

/-- A masked vector with a message pending, in a module whose MSI-X is enabled; and registers of a pitch without commands. -/
theorem witness_registersOfPages :
    (let s := { up with host := { up.host with msixEnable := true, vectors := [(2047, { masked := true, pending := true })] } }
     s.barOpen = true ∧ s.host.functionMask = false ∧ (s.host.vector 2047).pending = true ∧ s.guy.holding = false ∧
       (HostOut.message 2047 (s.host.vector 2047).addr (s.host.vector 2047).data).waits s.host s.host.waiting = false) ∧
      (pitched .active .off).PageOpen 3 ∧ regular 7 1 = false ∧ regular 4 4 = true ∧ (perfEvents 0).contains (0xFF % 256) = false := by
  unfold State.PageOpen
  decide +kernel

/-- An entry of HASH_COMPUTE on queue 15 with a SEQ; flag 8 of byte 3 is SEQ_AUTO. -/
def hashEntry (auto : Byte) (seq : Nat) : Bytes := [0x01, 0x15, 0, 0xF0 + auto, 0, 0, 0, 0] ++ leBytes 8 seq ++ zeros 48

/-- The rings of the queue, inside the pitch's only window. -/
def fetching (ring : Nat) : State :=
  ringed.setDom 3 fun D =>
    { D with conf := { smallConf with windows := [(0x1000, 0x1FFFF)] } }.setQueue 15 fun Q => { Q with sqAddr := ring, cqAddr := 0x1000, cqTail := 0 }

/-- A command whose input is to be read. -/
def reading : Cmd := { cmd 0x1501 with phase := .reading, toRead := [.param, .input], admitted := true, assigned := true }

theorem witness_EntriesAreFetched :
    (∀ ring ∈ [0x2000, 0x20000],
      (fetching ring).admits 3 = true ∧ (fetching ring).fetchFrom 3 = some 15 ∧ (fetching ring).ringsIn 3 15 = decide (ring = 0x2000)) ∧
      (let s := fetching 0x2000
       let check := fun b => firstFail [s.check123 3 15 (slice b 0 64), s.twinCheck 3 (parseEntry (slice b 0 64)), (s.dom 3).seqCheck (parseEntry (slice b 0 64))]
       check (zeros 64) ≠ none ∧ check (hashEntry 0 1048576) ≠ none ∧ check (hashEntry 0 1048575) = none ∧ (parseEntry (hashEntry 0 1048575)).seqAuto = false ∧
         (parseEntry (hashEntry 0 1048575)).seq ≠ (s.dom 3).seqNext ∧ check (hashEntry 8 0) = none ∧ (parseEntry (hashEntry 8 0)).seqAuto = true ∧
         check (hashEntry 0 0) = none ∧ (parseEntry (hashEntry 0 0)).seq = (s.dom 3).seqNext ∧ (s.dom 3).twin.role ≠ .secondary ∧
         (s.dom 3).refetch 15 = none) ∧
      (let s := (fetching 0x2000).setDom 3 fun D => { D with waiting := [{ queue := 15, again := true }] }
       s.admits 3 = true ∧ s.fetchFrom 3 = some 15 ∧ s.ringsIn 3 15 = true ∧ (s.dom 3).refetch 15 ≠ none) ∧
      (let s := holding up 256 reading
       s.cmd 256 1 = some reading ∧ reading.reads .param = true ∧ reading.reads .input = true ∧ s.host.blocks 256 = false ∧
         ([] : Bytes).length = reading.inLen ∧ ([] : Bytes).length = reading.entry.partLen .param) := by decide +kernel

/-- A command that waits to start. -/
def waiting (code : Nat) : Cmd := { cmd code with phase := .ready }

/-- A module whose wardens serve, with one ready command of a domain. -/
def served1 (d : Nat) (c : Cmd) : State :=
  holding { pitched .active .off with wardens := [(0, { state := .active })], regions := [(7, { lastBlockDom := 256 })] } d c

/-- A command with a key of the operator, in a twinned pitch: it may not start. -/
def ineligible : Cmd := { waiting 0x1001 with cls := .reserve, entry := { opcode := 0x1001, access := 1, handle0 := 0x800005 } }

/-- KEY_GENERATE of an X25519 key of the operator. -/
def makesKey : Cmd :=
  { waiting 0x0401 with entry := { opcode := 0x0401, access := 0x11, handle0 := 0x801000 }, param := leBytes 4 0x801000 ++ zeros 4 ++ [10, 0x23] ++ leBytes 2 255 ++ zeros 20
                        drawn := some (zeros 64) }

theorem witness_CommandsStart :
    (∀ c ∈ [waiting 0x0105, waiting 0x1001, ineligible], ∀ d ∈ [3, 256],
      let s := served1 d c
      s.cmd d 1 = some c ∧ s.working = true ∧ s.mayStart d c = true) ∧
      ((served1 3 ineligible).setDom 3 fun D => { D with twin := { mode := .attached, role := .primary } }).twinIneligible 3 ineligible = true ∧
      (let s := served1 256 (waiting 0x0105)
       s.twinIneligible 256 (waiting 0x0105) = false ∧ (waiting 0x0105).entry.mgmt = true ∧ s.wardenStarts = true ∧ s.keygenOf 256 (waiting 0x0105) = []) ∧
      (let s := served1 256 (waiting 0x1001)
       let c := waiting 0x1001
       s.twinIneligible 256 c = false ∧ c.entry.mgmt = false ∧ ((served (s.region 7).lastBlockDom (s.candidates 7)).map (·.dom)) = some 256 ∧
         (s.headJob 256 7).map (·.id) = some 1 ∧ s.regionRuns 7 = true ∧ s.blockFree 7 11 = true ∧ EngineKind.cell ∈ unitsNeeded c ∧ c.rerunBlock ≠ some (12 * 7 + 11) ∧
         s.whole (12 * 7 + 11) = true ∧ s.mustLoad 7 256 c.entry = false ∧ (s.unwrapCell 7 11).isSome = true) ∧
      (let s := served1 256 makesKey
       s.cmd 256 1 = some makesKey ∧ s.working = true ∧ s.mayStart 256 makesKey = true ∧ s.twinIneligible 256 makesKey = false ∧ makesKey.entry.mgmt = true ∧
         s.wardenStarts = true ∧ s.keygenOf 256 makesKey ≠ [] ∧ s.keygenRegion 256 makesKey = some 0) := by decide +kernel

theorem witness_CommandsCommitAndLink :
    (∀ p ∈ [(0x0104, Effect.queueRoute 15 0xFFFF 0 1000), (0x0106, Effect.gapTimeout 1000000000), (0x0503, Effect.roster { quorum := [(1, 2)] }),
        (0x0801, Effect.perfGrant 3 true), (0x0C03, Effect.cfGroup 3 0x7F { slot := 7 })],
      let c : Cmd := { cmd p.1 with phase := .computed, effects := [p.2] }
      let s := holding up 256 c
      s.cmd 256 1 = some c ∧ s.working = true ∧ (s.dom 256).mayCommit c = true ∧ c.entry.mgmt = true ∧ s.guy.holding = false ∧ s.createWaits c = false ∧
        c.entry.opcode = p.1 ∧ c.redo = false) ∧
      (let c : Cmd := { cmd 0x0104 with phase := .computed }
       let s := holding { up with guy := { code := movingToB, holding := true } } 256 c
       s.cmd 256 1 = some c ∧ s.working = true ∧ (s.dom 256).mayCommit c = true ∧ s.createWaits c = false ∧ c.entry.mgmt = true ∧ s.guy.holding = true) ∧
      (∀ rec ∈ [some (0, [], []), some (1, [], [1])],
        let c : Cmd := { cmd 0x1009 with phase := .computed, cls := .reserve, redo := true, commitRec := rec }
        let s := holding up 3 c
        s.cmd 3 1 = some c ∧ s.working = true ∧ (s.dom 3).mayCommit c = true ∧ c.entry.mgmt = false ∧ s.createWaits c = false ∧ c.redo = true ∧
          c.commitRec = rec) ∧
      (let c : Cmd := { cmd 0x1501 with phase := .linking, cls := .stateless }
       c.aborted = false ∧ up.tamper.striking = false ∧ ((holding up 256 c).dom 256).linkable { c with cls := .stateful } = true ∧ (holding up 256 { c with cls := .stateful }).cmd 256 1 = some { c with cls := .stateful }) := by
  decide +kernel

theorem witness_MailboxTimersAct :
    (let s := (pitched .active .off).setDom 3 fun D =>
       { D with gapSince := some 5, waiting := [{ entry := { seq := 1 } }] }.setQueue 15 fun Q => { Q with aggSince := some 7, aggTime := 1000, aggWaiting := 1 }
     (s.dom 3).gapSince = some 5 ∧ (s.dom 3).waiting ≠ [] ∧ (s.dom 3).waits (s.dom 3).seqNext = none ∧ ((s.dom 3).queue 15).aggSince = some 7 ∧
       ((s.dom 3).queue 15).aggTime ≠ 0 ∧ ((s.dom 3).queue 15).aggWaiting ≠ 0 ∧
       ((s.dom 3).queue 15).owed = []) ∧
      (let s := (pitched .active .off).setDom 3 fun D => D.setQueue 15 fun Q => { Q with owed := [(7, 9)] }
       ((s.dom 3).queue 15).owed = [(7, 9)]) ∧
      ((holding up 256 reading).readFailed (.part 256 1 .input) .timeout 0).isSome = true ∧
      (let s := (pitched .active .running).setDom 3 fun D => { D with dirty := { D.dirty with sent := [(0, 0, 1)] } }
       Tab.find (s.dom 3).dirty.sent 0 = some (0, 1)) ∧
      { up with host := { up.host with spdm := { busy := true } } }.host.spdm.busy = true ∧ up.boot.powered = true ∧ up.host.linkUp = true := by decide +kernel

/-! ### Instructions of the block cores -/

/-- A core in FIRMWARE mode at address 0, in a granule of colour 0, executes the word of each row that comes. -/
theorem executes_firmware (s : State) (k w : Nat) (h : s.coreWaits k = false ∧ (s.core k).span = none ∧ (s.core k).function = false ∧
    s.allows k .fetch (s.core k).pc.toNat 4 = true ∧ (s.granule k ((s.core k).pc.toNat / 16)).1 = 0) : s.Executes k w := by
  obtain ⟨h1, h2, h3, h4, h5⟩ := h
  exact ⟨h1, h2, by simp [State.fetchInsn, h3, h4, h5]⟩

/-- A core whose registers 1 to 14 hold two words of each of seven tags and one of CODE and one of ERR, whose register 15 is EMPTY, and whose pointers
stand at two words of granule 2, which has a colour. -/
def core1 : Core :=
  { regs := [(1, kInt 5), (2, kInt (-1)), (3, kBits 64), (4, kBits 0), (5, kBool true), (6, kBool false), (7, kAddr 64), (8, kAddr 32), (9, { tag := .handle, val := 1 }),
      (10, { tag := .handle, val := 2 }), (11, kTime 7), (12, kTime 0), (13, kCode 16), (14, kErr 0x100 8), (27, kInt 1), (28, kAddr 32), (29, kAddr 40)]
    mem := [(4, kBits 7), (5, kBits 9)], colours := [(2, 5), (3, 1)], ipend := 4, timecmp := 0 }

/-- The last core of the module. -/
def cored : State := up.setCore 95 fun _ => core1

theorem cored_executes (w : Nat) : cored.Executes 95 w := executes_firmware _ _ _ (by decide +kernel)

/-- The tag of a register. -/
def tagIn (r : BitVec 5) : Tag := ((cored.core 95).reg r).tag

theorem witness_ArithmeticIsChecked :
    (∀ w, cored.Executes 95 w) ∧ [tagIn 1, tagIn 2] = [.int, .int] ∧ [tagIn 3, tagIn 4] = [.bits, .bits] ∧ [tagIn 1, tagIn 0] = [.int, .int] ∧
      [tagIn 7, tagIn 2] = [.addr, .int] ∧ [tagIn 7, tagIn 8] = [.addr, .addr] ∧ [tagIn 11, tagIn 1] = [.time, .int] ∧ [tagIn 11, tagIn 12] = [.time, .time] ∧
      shifted (kInt 5) (kInt (-1)) (fun v _ => v) 16 = kErr errRange 16 ∧ (retagged 16 false (kInt 2) 2).toOption = some (kErr errRange 16) :=
  ⟨cored_executes, by decide +kernel⟩

theorem witness_ShiftsFollowFourSteps :
    (∀ w, cored.Executes 95 w) ∧ [tagIn 1, tagIn 2] = [.int, .int] ∧ [tagIn 1, tagIn 3] = [.int, .bits] ∧ [tagIn 3, tagIn 2] = [.bits, .int] ∧
      [tagIn 3, tagIn 3] = [.bits, .bits] :=
  ⟨cored_executes, by decide +kernel⟩

theorem witness_LogicAndAddressesCompute :
    (∀ w, cored.Executes 95 w) ∧ [tagIn 5, tagIn 6] = [.bool, .bool] ∧ [tagIn 7, tagIn 8] = [.addr, .addr] ∧ [tagIn 11, tagIn 12] = [.time, .time] ∧ [tagIn 9, tagIn 10] = [.handle, .handle] ∧ tagIn 3 = .bits ∧
      (0x100 : BitVec 19).toNat = 0x100 ∧ (0xFFFF : BitVec 19).toNat = 0xFFFF :=
  ⟨cored_executes, by decide +kernel⟩

theorem witness_WordsMoveAndBranchesJump :
    (∀ w, cored.Executes 95 w) ∧ (∀ r ∈ [1, 3, 5, 7, 9, 11, 13, 14], tagIn r ≠ .empty ∧ (tagIn r).illegal = false) ∧ tagIn 5 = .bool ∧ tagIn 14 = .err ∧
      tagIn 13 = .code ∧ tagIn 1 ≠ .err ∧ (tagIn 15).illegal = false ∧ (cored.core 95).function = false ∧ (cored.core 95).inTrap = false ∧
      (retagged 0 false ((cored.core 95).reg 3) 7).toOption = none ∧ (retagged 0 false ((cored.core 95).reg 3) 0).toOption = some (kBits 64) :=
  ⟨cored_executes, by decide +kernel⟩

theorem witness_LoadsAndStoresAct :
    (∀ w, cored.Executes 95 w) ∧ tagIn 8 = .addr ∧ (((cored.core 95).reg 8).val.toNat : Int) + (8 : BitVec 14).toInt = 40 ∧
      (((cored.core 95).reg 8).val.toNat : Int) + (0x3FFF : BitVec 14).toInt = 31 ∧
      (cored.reach 95 .read 40 8).toOption = some () ∧ (cored.reach 95 .read 47 1).toOption = some () ∧ (cored.word 95 40).tag = .bits ∧
      (cored.mayStore 95 40 2 ((cored.core 95).reg 9)).toOption = some () ∧ tagIn 9 ∉ [Tag.empty, .err] ∧ (tagIn 9).illegal = false ∧ (cored.word 95 40).tag.illegal = false ∧
      (cored.mayStoreByte 95 47).toOption = some () ∧ tagIn 3 = .bits ∧ 31 % 8 ≠ 0 ∧ (cored.core 95).inTrap = false :=
  ⟨cored_executes, by decide +kernel⟩

/-- The same core behind a prefix with a STOP. -/
def spanned (stop : Nat) : State := up.setCore 95 fun _ => { core1 with span := some stop }

theorem witness_StreamsMoveElements :
    (∀ w, cored.Executes 95 w) ∧ tagIn 28 = .addr ∧ tagIn 29 = .addr ∧ (cored.loadWord 95 32).toOption = some (kBits 7) ∧
      (cored.loadWord 95 40).toOption = some (kBits 9) ∧ (cored.loadByte 95 32).toOption = some 7 ∧ (cored.loadByte 95 40).toOption = some 9 ∧
      (∀ p ∈ [1, 4], ∀ w ∈ [{}, kBits 7, kBits 9, kInt 5], (cored.mayStore 95 32 p w).toOption = some () ∧ (cored.mayStore 95 40 p w).toOption = some ()) ∧
      (cored.mayStoreByte 95 32).toOption = some () ∧ (cored.mayStoreByte 95 40).toOption = some () ∧ tagIn 1 ∉ [Tag.empty, .err] ∧ (tagIn 1).illegal = false ∧ (cored.core 95).inTrap = false ∧
      tagIn 3 = .bits ∧ tagIn 27 = .int ∧ 0 ≤ ((cored.core 95).reg 27).val.toInt ∧
      (∀ stop ∈ [0, 1, 2],
        let s := spanned stop
        s.coreWaits 95 = false ∧ (s.core 95).span = some stop ∧ (s.fetchInsn 95 ((s.core 95).pc.toNat + 4) (wordS 0x6A 1 0 true false)).toOption = some true ∧
          (s.loadWord 95 ((s.core 95).reg 28).val.toNat).toOption = some (kBits 7) ∧ (s.loadWord 95 ((s.core 95).reg 29).val.toNat).toOption = some (kBits 9)) :=
  ⟨cored_executes, by decide +kernel⟩

/-- A core in FUNCTION mode at a doubleword of RSWAP and ERET, with a rule that lets it fetch there. -/
def inFunction (pc : BitVec 64) : State :=
  up.setCore 95 fun _ => { tstatus := 8, pc := pc, mem := [(0, kBits 0x9300000092)], colours := [(0, 1)], active := [(0, { colour := 1, x := true, r := true })] }

theorem witness_SystemInstructionsAct :
    (∀ w, cored.Executes 95 w) ∧ (∀ n ∈ [0, 1, 2, 3, 4, 5, 6, 8, 0x10, 0x11], (csrTag n).isSome = true) ∧ csrTag 5 = some (tagIn 3) ∧
      (cored.core 95).function = false ∧ ((inFunction 0).core 95).function = true ∧ ((inFunction 0).core 95).inTrap = false ∧
      ((inFunction 0).coreWaits 95 = false ∧ ((inFunction 0).core 95).span = none ∧ ((inFunction 0).fetchInsn 95 0 0x92).toOption = some true) ∧
      ((inFunction 4).coreWaits 95 = false ∧ ((inFunction 4).core 95).span = none ∧ ((inFunction 4).fetchInsn 95 4 0x93).toOption = some true) :=
  ⟨cored_executes, by decide +kernel⟩

/-- The core with its interrupts enabled; PERF pending, an invocation whose command is gone, or TIMER alone. -/
def interrupted (perf cancel : Bool) : State :=
  up.setCore 95 fun _ =>
    { core1 with tstatus := 1, ien := 0xD, ipend := if perf then 4 else 0, invocations := if cancel then [{ pitch := 3, id := 7 }] else [] }

theorem witness_TrapsEnterTheHandler :
    (∀ w, cored.Executes 95 w) ∧ validWord (0xFF : BitVec 32).toNat = false ∧ (cored.core 95).inTrap = false ∧
      (∀ stop ∈ [0, 2], let s := spanned stop
        s.coreWaits 95 = false ∧ (s.fetchInsn 95 ((s.core 95).pc.toNat + 4) (0xFF : BitVec 32).toNat).toOption = some true ∧ (s.core 95).inTrap = false) ∧
      (let s := interrupted false false
       s.coreRuns 95 = true ∧ (s.core 95).takes 3 = true ∧ s.timerPending 95 = true ∧ s.cancelDue 95 = false ∧ s.perfDue 95 = false ∧
         s.interruptFirst 95 = true) ∧
      (let s := interrupted true false
       s.coreRuns 95 = true ∧ s.perfDue 95 = true ∧ s.cancelDue 95 = false) ∧
      (let s := interrupted true true
       s.coreRuns 95 = true ∧ s.cancelDue 95 = true ∧ (s.core 95).inTrap = false) :=
  ⟨cored_executes, by decide +kernel⟩

/-- The core with 31 jobs, one of which has ended. -/
def queuedJobs : State :=
  up.setCore 95 fun _ => { core1 with jobs := (List.range 31).map (fun i => { slot := i, ended := if i = 30 then some 1 else none }), regs := [(3, kBits 30), (4, kBits 0), (7, kAddr 64)] }

theorem witness_EngineCallsAct :
    (∀ w, queuedJobs.Executes 95 w) ∧
      (let K := queuedJobs.core 95
       (K.reg 7).tag = .addr ∧ (K.reg 7).val.toNat = 64 ∧ inLocal 64 64 = true ∧ queuedJobs.allows 95 .read 64 64 = true ∧
         (∀ kind ∈ [EngineKind.cell, .liu, .hash], ∀ x ∈ descRanges kind (queuedJobs.descriptor 95 64), queuedJobs.allows 95 x.2.2 x.1 x.2.1 = true) ∧
         K.jobs.length < 32 ∧ (K.reg 3).tag = .bits ∧ ((K.jobs.find? fun j => ticketOf j.slot j.gen = 30).map Job.ended) = some (some 1) ∧
         ((K.jobs.find? fun j => ticketOf j.slot j.gen = 0).map Job.ended) = some none ∧ (K.oldestEnded.map Job.slot) = some 30) :=
  ⟨fun w => executes_firmware _ _ _ (by decide +kernel), by decide +kernel⟩

/-! ### A key in the store -/

/-- The attributes of a key whose validity ends at TIME_NOW 999. -/
def shortKey : Attr := { handle := 1, generation := 1, usage := 1, alg := 1, length := 128, notAfter := 999 }

/-- A mask seed. -/
def markSeed : Bytes := 1 :: zeros 47

/-- The address of row 6, whatever the permutation is. -/
def rootAt : Nat := scrambled (zeros 48) 6

/-- A module whose root of pitch 3 is zero bytes: its EMBER row holds its mask itself, whatever that is. The pitch has one key, under that root. -/
def rooted : State :=
  { (pitched .active .off).setDom 3 fun D =>
      { D with keys := [(1, { slotA := sealSlot (recordKey (zeros 32) 3) 1 1 shortKey (zeros 12) (zeros 16) })] } with
    ember := { seedA := markSeed, rows := [(rootAt, slice (Config.emberMask markSeed rootAt) 0 64)] } }

theorem xor_same (l : Bytes) : xorBytes l l = List.replicate l.length 0 := by
  unfold xorBytes
  induction l with
  | nil => rfl
  | cons x l ih => simp only [List.zipWith_cons_cons, ih, List.length_cons, List.replicate_succ, BitVec.xor_self]; rfl

theorem slice_length (l : Bytes) (n : Nat) : (slice l 0 n).length = n := by
  simp only [slice, List.length_append, List.length_take, List.length_replicate]; omega

theorem slice_whole (l : Bytes) (n : Nat) (h : l.length = n) : slice l 0 n = l := by
  simp [slice, ← h]

theorem rooted_root : rooted.root 3 = some (zeros 32) := by
  have h : rooted.ember.readRow 6 = some (zeros 64) := by
    show (rooted.ember.seedOf rootAt).bind (fun seed => (Tab.find rooted.ember.rows rootAt).map fun v => maskRow seed rootAt v) = _
    have a : rooted.ember.seedOf rootAt = some markSeed := rfl
    have b : Tab.find rooted.ember.rows rootAt = some (slice (Config.emberMask markSeed rootAt) 0 64) := by simp [rooted, Tab.find]
    rw [a, b]
    show some (xorBytes (slice (slice (Config.emberMask markSeed rootAt) 0 64) 0 64) (slice (Config.emberMask markSeed rootAt) 0 64)) = _
    rw [slice_whole _ _ (slice_length _ _), xor_same, slice_length]
    rfl
  show ((rooted.ember.side 3).bind fun b => rooted.ember.readRow (rowOf 3 b)).map (·.take 32) = _
  have e : rooted.ember.side 3 = some false := by decide +kernel
  rw [e]
  show (rooted.ember.readRow 6).map (·.take 32) = _
  rw [h]
  rfl

theorem rooted_edge : rooted.edgeIn 3 1000 1000 = true := by
  unfold State.edgeIn State.lookKey
  rw [rooted_root]
  decide +kernel

/-! ### Engines at work -/

/-- A core with one job of a kind in slot 30, in a module where something is set up. -/
def oneJob (k : Nat) (j : Job) (s : State) : State := s.setCore k fun _ => { jobs := [{ j with slot := 30 }] }

/-- The last cell of the module runs its job, for the third time within a second where `n` is 2. -/
def celled (tried : List (Nat × Nat)) (n : Nat) (aged : Bool) : State :=
  (oneJob 95 { kind := .cell, runs := 1, tried := tried } up).setCell 2303 fun _ =>
    { state := .running, core := 95, job := 30, blocks := 4, misses := List.replicate n 0, ages := if aged then [0] else [] }

/-- The last LIU serves a job of the last core. -/
def lius (tried : List (Nat × Nat)) (n : Nat) (short : Bool) : State :=
  let s := oneJob 95 { kind := .liu, tried := tried, cost := if short then 0 else 10 ^ 9 } up
  { s with lius := [(31, { contexts := [(3, 1)], owners := [(3, (95, 30))], running := some 3, fails := List.replicate n 0 })] }

/-- The descriptor of an ECB encryption of one block under AES, from 64 to 80, and the one of the inverse of 2 modulo 9, from 16. -/
def ecbWords : List KWord := [kBits 0x0101, {}, kAddr 64, kAddr 80, kBits 16, kBits 0, kBits 0]

def invWords (len : Nat) : List KWord := [kBits 0x14, kBits 0, kBits 0, kAddr 16, kAddr 24, kBits (BitVec.ofNat 64 (2 ^ 32 + len)), kBits 0]

/-- The status of an LIU result, and what it writes out. -/
def liuAnswer (r : LiuResult) : Nat × Bytes :=
  match r with
  | .refused st => (st, [])
  | .done out _ _ _ => (sOk, out)

/-- The last hash engine works at a job of the last core. -/
def hashes (tried : List (Nat × Nat)) (n : Nat) : State :=
  let s := oneJob 95 { kind := .hash, tried := tried } up
  { s with hashes := [(31, { busy := some (95, 30), fails := List.replicate n 0 })] }

theorem witness_engineOutputs :
    (cellOutput ecbWords (zeros 16) (zeros 16)).length = 16 ∧ cellSize ecbWords = 16 ∧ valAt ecbWords 3 = 80 ∧ inLocal 80 16 = true ∧
      (let s := (oneJob 95 { kind := .liu } up).setCore 95 fun K => { K with mem := [(2, kBits 0x0209)] }
       liuAnswer (s.liuCompute 95 (invWords 2)) = (sOk, [5]) ∧ liuAnswer (s.liuCompute 95 (invWords 3)) = (ePkLength, [])) := by decide +kernel

theorem witness_cellJobs :
    ∀ firmware ∈ [true, false],
      let s := oneJob 95 { kind := .cell, firmware := firmware, desc := 64 } up
      s.islandRuns 95 = true ∧ ((s.job 95 30).map fun j => (j.kind, j.ended, j.runs, j.firmware)) = some (.cell, none, 0, firmware) ∧ inLocal 64 64 = true := by
  decide +kernel

theorem witness_EngineRunsEnd :
    (let s := celled [] 0 false
     s.islandRuns (2303 / 24) = true ∧ s.atWork 2303 = true ∧
       ((s.job (2303 / 24) (s.cell 2303).job).map fun j => (j.runs, j.firmware, j.serial)) = some (1, false, false) ∧ (s.cell 2303).core = 2303 / 24 ∧
       ∀ i ∈ (s.core (2303 / 24)).jobs, i.waiting = []) ∧
      (∀ short ∈ [true, false],
        let s := lius [] 0 short
        (s.serving 31).map (fun p => (p.1, p.2.1, p.2.2.short)) = some (3, 95, short) ∧ s.liuRuns 31 = true) ∧
      (let s := { up with lius := [(31, { contexts := [(3, 2)] })] }
       s.liuRuns 31 = true ∧ Tab.get (s.liu 31).contexts 0 3 = 2 ∧ s.jobsWaiting (31 / 4) .liu = []) ∧
      (let s := hashes [] 0
       (s.hash 31).busy = some (95, 30) ∧ (s.job 95 30).isSome = true ∧ s.hashRuns 31 = true) := by decide +kernel

theorem witness_UnitFaultsAct :
    up.tamper.reports.length + 1 < up.tamper.stormCount ∧
      (∀ tried ∈ [[], [(0, 0), (0, 1)]], ∀ p ∈ [(0, false), (2, false), (0, true)],
        let s := celled tried p.1 p.2
        s.tamper.reports.length + 1 < s.tamper.stormCount ∧ s.islandRuns (2303 / 24) = true ∧ s.atWork 2303 = true ∧ 3 < (s.cell 2303).blocks ∧
          (s.job (2303 / 24) (s.cell 2303).job).map (·.tried) = some tried ∧ ((s.block (2303 / 24)).state = .service) ∧
          ((s.runFor 2303 (leadCycles (s.jobWords 2303) + s.blockTimes 2303 5)).recent (s.cell 2303).misses).length = p.1 + 1 ∧
          ((s.runFor 2303 (leadCycles (s.jobWords 2303) + s.blockTimes 2303 8)).recent (s.cell 2303).ages).length = (if p.2 then 2 else 1)) ∧
      (∀ t ∈ [[], [(0, 28), (0, 29)]], ∀ n ∈ [0, 2],
        let s := lius t n false
        (s.serving 31).isSome = true ∧ s.liuRuns 31 = true ∧ (s.liu 31).state = .service ∧ (s.recent (s.liu 31).fails).length = n + 1 ∧
          (s.block 95).state = .service) ∧
      (∀ t ∈ [[], [(0, 28), (0, 29)]], ∀ n ∈ [0, 2],
        let s := hashes t n
        (s.hash 31).busy = some (95, 30) ∧ (s.job 95 30).isSome = true ∧ s.hashRuns 31 = true ∧ (s.recent (s.hash 31).fails).length = n + 1) ∧
      (let s := { up with cells := [(2303, { state := .quarantined })], lius := [(31, { state := .quarantined })], hashes := [(31, { state := .quarantined })]
                          blocks := [(95, { state := .quarantined })], regions := [(6, { service := .quarantined })] }
       s.running = true ∧ s.boot.state ≠ .booting ∧ 3 ≤ s.blocksServing 6 ∧ s.coreRuns 94 = true ∧ 4 ≤ s.blocksServing (94 / 12) ∧ (s.core 94).inTrap = false ∧
         s.cancelDue 94 = false ∧ (s.cell 2303).state = .quarantined ∧ (s.liu 31).state = .quarantined ∧ (s.hash 31).state = .quarantined ∧
         (s.block 95).state = .quarantined ∧ (s.region (95 / 12)).service = .service ∧ (s.region 6).service = .quarantined ∧
         (s.region (94 / 12)).power = .active ∧ (s.block 94).state = .service ∧ s.tamper.reports.length + 1 < s.tamper.stormCount) ∧
      (let s := interrupted false true
       s.coreRuns 95 = true ∧ 4 ≤ s.blocksServing (95 / 12) ∧ s.cancelDue 95 = true ∧ s.tamper.reports.length + 1 < s.tamper.stormCount) ∧
      (let s := { up with blocks := (List.range 10).map fun i => (72 + i, ({ state := .retired } : Block)), regions := [(6, { service := .quarantined })] }
       s.running = true ∧ s.blocksServing 6 < 3 ∧ (s.region 6).service = .quarantined ∧ s.tamper.reports.length + 1 < s.tamper.stormCount) ∧
      State.reset.boot.state = .booting ∧ State.reset.tamper.reports.length + 1 < State.reset.tamper.stormCount := by decide +kernel

/-! ### EMBER, entropy and time -/

theorem witness_EmberReadsWhatWasWritten :
    (∀ a, (({ seedA := markSeed } : Ember).seedOf a).isSome = true) ∧ (2047 : Nat) < 2048 ∧ (0 : Nat) ≠ 2047 ∧ allZero markSeed = false ∧
      (({ seedA := markSeed, rows := [(0, zeros 64), (4095, zeros 64)] } : Ember).rows.map (·.1)).Nodup := ⟨fun _ => rfl, by decide⟩

/-- Samples that alternate: they pass both tests. -/
def goodBits : List Bool := (List.range 1024).map fun i => i % 2 = 0

/-- The last region with a source in a state. -/
def sourced (x : Source) : State := (up.setEntropy 7 fun e => e.setSource 2 fun _ => x).setEntropy 7 fun e => e.setSource 0 fun _ => { state := .standby }

theorem witness_SourcesFollowTheirTests :
    (let s := sourced { state := .active }
     ((s.source 7 2).state.runs = true ∧ (s.source 7 2).state ≠ .failed ∧ (s.source 7 2).state ≠ .starting ∧ (s.source 7 2).capture = none) ∧
       (runsOf (s.source 7 2).last (s.source 7 2).run 0 (List.replicate 81 false)).2.1 = 81 ∧ (List.replicate 81 false).length ≤ 1024 ∧
       (s.source 7 2).windowFits goodBits.length = true ∧ ({ s.source 7 2 with broken := true } : Source).windowFits 2047 = true ∧
       [(2 + 1) % 3, (2 + 2) % 3].find? (fun j => (s.source 7 j).state = .standby && (s.source 7 j).capture.isNone) = some 0 ∧
       goodBits.length = 1024 ∧ startFits goodBits.length = true ∧ startFits (List.replicate 1024 true).length = true ∧ startFits 2047 = true ∧
       (repetitionFails (s.source 7 2) goodBits || adaptiveFails (lastWindow goodBits)) = false ∧
       (repetitionFails (s.source 7 2) (List.replicate 1024 true) || adaptiveFails (lastWindow (List.replicate 1024 true))) = true ∧
       (s.region 7).entropy.conditionerOut = false) ∧
      (∀ x ∈ [SourceState.failed, .retired], let s := sourced { state := .failed }
        (s.source 7 2).state.runs = true ∧ x ≠ .starting) ∧
      (let s := sourced { state := .starting }
       (s.region 7).service = .service ∧ (s.region 7).power ≠ .rest ∧ s.running = true ∧ (s.source 7 2).state = .starting ∧ (s.source 7 2).state.runs = true ∧
         (s.region 7).entropy.active = none ∧ (s.source 7 0).state = .standby ∧ (s.source 7 1).state ≠ .starting) ∧
      (let s := up.setEntropy 7 fun e => e.setSource 2 fun _ => { state := .starting }
       (s.region 7).entropy.active = none ∧ (s.source 7 2).capture = none ∧ ∀ j, j < 2 → (s.source 7 j).state ≠ .starting ∧ (s.source 7 j).state ≠ .standby) ∧
      ((sourced { state := .failed }).source 7 2).state = .failed := by decide +kernel

/-- A command of the operator that waits for one byte of its generator. -/
def drawing : Cmd := { cmd 0x1801 with phase := .reading, draws := [1], waitFrom := some 5 }

/-- Every generator instantiated, and the store's seed there; the random start-up is still to end. -/
def allReady : State :=
  let s := { holding up 256 drawing with boot := { up.boot with randomReady := false }, ember := { seedA := markSeed, scramble := markSeed } }
  let s := (List.range 8).foldl (fun (s : State) r => s.setEntropy r fun e => { e with blinding := { inst := true } }) s
  s.setDom 256 fun D => { D with drbg := { inst := true } }

theorem witness_SeedsAreServed :
    (((up.setEntropy 7 fun e => { e with window := some (goodBits, 9) }).region 7).entropy.window = some (goodBits, 9)) ∧
      (let s := up.setEntropy 0 fun e => { e with pool := [{ bytes := zeros 48 }] }
       (s.region 7).entropy.pool = [] ∧ (s.region 7).entropy.active = none ∧ (s.region 7).service = .service ∧
         (((List.range 7).map fun i => (7 + 1 + i) % 8).find? fun q => (s.pool q) != []) = some 0 ∧ s.pool 0 = [{ bytes := zeros 48 }]) ∧
      (let s := { up with ember := { seedA := markSeed } }
       s.boot.powered = true ∧ s.ember.blank = false ∧ (∀ q, q < 8 → s.pool q = [])) ∧
      (let s := { up with ember := { seedA := markSeed } }.setEntropy 7 fun e => { e with pool := [{ bytes := markSeed }] }
       s.boot.powered = true ∧ s.ember.blank = false ∧ (s.secret.map fun x => allZero x.1) = some false) ∧
      (allReady.running = true ∧ allReady.boot.randomReady = false ∧ allReady.seeded.ember.ready = true ∧ allReady.seeded.blindAll = true ∧
         (∀ d, d ≤ 256 → (allReady.seeded.dom d).mode ≠ .absent ∨ d = operator → (allReady.seeded.dom d).drbg.inst = true)) ∧
      (let s := holding up 256 drawing
       s.cmd 256 1 = some drawing ∧ drawing.waitFrom = some 5 ∧ drawing.awaits = true ∧ s.boot.randomReady = true ∧ drawing.toRead.contains .input = false ∧
         (((s.passTo (5 + drawing.waitLimit 256)).draw 256).cmd 256 1).map (fun x => (x.awaits, x.aborted)) = some (true, false)) := by decide +kernel

/-- A clock in a state. -/
def clocked (c : Clock) : State := { up with clock := c }

theorem witness_PulsesDisciplineTheClock :
    (∀ st ∈ [ClockState.unsynchronised, .acquiring, .locked, .holdover, .untrusted], ∀ n ∈ [0, 1, 2, 3],
      (clocked { state := st, inWindow := n, lastEdge := some 0, mono := 1000 }).running = true) ∧
      (let s := clocked { lastEdge := none }
       s.clock.lastEdge = none ∧ s.clock.state = .unsynchronised) ∧
      (∀ gap ∈ [999900000, 1000000000, 1000100000], (judgeEdge 100000 gap false).toOption = some 1) ∧
      (∀ gap ∈ [0, 999899999, 1000100001], (judgeEdge 100000 gap false).toOption = none) ∧ (judgeEdge 100000 1000000000 true).toOption = some 1 := by
  decide +kernel

/-- A pitch's set PENDING for the boundary of second 9, with an image. -/
def pendingSet (k : Nat) (b : Bytes) : State :=
  { pitched .active .off with clock := { state := .locked, set := true, tai := 8500000000 }, sets := [(k, { state := .pending, image := b, boundary := 9 })] }

theorem witness_InstantsOfTheClockAct :
    (clocked {}).running = true ∧ (clocked {}).clock.timeSet = none ∧ (clocked { timeSet := some (1, 9) }).clock.timeSet = some (1, 9) ∧
      (∀ p ∈ [(3, smallConf.bytes), (3, zeros 176), (256, up.chip.bytes)],
        let s := pendingSet p.1 p.2
        s.running = true ∧ s.dueSets 9 = [p.1] ∧
          ((s.passToTai (9 * 1000000000)).instantFail p.1 (s.stage p.1).image = none ↔ p.2 ≠ zeros 176)) ∧
      (∀ holding ∈ [true, false], ∀ due ∈ [none, some 8],
        let s := { pendingSet 3 smallConf.bytes with guy := { holding := holding, due := due } }
        s.guy.rebuilding = false ∧ s.guy.holding = holding ∧ s.guy.due = due ∧ 3 ∈ s.dueSets 9) := by decide +kernel

theorem witness_keyValidityEdge : rooted.running = true ∧ rooted.edgeIn 3 1000 1000 = true := ⟨rfl, rooted_edge⟩

/-! ### Power and wardens -/

theorem witness_PowerStatesFollowTheGovernor :
    (let s := up
     s.running = true ∧ s.governs = true ∧ (s.region 7).service = .service ∧ (s.region 7).exiting = none ∧ s.regionIdle 7 = true ∧
       (s.region 7).power.depth < (s.choosePower 7).depth ∧ s.choosePower 7 = .rest ∧ s.mayBivvy = true ∧ s.boot.bivvy = false ∧
       s.supplies.thermalHold = false ∧ s.holdThreshold ≤ 105 ∧ (399 : Nat) < 400) ∧
      (let s := { up with chip := { up.chip with deepest := 0 }, regions := [(7, { power := .rest })] }
       s.governs = true ∧ s.regionIdle 7 = true ∧ (s.choosePower 7).depth < (s.region 7).power.depth ∧ (s.region 7).power ≠ .active) ∧
      (let s := { up with regions := [(7, { power := .rest })], lius := [(31, { state := .quarantined, since := 5 })] }
       s.governs = true ∧ (s.region 7).power ≠ .active ∧ (s.region 7).exiting = none ∧ earliest (s.regionEvents 7) = some 1000000005) ∧
      (let s := { up with boot := { up.boot with bivvy := true } }
       s.running = true ∧ s.boot.bivvy = true ∧ s.boot.waking = none) ∧
      (let s := { up with boot := { up.boot with bivvy := true }, lius := [(31, { state := .quarantined, since := 5 })] }
       s.boot.bivvy = true ∧ s.boot.waking = none ∧ (earliest s.knownEvents).isSome = true) ∧
      up.wakes 7 = false ∧
      (let s := holding { up with regions := (List.range 8).map fun r => (r, ({ power := .rest } : Region)) } 256 { waiting 0x1001 with readySince := some 0 }
       s.boot.bivvy = false ∧ s.supplies.thermalHold = false ∧ (s.region 0).power ≠ .active ∧ (s.region 0).exiting = none ∧ s.wakes 0 = true) ∧
      (∀ failed ∈ [[], [7]], let s := { up with regions := [(7, { power := .rest, exiting := some 4 })] }
       (s.region 7).power = .rest ∧ (s.region 7).service = .service ∧ (failed = [] ∨ 7 ∈ failed)) ∧
      (let s := { up with boot := { up.boot with bivvy := true, waking := some 4 } }
       s.running = true ∧ s.boot.waking = some 4 ∧ s.boot.bivvy = true) ∧
      (let s := { up with regions := [(7, { power := .rest, exiting := some 4 })] }
       s.running = true ∧ (s.region 7).exiting = some 4 ∧ s.boot.bivvy = false ∧ s.supplies.thermalHold = false) ∧
      (let s := { up with supplies := { thermalHold := true } }
       s.running = true ∧ s.supplies.thermalHold = true ∧ 94 < s.holdThreshold - 10) := by decide +kernel

/-- A module whose wardens have states. -/
def guyed (a b : Warden) (g : Guyline) : State := { up with wardens := [(0, a), (1, b)], guy := g }

theorem witness_WardenFailuresAct :
    (∀ st ∈ [WardenState.offline, .mirrored, .syncing, .failed], ∀ n ∈ [0, 2, 3], ∀ other ∈ [0, 3],
      let s := guyed { state := .active, wireMisses := n, fabricMisses := other } { state := st, wireMisses := n, fabricMisses := other } {}
      s.wardensServe = true ∧ (s.warden 0).runs = true ∧ (st = .mirrored ∨ st = .syncing → (s.warden 1).runs = true) ∧ (s.warden 0).fault = false ∧ (s.warden 0).resigned = false ∧
        s.guy.rebuilding = false ∧ s.guy.holding = false ∧ s.activeWarden = 0 ∧ s.standby = 1 ∧ (s.warden 1).state = st ∧ (s.warden 1).wireMisses = n ∧
        (s.warden 1).fabricMisses = other ∧ (s.warden 0).failures.length < 3 ∧ (s.warden 1).failures.length < 3) ∧
      (∀ st ∈ [WardenState.mirrored, .syncing, .failed],
        let s := guyed { state := .active, failures := [0, 0] } { state := st } {}
        s.wardensServe = true ∧ (s.warden 0).runs = true ∧ (s.warden s.standby).state = st ∧
          3 ≤ ((s.warden 0).failures.filter fun t => s.now < t + 86400000000000).length + 1) := by decide +kernel

theorem witness_GrantsFollowTheStandby :
    (∀ p ∈ [([], true), ([1], false)],
      let s := guyed { state := .offline, fault := true, digest := [] } { state := .active, digest := p.1 } { code := movingToB, holding := true, faultAt := 0 }
      s.wardensServe = true ∧ s.guy.holding = true ∧ s.guy.rebuilding = false ∧ s.guy.code = movingToB ∧ s.now + 40000 ≤ s.guy.faultAt + 40000 ∧
        s.activeWarden = 1 ∧ (s.warden 1).state ≠ .failed ∧ (s.warden 1).failures.length < 3 ∧ s.guy.due = none ∧
        decide ((((s.pass 40000).guy.journal.foldl (fun s _ => s.applyEntry 1 JournalEntry.bytes) (s.pass 40000)).warden 1).digest =
          ((s.pass 40000).guy.journal.foldl (fun s _ => s.applyEntry 1 JournalEntry.bytes) (s.pass 40000)).guy.headDigest) = p.2) ∧
      movingToA ≠ movingToB ∧
      (∀ n ∈ [4095, 4096],
       let s := guyed { state := .active } { state := .mirrored } { journal := [{}, { seq := 1 }], written := n }
       s.wardensServe = true ∧ s.journals = true ∧ s.guy.journal = [{}, { seq := 1 }] ∧ (s.warden s.standby).digest = s.guy.headDigest ∧
         (n = 4095 → s.guy.written < s.guy.checkpointAt + 4096) ∧ (n = 4096 → s.guy.checkpointAt + 4096 ≤ s.guy.written)) ∧
      (let s := guyed { state := .active } { state := .mirrored, digest := [1] } {}
       s.journals = true ∧ (s.warden s.standby).digest ≠ s.guy.headDigest) ∧
      (let s := guyed { state := .selfTest } { state := .failed } { rebuilding := true }
       s.wardensServe = true ∧ (s.warden 0).state = .selfTest ∧ s.guy.rebuilding = true ∧ (s.warden 1).state = .failed ∧ (s.warden 1).state ≠ .active) ∧
      (let s := guyed { state := .active } { state := .selfTest } {}
       (s.warden 1).state = .selfTest ∧ s.guy.rebuilding = false) ∧
      (let s := guyed { state := .active } { state := .syncing } { journal := List.replicate 64 {} }
       1 ≠ s.activeWarden ∧ (s.warden 1).state = .syncing ∧ (s.warden s.activeWarden).state = .active ∧ s.guy.journal.length ≤ 64) ∧
      (let s := guyed { state := .active } { state := .failed } { rebuilding := true }
       s.guy.rebuilding = true ∧ (s.warden s.activeWarden).state = .active ∧ s.guy.due = none) ∧
      (let s := { guyed { state := .mirrored } { state := .active } { code := grantB, preparing := some 7 } with clock := { mono := 100000008 } }
       s.wardensServe = true ∧ s.guy.preparing = some 7 ∧ s.quietPoint = true ∧ (s.warden 0).state = .mirrored ∧ s.guy.holding = false ∧ 7 + 100000000 < s.now) ∧
      (∀ t ∈ [none, some 7],
        let s := guyed { state := .mirrored } { state := .active } { code := grantB, preparing := t }
        s.wardensServe = true ∧ s.activeWarden = 1 ∧ (s.warden 1).state = .active ∧ (s.warden 0).state = .mirrored ∧ s.guy.takebackOff = false ∧
          s.guy.preparing = t ∧ s.guy.holding = false ∧ s.quietPoint = true ∧ s.now ≤ 7 + 100000000 ∧ s.guy.held = [] ∧ s.host.spdm.busy = false) := by decide +kernel

/-! ### The trail's memories, the host's controls, and resets -/

/-- A pitch with a running log whose bitmap word 0 has a CAS outstanding: 5 was known, 2 is to be set. -/
def casOut (fails : Nat) : State :=
  { (pitched .active .running).setDom 3 fun D => { D with dirty := { D.dirty with sent := [(0, 5, 2)], fails := [(0, fails)] } } with
    host := { up.host with atomicReq := true } }

theorem witness_LogMemoriesAndHostControlsAct :
    (let s := { up with trail := { sram := [{ seq := 4096, code := 2 }], unflushed := 1, signatures := [(4096, 1, [])] } }
     s.trail.mramFailed = false ∧ s.trail.sramFailed = false ∧ Tab.find s.trail.signatures 4096 = some (1, []) ∧ s.trail.entry 4096 = some { seq := 4096, code := 2 } ∧
       s.running = true ∧ s.trail.state = 0 ∧ s.trail.state ≠ 2 ∧ s.host.linkUp = true) ∧
      (∀ fails ∈ [0, 62, 63],
        let s := casOut fails
        s.running = true ∧ (s.dom 3).dirty.mode = .running ∧ s.casWaits 3 0 = false ∧ Tab.find (s.dom 3).dirty.sent 0 = some (5, 2) ∧
          5 % 2 ^ 64 = 5 ∧ Tab.get (s.dom 3).dirty.wanted 0 0 = 0 ∧ 8 % 2 ^ 64 ≠ 5 ∧ Tab.get (s.dom 3).dirty.fails 0 0 = fails ∧ s.host.atomicReq = true) := by
  decide +kernel

theorem witness_BootsStartTheModule :
    movedOn.boot.powered = false ∧ State.reset.unbooted = true ∧
      (let s := { up with life := { ({} : LifeCycleReg) with pendingReset := true } }
       s.running = true ∧ s.life.pendingReset = true) ∧
      (let s := up.setTamper fun t => { t with striking := true, strikePending := true }
       s.running = true ∧ s.tamper.striking = true ∧ s.tamper.strikePending = true ∧ s.life.boot.2 = none ∧ s.tamper.emberMachine = true) ∧
      (State.reset.boot.state = .booting ∧ State.reset.running = true ∧ State.reset.boot.step < 7) ∧
      (let s := { up with boot := { state := .booting, step := 7 } }
       s.boot.state = .booting ∧ s.running = true ∧ 7 ≤ s.boot.step ∧ s.host.perst = false ∧ s.supplies.refclk = true) ∧
      (let s := { pitched .active .off with boot := { state := .booting, step := 7 }, tamper := { machine := tamperLock } }
       s.boot.state = .booting ∧ s.running = true ∧ (s.dom 3).mode = .active ∧ s.bootLocked = true) := by decide +kernel

theorem witness_HostResetsAct :
    up.running = true ∧ up.boot.state ≠ .booting ∧ up.host.linkUp = true ∧ up.supplies.refclk = true ∧
      (up.setTamper fun t => { t with striking := true }).tamper.striking = true ∧ up.tamper.striking = false ∧
      (let s := { up with boot := { state := .booting, step := 7 } }
       s.running = true ∧ s.boot.state = .booting ∧ s.tamper.striking = false ∧ s.host.linkUp = true) ∧
      { up with supplies := { refclk := false } }.supplies.refclk = false ∧ up.supplies.p12v = true ∧ up.supplies.p3v3 = true ∧ up.host.perst = false := by decide +kernel

/-! ### Attestation, the twin link, the bus and the TAP -/

/-- A DOE object of an SPDM message. -/
def doeObject (m : Bytes) : Bytes := leBytes 2 1 ++ [1, 0] ++ leBytes 4 (2 + m.length / 4) ++ m

/-- A module with a responder in a stage, whose secrets are empty. -/
def responding (x : Spdm) : State := { up with host := { up.host with spdm := x } }

/-- An open record of an established session, with an object that it is in. -/
def securedObject (m : Bytes) : Bytes := leBytes 2 1 ++ [2, 0] ++ leBytes 4 ((40 + m.length) / 4) ++ sealRecord [] 5 0 m ++ zeros 0

theorem witness_MailboxObjectsAreAnswered :
    (∀ code ∈ [0x84, 0xE1, 0xE3, 0x81, 0x82, 0x83, 0xE0, 0xE4, 0xE5, 0xE8, 0xE9, 0xEC, 0xFE],
      up.requestCode (doeObject [0x12, BitVec.ofNat 8 code, 0, 0]) = some code) ∧
      up.requestCode [] = none ∧ up.running = true ∧ up.host.linkUp = true ∧ up.boot.state ≠ .booting ∧ up.boot.state ≠ .halted ∧
      up.host.spdm.busy = false ∧ up.guy.holding = false ∧ { up with guy := { holding := true } }.guy.holding = true := by decide +kernel

theorem slice_left (m t : Bytes) (o n : Nat) (h : o + n ≤ m.length) : slice (m ++ t) o n = slice m o n := by
  simp only [slice, List.drop_append, List.take_append, List.length_drop]
  have e : n - (m.length - o) = 0 := by omega
  simp [e]

theorem slice_right (m t : Bytes) (o n : Nat) (h : m.length = o) (h' : t.length = n) : slice (m ++ t) o n = t := by
  subst h h'
  simp [slice]

/-- A FINISH whose MAC holds under an empty secret and transcript. -/
def finishMessage : Bytes := [0x12, 0xE5, 0, 0] ++ spdmVerifyData [] (sha384 [0x12, 0xE5, 0, 0])

theorem witness_ResponderFollowsItsStages :
    slice finishMessage 4 48 = spdmVerifyData [] (sha384 ([] ++ finishMessage.take 4)) ∧
      (∀ p ∈ [(0xE1, 20), (0xE3, 32), (0x81, 4), (0x82, 8), (0x83, 36), (0xE0, 4), (0xE5, 52), (0xE8, 4), (0xE9, 4), (0xEC, 4), (0xFE, 18)],
      let m : Bytes := [0x12, BitVec.ofNat 8 p.1, 0, 0] ++ zeros (p.2 - 4)
      byteAt m 0 = 0x12 ∧ byteAt m 1 = p.1 ∧ requestLen p.1 ≤ m.length) ∧
      (byteAt [0x10, 0x84, 0, 0] 0 = 0x10 ∧ byteAt [0x10, 0x84, 0, 0] 1 = 0x84) ∧
      (responding { stage := .versioned }).host.spdm.stage = .versioned ∧ (responding { stage := .capable }).host.spdm.stage = .capable ∧
      (responding { stage := .negotiated }).host.spdm.stage = .negotiated ∧ (responding { session := .handshake }).host.spdm.session = .handshake ∧
      (responding { session := .established }).host.spdm.session = .established ∧
      slice ([0x12, 0xE5, 0, 0] ++ zeros 48) 4 48 ≠ spdmVerifyData [] (sha384 ([] ++ [0x12, 0xE5, 0, 0])) ∧
      byteAt [0x12, 0xE0, 0, 6] 3 = 6 ∧ bit (byteAt [0x12, 0xE0, 0, 6] 2) 0 = false ∧ byteAt [0x12, 0xE9, 1, 0] 2 = 1 ∧
      byteAt ([0x12, 0xFE] ++ zeros 9 ++ [2, 0, 0, 4] ++ zeros 43) 11 = 2 ∧ byteAt ([0x12, 0xFE] ++ zeros 9 ++ [2, 0, 0, 4] ++ zeros 43) 14 = 4 ∧
      byteAt ([0x12, 0xFE] ++ zeros 9 ++ [4, 0, 0, 4] ++ zeros 43) 11 = 4 ∧
      (Tab.get { up with host := { up.host with ide := [(4, { secure := true })] } }.host.ide {} 4).secure = true := by
  have e : [] ++ finishMessage.take 4 = [0x12, 0xE5, 0, 0] := by simp [finishMessage]
  have l : (spdmVerifyData [] (sha384 [0x12, 0xE5, 0, 0])).length = 48 := by decide +kernel
  rw [e]
  exact ⟨slice_right [0x12, 0xE5, 0, 0] _ 4 48 rfl l, by decide +kernel⟩

/-- A link in a mode, with keys, in its first epoch. -/
def linked (mode : LinkMode) (initiator : Bool) : State :=
  { up with link := { mode := mode, keys := [zeros 32, zeros 32, zeros 32, zeros 32], epoch := 1, initiator := initiator, kemKey := if initiator then [1] else [] } }

/-- A frame of a type from the other side, with a body as it stands on the line. -/
def lineFrame (type : Nat) (body : Bytes) : Bytes :=
  frameHead type body.length 1 1 ++ body ++ cmac (aes (zeros 32)) (frameHead type body.length 1 1 ++ body)

theorem accepts_of (s : State) (b : Bytes) (f : Frame) (p : Bytes) (h1 : parseFrame b = some f)
    (h2 : s.link.mode ≠ .down ∧ s.link.mode ≠ .training ∧ s.link.oldKeys = [] ∧ f.epoch = s.link.epoch ∧ s.link.epoch ≠ 0 ∧ f.no = s.link.rxNo)
    (h3 : f.open s.link.keys (!s.link.initiator) = some p) : ∃ t, s.acceptFrame b = (some (f.type, p), t) ∧ t.link.queued = s.link.queued := by
  obtain ⟨a, b, c, d, e, g⟩ := h2
  unfold State.acceptFrame
  simp [h1, a, b, c, d, e, g, h3]

/-- Frames of the types of an open session. -/
def frames : List (Nat × Bytes) := [(3, zeros 1600), (4, zeros 16), (5, zeros 8), (6, zeros 16), (7, zeros 1600), (8, [])]

theorem frames_parse (p : Nat × Bytes) (h : p ∈ frames) :
    parseFrame (lineFrame p.1 p.2) =
      some { type := p.1, epoch := 1, no := 1, body := p.2, tag := cmac (aes (zeros 32)) (frameHead p.1 p.2.length 1 1 ++ p.2) } := by
  have ht : ∀ p ∈ frames, (cmac (aes (zeros 32)) (frameHead p.1 p.2.length 1 1 ++ p.2)).length = 16 := by decide +kernel
  have hl : ∀ p ∈ frames, (frameHead p.1 p.2.length 1 1 ++ p.2).length = 16 + p.2.length ∧ p.2.length ≤ 8192 := by decide +kernel
  have hs : ∀ p ∈ frames, let m := frameHead p.1 p.2.length 1 1 ++ p.2
      leNat (slice m 2 2) = p.2.length ∧ leNat (slice m 0 1) = p.1 ∧ leNat (slice m 4 4) = 1 ∧ leNat (slice m 8 8) = 1 ∧ slice m 16 p.2.length = p.2 := by
    decide +kernel
  have a := ht _ h
  have b := hl _ h
  have c := hs _ h
  unfold parseFrame lineFrame byteAt field
  generalize frameHead p.1 p.2.length 1 1 ++ p.2 = m at *
  generalize cmac (aes (zeros 32)) m = t at *
  obtain ⟨c1, c2, c3, c4, c5⟩ := c
  obtain ⟨b, b'⟩ := b
  simp only [slice_left m t 2 2 (by omega), slice_left m t 0 1 (by omega), slice_left m t 4 4 (by omega), slice_left m t 8 8 (by omega), c1, c2, c3, c4]
  have e : m.length + 16 = 32 + p.2.length := by omega
  simp [slice_left m t 16 p.2.length (by omega), slice_right m t (16 + p.2.length) 16 b a, c5, a, e, b']

/-- Each frame is accepted, whatever its body deciphers to. -/
theorem frames_accepted (p : Nat × Bytes) (h : p ∈ frames) (mode : LinkMode) (initiator : Bool) (hm : mode = .up ∨ mode = .secure) :
    ∃ t, (linked mode initiator).acceptFrame (lineFrame p.1 p.2) = (some (p.1, ctrMode (aes (zeros 32)) 4 (frameCounter (!initiator) 1 1) p.2), t) ∧
      t.link.queued = [] := by
  refine accepts_of _ _ _ _ (frames_parse p h) ?_ ?_
  · rcases hm with rfl | rfl <;> simp [linked]
  · show Frame.open _ [zeros 32, zeros 32, zeros 32, zeros 32] (!initiator) = _
    have k : ∀ i, directionKeys [zeros 32, zeros 32, zeros 32, zeros 32] i = (zeros 32, zeros 32) := by decide
    unfold Frame.open
    rw [k]
    simp

theorem deciphered_length (initiator : Bool) : (ctrMode (aes (zeros 32)) 4 (frameCounter (!initiator) 1 1) (zeros 1600)).length = 1600 := by
  cases initiator <;> decide +kernel

/-- A link that waits for the peer's KEY_SETUP. -/
def exchanging (initiator : Bool) : State :=
  twoSeeds { up with link := { mode := .up, helloIn := true, initiator := initiator, kemKey := if initiator then [1] else [] } }

theorem long_next (i : Bool) : (exchanging i).plainNext 2 (plainFrame 2 1 (zeros 1600)) = some (zeros 1600) := by
  have c : let m := frameHead 2 1600 0 1 ++ zeros 1600
      m.length = 1616 ∧ leNat (slice m 2 2) = 1600 ∧ leNat (slice m 0 1) = 2 ∧ leNat (slice m 4 4) = 0 ∧ leNat (slice m 8 8) = 1 ∧ slice m 16 1600 = zeros 1600 := by
    decide +kernel
  have z : (zeros 1600).length = 1600 := by decide +kernel
  have x : (exchanging i).link.rxNo = 1 := by cases i <;> rfl
  unfold State.plainNext parseFrame plainFrame byteAt field
  rw [x, z]
  simp only [List.append_assoc (frameHead 2 1600 0 1 ++ zeros 1600)]
  have a : (leBytes 4 (crc32 (frameHead 2 1600 0 1 ++ zeros 1600)) ++ zeros 12).length = 16 := rfl
  unfold Frame.plain
  generalize e : leBytes 4 (crc32 (frameHead 2 1600 0 1 ++ zeros 1600)) ++ zeros 12 = t at *
  generalize g : frameHead 2 1600 0 1 ++ zeros 1600 = m at *
  obtain ⟨b, c1, c2, c3, c4, c5⟩ := c
  simp only [slice_left m t 2 2 (by omega), slice_left m t 0 1 (by omega), slice_left m t 4 4 (by omega), slice_left m t 8 8 (by omega), c1, c2, c3, c4]
  simp [slice_left m t 16 1600 (by omega), slice_right m t 1616 16 b a, c5, a, b, z, g, e]

theorem witness_LinkSessionsForm :
    (∀ m ∈ [LinkMode.down, .training, .up, .secure],
      (linked m true).linkRuns = true ∧ (linked m true).boot.state ≠ .booting ∧ (linked m true).link.mode = m ∧ (linked m true).link.helloIn = false) ∧
      (linked .up true).plainNext 1 [] = none ∧ ((linked .up true).plainNext 1 (plainFrame 1 1 (zeros 17))).isSome = true ∧
      (∀ i ∈ [true, false],
        let s := exchanging i
        s.linkRuns = true ∧ s.link.mode = .up ∧ s.link.helloIn = true ∧ s.link.keys = [] ∧ s.link.initiator = i ∧ (s.link.kemKey ≠ [] ↔ i = true) ∧
          (s.takeTwo (List.range 8)).isSome = true) ∧
      (∀ i, (exchanging i).plainNext 2 (plainFrame 2 1 (zeros 1600)) = some (zeros 1600)) ∧ (zeros 1600).length = 1600 ∧
      kemEkValid 1024 ((zeros 1600).take 1568) = true ∧
      (∀ p ∈ frames, ∀ mode, (mode = .up ∨ mode = .secure) → (linked mode true).link.mode = mode ∧ (linked mode true).link.keys ≠ [] ∧
        (linked mode true).link.initiator = true ∧ (linked mode true).link.kemKey ≠ [] ∧ byteAt (lineFrame p.1 p.2) 0 = p.1 ∧
        ∃ x t, (linked mode true).acceptFrame (lineFrame p.1 p.2) = (some (p.1, x), t) ∧ t.link.queued = [] ∧ (p.2.length = 1600 → x.length = 1600)) ∧
      (let s := twoSeeds { up with link := { mode := .secure, keys := [zeros 32, zeros 32, zeros 32, zeros 32], epoch := 1, initiator := true } }
       s.linkRuns = true ∧ s.link.mode = .secure ∧ s.link.initiator = true ∧ s.link.kemKey = [] ∧
         (if 2 ^ 32 < s.link.txNo ∨ 2 ^ 32 < s.link.rxNo then s else s.passTo (s.link.epochSince + 86400000000000)).openExchange.isSome = true) := by
  refine ⟨by decide +kernel, by decide +kernel, by decide +kernel, by decide +kernel, long_next, by decide +kernel, by decide +kernel,
    fun p h mode hm => ?_, by decide +kernel⟩
  obtain ⟨t, e, q⟩ := frames_accepted p h mode true hm
  refine ⟨rfl, by simp [linked], rfl, by simp [linked], ?_, _, t, e, q, ?_⟩
  · clear e q t; revert p; decide +kernel
  · intro l
    have : p.2 = zeros 1600 := by clear e q t; revert p; decide +kernel
    rw [this]
    exact deciphered_length true

/-- The frames of witness_LinkSessionsForm are those of this statement too. -/
theorem witness_LinkFramesAct :
    (linked .secure true).boot.powered = true ∧ (linked .secure true).boot.held = false ∧ [4, 5, 6].all (fun n => frames.any fun p => p.1 = n) = true ∧
      ((linked .secure true).wakeModule.acceptFrame [4]).1 = none ∧ 4 ≤ byteAt [4] 0 ∧ byteAt [4] 0 ≤ 5 ∧ (linked .secure true).boot.state ≠ .locked ∧
      (linked .secure true).boot.state ≠ .booting ∧ (linked .secure true).link.buffered + (linked .secure true).heartbeats.length + 32 ≤ 4194304 ∧
      (let s := { linked .secure true with link := { (linked .secure true).link with unacked := [(1, [])] } }
       s.link.mode = .secure ∧ s.link.unacked ≠ []) ∧
      (let s := up.setDom 3 fun D => { D with twin := { mode := .attached, role := .primary, unacked := [{}] } }
       (s.dom 3).twin.mode = .attached ∧ (s.dom 3).twin.role = .primary ∧ (s.dom 3).twin.unacked = [{}]) := by decide +kernel

/-- A packet on the bus that carries a whole message. -/
def busPacket (m : Bytes) : Bytes :=
  let b := [0xC4, 0x0F, BitVec.ofNat 8 (5 + m.length), 0x11, 1, 0, 0x20, 0xC8] ++ m
  b ++ [crc8 b]

/-- Messages of the commands of the endpoint. -/
def busMessages : List Bytes :=
  [[0, 0x80, 1, 1, 9], [0, 0x80, 2], [0, 0x80, 3], [0, 0x80, 4, 0], [0, 0x80, 5], [1, 0x80, 0, 2], [1, 0x80, 0, 3, 0, 0, 0, 0, 1, 2], [1, 0x80, 0, 4],
    [1, 0x80, 0, 5, 2, 0, 0, 0, 0], [1, 0x80, 2, 0x11, 10, 0, 0], [1, 0x80, 2, 0x21, 23, 0, 0, 0], [1, 0x80, 2, 0x50],
    [1, 0x80, 2, 0x51, 13, 0, 0, 0] ++ zeros 5 ++ [255, 0, 0, 0]]

/-- The ARP packet that gives this module its address. -/
def arpHead : Bytes := [0xC2, 0x04, 17] ++ slice Config.udid 0 16

theorem pec_appended (b : Bytes) : pecHolds (b ++ [crc8 b]) = true := by
  simp [pecHolds]

theorem witness_BusMessagesAreAnswered :
    up.busAnswers = true ∧ pecHolds (busPacket [] ++ [1]) = false ∧
      (∀ m ∈ busMessages, pecHolds (busPacket m) = true ∧ (up.wakeModule.packetIn (busPacket m)).1 = some m) ∧
      busMessages.map commandOf = [(0, 0, 1), (0, 0, 2), (0, 0, 3), (0, 0, 4), (0, 0, 5), (1, 0, 2), (1, 0, 3), (1, 0, 4), (1, 0, 5), (1, 2, 0x11), (1, 2, 0x21),
        (1, 2, 0x50), (1, 2, 0x51)] ∧ up.sensorsReady = true ∧
      (let b := arpHead ++ [0x40] ++ [crc8 (arpHead ++ [0x40])]
       pecHolds b = true ∧ b.length = 21 ∧ slice b 0 3 = [0xC2, 0x04, 17] ∧ slice b 3 16 = slice Config.udid 0 16) ∧
      (let s := { up with events := { latched := [0x193], routes := [(0x193, { smbAlert := true })] } }
       s.smbAlertLow = true ∧ up.guy.holding = false ∧ { s with guy := { holding := true } }.smbAlertLow = true) := by
  refine ⟨by decide +kernel, by decide +kernel, by decide +kernel, by decide +kernel, by decide +kernel, ?_, by decide +kernel⟩
  have hu : (slice Config.udid 0 16).length = 16 := slice_length _ _
  refine ⟨pec_appended _, ?_, ?_, ?_⟩
  · simp [arpHead, hu]
  · simp [arpHead, slice]
  · show slice (arpHead ++ [0x40] ++ _) 3 16 = _
    rw [List.append_assoc, slice_left _ _ _ _ (by simp [arpHead, hu])]
    exact slice_right [0xC2, 0x04, 17] _ 3 16 rfl hu

/-- A module whose life cycle allows a debug level. -/
def unlocked (level : Nat) (state : LifeCycle) : State := { up with life := { ({} : LifeCycleReg) with debugLevel := level, state := state } }

theorem witness_DebugIsLevelled :
    (∀ level ∈ [0, 1, 2, 3], (unlocked level .returned).boot.powered = true ∧ (unlocked level .returned).running = true ∧
      (unlocked level .returned).life.debugLevel = level ∧ tapNeeds .debug level = decide (2 ≤ level) ∧ tapNeeds .extest level = decide (1 ≤ level) ∧
      tapNeeds .preload level = decide (1 ≤ level) ∧ tapNeeds .idcode level = true) ∧
      (unlocked 3 .returned).debugServes (.ember 4095) false = true ∧ (unlocked 2 .returned).debugServes (.ember 4095) (Option.isSome (none : Option Bytes)) = false ∧
      (unlocked 3 .field).debugServes (.ember 4095) (Option.isSome (some ([] : Bytes))) = false ∧ customerState (unlocked 3 .field).life.state = true ∧
      debugLocked (.ember 4095) = true ∧
      (let s := (unlocked 2 .returned).setCore 95 fun K => { K with tstatus := 8, invocations := [{ pitch := (unlocked 2 .returned).life.debugPitch }] }
       s.running = true ∧ s.life.debugLevel = 2 ∧ s.traced 95 = true) := by decide +kernel

/-! ### Well-formedness: one ill-formed term for each check, and the terms beside it that are well formed -/

theorem test_illFormed_refused :
    ∀ i ∈ ([.sqTail 257 0 0 8 1, .sqTail 0 16 0 8 1, .sqTail 0 0 8 8 1, .sqTail 0 0 0 3 1, .bootWord 257 0, .eventAck 256 0 8 0, .trailCursor 8 4 0, .perfSelect 0 2 0,
    .entryFetched 0 0 (zeros 63), .entryFetched 257 0 (zeros 64), .commandStart 0 1 8 0, .commandStart 0 1 0 12, .aggTimeExpiry 0 16, .keyGenerate 257 1,
    .rawCaptureEnd 8 0 [], .rawCaptureEnd 0 3 [], .add 96 0 0 0, .span 96 0, .cellRunEnd 2304, .liuSegmentEnd 32, .hashJobEnd 32, .blockSelfTest 96 true, .regionIsolate 8,
    .wake 9, .lockstepFault 2, .tamperAlarmEnd 10 0, .msixUnmask 2048, .twinTimeout 256, .illegalInsn 96 0] : List Instr), WellFormed i = false := by decide

theorem test_last_of_each_range_wellFormed :
    ∀ i ∈ [Instr.sqTail 256 15 7 4 1, .bootWord 256 0, .eventAck 255 0 8 0, .entryFetched 256 15 (zeros 64), .commandStart 256 1 7 11, .rawCaptureEnd 7 2 [],
      .add 95 31 31 31, .cellRunEnd 2303, .liuSegmentEnd 31, .hashJobEnd 31, .blockSelfTest 95 true, .regionIsolate 7, .wake 8, .lockstepFault 1,
      .tamperAlarmEnd 9 0, .msixUnmask 2047, .twinTimeout 255], WellFormed i = true := by decide

/-! ### Worked examples of the spec -/

/-- The handle of chapter 0: pitch 42, kind 1, index 19. -/
theorem test_handle_fields :
    (field [0x13, 0, 0x40, 0x2A] 0 4, handlePitch 0x2A400013, handleKind 0x2A400013, handleIndex 0x2A400013) = (0x2A400013, 42, 1, 19) := by decide

/-- The queue entry of chapter 2. -/
theorem test_queue_entry :
    let b := [0x01, 0x01, 0, 0, 0, 0, 0, 0, 0, 0xF4, 0x01, 0, 0, 0, 0, 0] ++ zeros 16 ++ [0, 0x20, 0x40, 0x3C, 0x07, 0, 0, 0, 0x20] ++ zeros 23
    parseEntry b = { opcode := 0x0101, seq := 0x1F400, addr32 := 0x73C402000, len40 := 32 } := by decide +kernel

/-- Its parameter block: queue 3 of 1,024 entries at the two rings, vector 0x0151, 8 microseconds. -/
theorem test_queue_create :
    let p := [3, 0, 0x0A, 0, 0x51, 0x01, 0x0F, 0, 8] ++ zeros 9 ++ [0x50, 0x3C, 0x07, 0, 0, 0, 0, 0, 0x51, 0x3C, 0x07, 0, 0, 0]
    let s := up.setDom 42 fun D => { D with mode := .active, conf := { D.conf with queueQuota := 16, vectorBase := 0x150, vectorCount := 8 } }
    (queueCreateWork s 42 { cmd 0x0101 p with cond := { windows := [(0x700000000, 0x7FFFFFFFF)] } }).toOption.map (·.effects) =
      some [.queueCreate 3 { state := .active, sizeLog2 := 10, sqAddr := 0x73C500000, cqAddr := 0x73C510000, vector := 0x151, aggCount := 15, aggTime := 8 }] := by
  decide +kernel

/-- The words of chapter 11. -/
theorem test_words :
    [wordRR 0x30 28 5 0, wordRR 0x30 29 6 0, wordU 0x18 27 8, wordP 0x6F 0, wordS 0x6C 0 0 true false, wordP 0x6F 1, wordS 0x6A 9 0 false false] =
      [0xBC30, 0xDD30, 0x11B18, 0x6F, 0x4006C, 0x16F, 0x96A] := by decide

/-- A core at one word of code in a granule that is not Efori's, whose rule lets it fetch there and touch granules 784 and 800. -/
def xoring (code : Nat) (span : Option Nat) : State :=
  up.setCore 28 fun _ =>
    { tstatus := 8, pc := 0x2400, span := span, mem := [(0x480, kBits (BitVec.ofNat 64 code)), (0x620, kBits 6), (0x640, kBits 12)]
      colours := [(0x240, 1), (0x310, 1), (0x320, 1)], active := [(0, { colour := 1, r := true, w := true, x := true, endG := 0x7FF })]
      regs := [(5, kAddr 0x3100), (6, kAddr 0x3200), (27, kInt 8), (28, kAddr 0x3100), (29, kAddr 0x3200)] }

/-- MOV W28, W5 of chapter 11. -/
theorem test_mov :
    let t := after (exec (.mov 28 28 5) (xoring 0xBC30 none))
    ((t.core 28).reg 28, (t.core 28).pc) = (kAddr 0x3100, 0x2404) := by decide +kernel

/-- LI W27, 8 of chapter 11. -/
theorem test_li : ((after (exec (.li 28 27 8) (xoring 0x11B18 none))).core 28).reg 27 = kInt 8 := by decide +kernel

/-- The prefix of chapter 11 stays on its own address and counts no instruction. -/
theorem test_span :
    let t := after (exec (.span 28 0) (xoring 0x4006C0000006F none))
    ((t.core 28).span, (t.core 28).pc, ((t.core 28).reg 27)) = (some 0, 0x2400, kInt 8) := by decide +kernel

/-- Element 0 of the run of chapter 11: CNT 7, SRC 0x3108, DST 0x3208. -/
theorem test_sxor :
    let t := after (exec (.sxor 28 0 0 true false) (xoring 0x4006C0000006F (some 0)))
    ((t.core 28).reg 27, (t.core 28).reg 28, (t.core 28).reg 29, t.word 28 0x3200, (t.core 28).pc) = (kInt 7, kAddr 0x3108, kAddr 0x3208, kBits 10, 0x2400) := by
  decide +kernel

/-- The PIN block of chapter 10, with ciphers that give the values printed there. -/
theorem test_pin_block :
    let kin : Block1 := ⟨8, id, fun _ => [0x04, 0x48, 0x0A, 0xBA, 0x98, 0x76, 0xFE, 0xDC]⟩
    let kout : Block1 := ⟨16, fun x =>
      if x = [0x44, 0x48, 0x29, 0xAA, 0xAA, 0xAA, 0xAA, 0xAA, 0x3C, 0x91, 0xE2, 0x07, 0x5B, 0xD4, 0x68, 0x1F] then
        [0x9E, 0x5A, 0x10, 0xC7, 0x33, 0xF2, 0x84, 0x6B, 0x0D, 0x71, 0xE9, 0xA6, 0x52, 0xC8, 0x3B, 0x14]
      else if x = [0xD9, 0x5B, 0x33, 0x82, 0x54, 0x7B, 0x85, 0x48, 0x4D, 0x71, 0xE9, 0xA6, 0x52, 0xC8, 0x3B, 0x14] then
        [0x2B, 0x7E, 0xC0, 0x15, 0x88, 0xD3, 0x46, 0xA9, 0xF1, 0x0C, 0x5E, 0x37, 0x92, 0x6D, 0xBA, 0x04]
      else [], id⟩
    let fill := zeros 24 ++ [0x3C, 0x91, 0xE2, 0x07, 0x5B, 0xD4, 0x68, 0x1F]
    ((pinTranslate 0 4 [7, 0, 1, 2, 3, 4, 5, 6, 7, 8, 9, 0, 1, 2, 3, 4] kin kout [0x6F, 0x1D, 0x93, 0x0A, 0xC4, 0xE8, 0x27, 0xB5] fill).toOption.map (·.out)) =
      some [0x2B, 0x7E, 0xC0, 0x15, 0x88, 0xD3, 0x46, 0xA9, 0xF1, 0x0C, 0x5E, 0x37, 0x92, 0x6D, 0xBA, 0x04] := by decide +kernel

/-- The same with another eighth digit: no PIN. -/
theorem test_pin_block_other_pan :
    let kin : Block1 := ⟨8, id, fun _ => [0x04, 0x48, 0x0A, 0xBA, 0x98, 0x76, 0xFE, 0xDC]⟩
    ((pinTranslate 0 4 [7, 0, 1, 2, 3, 4, 5, 7, 7, 8, 9, 0, 1, 2, 3, 4] kin kin [] []).toOption.bind (·.late)).map (·.1) = some ePinBlock := by
  decide +kernel

/-- The CHILD block and the intermediate block of chapter 5. -/
theorem test_derivation_blocks :
    let child : Bytes := [6, 1, 0x80, 0, 2, 0, 0, 0] ++ zeros 8 ++ List.replicate 8 0xFF ++ [2] ++ zeros 7
    let a := attrAt (zeros 8 ++ child ++ zeros 24) 0
    a.block = child ∧
      ({ a with usage := 5, alg := 3, length := 256, depth := 1, deriveTo := 0x70 } : Attr).block =
        [5, 3, 0, 1, 2, 0, 0x70, 0] ++ zeros 8 ++ List.replicate 8 0xFF ++ [1] ++ zeros 7 := by decide +kernel

/-- The entry of officer 2 in chapter 6: 3,309 bytes of signature after 16 bytes of header. -/
theorem test_approval_entry :
    let a := approvalAt ([2, 1, 0xED, 0x0C, 0, 0, 0, 0, 0, 0, 0, 0x4B, 0x20, 0x3C, 0xE9, 0x17]) 0
    (a.officer, a.role, a.notAfter) = (2, 1, 0x17E93C204B000000) := by decide +kernel

/-- STAGE_WRITE of chapter 13: the weight of region 2 becomes 512 at offset 20 of the image of pitch 42. -/
theorem test_stage_write :
    let p := [1, 0x2A, 0, 0, 0x14, 0, 0, 0, 2] ++ zeros 7 ++ [0, 2] ++ zeros 14
    let s := up.setDom 42 fun D => { D with mode := .active }
    let c := cmd 0x0301 p
    (stageWriteWork s 256 c).toOption.map (fun r =>
      let x := (r.effects.foldl (fun s e => s.applyEffect 256 c e) s).stage 42
      (field x.image 20 2, x.state)) = some (512, .opened) := by decide +kernel

/-- SHA-256 of "abc" and AES-128 of the block of FIPS 197, appendix C.1: the standards the spec names. -/
theorem test_sha256 :
    sha256 [0x61, 0x62, 0x63] = beBytes 32 0xba7816bf8f01cfea414140de5dae2223b00361a396177a9cb410ff61f20015ad := by decide +kernel

theorem test_aes128 :
    (aes (beBytes 16 0x000102030405060708090a0b0c0d0e0f)).enc (beBytes 16 0x00112233445566778899aabbccddeeff) =
      beBytes 16 0x69c4e0d86a7b0430d8cdb78070b4c55a := by decide +kernel

/-! ### Single commands -/

/-- A queue of commands is served first in, first out; an empty queue idles for a nanosecond (log entry 1). -/
theorem test_step_takes_the_front :
    (after (Sys2Proof.Machine.step { up with pending := [.wake 8, .laneFail] })).pending = [.laneFail] ∧
      (after (Sys2Proof.Machine.step up)).pending = [] := by decide +kernel

end Sys2Proof.Tests
end

section
/-! PROOF. Rows of management opcodes whose checks pass or fail, and the queue commands (O17). -/

namespace Sys2Proof.Machine

/-! ### Checks of a row's operands -/

@[simp] theorem need_eq_none (b : Bool) (status detail : Nat) : need b status detail = none ↔ b = true := by
  unfold need
  split <;> simp [*]

theorem firstFail_eq_none (l : List (Option Fail)) : firstFail l = none ↔ ∀ x ∈ l, x = none := by
  induction l with
  | nil => simp [firstFail]
  | cons x l ih => cases x <;> simp [firstFail, ih]

/-- Where every check passes, the computation behind them is what counts. -/
theorem checked_of_pass {l : List (Option Fail)} (w : Work) (h : ∀ x ∈ l, x = none) : checked l w = w := by
  unfold checked
  rw [(firstFail_eq_none l).mpr h]

/-! ### Rows of management opcodes whose checks fail -/

/-- A row of a management opcode whose approvals fail ends its command with that failure. -/
theorem runMgmt_refused {s : State} {d id code : Nat} {c : Cmd} {e : Fail} (f : Cmd → List Approval → Work) (h : s.Started d id code c)
    (ht : c.twinDigest = none) (he : s.checkApprovals d c = .error e) :
    ∃ t x, s.runMgmt code d id f = .next t ∧ t.cmd d id = some x ∧ c.Got (.error e) x := by
  obtain ⟨hc, hp, ho, _⟩ := h
  have hr : s.runMgmt code d id f = .next (s.setCmd d id fun x => x.failWith e) := by
    simp [State.runMgmt, hc, hp, ho, ht, he]
  exact ⟨_, _, hr, cmd_setCmd _ (fun _ => rfl) hc, got_finish c (.error e)⟩

/-- One whose entry names what its form leaves out ends its command with the field at fault (R13). -/
theorem runMgmt_nonZero {s : State} {d id code : Nat} {c : Cmd} {e : Fail} {as : List Approval} (f : Cmd → List Approval → Work)
    (h : s.Started d id code c) (ht : c.twinDigest = none) (ha : s.checkApprovals d c = .ok as) (hz : entryZero c.raw = some e) :
    ∃ t x, s.runMgmt code d id f = .next t ∧ t.cmd d id = some x ∧ c.Got (.error e) x := by
  have h := runMgmt_checked f h ht ha
  rwa [show c.ownChecks (f c as) = .error e by simp [Cmd.ownChecks, hz]] at h

/-- What comes before the work of a management opcode's row: its approvals, then the zero fields of its entry. -/
theorem runMgmt_firstChecks {s : State} {d id code : Nat} {c : Cmd} {e : Fail} (f : Cmd → List Approval → Work) (h : s.Started d id code c)
    (ht : c.twinDigest = none) :
    (s.checkApprovals d c = .error e → ∃ t x, s.runMgmt code d id f = .next t ∧ t.cmd d id = some x ∧ c.Got (.error e) x) ∧
      ∀ as, s.checkApprovals d c = .ok as → entryZero c.raw = some e →
        ∃ t x, s.runMgmt code d id f = .next t ∧ t.cmd d id = some x ∧ c.Got (.error e) x :=
  ⟨runMgmt_refused f h ht, fun _ => runMgmt_nonZero f h ht⟩

/-- A row of a management opcode whose approvals and own checks pass ends its command with what stands behind them. -/
theorem runMgmt_passes {s : State} {d id code : Nat} {c : Cmd} {as : List Approval} {f : Cmd → List Approval → Work} {l : List (Option Fail)} {w : Work}
    (h : s.Started d id code c) (ha : s.Approved d c as) (hf : f c as = checked l w) (hl : ∀ x ∈ l, x = none) :
    ∃ t x, s.runMgmt code d id f = .next t ∧ t.cmd d id = some x ∧ c.Got w x := by
  have h := runMgmt_ends f h ha
  rwa [hf, checked_of_pass w hl] at h

/-! ### The rows of the queue commands -/

/-- Settles O17: each row is `runMgmt` with the work of its opcode, behind the approvals and the entry's zero fields. -/
theorem queueRowsEnd : Obligations.QueueRowsEnd := by
  unfold Obligations.QueueRowsEnd
  refine ⟨fun s d id c as ha => ⟨fun h => runMgmt_ends _ h ha, fun h h1 h15 hq hs => ?_, fun h => runMgmt_ends _ h ha,
    fun h h15 hp1 hp2 ht hv hq => ?_, fun h h1 h15 hq => ?_, fun h hlo hhi => ?_⟩, fun s d id c row e ht hrow h => ?_⟩
  case refine_1 => exact runMgmt_passes h ha rfl (by simp [queueByte, h15, Nat.pos_iff_ne_zero.mp h1, hq, hs])
  case refine_2 => exact runMgmt_passes h ha rfl (by simp [queueByte, State.routeFields, h15, hp1, hp2, ht, hv, hq])
  case refine_3 => exact runMgmt_passes h ha rfl (by simp [queueByte, h15, Nat.pos_iff_ne_zero.mp h1, hq])
  case refine_4 => exact runMgmt_passes h ha rfl (by simp [hlo, hhi])
  case refine_5 =>
    simp only [List.mem_cons, List.not_mem_nil, or_false] at hrow
    obtain rfl | rfl | rfl | rfl | rfl | rfl := hrow
    all_goals exact runMgmt_firstChecks _ h ht

end Sys2Proof.Machine
end

section
/-! PROOF. The register pages: what an access that a page answers does, MSI-X, the performance registers and the windows of the ports (O28). -/

namespace Sys2Proof.Machine

/-! ### Tables and byte fields -/

@[simp] theorem Tab.get_insert_same {α : Type} (t : Tab α) (d x : α) (i : Nat) : Tab.get (Tab.insert t i x) d i = x := by
  simp [Tab.get, Tab.find_insert]

/-- The bytes that a write of a field covers read as written. -/
theorem setBytes_field (v o n x : Nat) : setBytes v o n x / 256 ^ o % 256 ^ n = x % 256 ^ n := by
  have hm : 0 < 256 ^ o := Nat.pow_pos (by decide)
  have hs : setBytes v o n x = v % 256 ^ o + 256 ^ o * (x % 256 ^ n + 256 ^ n * (v / (256 ^ o * 256 ^ n))) := by
    simp only [setBytes, Nat.mul_add, Nat.mul_comm (x % 256 ^ n), Nat.mul_comm (v / (256 ^ o * 256 ^ n)), Nat.mul_assoc, Nat.add_assoc]
  rw [hs, Nat.add_mul_div_left _ _ hm, Nat.div_eq_of_lt (Nat.mod_lt _ hm), Nat.zero_add, Nat.add_mul_mod_self_left, Nat.mod_mod]

/-! ### An entry of the trail, and an ignored write -/

section
variable (s : State)

@[simp] theorem perf_trailAs (code origin severity flags : Nat) (data : Bytes) (toMram : Bool) (time : Nat) :
    (s.trailAs code origin severity flags data toMram time).perf = s.perf := by
  unfold State.trailAs
  dsimp only
  split
  · split <;> rfl
  · split <;> rfl

@[simp] theorem ignored_append (t : Trail) (e : LogEntry) (tai : Nat) (trusted toMram : Bool) : (t.append e tai trusted toMram).ignored = t.ignored := by
  unfold Trail.append Trail.flush
  dsimp only
  (repeat' split) <;> rfl

@[simp] theorem ignored_checkpoint (t : Trail) (tai : Nat) (trusted key : Bool) (held : Option Nat) :
    (t.checkpoint tai trusted key held).ignored = t.ignored := by
  simp [Trail.checkpoint]

/-- No entry changes the count of ignored writes. -/
@[simp] theorem ignored_trailAs (code origin severity flags : Nat) (data : Bytes) (toMram : Bool) (time : Nat) :
    (s.trailAs code origin severity flags data toMram time).trail.ignored = s.trail.ignored := by
  simp only [State.trailAs, apply_ite State.trail, apply_ite Trail.ignored, Trail.hold, ignored_append, ignored_checkpoint, ite_self]

/-- An ignored write is counted, and changes no domain and no counter. -/
theorem ignored_ignore (origin offset value : Nat) : s.Ignored (s.ignore origin offset value) :=
  ⟨ignored_trailAs .., doms_log .., perf_trailAs ..⟩

/-! ### The wake from BIVVY (R346) -/

/-- A wake notes its instant alone. -/
theorem wakeModule_eq : s.wakeModule = { s with boot := { s.boot with waking := s.wakeModule.boot.waking } } := by
  unfold State.wakeModule
  split <;> rfl

@[simp] theorem doms_wakeModule : s.wakeModule.doms = s.doms := by rw [wakeModule_eq]

@[simp] theorem dom_wakeModule (d : Nat) : s.wakeModule.dom d = s.dom d := by rw [wakeModule_eq]; rfl

@[simp] theorem host_wakeModule : s.wakeModule.host = s.host := by rw [wakeModule_eq]

@[simp] theorem guy_wakeModule : s.wakeModule.guy = s.guy := by rw [wakeModule_eq]

@[simp] theorem trail_wakeModule : s.wakeModule.trail = s.trail := by rw [wakeModule_eq]

@[simp] theorem perf_wakeModule : s.wakeModule.perf = s.perf := by rw [wakeModule_eq]

@[simp] theorem perfAsleep_wakeModule (kind unit : Nat) : s.wakeModule.perfAsleep kind unit = s.perfAsleep kind unit := by rw [wakeModule_eq]; rfl

/-- A module that is not in BIVVY, or wakes already, stays as it is. -/
theorem wakeModule_awake {s : State} (h : s.boot.bivvy = false ∨ s.boot.waking.isSome = true) : s.wakeModule = s := by
  obtain h | h := h
  · simp [State.wakeModule, h]
  · simp [State.wakeModule, Option.isNone_eq_false_iff.mpr h]

/-- One in BIVVY begins to wake. -/
theorem wakeModule_bivvy {s : State} (h : s.boot.bivvy = true) (hw : s.boot.waking = none) :
    s.wakeModule = { s with boot := { s.boot with waking := some s.now } } := by
  simp [State.wakeModule, h, hw]

theorem ignored_of_wakeModule {s t : State} (h : s.wakeModule.Ignored t) : s.Ignored t := by
  simpa [State.Ignored] using h
end

/-! ### Accesses that the pages answer (R12, R30, R34) -/

section
variable {s : State} {base o size v p : Nat}

theorem opWrite_open (h : s.barOpen = true) (hr : regular o size = true) (f : State → State) : s.opWrite base o size v f = .next (f s.wakeModule) := by
  simp [State.opWrite, h, hr]

theorem opRead_open (h : s.barOpen = true) (hr : regular o size = true) (f : State → Nat × State) :
    s.opRead o size f = .next ((f s).2.readReply ((f s).1 / 256 ^ o % 256 ^ size)) := by
  simp [State.opRead, h, hr]

theorem pitchWrite_open (h : s.PageOpen p) (hp : p < 256) (hr : regular o size = true) (f : State → State) :
    s.pitchWrite p base o size v f = .next (f s.wakeModule) := by
  obtain ⟨hb, hm⟩ := h
  simp [State.pitchWrite, hb, hr, hm hp]
end

/-! ### The register at a page offset (R12, R30) -/

section
variable {s : State} {b k p size v : Nat}

theorem offset_base (hb : b % 8 = 0) (hk : k < 8) : (b + k) / 8 * 8 = b := by omega

theorem offset_byte (hb : b % 8 = 0) (hk : k < 8) : (b + k) % 8 = k := by omega

theorem writeRegister_seqNext (hk : k < 8) : s.writeRegister (.pitch p) (8 + k) size v = execSeqNext p k size v s := by
  simp only [State.writeRegister, offset_base (b := 8) rfl hk, offset_byte (b := 8) rfl hk, if_true]

theorem writeRegister_sqTail {q : Nat} (hq : q < 16) (hk : k < 8) :
    s.writeRegister (.pitch p) (0x100 + 8 * q + k) size v = execSqTail p q k size v s := by
  have hb : (0x100 + 8 * q) % 8 = 0 := by omega
  have hr : 0x100 + 8 * q < 0x180 := by omega
  simp [State.writeRegister, offset_base hb hk, offset_byte hb hk, hr, show 0x100 + 8 * q ≠ 8 by omega]

theorem writeRegister_cqHead {q : Nat} (hq : q < 16) (hk : k < 8) :
    s.writeRegister (.pitch p) (0x200 + 8 * q + k) size v = execCqHead p q k size v s := by
  have hb : (0x200 + 8 * q) % 8 = 0 := by omega
  have hr : 0x200 + 8 * q < 0x280 := by omega
  simp [State.writeRegister, offset_base hb hk, offset_byte hb hk, hr, show 0x200 + 8 * q ≠ 8 by omega, show ¬ 0x200 + 8 * q < 0x180 by omega]

theorem writeRegister_eventAck (hk : k < 8) : s.writeRegister (.pitch p) (0x400 + k) size v = execEventAck p k size v s := by
  simp [State.writeRegister, offset_base, offset_byte, hk]

theorem writeRegister_opDoorbell {q : Nat} (hq : q < 16) (hk : k < 8) :
    s.writeRegister .operator (0x100 + 8 * q + k) size v = execSqTail operator q k size v s := by
  have hb : (0x100 + 8 * q) % 8 = 0 := by omega
  have hr : 0x100 + 8 * q < 0x180 := by omega
  simp [State.writeRegister, offset_base hb hk, offset_byte hb hk, hr, show 0x100 + 8 * q ≠ 0x28 by omega]

/-- The registers of the operator page that stand alone. -/
theorem writeRegister_operator (hk : k < 8) :
    s.writeRegister .operator (0x28 + k) size v = execSeqNext operator k size v s ∧
      s.writeRegister .operator (0x1000 + k) size v = execTrailCursor k size v s ∧
      s.writeRegister .operator (0x2000 + k) size v = execPerfSelect k size v s ∧
      s.writeRegister .operator (0x2008 + k) size v = execPerfValueWrite k size v s ∧
      s.writeRegister .operator (0x2010 + k) size v = execPerfConfigSelect k size v s ∧
      s.writeRegister .operator (0x2018 + k) size v = execPerfConfig k size v s := by
  refine ⟨?_, ?_, ?_, ?_, ?_, ?_⟩ <;> simp [State.writeRegister, offset_base, offset_byte, hk]

/-- A read-only register of the operator page takes no write; the module wakes. -/
theorem writeRegister_opReadOnly {x : Nat} (hs : s.barOpen = true) (hx : x ∈ [0, 8, 0x10, 0x18, 0x20, 0x1008, 0x1010, 0x1040, 0x3000, 0x3008]) :
    s.writeRegister .operator x 8 v = .next s.wakeModule := by
  have ho := fun b : Nat => opWrite_open (base := b) (v := v) hs (show regular 0 8 = true from rfl) id
  simp only [List.mem_cons, List.not_mem_nil, or_false] at hx
  obtain rfl | rfl | rfl | rfl | rfl | rfl | rfl | rfl | rfl | rfl := hx
  all_goals exact ho _

/-- PITCH_STATUS takes no write; the module wakes. -/
theorem writeRegister_pitchStatus (hs : s.PageOpen p) (hp : p < 256) : s.writeRegister (.pitch p) 0 8 v = .next s.wakeModule :=
  pitchWrite_open hs hp rfl id

/-- The cursor takes the bytes written (R417). -/
theorem execTrailCursor_moves {o : Nat} (hs : s.barOpen = true) (hr : regular o size = true) :
    ∃ t, execTrailCursor o size v s = .next t ∧ t.trail.cursor = setBytes s.trail.cursor o size v :=
  ⟨_, opWrite_open hs hr _, by simp [State.moveCursor]⟩

/-- SEQ_NEXT of an idle pitch takes the bytes written (R33). -/
theorem execSeqNext_moves {o : Nat} (hs : s.PageOpen p) (hr : regular o size = true) (hp : p < 256) (hu : (s.dom p).unfinished = 0)
    (hd : (s.dom p).drained = true) :
    ∃ t, execSeqNext p o size v s = .next t ∧ (t.dom p).seqNext = setBytes (s.dom p).seqNext o size v := by
  refine ⟨_, by simp only [execSeqNext, State.pageWrite, hp, if_true]; exact pitchWrite_open hs hp hr _, ?_⟩
  simp [State.writeSeqNext, hu, hd]
end

/-! ### MSI-X (R451, R456) -/

section
variable (s : State) (v : Nat)

@[simp] theorem vector_setVector_same (f : Vector → Vector) : (s.setVector v f).host.vector v = f (s.host.vector v) :=
  Tab.get_put_same ..

@[simp] theorem guy_setVector (f : Vector → Vector) : (s.setVector v f).guy = s.guy := rfl

@[simp] theorem functionMask_setVector (f : Vector → Vector) : (s.setVector v f).host.functionMask = s.host.functionMask := rfl

@[simp] theorem msixEnable_setVector (f : Vector → Vector) : (s.setVector v f).host.msixEnable = s.host.msixEnable := rfl

@[simp] theorem waiting_setVector (f : Vector → Vector) : (s.setVector v f).host.waiting = s.host.waiting := rfl

@[simp] theorem sent_setVector (f : Vector → Vector) : (s.setVector v f).host.sent = s.host.sent := rfl

/-- The host's controls hold an item back whatever the vectors are. -/
@[simp] theorem waits_setVector (f : Vector → Vector) (o : HostOut) (l : List HostOut) : o.waits (s.setVector v f).host l = o.waits s.host l := rfl

/-- A message on a vector that is not masked changes no vector. -/
theorem vectors_message {s : State} {v : Nat} (hm : (s.host.vector v).masked = false) (hf : s.host.functionMask = false) :
    (s.message v).host.vectors = s.host.vectors := by
  unfold State.message
  simp only [hm, hf, Bool.or_self, Bool.false_eq_true, if_false]
  (repeat' split) <;> rfl

/-- A message that nothing holds is put on its port. -/
theorem message_goes {s : State} {v : Nat} (hv : v < 2048) (he : s.host.msixEnable = true) (hm : (s.host.vector v).masked = false)
    (hf : s.host.functionMask = false) (hg : s.guy.holding = false)
    (hw : (HostOut.message v (s.host.vector v).addr (s.host.vector v).data).waits s.host s.host.waiting = false) :
    s.message v = s.putRaw (.message v (s.host.vector v).addr (s.host.vector v).data) := by
  simp [State.message, Nat.not_le.mpr hv, he, hm, hf, hg, hw]

/-- A vector's message waits for its mask no more: it is pending, and nothing masks it. -/
def State.messageReady (s : State) (v : Nat) : Bool :=
  (s.host.vector v).pending && !(s.host.vector v).masked && !s.host.functionMask && s.host.msixEnable

theorem sendPending_eq : s.sendPending v = if s.messageReady v then (s.setVector v fun e => { e with pending := false }).message v else s := rfl

/-- Once it may go, a message leaves nothing pending on its vector. -/
theorem vector_sendPending : (s.sendPending v).host.vector v =
    if s.messageReady v then { s.host.vector v with pending := false } else s.host.vector v := by
  rw [sendPending_eq]
  split
  case isTrue h =>
    simp only [State.messageReady, Bool.and_eq_true, Bool.not_eq_true'] at h
    obtain ⟨⟨⟨-, hm⟩, hf⟩, -⟩ := h
    rw [HostPort.vector, vectors_message (s := s.setVector v _) (by simpa using hm) hf]
    exact vector_setVector_same ..
  case isFalse => rfl

@[simp] theorem addr_sendPending : ((s.sendPending v).host.vector v).addr = (s.host.vector v).addr := by
  rw [vector_sendPending]; split <;> rfl

@[simp] theorem data_sendPending : ((s.sendPending v).host.vector v).data = (s.host.vector v).data := by
  rw [vector_sendPending]; split <;> rfl

@[simp] theorem masked_sendPending : ((s.sendPending v).host.vector v).masked = (s.host.vector v).masked := by
  rw [vector_sendPending]; split <;> rfl

/-- It goes out where no warden gap and no control of the host holds it. -/
theorem sent_sendPending {s : State} {v : Nat} (h : s.messageReady v = true) (hv : v < 2048) (hg : s.guy.holding = false)
    (hw : (HostOut.message v (s.host.vector v).addr (s.host.vector v).data).waits s.host s.host.waiting = false) :
    (s.sendPending v).host.sent = s.host.sent ++ [.message v (s.host.vector v).addr (s.host.vector v).data] := by
  rw [sendPending_eq, if_pos h]
  simp only [State.messageReady, Bool.and_eq_true, Bool.not_eq_true'] at h
  obtain ⟨⟨⟨-, hm⟩, hf⟩, he⟩ := h
  rw [message_goes hv (by simp [he]) (by simp [hm]) (by simp [hf]) (by simp [hg]) (by simp [hw])]
  simp [State.putRaw]

/-- The address that the host writes to a vector. -/
theorem addr_msixWrite {x : Nat} (hx : x < 2048) : ((s.msixWrite (16 * x) 8 v).host.vector x).addr = v % 2 ^ 64 := by
  have ho : 16 * x < 0x8000 := by omega
  simp only [State.msixWrite, ho, if_true, show 16 * x / 16 = x by omega, show 16 * x % 16 = 0 by omega, addr_sendPending, vector_setVector_same]
  simpa using setBytes_field _ 0 8 v

/-- The data that the host writes to a vector. -/
theorem data_msixWrite {x : Nat} (hx : x < 2048) : ((s.msixWrite (16 * x + 8) 4 v).host.vector x).data = v % 2 ^ 32 := by
  have ho : 16 * x + 8 < 0x8000 := by omega
  simp only [State.msixWrite, ho, if_true, show (16 * x + 8) / 16 = x by omega, show (16 * x + 8) % 16 = 8 by omega, data_sendPending, vector_setVector_same]
  exact setBytes_field _ 8 4 v

/-- A write at an aligned offset of the MSI-X BAR is answered. -/
theorem writeRegister_msix {s : State} {o size v : Nat} (hs : s.barOpen = true) (ho : o % 8 = 0) (hr : regular 0 size = true) :
    s.writeRegister .msix o size v = .next (s.wakeModule.msixWrite o size v) :=
  opWrite_open hs (by rw [ho, hr]) _

/-- MSIX_UNMASK clears the mask of its vector; where messages go, nothing is left pending on it, and what waited goes out unless it is held. -/
theorem execMsixUnmask_acts {s : State} {x : Nat} (hs : s.barOpen = true) :
    ∃ t, execMsixUnmask x s = .next t ∧ (t.host.vector x).masked = false ∧ (t.host.vector x).addr = (s.host.vector x).addr ∧
      (s.host.functionMask = false → s.host.msixEnable = true → x < 2048 → (t.host.vector x).pending = false ∧
        ∀ o, o = HostOut.message x (s.host.vector x).addr (s.host.vector x).data → (s.host.vector x).pending = true → s.guy.holding = false →
          o.waits s.host s.host.waiting = false → t.host.sent = s.host.sent ++ [o]) := by
  refine ⟨_, if_pos hs, by simp, by simp, fun hf he hx => ?_⟩
  have hu : (s.wakeModule.setVector x fun e => { e with masked := false }).messageReady x = (s.host.vector x).pending := by
    simp [State.messageReady, hf, he]
  refine ⟨?_, fun o ho hp hn hw => ?_⟩
  · rw [vector_sendPending, hu]
    cases hp : (s.host.vector x).pending <;> simp [hp]
  · subst ho
    rw [sent_sendPending (hu.trans hp) hx (by simp [hn]) (by simpa using hw)]
    simp
end

/-! ### The performance registers (R429, R430, R434) -/

section
variable (p : Perf) (kind unit index : Nat)

@[simp] theorem conf_setConf_same (c : PerfConf) : (p.setConf kind unit index c).conf kind unit index = c := Tab.get_put_same ..

@[simp] theorem conf_setValue (k u i v : Nat) : (p.setValue k u i v).conf kind unit index = p.conf kind unit index := rfl

@[simp] theorem conf_portStart (key sent : Nat) (full : Bool) : (p.portStart key full sent).conf kind unit index = p.conf kind unit index := rfl

@[simp] theorem value_setValue_same (v : Nat) : (p.setValue kind unit index v).value kind unit index = v := Tab.get_put_same ..

@[simp] theorem value_portStart (key sent : Nat) (full : Bool) : (p.portStart key full sent).value kind unit index = p.value kind unit index := rfl
end

/-- PERF_CONFIG writes a counter: not a fixed one, and none of a region that sleeps. -/
theorem perfConfig_open {s : State} {c : Nat} (hi : selKind c = 0 → selIndex c < 6) (hw : s.perfAsleep (selKind c) (selUnit c) = false) :
    (selKind c = 0 && selIndex c ≥ 6 || s.perfAsleep (selKind c) (selUnit c)) = false := by
  simpa [hw] using hi

/-- A write of PERF_CONFIG names an event of the counter's kind, or none. -/
theorem perfEvent_defined {kind o v : Nat} (h : kind = 2 ∨ o ≠ 0 ∨ (perfEvents kind).contains (v % 256) = true) :
    (kind != 2 && o = 0 && !(perfEvents kind).contains (v % 256)) = false := by
  obtain h | h | h := h
  · simp [h]
  · simp [h]
  · rw [h]; simp

section
variable {s : State} {o size v : Nat} (hs : s.barOpen = true) (hr : regular o size = true)
include hs hr

/-- PERF_SELECT takes a selection that names a counter. -/
theorem execPerfSelect_takes {e : Nat} (he : selMask (setBytes s.perf.select o size v) = e)
    (hx : perfExists (selKind e) (selUnit e) (selIndex e) = true) :
    ∃ t, execPerfSelect o size v s = .next t ∧ t.perf = { s.perf with select := e } :=
  ⟨_, opWrite_open hs hr _, by simp [he, hx]⟩

/-- It ignores another, and counts the write. -/
theorem execPerfSelect_ignores {e : Nat} (he : selMask (setBytes s.perf.select o size v) = e)
    (hx : perfExists (selKind e) (selUnit e) (selIndex e) = false) : ∃ t, execPerfSelect o size v s = .next t ∧ s.Ignored t :=
  ⟨_, opWrite_open hs hr _, by simpa [he, hx] using ignored_of_wakeModule (ignored_ignore ..)⟩

/-- PERF_CONFIG_SELECT takes a selection that names a counter. -/
theorem execPerfConfigSelect_takes {e : Nat} (he : selMask (setBytes s.perf.configSelect o size v) = e)
    (hx : perfExists (selKind e) (selUnit e) (selIndex e) = true) :
    ∃ t, execPerfConfigSelect o size v s = .next t ∧ t.perf = { s.perf with configSelect := e } :=
  ⟨_, opWrite_open hs hr _, by simp [he, hx]⟩

/-- It ignores another, and counts the write. -/
theorem execPerfConfigSelect_ignores {e : Nat} (he : selMask (setBytes s.perf.configSelect o size v) = e)
    (hx : perfExists (selKind e) (selUnit e) (selIndex e) = false) : ∃ t, execPerfConfigSelect o size v s = .next t ∧ s.Ignored t :=
  ⟨_, opWrite_open hs hr _, by simpa [he, hx] using ignored_of_wakeModule (ignored_ignore ..)⟩

/-- PERF_VALUE_READ sends the bytes asked for, and moves the selection on. -/
theorem execPerfValueRead_sends :
    ∃ t, execPerfValueRead o size s = .next t ∧ t.perf = { s.perf with select := selNext s.perf.select } ∧
      t.host.sent = s.host.sent ++ [.value (s.perfRead (selKind s.perf.select) (selUnit s.perf.select) (selIndex s.perf.select) / 256 ^ o % 256 ^ size)] :=
  ⟨_, opRead_open hs hr _, rfl, rfl⟩

/-- So does PERF_CONFIG_READ with the selection of a configuration. -/
theorem execPerfConfigRead_sends :
    ∃ t, execPerfConfigRead o size s = .next t ∧ t.perf = { s.perf with configSelect := selNext s.perf.configSelect } ∧
      t.host.sent = s.host.sent ++
        [.value (s.perfConfRead (selKind s.perf.configSelect) (selUnit s.perf.configSelect) (selIndex s.perf.configSelect) / 256 ^ o % 256 ^ size)] :=
  ⟨_, opRead_open hs hr _, rfl, rfl⟩

/-- PERF_VALUE_WRITE sets a programmable counter of a region that is awake. -/
theorem execPerfValueWrite_sets {a : Nat} (ha : s.perf.select = a) (hp : perfProgrammable (selKind a) (selIndex a) = true)
    (hw : s.perfAsleep (selKind a) (selUnit a) = false) :
    ∃ t, execPerfValueWrite o size v s = .next t ∧
      t.perf.value (selKind a) (selUnit a) (selIndex a) = setBytes (s.perf.value (selKind a) (selUnit a) (selIndex a)) o size v % 2 ^ 48 :=
  ⟨_, opWrite_open hs hr _, by simp [ha, hp, hw]⟩

/-- PERF_CONFIG configures the selected counter, where its event is one of the counter's kind. -/
theorem execPerfConfig_configures {c : Nat} (hc : s.perf.configSelect = c) (hi : selKind c = 0 → selIndex c < 6)
    (hw : s.perfAsleep (selKind c) (selUnit c) = false)
    (he : (selKind c != 2 && o = 0 && !(perfEvents (selKind c)).contains (v % 256)) = false) :
    ∃ t, execPerfConfig o size v s = .next t ∧
      t.perf.conf (selKind c) (selUnit c) (selIndex c) = (s.perf.conf (selKind c) (selUnit c) (selIndex c)).written (selKind c) o size v := by
  refine ⟨_, opWrite_open hs hr _, ?_⟩
  simp only [perf_wakeModule, hc, perfAsleep_wakeModule, perfConfig_open hi hw, he, Bool.false_eq_true, if_false]
  split
  · rw [conf_portStart, conf_setValue, conf_setConf_same]
  · rw [conf_setConf_same]

/-- It ignores another event, and counts the write. -/
theorem execPerfConfig_ignores {c : Nat} (hc : s.perf.configSelect = c) (hi : selKind c = 0 → selIndex c < 6)
    (hw : s.perfAsleep (selKind c) (selUnit c) = false)
    (he : (selKind c != 2 && o = 0 && !(perfEvents (selKind c)).contains (v % 256)) = true) :
    ∃ t, execPerfConfig o size v s = .next t ∧ s.Ignored t := by
  refine ⟨_, opWrite_open hs hr _, ?_⟩
  simp only [perf_wakeModule, hc, perfAsleep_wakeModule, perfConfig_open hi hw, he, Bool.false_eq_true, if_false, if_true]
  exact ignored_of_wakeModule (ignored_ignore ..)
end

/-! ### The windows of the ports (R432) -/

section
variable {s : State} {link out : Bool} {n : Nat}

@[simp] theorem perf_passToTai (s : State) (t : Nat) : (s.passToTai t).perf = s.perf := by
  unfold State.passToTai
  split <;> rfl

@[simp] theorem host_passToTai (s : State) (t : Nat) : (s.passToTai t).host = s.host := by
  unfold State.passToTai
  split <;> rfl

@[simp] theorem portMoved_passToTai (s : State) (t : Nat) (link out : Bool) : (s.passToTai t).portMoved link out = s.portMoved link out := by
  simp [State.portMoved]

/-- The end of a whole window latches the bytes moved in it, and begins the next. -/
theorem execPortWindowEnd_latches (hp : s.boot.powered = true) (hh : s.boot.held = false) (he : (s.perf.conf 2 (b2n link) (b2n out)).enable = true)
    (hf : Tab.get s.perf.portFull 0 (perfKey 2 (b2n link) (b2n out)) = 1) :
    ∃ t, execPortWindowEnd link out n s = .next t ∧ t.perf.value 2 (b2n link) (b2n out) = (s.portMoved link out + n) % 2 ^ 48 ∧
      Tab.get t.perf.portMark 0 (perfKey 2 (b2n link) (b2n out)) = s.host.sent.length := by
  refine ⟨_, if_neg (by simp [hp, hh, he]), ?_, ?_⟩
  · simp [hf]
  · simp [Perf.portStart]

/-- The end of a part of a window begins the first whole one. -/
theorem execPortWindowEnd_begins (hp : s.boot.powered = true) (hh : s.boot.held = false) (he : (s.perf.conf 2 (b2n link) (b2n out)).enable = true)
    (hf : Tab.get s.perf.portFull 0 (perfKey 2 (b2n link) (b2n out)) ≠ 1) :
    ∃ t, execPortWindowEnd link out n s = .next t ∧ Tab.get t.perf.portFull 0 (perfKey 2 (b2n link) (b2n out)) = 1 ∧ t.perf.values = s.perf.values := by
  refine ⟨_, if_neg (by simp [hp, hh, he]), ?_, ?_⟩ <;> simp [hf, Perf.portStart]
end

/-! ### The statement -/

/-- Settles O28: a write at a page offset is the row of the register that stands there, and each row is its effect on a module that answers. -/
theorem registerWritesAct : Obligations.RegisterWritesAct := by
  unfold Obligations.RegisterWritesAct
  refine ⟨fun s p q k size v x hk hq => ?_, fun s o size v hs hr => ?_, fun s link out n hp hh he =>
    ⟨execPortWindowEnd_latches hp hh he, execPortWindowEnd_begins hp hh he⟩⟩
  case refine_1 =>
    obtain ⟨hseq, hcur, hsel, hval, hcsel, hconf⟩ := writeRegister_operator (s := s) (size := size) (v := v) hk
    have hpseq : s.writeRegister (.pitch p) (8 + k) size v = execSeqNext p k size v s := writeRegister_seqNext hk
    exact ⟨hpseq, writeRegister_sqTail hq hk, writeRegister_cqHead hq hk, writeRegister_eventAck hk,
      hseq, writeRegister_opDoorbell hq hk, hcur, hsel, hval, hcsel, hconf,
      fun hs hr => (execTrailCursor_moves hs hr).imp fun t h => ⟨hcur.trans h.1, h.2⟩,
      fun hs hr hp hu hd => (execSeqNext_moves hs hr hp hu hd).imp fun t h => ⟨hpseq.trans h.1, h.2⟩,
      writeRegister_opReadOnly, writeRegister_pitchStatus, wakeModule_awake, wakeModule_bivvy,
      fun hs hx => ⟨⟨_, writeRegister_msix hs (by omega) rfl, addr_msixWrite _ _ hx⟩,
        ⟨_, writeRegister_msix hs (by omega) rfl, data_msixWrite _ _ hx⟩⟩,
      execMsixUnmask_acts⟩
  case refine_2 =>
    exact ⟨execPerfSelect_takes hs hr rfl, execPerfSelect_ignores hs hr rfl, execPerfConfigSelect_takes hs hr rfl, execPerfConfigSelect_ignores hs hr rfl,
      execPerfValueRead_sends hs hr, execPerfConfigRead_sends hs hr, execPerfValueWrite_sets hs hr rfl,
      fun hi hw => ⟨fun he => execPerfConfig_configures hs hr rfl hi hw (perfEvent_defined he),
        fun hk ho he => execPerfConfig_ignores hs hr rfl hi hw (by rw [he]; simp [hk, ho])⟩⟩

end Sys2Proof.Machine
end

section
/-! PROOF. The rows of the twin commands (O25). -/

namespace Sys2Proof.Machine

/-! ### Where a row of several steps stands (R163, R164) -/

/-- The state in which a row of several steps does its work: its first step has written the approval floor and marked the command. -/
def State.rowStart (s : State) (d id : Nat) (c : Cmd) (as : List Approval) : State :=
  if c.stage > 0 then s else (s.flooredFor d c as).setCmd d id fun x => { x with floored := x.floored || as != [] }

theorem runStaged_rowStart {s : State} {d id code : Nat} {c : Cmd} {as : List Approval} (f : State → Cmd → State) (h : s.Started d id code c)
    (ha : s.Approved d c as) : s.runStaged code d id f = .next (f (s.rowStart d id c as) c) := by
  by_cases hs : c.stage > 0
  · simp [runStaged_later f h hs, State.rowStart, hs]
  · obtain ⟨hc, hp, ho, _⟩ := h
    obtain ⟨_, hok, hz⟩ := ha
    simp [State.runStaged, State.rowStart, hc, hp, ho, hs, hok, hz]

section
variable (s : State) (d id : Nat) (c : Cmd) (as : List Approval)

/-- It differs from the state in its domains and in the wardens' journal alone. -/
theorem frame_rowStart : { s.rowStart d id c as with doms := s.doms, guy := s.guy, wardens := s.wardens } = s := by
  unfold State.rowStart
  split
  · rfl
  · exact (frame_floored s d c as).1

@[simp] theorem link_rowStart : (s.rowStart d id c as).link = s.link :=
  (congrArg State.link (frame_rowStart s d id c as) :)

@[simp] theorem regions_rowStart : (s.rowStart d id c as).regions = s.regions :=
  (congrArg State.regions (frame_rowStart s d id c as) :)

@[simp] theorem now_rowStart : (s.rowStart d id c as).now = s.now :=
  (congrArg State.now (frame_rowStart s d id c as) :)

/-- Of a domain it changes the commands and the roster alone. -/
theorem dom_rowStart (e : Nat) :
    { (s.rowStart d id c as).dom e with cmds := (s.dom e).cmds, roster := (s.dom e).roster } = s.dom e := by
  unfold State.rowStart
  split
  · rfl
  · have h := (frame_floored s d c as).2 e
    unfold State.setCmd
    rw [dom_setDom]
    split
    case isTrue he => subst he; rw [← h]; rfl
    case isFalse => rw [← h]

@[simp] theorem twin_rowStart (e : Nat) : ((s.rowStart d id c as).dom e).twin = (s.dom e).twin :=
  (congrArg Dom.twin (dom_rowStart s d id c as e) :)

@[simp] theorem chain_rowStart (e : Nat) : ((s.rowStart d id c as).dom e).chain = (s.dom e).chain :=
  (congrArg Dom.chain (dom_rowStart s d id c as e) :)

@[simp] theorem chainSeq_rowStart (e : Nat) : ((s.rowStart d id c as).dom e).chainSeq = (s.dom e).chainSeq :=
  (congrArg Dom.chainSeq (dom_rowStart s d id c as e) :)

@[simp] theorem seedOrderOf_rowStart (e : Nat) : (s.rowStart d id c as).seedOrderOf e = s.seedOrderOf e := by
  have h : ((s.rowStart d id c as).dom e).conf = (s.dom e).conf := (congrArg Dom.conf (dom_rowStart s d id c as e) :)
  simp [State.seedOrderOf, h]

/-- A property of commands that does not look at the mark of the floor holds of all commands as before. -/
theorem all_rowStart (p : Cmd → Bool) (hp : ∀ (x : Cmd) (b : Bool), p { x with floored := b } = p x) :
    ((s.rowStart d id c as).dom d).cmds.all p = (s.dom d).cmds.all p := by
  unfold State.rowStart
  split
  · rfl
  · have h : ((s.flooredFor d c as).dom d).cmds = (s.dom d).cmds := (congrArg Dom.cmds ((frame_floored s d c as).2 d) :)
    simp only [State.setCmd, dom_setDom_same, Dom.setCmd, h, List.all_map]
    congr 1
    funext x
    simp only [Function.comp]
    split
    · exact hp ..
    · rfl

@[simp] theorem settledBefore_rowStart (n : Nat) : ((s.rowStart d id c as).dom d).settledBefore n = (s.dom d).settledBefore n :=
  all_rowStart s d id c as _ fun _ _ => rfl

/-- Its command is the same but for the mark of the floor. -/
theorem cmd_rowStart {s : State} {d id : Nat} {c : Cmd} (h : s.cmd d id = some c) :
    ∃ b, (s.rowStart d id c as).cmd d id = some { c with floored := b } := by
  unfold State.rowStart
  split
  · exact ⟨c.floored, h⟩
  · exact ⟨_, cmd_setCmd (fun x => { x with floored := x.floored || as != [] }) (fun _ => rfl) ((cmd_floored ..).trans h)⟩
end

/-- A row of several steps that finishes its command gives it the result. -/
theorem runStaged_ends {s : State} {d id code : Nat} {c : Cmd} {as : List Approval} {f : State → Cmd → State} {w : Work} (h : s.Started d id code c)
    (ha : s.Approved d c as) (hf : f (s.rowStart d id c as) c = (s.rowStart d id c as).finishRow d id w) :
    ∃ t x, s.runStaged code d id f = .next t ∧ t.cmd d id = some x ∧ c.Got w x := by
  obtain ⟨b, hb⟩ := cmd_rowStart as h.1
  refine ⟨_, _, runStaged_rowStart f h ha, ?_, got_finish { c with floored := b } w⟩
  rw [hf]
  exact cmd_setCmd (fun x => x.finish w) (fun x => id_finish x w) hb

/-! ### What the link takes from a row -/

section
variable (s : State)

@[simp] theorem doms_sendFrame (type : Nat) (b : Bytes) : (s.sendFrame type b).doms = s.doms := by
  unfold State.sendFrame
  dsimp only
  (repeat' split) <;> rfl

@[simp] theorem doms_sendMessage (m : Bytes) : (s.sendMessage m).doms = s.doms :=
  doms_foldl _ _ _ fun _ _ => doms_sendFrame ..

@[simp] theorem dom_tell (d kind : Nat) (b : Bytes) (e : Nat) : (s.tell d kind b).dom e = s.dom e := by
  simp [State.dom, State.tell]

@[simp] theorem cmd_tell (d kind : Nat) (b : Bytes) (e i : Nat) : (s.tell d kind b).cmd e i = s.cmd e i := by
  simp [State.cmd]

@[simp] theorem twin_setTwin_same (d : Nat) (f : Twin → Twin) : ((s.setTwin d f).dom d).twin = f (s.dom d).twin := by
  simp [State.setTwin]

@[simp] theorem now_setCmd (d i : Nat) (f : Cmd → Cmd) : (s.setCmd d i f).now = s.now := rfl

/-- A change of a twin leaves every command as it is. -/
@[simp] theorem cmd_setTwin (d : Nat) (f : Twin → Twin) (e i : Nat) : (s.setTwin d f).cmd e i = s.cmd e i := by
  unfold State.cmd State.setTwin
  rw [dom_setDom]
  split
  case isTrue h => rw [h]; rfl
  case isFalse => rfl

@[simp] theorem twin_setCmd (d i : Nat) (f : Cmd → Cmd) (e : Nat) : ((s.setCmd d i f).dom e).twin = (s.dom e).twin := by
  unfold State.setCmd
  rw [dom_setDom]
  split
  case isTrue h => rw [h]; rfl
  case isFalse => rfl
end

/-! ### Seeds depend on the regions alone (R235) -/

section
variable {s t : State}

/-- Two states with the same regions give the same seed, and have the same regions after it. -/
theorem takeSeed_regions (h : t.regions = s.regions) {after : Option Nat} {l : List Nat} {a : Bytes} {u : State} (hs : s.takeSeed after l = some (a, u)) :
    ∃ v, t.takeSeed after l = some (a, v) ∧ v.regions = u.regions ∧ v.doms = t.doms := by
  induction l with
  | nil => cases hs
  | cons r rs ih =>
    have hr : t.region r = s.region r := by rw [State.region, State.region, h]
    rw [State.takeSeed] at hs ⊢
    cases hf : s.takeSeedOf r after with
    | none =>
      have hn : t.takeSeedOf r after = none := by simpa [State.takeSeedOf, State.pool, hr] using hf
      rw [hf] at hs
      rw [hn]
      exact ih hs
    | some p =>
      rw [hf] at hs
      cases hs
      simp only [State.takeSeedOf, Option.map_eq_some_iff, Prod.mk.injEq] at hf
      obtain ⟨x, hx, rfl, rfl⟩ := hf
      refine ⟨t.setEntropy r fun e => { e with pool := e.pool.erase x }, ?_, ?_, rfl⟩
      · simp only [State.pool] at hx
        simp only [State.takeSeedOf, State.pool, hr, hx, Option.map_some]
      · simp [State.setEntropy, State.setRegion, h, hr]

theorem takeTwo_regions (h : t.regions = s.regions) {l : List Nat} {a b : Bytes} {u : State} (hs : s.takeTwo l = some (a, b, u)) :
    ∃ v, t.takeTwo l = some (a, b, v) ∧ v.doms = t.doms := by
  simp only [State.takeTwo, Option.bind_eq_some_iff, Option.map_eq_some_iff, Prod.mk.injEq] at hs
  obtain ⟨p, hp, q, hq, rfl, rfl, rfl⟩ := hs
  obtain ⟨v, hv, hvr, hvd⟩ := takeSeed_regions h hp
  obtain ⟨w, hw, -, hwd⟩ := takeSeed_regions hvr hq
  exact ⟨w, by simp [State.takeTwo, hv, hw], hwd.trans hvd⟩
end

/-! ### The rows of several steps -/

/-- TWIN_DEMOTE is for an ATTACHED primary. -/
theorem inState_demote (t : Twin) : t.inState 0x0B06 = none ↔ t.mode = .attached ∧ t.role = .primary := by
  simp only [Twin.inState, need_eq_none, Bool.and_eq_true, decide_eq_true_eq]

/-- The pitch as TWIN_ESTABLISH leaves it once it has its seed: the command waits, and the twin has the pitch (R84). -/
def State.establishSent (s : State) (d id : Nat) (c : Cmd) (seed : Bytes) : State :=
  let t := (s.setCmd d id fun c => { c with stage := 1, seedUsed := some seed }).setTwin d fun t =>
    { t with establishing := some c.seq, peer := byteAt c.param 0, lastHeard := s.now, timeout := field c.param 12 4 }
  t.tell d msgEstablish (t.establishBody d c seed)

theorem cmd_establishSent {s : State} {d id : Nat} {x : Cmd} (c : Cmd) (seed : Bytes) (h : s.cmd d id = some x) :
    (s.establishSent d id c seed).cmd d id = some { x with stage := 1, seedUsed := some seed } := by
  rw [State.establishSent, cmd_tell, cmd_setTwin]
  exact cmd_setCmd (fun c => { c with stage := 1, seedUsed := some seed }) (fun _ => rfl) h

theorem establishing_establishSent (s : State) (d id : Nat) (c : Cmd) (seed : Bytes) :
    ((s.establishSent d id c seed).dom d).twin.establishing = some c.seq := by
  simp [State.establishSent]

section
variable {s : State} {d id : Nat} {c : Cmd} {as : List Approval} (ha : s.Approved d c as)
include ha

/-- TWIN_ESTABLISH takes the seed of its generator, and waits for the twin that it has told (R84). -/
theorem execTwinEstablish_asks {a b : Bytes} {v : State} (h : s.Started d id 0x0B02 c) (hs : c.stage = 0) (hm : (s.dom d).twin.mode = .none)
    (hp : establishFail c.param = none) (hl : s.link.mode = .secure) (hb : (s.dom d).settledBefore id = true)
    (ht : s.takeTwo (s.seedOrderOf d) = some (a, b, v)) :
    ∃ u x, exec (.twinEstablish d id) s = .next u ∧ u.cmd d id = some x ∧ x.stage = 1 ∧ x.seedUsed = some (a ++ b.take 16) ∧
      (u.dom d).twin.establishing = some c.seq := by
  obtain ⟨m, hc⟩ := cmd_rowStart as h.1
  obtain ⟨w, hw, hd⟩ := takeTwo_regions (regions_rowStart s d id c as) ht
  have hwc : w.cmd d id = some { c with floored := m } := by
    rw [← hc]
    simp only [State.cmd, State.dom, hd]
  have hk : firstFail [(s.dom d).twin.inState 0x0B02, establishFail c.param, need (s.link.mode = .secure) eTwinLink 0] = none := by
    simp [firstFail_eq_none, Twin.inState, hm, hp, hl]
  have hrow : exec (.twinEstablish d id) s = .next (w.establishSent d id c (a ++ b.take 16)) := by
    show execTwinEstablish d id s = _
    refine (runStaged_rowStart _ h ha).trans ?_
    simp only [hs, Nat.lt_irrefl, if_false, twin_rowStart, link_rowStart, hk, settledBefore_rowStart, hb, Bool.not_true, Bool.false_eq_true,
      seedOrderOf_rowStart, hw, gt_iff_lt]
    rfl
  exact ⟨_, _, hrow, cmd_establishSent c _ hwc, rfl, rfl, establishing_establishSent ..⟩

/-- TWIN_RESUME asks the secondary how far it has come (R88). -/
theorem execTwinResume_asks (h : s.Started d id 0x0B04 c) (hs : c.stage = 0) (hm : (s.dom d).twin.mode = .detached)
    (hr : (s.dom d).twin.role = .primary) (hl : s.link.mode = .secure) :
    ∃ u x, exec (.twinResume d id) s = .next u ∧ u.cmd d id = some x ∧ x.stage = 1 ∧ (u.dom d).twin.lastHeard = s.now := by
  obtain ⟨m, hc⟩ := cmd_rowStart as h.1
  have hx := cmd_setCmd (fun c => { c with stage := 1 }) (fun _ => rfl) hc
  have hk : firstFail [(s.dom d).twin.inState 0x0B04, need (s.link.mode = .secure) eTwinLink 0] = none := by
    simp [firstFail_eq_none, Twin.inState, hm, hr, hl]
  have hrow : exec (.twinResume d id) s = .next ((((s.rowStart d id c as).setCmd d id fun c => { c with stage := 1 }).setTwin d
      fun t => { t with lastHeard := s.now }).tell d msgResume []) := by
    show execTwinResume d id s = _
    refine (runStaged_rowStart _ h ha).trans ?_
    simp only [hs, Nat.lt_irrefl, if_false, twin_rowStart, link_rowStart, hk, now_setCmd, now_rowStart, gt_iff_lt]
  exact ⟨_, _, hrow, by rw [cmd_tell, cmd_setTwin, hx], rfl, by simp⟩

/-- A primary's first TWIN_DEMOTE row marks its command. -/
theorem execTwinDemote_begins (h : s.Started d id 0x0B06 c) (hs : c.stage = 0) (hm : (s.dom d).twin.mode = .attached)
    (hr : (s.dom d).twin.role = .primary) :
    ∃ u x, exec (.twinDemote d id) s = .next u ∧ u.cmd d id = some x ∧ x.stage = 1 := by
  obtain ⟨m, hc⟩ := cmd_rowStart as h.1
  have hrow : exec (.twinDemote d id) s = .next ((s.rowStart d id c as).setCmd d id fun c => { c with stage := 1 }) := by
    show execTwinDemote d id s = _
    refine (runStaged_rowStart _ h ha).trans ?_
    simp only [twin_rowStart, (inState_demote _).mpr ⟨hm, hr⟩, Option.isSome_none, Bool.false_eq_true, if_false, hs, if_true]
  exact ⟨_, _, hrow, cmd_setCmd (fun c => { c with stage := 1 }) (fun _ => rfl) hc, rfl⟩

/-- A later one hands over, once the twin has acknowledged every record (R90). -/
theorem execTwinDemote_ends (h : s.Started d id 0x0B06 c) (hs : 0 < c.stage) (hm : (s.dom d).twin.mode = .attached)
    (hr : (s.dom d).twin.role = .primary) (hu : (s.dom d).twin.unacked = []) (hx : ∀ x ∈ (s.dom d).cmds, x.id < id → x.mayChain = false) :
    RowEnds (.twinDemote d id) s d id c (.ok { effects := [.twinHandover] }) := by
  have hall : ((s.rowStart d id c as).dom d).cmds.all (fun x => x.id ≥ id || !x.mayChain) = true := by
    rw [all_rowStart _ _ _ _ _ _ fun _ _ => rfl]
    simp only [List.all_eq_true, Bool.or_eq_true, decide_eq_true_eq, Bool.not_eq_true']
    exact fun x hin => (Nat.lt_or_ge x.id id).symm.imp_right (hx x hin)
  show ∃ t x, execTwinDemote d id s = .next t ∧ t.cmd d id = some x ∧ c.Got _ x
  refine runStaged_ends h ha ?_
  simp only [twin_rowStart, (inState_demote _).mpr ⟨hm, hr⟩, Option.isSome_none, Bool.false_eq_true, if_false, Nat.pos_iff_ne_zero.mp hs, hu, hall,
    decide_true, Bool.and_self, if_true]

/-- A TWIN_DEMOTE fails on a pitch that is not an ATTACHED primary. -/
theorem execTwinDemote_fails (h : s.Started d id 0x0B06 c) (hm : (s.dom d).twin.mode ≠ .attached ∨ (s.dom d).twin.role ≠ .primary) :
    RowEnds (.twinDemote d id) s d id c (.error (eTwinState, 0)) := by
  show ∃ t x, execTwinDemote d id s = .next t ∧ t.cmd d id = some x ∧ c.Got _ x
  refine runStaged_ends h ha ?_
  have hf : ((s.dom d).twin.inState 0x0B06).isSome = true := Option.isSome_iff_ne_none.mpr fun hn =>
    have ⟨ha, hp⟩ := (inState_demote _).mp hn
    hm.elim (· ha) (· hp)
  simp only [twin_rowStart, hf, if_true]

/-- DIGEST_READ reads the chain as its serial position left it (R92). -/
theorem execDigestRead_ends (h : s.Started d id 0x0B08 c)
    (hx : ∀ x ∈ (s.dom d).cmds, x.id < id → x.mayChain = true → x.digest.isSome = true) :
    let seen := c.chainSeen.getD ((s.dom d).chain, (s.dom d).chainSeq)
    RowEnds (.digestRead d id) s d id c (.ok { out := leBytes 8 seen.2 ++ zeros 8 ++ slice seen.1 0 48 }) := by
  have hid : c.id = id := by simpa using List.find?_some h.1
  have hall : ((s.rowStart d id c as).dom d).cmds.all (fun x => x.id ≥ c.id || !x.mayChain || x.digest.isSome) = true := by
    rw [all_rowStart _ _ _ _ _ _ fun _ _ => rfl]
    simp only [hid, List.all_eq_true, Bool.or_eq_true, decide_eq_true_eq, Bool.not_eq_true']
    intro x hin
    by_cases hlt : x.id < id
    · cases hc : x.mayChain
      · exact .inl (.inr rfl)
      · exact .inr (hx x hin hlt hc)
    · exact .inl (.inl (Nat.le_of_not_lt hlt))
  show ∃ t x, execDigestRead d id s = .next t ∧ t.cmd d id = some x ∧ c.Got _ x
  refine runStaged_ends h ha ?_
  simp only [hall, if_true, chain_rowStart, chainSeq_rowStart]
end

/-! ### The statement -/

/-- Settles O25: the rows of one step are `runMgmt` with checks that pass, and those of several steps work on a state that differs from the row's own
in the mark and the journal of the approval floor. -/
theorem twinRowsEnd : Obligations.TwinRowsEnd := by
  unfold Obligations.TwinRowsEnd
  intro s d id c as ha
  refine ⟨fun h hm hk ho hl => ?_, fun a b v h hs => execTwinEstablish_asks ha h hs, fun h hm => ?_, fun h => execTwinResume_asks ha h,
    fun h hm hr => ?_, fun h => execTwinDemote_begins ha h, fun h => execTwinDemote_ends ha h, fun h => execTwinDemote_fails ha h,
    fun h => runMgmt_ends _ h ha, fun h => execDigestRead_ends ha h, fun h hm => ?_⟩
  case refine_1 => exact runMgmt_passes h ha rfl (by simp [Dom.joinFail, firstFail_eq_none, Twin.inState, hm, hk, ho, hl])
  case refine_2 => exact runMgmt_passes h ha rfl (by simp [Twin.inState, hm])
  case refine_3 => exact runMgmt_passes h ha rfl (by simp [Twin.inState, hm, hr])
  case refine_4 => exact runMgmt_passes h ha rfl (by simpa [Twin.inState] using hm)

end Sys2Proof.Machine
end

section
/-! PROOF. The frames of the twin link (O58). -/

namespace Sys2Proof.Machine

/-! ### What completions and placement leave: the time, and every twin -/

/-- The instant, and the twin of every domain. -/
def State.twins (s : State) : Nat × (Nat → Twin) := (s.now, fun e => (s.dom e).twin)

theorem now_of_twins {s t : State} (h : t.twins = s.twins) : t.now = s.now := congrArg Prod.fst h

theorem twin_of_twins {s t : State} (h : t.twins = s.twins) (e : Nat) : (t.dom e).twin = (s.dom e).twin := congrFun (congrArg Prod.snd h) e

/-- An update that changes neither the clock nor a domain. -/
theorem twins_congr {s t : State} (hc : t.clock = s.clock) (hd : t.doms = s.doms) : t.twins = s.twins := by
  simp only [State.twins, State.now, State.dom, hc, hd]

theorem twins_foldl {α : Type} (l : List α) (f : State → α → State) (s : State) (h : ∀ t a, (f t a).twins = t.twins) : (l.foldl f s).twins = s.twins := by
  induction l generalizing s with
  | nil => rfl
  | cons a l ih => rw [List.foldl_cons, ih, h]

section
variable (s : State)

theorem twins_setDom {d : Nat} {f : Dom → Dom} (h : (f (s.dom d)).twin = (s.dom d).twin) : (s.setDom d f).twins = s.twins := by
  refine Prod.ext rfl (funext fun e => ?_)
  show ((s.setDom d f).dom e).twin = (s.dom e).twin
  rw [dom_setDom]
  split
  case isTrue he => rw [← he, h]
  case isFalse => rfl

@[simp] theorem twins_setCmd (d id : Nat) (f : Cmd → Cmd) : (s.setCmd d id f).twins = s.twins := twins_setDom s rfl

/-! Entries, messages and events -/

@[simp] theorem clock_trailAs (code origin severity flags : Nat) (data : Bytes) (toMram : Bool) (time : Nat) :
    (s.trailAs code origin severity flags data toMram time).clock = s.clock := by
  unfold State.trailAs
  dsimp only
  (repeat' split) <;> rfl

@[simp] theorem twins_log (code origin severity : Nat) (data : Bytes) : (s.log code origin severity data).twins = s.twins :=
  twins_congr (clock_trailAs ..) (doms_log ..)

@[simp] theorem twins_message (v : Nat) (now : Bool) : (s.message v now).twins = s.twins := by
  refine twins_congr ?_ (doms_message ..)
  unfold State.message
  dsimp only
  (repeat' split) <;> rfl

@[simp] theorem twins_eventEdge (source : Nat) : (s.eventEdge source).twins = s.twins := by
  unfold State.eventEdge
  dsimp only
  split <;> simp

@[simp] theorem twins_raise (source : Nat) : (s.raise source).twins = s.twins := by
  unfold State.raise
  split
  · rfl
  · rw [twins_eventEdge]; rfl

@[simp] theorem twins_pitchEvent (d b : Nat) : (s.pitchEvent d b).twins = s.twins := by
  have h : (s.setDom d fun D => { D with eventAck := D.eventAck ||| 2 ^ b }).twins = s.twins := twins_setDom s rfl
  unfold State.pitchEvent
  dsimp only
  (repeat' split) <;> simp [h]

@[simp] theorem twins_journal (k : JournalKind) (d seq : Nat) (data : Bytes) : (s.journal k d seq data).twins = s.twins :=
  (congrArg State.twins (frame_journal s k d seq data) :)

@[simp] theorem twins_journalTimer (d t : Nat) : (s.journalTimer d t).twins = s.twins := twins_journal ..

/-! Items for the host -/

@[simp] theorem twins_putRaw (o : HostOut) : (s.putRaw o).twins = s.twins := rfl

@[simp] theorem twins_wait (o : HostOut) : (s.wait o).twins = s.twins := rfl

@[simp] theorem twins_hold (o : HostOut) : (s.hold o).twins = s.twins := rfl

@[simp] theorem twins_dirtyFail (d : Nat) : (s.dirtyFail d).twins = s.twins := by
  simp [State.dirtyFail, twins_setDom]

@[simp] theorem twins_dirtyIssue (d w : Nat) : (s.dirtyIssue d w).twins = s.twins := by
  unfold State.dirtyIssue
  dsimp only
  (repeat' split) <;> simp [twins_setDom]

@[simp] theorem twins_dirtyMark (d addr len : Nat) : (s.dirtyMark d addr len).twins = s.twins := by
  unfold State.dirtyMark
  split
  · rfl
  · exact (twins_foldl _ _ _ fun t w => twins_dirtyIssue t d w).trans (twins_setDom s rfl)

@[simp] theorem twins_put (o : HostOut) : (s.put o).twins = s.twins := by
  unfold State.put
  dsimp only
  split <;> simp

@[simp] theorem twins_emitNow (o : HostOut) : (s.emitNow o).twins = s.twins := by
  unfold State.emitNow
  split <;> simp

@[simp] theorem twins_emit (o : HostOut) : (s.emit o).twins = s.twins := by
  unfold State.emit
  split <;> simp

/-! Completions (R56, R57) -/

@[simp] theorem twins_aggregate (d q : Nat) (now : Bool) : (s.aggregate d q now).twins = s.twins := by
  unfold State.aggregate
  dsimp only
  (repeat' split) <;> simp [twins_setDom, Dom.setQueue]

@[simp] theorem twins_post (d q : Nat) (x : Completion) (now : Bool) : (s.post d q x now).twins = s.twins := by
  unfold State.post
  dsimp only
  (repeat' split) <;> simp [twins_setDom, Dom.setQueue]

@[simp] theorem twins_saturation : s.saturation.twins = s.twins := by
  have h : (State.raise { s with guy := { s.guy with saturated := true } } 0x192).twins = s.twins := twins_raise ..
  unfold State.saturation
  extract_lets now t u due
  split
  · rfl
  · split
    · rfl
    · split
      · exact (twins_log ..).trans h
      · exact h

@[simp] theorem twins_busyTimer (d : Nat) : (s.busyTimer d).twins = s.twins := by
  unfold State.busyTimer
  extract_lets n t was before u v w freed
  have hu : u.twins = s.twins := twins_setDom s rfl
  have hw : w.twins = u.twins := by
    unfold w
    split
    · exact twins_journal ..
    · rfl
  rw [twins_saturation, twins_foldl _ _ _ fun t e => twins_pitchEvent t e evAdminReady, hw, hu]

@[simp] theorem twins_finishCmd (d : Nat) (c : Cmd) : (s.finishCmd d c).twins = s.twins := by
  have h : (s.setDom d fun D => { D with cmds := D.cmds.filter fun x => x.id != c.id }).twins = s.twins := twins_setDom s rfl
  unfold State.finishCmd
  dsimp only
  split <;> simp [h]

@[simp] theorem twins_releaseTwin (d : Nat) : (s.releaseTwin d).twins = s.twins := twins_foldl _ _ _ fun t c => twins_finishCmd t d c

/-! Placement (R46, R72) -/

@[simp] theorem twins_gapTimer (d : Nat) (moved : Bool) : (s.gapTimer d moved).twins = s.twins := by
  have h : (s.setDom d fun D =>
      if D.waiting != [] && D.drained then { D with gapSince := if moved || D.gapSince.isNone then some s.now else D.gapSince }
      else { D with gapSince := none }).twins = s.twins := twins_setDom s (by split <;> rfl)
  unfold State.gapTimer
  dsimp only
  split
  · exact h
  · rw [twins_journalTimer]; exact h

theorem twins_takeSeed {s t : State} {after : Option Nat} {l : List Nat} {a : Bytes} (h : s.takeSeed after l = some (a, t)) : t.twins = s.twins := by
  induction l with
  | nil => cases h
  | cons r rs ih =>
    rw [State.takeSeed] at h
    split at h
    case h_1 x hx =>
      cases h
      simp only [State.takeSeedOf, Option.map_eq_some_iff, Prod.mk.injEq] at hx
      obtain ⟨_, _, _, rfl⟩ := hx
      rfl
    case h_2 => exact ih h

@[simp] theorem twins_assign (d id : Nat) (draws : List Nat) (predict : Bool) : (s.assign d id draws predict).twins = s.twins := by
  unfold State.assign
  split
  · rfl
  · dsimp only
    rw [twins_journalTimer, twins_setCmd, twins_setDom _ rfl]
    split
    · split
      · next h => exact twins_takeSeed h
      · exact twins_setDom s rfl
    · rfl

theorem twins_drawOne {s t : State} {d : Nat} {c : Cmd} (h : s.drawOne d c = some t) : t.twins = s.twins := by
  unfold State.drawOne at h
  dsimp only at h
  split at h
  · cases h
  · simp only [Option.map_eq_some_iff, Prod.exists] at h
    obtain ⟨o, u, hu, rfl⟩ := h
    rw [twins_setCmd, twins_setDom _ rfl]
    have hseed {l : List Nat} {after : Option Nat} (hv : (s.takeSeed after l).map (fun p => (some p.1, p.2)) = some (o, u)) : u.twins = s.twins := by
      simp only [Option.map_eq_some_iff, Prod.mk.injEq, Prod.exists] at hv
      obtain ⟨a, v, hv, -, rfl⟩ := hv
      exact twins_takeSeed hv
    split at hu
    · exact hseed hu
    · split at hu
      · cases hu; rfl
      · split at hu
        · exact hseed hu
        · cases hu; rfl

@[simp] theorem twins_drawAll (d : Nat) (l : List Cmd) : (s.drawAll d l).twins = s.twins := by
  induction l generalizing s with
  | nil => rfl
  | cons c cs ih =>
    rw [State.drawAll]
    split
    · split
      · next h => rw [ih, twins_drawOne h]
      · rfl
    · exact ih s

@[simp] theorem twins_draw (d : Nat) : (s.draw d).twins = s.twins := twins_drawAll ..

@[simp] theorem twins_noteReady (d : Nat) : (s.noteReady d).twins = s.twins := twins_setDom s rfl

@[simp] theorem twins_settleList (d : Nat) (hold : Bool) (l : List Cmd) : (s.settleList d hold l).twins = s.twins := by
  induction l generalizing s hold with
  | nil => rfl
  | cons c cs ih =>
    rw [State.settleList]
    dsimp only
    (repeat' split) <;> simp [ih]

@[simp] theorem twins_settle (d : Nat) : (s.settle d).twins = s.twins := by
  simp [State.settle, twins_setDom]

theorem twin_setNonce (D : Dom) (h : Nat) (n : Nonce) : (D.setNonce h n).twin = D.twin := by
  unfold Dom.setNonce
  split <;> rfl

/-- A reservation moves a counter alone. -/
theorem twin_reservation {D E : Dom} {d : Nat} {e : Entry} {v : Option Nat} (h : D.reservation d e = .ok (v, E)) : E.twin = D.twin := by
  unfold Dom.reservation Dom.reserve at h
  dsimp only at h
  split at h
  · cases h; rfl
  · split at h
    · cases h
    · split at h
      · next hx =>
        simp only [Option.map_eq_some_iff, Prod.mk.injEq] at hx
        obtain ⟨n, -, -, rfl⟩ := hx
        cases h
        exact twin_setNonce ..
      · cases h

@[simp] theorem twins_placeOne (d q : Nat) (raw : Bytes) (seq : Nat) : (s.placeOne d q raw seq).twins = s.twins := by
  unfold State.placeOne
  dsimp only
  generalize hu : (if (s.newCmd d q raw seq).entry.mgmt = true then s.journal .placement d seq raw else s) = u
  have h : u.twins = s.twins := by rw [← hu]; split <;> simp
  rw [← h]
  split
  · exact twins_setDom u rfl
  · split
    · exact twins_setDom u rfl
    · split
      · exact twins_setDom u rfl
      · next hr =>
        have ht := twin_reservation hr
        exact twins_setDom u ht

@[simp] theorem twins_placeWaiting (d n : Nat) : (s.placeWaiting d n).twins = s.twins := by
  induction n generalizing s with
  | zero => rfl
  | succ n ih =>
    rw [State.placeWaiting]
    split
    · rfl
    · split
      · rfl
      · dsimp only
        rw [ih, twins_setDom _ rfl, twins_placeOne]

@[simp] theorem twins_resumePlacement (d : Nat) : (s.resumePlacement d).twins = s.twins := by
  unfold State.resumePlacement
  dsimp only
  (repeat' split) <;> simp
end

/-! ### The rows of the twin's timers (R86, R88) -/

@[simp] theorem now_passTo (s : State) (t : Nat) : (s.passTo t).now = max s.now t := by
  show s.clock.mono + (t - s.clock.mono) = max s.clock.mono t
  omega

@[simp] theorem now_setTwin (s : State) (d : Nat) (f : Twin → Twin) : (s.setTwin d f).now = s.now := rfl

@[simp] theorem twins_failAwaiting (s : State) (d code : Nat) : (s.failAwaiting d code).twins = s.twins := by
  unfold State.failAwaiting
  split
  · exact twins_setCmd ..
  · rfl

@[simp] theorem now_failAwaiting (s : State) (d code : Nat) : (s.failAwaiting d code).now = s.now := now_of_twins (twins_failAwaiting ..)

@[simp] theorem twin_failAwaiting (s : State) (d code e : Nat) : ((s.failAwaiting d code).dom e).twin = (s.dom e).twin :=
  twin_of_twins (twins_failAwaiting ..) e

section
variable (s : State) (d : Nat) (m : TwinMode)

/-- A change of state lets time stand. -/
@[simp] theorem now_twinMode : (s.twinMode d m).now = s.now := by
  unfold State.twinMode
  split
  · rfl
  · rw [now_of_twins (twins_pitchEvent ..), now_of_twins (twins_log ..)]
    rfl

/-- It changes nothing else of the twin. -/
@[simp] theorem twin_twinMode : ((s.twinMode d m).dom d).twin = { (s.dom d).twin with mode := m } := by
  unfold State.twinMode
  split
  case isTrue h => rw [← h]
  case isFalse =>
    rw [twin_of_twins (twins_pitchEvent ..), twin_of_twins (twins_log ..), dom_setDom_same]

/-- The completions and the placement that a twin held back leave it as the change of state does. -/
theorem twins_release : (((s.twinMode d m).releaseTwin d).resumePlacement d).twins = (s.twinMode d m).twins := by
  rw [twins_resumePlacement, twins_releaseTwin]
end

section
variable {s : State} {d : Nat}

/-- Without a heartbeat for TIMEOUT a twin is DETACHED (R88). -/
theorem execTwinTimeout_detaches (hp : s.boot.powered = true) (hh : s.boot.held = false) (hm : (s.dom d).twin.mode = .attached) :
    ∃ u, exec (.twinTimeout d) s = .next u ∧ u.now = max s.now ((s.dom d).twin.lastHeard + (s.dom d).twin.timeout * 1000) ∧
      (u.dom d).twin.mode = .detached ∧ (u.dom d).twin.lagPaused = false := by
  have hr : ∃ v : State, exec (.twinTimeout d) s = .next (((v.twinMode d .detached).releaseTwin d).resumePlacement d) ∧
      v.now = max s.now ((s.dom d).twin.lastHeard + (s.dom d).twin.timeout * 1000) ∧ (v.dom d).twin.lagPaused = false := by
    refine ⟨_, (if_neg (by simp [hp, hh, hm])).trans (if_pos hm), ?_, ?_⟩ <;> simp
  obtain ⟨v, hv, hn, hl⟩ := hr
  refine ⟨_, hv, (now_of_twins (twins_release ..)).trans ((now_twinMode ..).trans hn), ?_, ?_⟩
  all_goals rw [twin_of_twins (twins_release ..), twin_twinMode]
  exact hl

/-- A lag over its time pauses placement (R86). -/
theorem execTwinLagTime_pauses {r : TwinRec} {rest : List TwinRec} (hu : (s.dom d).twin.unacked = r :: rest) (hr : (s.dom d).twin.role = .primary)
    (hm : (s.dom d).twin.mode = .attached) :
    ∃ u, exec (.twinLagTime d) s = .next u ∧ u.now = max s.now (r.since + (s.dom d).twin.lagTime * 1000) ∧ (u.dom d).twin.lagPaused = true := by
  have hx : exec (.twinLagTime d) s = .next ((s.passTo (r.since + (s.dom d).twin.lagTime * 1000)).setTwin d fun t => { t with lagPaused := true }) := by
    show execTwinLagTime d s = _
    simp [execTwinLagTime, hu, hr, hm]
  exact ⟨_, hx, now_passTo .., by simp⟩
end

/-! ### The rows that take frames (R85, R86, R467) -/

section
variable {s t : State} {b p : Bytes} (hp : s.boot.powered = true) (hh : s.boot.held = false) (hm : s.link.mode = .secure)
include hp hh hm

section
variable {types : List Nat} (ht : byteAt b 0 ∈ types)
include ht

theorem frameRow_none (ha : s.wakeModule.acceptFrame b = (none, t)) : s.frameRow b types = t := by
  simp [State.frameRow, hp, hh, hm, ht, ha]

theorem frameRow_record (ha : s.wakeModule.acceptFrame b = (some (4, p), t)) : s.frameRow b types = (t.takePiece p).ackFrames := by
  simp [State.frameRow, hp, hh, hm, ht, ha]

theorem frameRow_ack (ha : s.wakeModule.acceptFrame b = (some (5, p), t)) :
    s.frameRow b types = t.framesAcked (field b 4 4) (field p 0 8) := by
  simp [State.frameRow, hp, hh, hm, ht, ha]

theorem frameRow_heartbeat (ha : s.wakeModule.acceptFrame b = (some (6, p), t)) :
    s.frameRow b types = ((chunks 16 p).foldl State.heartbeatEntry t).ackFrames := by
  simp [State.frameRow, hp, hh, hm, ht, ha]
end

/-- An accepted RECORD frame takes effect in either row, and is acknowledged. -/
theorem execRecord_acts (hb : byteAt b 0 = 4) (ha : s.wakeModule.acceptFrame b = (some (4, p), t)) :
    exec (.record b) s = .next (t.takePiece p).ackFrames ∧ exec (.ack b) s = exec (.record b) s := by
  have h4 : exec (.record b) s = .next (t.takePiece p).ackFrames := congrArg Host.Outcome.next (frameRow_record hp hh hm (by simp [hb]) ha)
  exact ⟨h4, (congrArg Host.Outcome.next (frameRow_record hp hh hm (by simp [hb]) ha)).trans h4.symm⟩

/-- So does an accepted heartbeat. -/
theorem execHeartbeat_acts (hb : byteAt b 0 = 6) (ha : s.wakeModule.acceptFrame b = (some (6, p), t)) :
    exec (.heartbeat b) s = .next ((chunks 16 p).foldl State.heartbeatEntry t).ackFrames :=
  congrArg Host.Outcome.next (frameRow_heartbeat hp hh hm (by simp [hb]) ha)

/-- A frame that is not accepted leaves what its rejection counted. -/
theorem execAck_rejects (ha : s.wakeModule.acceptFrame b = (none, t)) (h4 : 4 ≤ byteAt b 0) (h5 : byteAt b 0 ≤ 5) : exec (.ack b) s = .next t :=
  congrArg Host.Outcome.next (frameRow_none hp hh hm (by rw [List.mem_cons, List.mem_singleton]; omega) ha)

omit hp hh hm in
/-- The time stands while a frame is accepted. -/
theorem now_acceptFrame {x : Nat × Bytes} (ha : s.acceptFrame b = (some x, t)) : t.now = s.now := by
  unfold State.acceptFrame at ha
  dsimp only at ha
  (repeat' split at ha) <;> cases ha
  all_goals rfl

/-- An accepted ACK frees the buffer up to its number (R467). -/
theorem execAck_frees (hb : byteAt b 0 = 5) (ha : s.wakeModule.acceptFrame b = (some (5, p), t)) (hq : t.link.queued = []) :
    ∃ u, exec (.ack b) s = .next u ∧ u.link.lastSent = s.now ∧
      u.link.unacked = t.link.unacked.filter fun f => f.1 > field p 0 8 || field f.2 4 4 != field b 4 4 := by
  have hn : t.now = s.now := (now_acceptFrame ha).trans (by rw [wakeModule_eq]; rfl)
  exact ⟨_, congrArg Host.Outcome.next (frameRow_ack hp hh hm (by simp [hb]) ha), by simp [State.framesAcked, State.flushQueued, hq, State.sendQueued, hn],
    by simp [State.framesAcked, State.flushQueued, hq, State.sendQueued]⟩

/-! ### The rows that send frames (R467) -/

/-- A heartbeat that fits the buffer goes out. -/
theorem execHeartbeatSend_sends (hl : s.boot.state ≠ .locked) (hb : s.boot.state ≠ .booting)
    (hf : s.link.buffered + s.heartbeats.length + 32 ≤ 4194304) :
    ∃ u, exec .heartbeatSend s = .next u ∧ u.link.txNo = s.link.txNo + 1 ∧
      u.host.sent = s.host.sent ++ [.frame (sealFrame s.link.keys s.link.initiator 6 s.link.epoch s.link.txNo s.heartbeats)] := by
  have hr : exec .heartbeatSend s = .next (s.sendFrame 6 s.heartbeats) := if_pos (by simp [hp, hh, hm, hl, hb])
  refine ⟨_, hr, ?_, ?_⟩ <;> simp [State.sendFrame, hm, Nat.not_lt.mpr hf, State.putRaw]

omit hp hh hm in
/-- Frames put on the port follow what has been sent. -/
theorem foldl_putRaw (l : List (Nat × Bytes)) (s : State) :
    l.foldl (fun s f => s.putRaw (.frame f.2)) s = { s with host := { s.host with sent := s.host.sent ++ l.map fun f => .frame f.2 } } := by
  induction l generalizing s with
  | nil => simp
  | cons f l ih => rw [List.foldl_cons, ih]; simp [State.putRaw]

/-- What is not acknowledged is sent again as it was. -/
theorem execTwinResend_resends (hu : s.link.unacked ≠ []) :
    ∃ u, exec .twinResend s = .next u ∧ u.host.sent = s.host.sent ++ s.link.unacked.map (fun f => HostOut.frame f.2) ∧
      u.now = max s.now (s.link.lastSent + 20000) ∧ u.link.lastSent = u.now ∧ u.link.unacked = s.link.unacked := by
  refine ⟨_, if_pos (by simp [hp, hh, hm, hu]), ?_⟩
  rw [foldl_putRaw]
  exact ⟨rfl, now_passTo .., rfl, rfl⟩
end

/-! ### The statement -/

/-- Settles O58: the rows that take a frame act on what is accepted of it, those that send put frames on the port, and what a timer's row does to a twin
stands whatever completions and placement follow. -/
theorem linkFramesAct : Obligations.LinkFramesAct := by
  unfold Obligations.LinkFramesAct
  exact fun s b p t d hp hh => ⟨execRecord_acts hp hh, execAck_frees hp hh, execHeartbeat_acts hp hh, execAck_rejects hp hh,
    execHeartbeatSend_sends hp hh, execTwinResend_resends hp hh, execTwinTimeout_detaches hp hh, fun r rest => execTwinLagTime_pauses⟩

end Sys2Proof.Machine
end

section
/-! PROOF. What a row of a management opcode leaves unchanged (O10). -/

namespace Sys2Proof.Machine

/-! ### What engine jobs move when they end -/

/-- A state with what the end of an engine job can move as it is in another: the engines and caches, the counters, the host port, the outputs that a warden
gap holds, the trail and the events. -/
def State.enginesOf (s t : State) : State :=
  { s with regions := t.regions, cores := t.cores, cells := t.cells, lius := t.lius, hashes := t.hashes, perf := t.perf, host := t.host, trail := t.trail
           events := t.events, guy := { s.guy with held := t.guy.held } }

/-- A state without it. -/
def State.idled (s : State) : State := s.enginesOf {}

section
variable (s : State)

theorem idled_foldl {α : Type} (l : List α) (f : State → α → State) (h : ∀ t a, (f t a).idled = t.idled) : (l.foldl f s).idled = s.idled := by
  induction l generalizing s with
  | nil => rfl
  | cons a l ih => rw [List.foldl_cons, ih, h]

@[simp] theorem idled_setRegion (r : Nat) (f : Region → Region) : (s.setRegion r f).idled = s.idled := rfl

@[simp] theorem idled_setEntropy (r : Nat) (f : EntropyRegion → EntropyRegion) : (s.setEntropy r f).idled = s.idled := rfl

@[simp] theorem idled_setCore (k : Nat) (f : Core → Core) : (s.setCore k f).idled = s.idled := rfl

@[simp] theorem idled_setCell (n : Nat) (f : Cell → Cell) : (s.setCell n f).idled = s.idled := rfl

@[simp] theorem idled_setLiu (n : Nat) (f : Liu → Liu) : (s.setLiu n f).idled = s.idled := rfl

@[simp] theorem idled_setHash (n : Nat) (f : HashEngine → HashEngine) : (s.setHash n f).idled = s.idled := rfl

@[simp] theorem idled_log (code origin severity : Nat) (data : Bytes) : (s.log code origin severity data).idled = s.idled := by
  unfold State.log State.trailAs
  dsimp only
  (repeat' split) <;> rfl

@[simp] theorem idled_message (v : Nat) (now : Bool) : (s.message v now).idled = s.idled := by
  unfold State.message
  dsimp only
  (repeat' split) <;> rfl

@[simp] theorem idled_eventEdge (source : Nat) : (s.eventEdge source).idled = s.idled := by
  unfold State.eventEdge
  dsimp only
  split <;> simp

@[simp] theorem idled_regionEvent (r kind : Nat) : (s.regionEvent r kind).idled = s.idled := by
  unfold State.regionEvent State.raise
  split
  · rfl
  · rw [idled_eventEdge]; rfl

@[simp] theorem idled_bump (kind unit index n : Nat) : (s.bump kind unit index n).idled = s.idled := by
  unfold State.bump
  dsimp only
  (repeat' split) <;> rfl

@[simp] theorem idled_count (kind unit event : Nat) (dom : Option Nat) (n : Nat) : (s.count kind unit event dom n).idled = s.idled :=
  idled_foldl _ _ _ fun t i => by split <;> simp

@[simp] theorem idled_setBorrowing (r : Nat) (on : Bool) : (s.setBorrowing r on).idled = s.idled := by
  unfold State.setBorrowing
  split <;> simp

theorem idled_takeSeedOf {s t : State} {r : Nat} {after : Option Nat} {a : Bytes} (h : s.takeSeedOf r after = some (a, t)) : t.idled = s.idled := by
  simp only [State.takeSeedOf, Option.map_eq_some_iff, Prod.mk.injEq] at h
  obtain ⟨_, _, _, rfl⟩ := h
  rfl

theorem idled_borrow {s t : State} {r : Nat} {a : Bytes} (h : s.borrow r = some (a, t)) : t.idled = s.idled := by
  unfold State.borrow at h
  split at h
  · simp only [Option.bind_eq_some_iff, Option.map_eq_some_iff, Prod.mk.injEq] at h
    obtain ⟨_, _, p, hp, rfl, rfl⟩ := h
    rw [idled_count, idled_setBorrowing, idled_takeSeedOf hp]
  · cases h

theorem idled_regionSeed {s t : State} {r : Nat} {a : Bytes} (h : s.regionSeed r = some (a, t)) : t.idled = s.idled := by
  unfold State.regionSeed at h
  split at h
  · next hp => cases h; exact idled_takeSeedOf hp
  · exact idled_borrow h

@[simp] theorem idled_reseedBlinding (r : Nat) : (s.reseedBlinding r).idled = s.idled := by
  unfold State.reseedBlinding
  split
  · rfl
  · split
    · next h => rw [idled_setEntropy, idled_regionSeed h]
    · rfl

@[simp] theorem idled_blind (r : Nat) (ns : List Nat) : (s.blind r ns).2.idled = s.idled := by
  unfold State.blind
  dsimp only
  split <;> simp

@[simp] theorem idled_goOn (l : Nat) : (s.goOn l).idled = s.idled := by
  unfold State.goOn State.chooseWork
  dsimp only
  (repeat' split) <;> rfl

@[simp] theorem idled_leaveContext (l x : Nat) : (s.leaveContext l x).idled = s.idled := by
  simp [State.leaveContext]

@[simp] theorem idled_feedHash (r : Nat) : (s.feedHash r).idled = s.idled := by
  unfold State.feedHash
  dsimp only
  split
  · rfl
  · split
    · rfl
    · rw [idled_setRegion, idled_setHash, State.setJob, idled_setCore]

@[simp] theorem idled_endFirmwareJob (k : Nat) (j : Job) : (s.endFirmwareJob k j).idled = s.idled := by
  unfold State.endFirmwareJob
  dsimp only
  split
  · rw [idled_foldl _ _ _ fun t n => idled_setCell t n _, idled_count]
  · split <;> simp
  · split <;> simp

@[simp] theorem idled_endFirmware (d : Nat) (c : Cmd) : (s.endFirmware d c).idled = s.idled := by
  unfold State.endFirmware
  dsimp only
  split
  · rfl
  · rw [State.feedHashes, idled_foldl _ _ _ fun t _ => idled_feedHash t _, idled_setCore, idled_foldl _ _ _ fun t j => idled_endFirmwareJob t c.core j]

theorem idled_endCalls (code d id : Nat) : (s.endCalls code d id).idled = s.idled := by
  unfold State.endCalls
  (repeat' split) <;> simp
end

/-- Two states that agree without what engine jobs move differ in that alone. -/
theorem enginesOf_eq_of_idled {s t : State} (h : t.idled = s.idled) : t.enginesOf s = s :=
  congrArg (a₁ := t.idled) (a₂ := s.idled) (fun u : State => u.enginesOf s) h

/-- A row of a command for which Efori holds no job ends none. -/
theorem endCalls_without_jobs {s : State} {d id : Nat} (code : Nat) (h : ∀ c, s.cmd d id = some c → ∀ j ∈ (s.core c.core).jobs, j.serves d id = false) :
    s.endCalls code d id = s := by
  unfold State.endCalls
  split
  case h_1 c hc =>
    have hid : c.id = id := by simpa using List.find?_some hc
    have hl : ((s.core c.core).jobs.filter fun j => j.serves d c.id) = [] := by
      rw [hid, List.filter_eq_nil_iff]
      exact fun j hj => by simp [h c hc j hj]
    split
    · simp only [State.endFirmware, hl, if_true]
    · rfl
  case h_2 => rfl

/-! ### What a management row writes -/

/-- A domain with its commands and its approval floor as they are in another. -/
def Dom.restoring (D E : Dom) : Dom := { D with cmds := E.cmds, roster := { D.roster with floors := E.roster.floors } }

/-- The wardens' logic with its journal as it is in another. -/
def Guyline.restoring (g h : Guyline) : Guyline := { g with journal := h.journal, written := h.written, headDigest := h.headDigest }

/-- A warden with its running digest as it is in another. -/
def Warden.restoring (x y : Warden) : Warden := { x with digest := y.digest, applied := y.applied }

/-- A state with its domains, wardens and count of free values as they are in another. -/
def State.restoring (s t : State) : State := { s with doms := t.doms, free := t.free, guy := t.guy, wardens := t.wardens }

/-- `t` is `s` but for command `id` of domain `d`, the approval floor of the domain, the wardens' journal with the digests of those that apply it, and the
count of free values (R164, R357). -/
structure State.Manages (s t : State) (d id : Nat) : Prop where
  others : ∀ e, e ≠ d → t.dom e = s.dom e
  dom : (t.dom d).restoring (s.dom d) = s.dom d
  cmds : ∀ x, x ≠ id → t.cmd d x = s.cmd d x
  guy : t.guy.restoring s.guy = s.guy
  wardens : ∀ w, (t.warden w).restoring (s.warden w) = s.warden w
  rest : t.restoring s = s

section
variable {s t u : State} {d id : Nat}

theorem State.Manages.refl (s : State) (d id : Nat) : s.Manages s d id := ⟨fun _ _ => rfl, rfl, fun _ _ => rfl, rfl, fun _ => rfl, rfl⟩

theorem State.Manages.trans (h : s.Manages t d id) (k : t.Manages u d id) : s.Manages u d id where
  others e he := (k.others e he).trans (h.others e he)
  dom := (congrArg (fun D : Dom => D.restoring (s.dom d)) k.dom).trans h.dom
  cmds x hx := (k.cmds x hx).trans (h.cmds x hx)
  guy := (congrArg (fun g : Guyline => g.restoring s.guy) k.guy).trans h.guy
  wardens w := (congrArg (fun x : Warden => x.restoring (s.warden w)) (k.wardens w)).trans (h.wardens w)
  rest := (congrArg (fun v : State => v.restoring s) k.rest).trans h.rest

/-- A change of the command alone. -/
theorem manages_setCmd (s : State) (d id : Nat) (f : Cmd → Cmd) (hf : ∀ x : Cmd, (f x).id = x.id) : s.Manages (s.setCmd d id f) d id where
  others e he := dom_setDom_other _ he _
  dom := by unfold State.setCmd; rw [dom_setDom_same]; rfl
  cmds x hx := cmd_setCmd_other f hf hx
  guy := rfl
  wardens _ := rfl
  rest := rfl

/-- A change of the wardens' journal alone. -/
theorem manages_guy (s : State) (d id : Nat) (g : Guyline) (hg : g.restoring s.guy = s.guy) : s.Manages { s with guy := g } d id :=
  ⟨fun _ _ => rfl, rfl, fun _ _ => rfl, hg, fun _ => rfl, rfl⟩

/-- A change of a warden's digest alone. -/
theorem manages_setWarden (s : State) (d id w : Nat) (f : Warden → Warden) (hf : ∀ x, (f x).restoring x = x) :
    s.Manages (s.setWarden w f) d id where
  others _ _ := rfl
  dom := rfl
  cmds _ _ := rfl
  guy := rfl
  wardens e := by
    rw [warden_setWarden]
    split
    case isTrue h => rw [← h]; exact hf _
    case isFalse => rfl
  rest := rfl

/-- The standby applies the oldest entry of the journal. -/
theorem manages_applyJournal (s : State) (received : JournalEntry → Bytes) (d id : Nat) : s.Manages (s.applyJournal received) d id := by
  unfold State.applyJournal State.applyEntry
  split
  · exact .refl s d id
  · refine State.Manages.trans ?_ (manages_guy (s.setWarden s.standby _) d id _ rfl)
    exact manages_setWarden _ _ _ _ _ fun _ => rfl

theorem manages_journal (s : State) (k : JournalKind) (e seq : Nat) (data : Bytes) (d id : Nat) : s.Manages (s.journal k e seq data) d id := by
  unfold State.journal
  split
  · exact manages_guy s d id _ rfl
  · dsimp only
    split
    · have h := manages_applyJournal s JournalEntry.bytes d id
      generalize s.applyJournal JournalEntry.bytes = u at h ⊢
      exact h.trans (manages_guy u d id _ rfl)
    · exact manages_guy s d id _ rfl

/-- The write of an approval floor, with its journal entry. -/
theorem manages_floored (s : State) (d id : Nat) (c : Cmd) (as : List Approval) : s.Manages (s.flooredFor d c as) d id := by
  unfold State.flooredFor
  split
  · exact .refl s d id
  · refine State.Manages.trans (t := s.setDom d fun D => { D with roster := { D.roster with floors := D.roster.floors.put (c.seq + 1) } }) ?_
      (manages_journal ..)
    exact ⟨fun e he => dom_setDom_other _ he _, by rw [dom_setDom_same]; rfl, fun x _ => by rw [State.cmd, dom_setDom_same]; rfl, rfl, fun _ => rfl, rfl⟩

/-- A row of a management opcode writes its command's result, and the floor where its approvals stand. -/
theorem manages_runMgmt {code : Nat} {f : Cmd → List Approval → Work} (h : s.runMgmt code d id f = .next t) : s.Manages t d id := by
  unfold State.runMgmt at h
  split at h
  case h_1 => cases h; exact .refl s d id
  case h_2 c _ =>
    split at h
    case isFalse => cases h; exact .refl s d id
    split at h
    case isTrue => cases h; exact manages_setCmd _ _ _ _ fun x => id_finish x _
    split at h
    case h_1 => cases h; exact manages_setCmd _ _ _ _ fun _ => rfl
    case h_2 as _ => cases h; exact (manages_floored s d id c as).trans (manages_setCmd _ _ _ _ fun x => id_finish x _)
end

theorem manages_carryKey (s : State) (code d id : Nat) : s.Manages (s.carryKey code d id) d id := by
  unfold State.carryKey
  split
  · exact .refl s d id
  split
  · exact .refl s d id
  split
  · exact .refl s d id
  split
  · exact .refl s d id
  · exact manages_setCmd _ _ _ _ fun _ => rfl

theorem manages_freed (s : State) (code d id : Nat) : s.Manages (s.freed code d id) d id := by
  unfold State.freed
  split
  · exact ⟨fun _ _ => rfl, rfl, fun _ _ => rfl, rfl, fun _ => rfl, rfl⟩
  · exact .refl s d id

/-! ### The rows of management opcodes -/

/-- The state once the KEYGEN jobs of a row have ended (R205). -/
def State.jobsEnded (s : State) : Instr → State
  | .keyGenerate d id => s.endCalls 0x0401 d id
  | .keyReplace d id => s.endCalls 0x0404 d id
  | _ => s

/-- The state in which a management row runs once its jobs have ended: with the key value that its record carries (R85), and the free value of an attestation. -/
def State.readied (s : State) : Instr → State
  | .keyLoad d id => s.carryKey 0x0402 d id
  | .keyReplace d id => s.carryKey 0x0404 d id
  | .keyTransportInfo d id => s.freed 0x0409 d id
  | _ => s

section
variable {i : Instr} {d id : Nat} (h : i.management = some (d, id)) (s : State)
include h

/-- The row of a management opcode is `runMgmt`, behind the end of its jobs. -/
theorem exec_management : ∃ code f, exec i s = ((s.jobsEnded i).readied i).runMgmt code d id f := by
  unfold Instr.management at h
  split at h
  all_goals cases h
  all_goals
    dsimp only [exec, State.jobsEnded, State.readied]
    exact ⟨_, _, rfl⟩

theorem manages_readied : s.Manages (s.readied i) d id := by
  unfold State.readied
  split
  case h_1 => cases h; exact manages_carryKey ..
  case h_2 => cases h; exact manages_carryKey ..
  case h_3 => cases h; exact manages_freed ..
  case h_4 => exact .refl s d id

theorem jobsEnded_without_jobs
    (hj : (i ≠ .keyGenerate d id ∧ i ≠ .keyReplace d id) ∨ ∀ c, s.cmd d id = some c → ∀ j ∈ (s.core c.core).jobs, j.serves d id = false) :
    s.jobsEnded i = s := by
  unfold State.jobsEnded
  split
  case h_1 => cases h; exact endCalls_without_jobs _ (hj.resolve_left fun hn => hn.1 rfl)
  case h_2 => cases h; exact endCalls_without_jobs _ (hj.resolve_left fun hn => hn.2 rfl)
  case h_3 => rfl
end

theorem idled_jobsEnded (s : State) (i : Instr) : (s.jobsEnded i).idled = s.idled := by
  unfold State.jobsEnded
  split
  · exact idled_endCalls ..
  · exact idled_endCalls ..
  · rfl

/-! ### The statement -/

/-- Settles O10: the row ends its jobs, which moves the engines and what they report to, and is then `runMgmt`, which writes the command's result and the
approval floor; where Efori holds no job for it, it begins from the state itself. -/
theorem managementRowsFrame : Obligations.ManagementRowsFrame := by
  unfold Obligations.ManagementRowsFrame
  intro i d id s t hi ht
  obtain ⟨code, f, hrow⟩ := exec_management hi s
  have hm : (s.jobsEnded i).Manages t d id := (manages_readied hi _).trans (manages_runMgmt (hrow ▸ ht))
  have hu := idled_jobsEnded s i
  have hq := jobsEnded_without_jobs hi s
  generalize s.jobsEnded i = u at hm hu hq
  have he := enginesOf_eq_of_idled hu
  have hdoms : u.doms = s.doms := congrArg (a₁ := u.enginesOf s) State.doms he
  have hwardens : u.wardens = s.wardens := congrArg (a₁ := u.enginesOf s) State.wardens he
  have hheld : { u.guy with held := s.guy.held } = s.guy := congrArg State.guy he
  have hdom : ∀ e, u.dom e = s.dom e := fun e => by rw [State.dom, hdoms]; rfl
  have hcmd : ∀ x, u.cmd d x = s.cmd d x := fun x => by rw [State.cmd, hdom]; rfl
  have hwarden : ∀ w, u.warden w = s.warden w := fun w => by rw [State.warden, hwardens]; rfl
  refine ⟨fun e he => (hm.others e he).trans (hdom e), ?_, fun x hx => (hm.cmds x hx).trans (hcmd x), ?_, fun w => ?_, ?_, fun hn => ?_⟩
  · rw [← hdom d]
    exact hm.dom
  · have h := congrArg (fun g : Guyline => { g.restoring s.guy with held := s.guy.held }) hm.guy
    exact h.trans (congrArg (fun g : Guyline => g.restoring s.guy) hheld)
  · rw [← hwarden w]
    exact hm.wardens w
  · have h := congrArg (fun v : State => (v.enginesOf s).restoring s) hm.rest
    exact h.trans (congrArg (fun v : State => v.restoring s) he)
  · rw [hq hn] at hm
    have hh := congrArg Guyline.held hm.guy
    exact ⟨hm.rest, hh⟩

end Sys2Proof.Machine
end

section
/-! PROOF. The rows of the officers, the clock, the log, the events and the counters (O21). -/

namespace Sys2Proof.Machine

/-! ### The bits of a byte string that a list of conditions gives -/

/-- The number whose bits are some conditions. -/
theorem testBit_sumBits (p : Nat → Bool) (n : Nat) :
    (List.range n).foldl (fun m b => m + 2 ^ b * b2n (p b)) 0 < 2 ^ n ∧
      ∀ j, j < n → ((List.range n).foldl (fun m b => m + 2 ^ b * b2n (p b)) 0).testBit j = p j := by
  induction n with
  | zero => simp
  | succ n ih =>
    obtain ⟨hlt, hbit⟩ := ih
    rw [List.range_succ, List.foldl_append, List.foldl_cons, List.foldl_nil]
    generalize (List.range n).foldl (fun m b => m + 2 ^ b * b2n (p b)) 0 = m at hlt hbit
    have hb : b2n (p n) ≤ 1 := by cases p n <;> decide
    refine ⟨?_, fun j hj => ?_⟩
    · calc m + 2 ^ n * b2n (p n) < 2 ^ n + 2 ^ n * 1 := Nat.add_lt_add_of_lt_of_le hlt (Nat.mul_le_mul_left _ hb)
        _ = 2 ^ (n + 1) := by rw [Nat.pow_succ]; omega
    · rw [Nat.add_comm, Nat.testBit_two_pow_mul_add _ hlt]
      split
      case isTrue hjn => exact hbit j hjn
      case isFalse hjn =>
        obtain rfl : j = n := by omega
        cases hp : p j <;> simp [b2n]

theorem byteAt_map_range (f : Nat → Byte) {n i : Nat} (h : i < n) : byteAt ((List.range n).map f) i = (f i).toNat := by
  have hl : i < ((List.range n).map f).length := by rwa [List.length_map, List.length_range]
  have hd : ((List.range n).map f).drop i = f i :: ((List.range n).map f).drop (i + 1) := by
    rw [List.drop_eq_getElem_cons hl, List.getElem_map, List.getElem_range]
  rw [byteAt, field, slice, hd]
  rfl

/-- The 64 bytes of EVENT_STATUS, which have a bit for each of 512 sources (R426). -/
def eventBits (p : Nat → Bool) : Bytes :=
  (List.range 64).map fun i => BitVec.ofNat 8 ((List.range 8).foldl (fun n b => n + 2 ^ b * b2n (p (8 * i + b))) 0)

@[simp] theorem length_eventBits (p : Nat → Bool) : (eventBits p).length = 64 := by simp [eventBits]

theorem bit_eventBits (p : Nat → Bool) {e : Nat} (h : e < 512) : bit (byteAt (eventBits p) (e / 8)) (e % 8) = p e := by
  obtain ⟨hlt, hbit⟩ := testBit_sumBits (fun b => p (8 * (e / 8) + b)) 8
  rw [eventBits, byteAt_map_range _ (by omega), BitVec.toNat_ofNat, Nat.mod_eq_of_lt hlt, bit, hbit _ (Nat.mod_lt _ (by decide)), Nat.div_add_mod]

section
variable {s : State} {d id : Nat} {c : Cmd} {as : List Approval} (ha : s.Approved d c as)
include ha

/-! ### EVENT_STATUS and LOG_CHECKPOINT_READ -/

/-- EVENT_STATUS gives which of the 512 sources are pending (R426). -/
theorem execEventStatus_lists (h : s.Started d id 0x0707 c) (hl : c.tooLong 64 = false) :
    ∃ t x, exec (.eventStatus d id) s = .next t ∧ t.cmd d id = some x ∧ x.status = sOk ∧ x.output.length = 64 ∧
      ∀ e, e < 512 → bit (byteAt x.output (e / 8)) (e % 8) = s.eventPending e := by
  obtain ⟨t, x, ht, hx, -, -, hg⟩ := runMgmt_ends (fun _ _ => .ok { out := eventBits s.eventPending }) h ha
  simp only [length_eventBits, hl, Bool.false_eq_true, if_false] at hg
  obtain ⟨hs, -, ho, -⟩ := hg
  exact ⟨t, x, ht, hx, hs, by rw [ho, length_eventBits], fun e he => by rw [ho, bit_eventBits _ he]⟩

/-- LOG_CHECKPOINT_READ gives a checkpoint entry with its signature (R426). -/
theorem execLogCheckpointRead_ends {e : LogEntry} (h : s.Started d id 0x0703 c) (he : s.trail.entry (field c.param 0 8) = some e) (hc : e.code = 2) :
    RowEnds (.logCheckpointRead d id) s d id c (.ok
      { out := e.bytes ++ leBytes 1 (Tab.get s.trail.signatures (2, []) e.seq).1 ++ zeros 15 ++ slice (Tab.get s.trail.signatures (2, []) e.seq).2 0 96 }) := by
  refine runMgmt_passes (l := []) h ha ?_ (by simp)
  simp only [he, hc]
  rfl
end

/-! ### The statement -/

/-- Settles O21: each row is `runMgmt` with the work of its opcode, whose checks the hypotheses on the operands and the state pass. -/
theorem ledgerRowsEnd : Obligations.LedgerRowsEnd := by
  unfold Obligations.LedgerRowsEnd
  refine ⟨fun s d id c as ha => ⟨fun h => runMgmt_ends _ h ha, fun h => runMgmt_ends _ h ha, fun h => runMgmt_ends _ h ha, fun h hr => ?_,
      fun h => runMgmt_ends _ h ha⟩,
    fun s d id c as ha => ⟨fun h hl ht => ?_, fun h => runMgmt_ends _ h ha⟩,
    fun s d id c as ha => ⟨fun _ _ h => runMgmt_ends _ h ha, fun h h1 hn ho => ?_, fun e h => execLogCheckpointRead_ends ha h, fun h hx h1 hr hb => ?_,
      fun h => runMgmt_ends _ h ha, fun h => runMgmt_ends _ h ha, fun h => execEventStatus_lists ha h, fun h => runMgmt_ends _ h ha⟩,
    fun s d id c as ha => ⟨fun h h1 hm => ?_, fun h hb => ?_⟩⟩
  case refine_1 => exact runMgmt_passes h ha rfl (by simp [hr])
  case refine_2 => exact runMgmt_passes h ha rfl (by simpa using ⟨hl, ht⟩)
  case refine_3 => exact runMgmt_passes h ha rfl (by simp [h1, hn, ho])
  case refine_4 => exact runMgmt_passes h ha rfl (by simp [fields, hx, h1, hr, hb])
  case refine_5 => exact runMgmt_passes h ha rfl (by simp [h1, hm])
  case refine_6 => exact runMgmt_passes h ha rfl (by simp [hb])

end Sys2Proof.Machine
end

section
/-! PROOF. Rows of group 0x10 (O11). -/

namespace Sys2Proof.Machine

/-! ### Rows of ciphers -/

/-- A row of an opcode of group 0x10 ends its command with what the opcode computes. -/
theorem runOp_cipher {s : State} {d id code : Nat} {c : Cmd} (hp : privateOp code = false) (h : s.Started d id code c) :
    ∃ t x, s.runOp code d id (fun s c => symWork code s d c) = .next t ∧ t.cmd d id = some x ∧ c.Got (symWork code s d c) x := by
  have ho : c.entry.opcode = code := by obtain ⟨_, _, ho, _⟩ := h; exact ho
  exact runOp_ends _ h (blindWaits_public ho hp)

/-- A GCM row whose two computations of the tag agree is the row of its opcode (R193). -/
theorem runGcm_agrees {s : State} {d id code : Nat} {c : Cmd} (h : s.Started d id code c) (ha : symTagsAgree s d c code = true) :
    s.runGcm code d id true = s.runOp code d id fun s c => symWork code s d c := by
  obtain ⟨hc, _⟩ := h
  simp [State.runGcm, hc, ha]

/-- One in which a fault makes them differ sends its command back, without output (R75, R193). -/
theorem runGcm_differs {s : State} {d id code : Nat} {c : Cmd} (h : s.Started d id code c) :
    ∃ t x, s.runGcm code d id false = .next t ∧ t.cmd d id = some x ∧ x.phase = .ready ∧ x.output = [] ∧ x.effects = [] := by
  obtain ⟨hc, hp, ho, _⟩ := h
  have hk : (s.endFirmware d c).cmd d id = some c := by
    rw [← hc]
    unfold State.cmd State.dom
    rw [doms_endFirmware]
  refine ⟨_, c.again none none, ?_, cmd_setCmd (fun c => c.again none none) (fun _ => rfl) hk, rfl, rfl, rfl⟩
  simp [State.runGcm, State.recompute, hc, hp, ho]

/-! ### The statement -/

/-- Settles O11: each row is that of its opcode with the opcode's work, once a GCM row's two computations of the tag agree. -/
theorem cipherRowsEnd : Obligations.CipherRowsEnd := by
  unfold Obligations.CipherRowsEnd
  intro s d id c
  refine ⟨runOp_cipher rfl, runOp_cipher rfl, runOp_cipher rfl, runOp_cipher rfl, runOp_cipher rfl, runOp_cipher rfl, runOp_cipher rfl, runOp_cipher rfl,
    fun h ha => ?_, fun h ha => ?_, fun code i hi h => ?_⟩
  case refine_1 =>
    obtain ⟨t, x, ht, hx⟩ := runOp_cipher rfl h
    exact ⟨t, x, (runGcm_agrees h ha).trans ht, hx⟩
  case refine_2 =>
    obtain ⟨t, x, ht, hx⟩ := runOp_cipher rfl h
    exact ⟨t, x, (runGcm_agrees h ha).trans ht, hx⟩
  case refine_3 =>
    obtain ⟨rfl, rfl⟩ | ⟨rfl, rfl⟩ := hi
    · exact runGcm_differs h
    · exact runGcm_differs h

end Sys2Proof.Machine
end

section
/-! PROOF. Engine jobs in two states in which the statements of their ends and of unit faults fail (O42, O43). -/

namespace Sys2Proof.Machine

/-- Whether an answer is a next state of which something holds. -/
def nextHas (p : State → Bool) (a : Answer) : Bool :=
  match a with
  | .next t => p t
  | .fault _ => false
  | .refused _ => false

theorem nextHas_next {p : State → Bool} {a : Answer} {t : State} (h : nextHas p a = true) (ha : a = .next t) : p t = true := by
  subst ha
  exact h

/-- A module past its boot, whose regions all run. -/
def readyModule : State := { boot := { state := .ready, step := 12, randomReady := true } }

/-! ### Two jobs in one slot -/

/-- The KEYGEN job that Efori holds in a slot for a command of the operator (R205). -/
def keygenIn (slot : Nat) : Job := { kind := .liu, slot := slot, firmware := true, dom := operator, id := some slot }

/-- The blocks of a generate call of domain 0 as a chain of runs (R235): the first of four is on a cell, so that none waits. -/
def drawChain : Job :=
  { kind := .cell, firmware := true, serial := true, runs := 4, blocks := 4, dom := 0, id := some 0
    words := [kBits 0x0301, kBits 0, kAddr 0, kAddr 0, kBits 64, kBits 0, kBits 0] }

/-- A command of an opcode, with a placement number, that runs. -/
def runningCmd (code id : Nat) : Cmd := { id := id, phase := .running, entry := { opcode := code } }

/-- Core 0 while the KEYGEN jobs of 32 KEY_GENERATE commands hold all its slots: the chain of a RANDOM_GENERATE dispatched to it finds none free, and
`State.issueFirmware` puts it in slot 0, behind the KEYGEN job there. Cell 0 works on the chain; the other cells of the block have been retired. -/
def sharedSlot : State :=
  { readyModule with
    cores := [(0, { jobs := (List.range 32).map keygenIn ++ [drawChain] })]
    cells := (0, { state := .running, blocks := 1 }) :: (List.range 23).map fun i => (i + 1, { state := .retired })
    doms := [(0, { cmds := [runningCmd 0x1801 0] }), (operator, { cmds := (List.range 32).map (runningCmd 0x0401) })] }

/-- No job of the core has a run that waits, and the first job in the cell's slot is no chain. -/
theorem sharedSlot_jobs : sharedSlot.job 0 0 = some (keygenIn 0) ∧ ∀ i ∈ (sharedSlot.core 0).jobs, i.waiting = [] := by decide +kernel

/-- The chain's next run waits at once; with no cell idle it waits for the clearing of cell 0, and goes there. -/
theorem cellRunEnd_sharedSlot : nextHas (fun t => decide ((t.cell 0).state = .loading)) (exec (.cellRunEnd 0) sharedSlot) = true := by decide +kernel

/-- Refutes O42: after CELL_RUN_END the cell is not CLEARING in `sharedSlot`. The statement asks that no run waits and that the first job in
the cell's slot is no chain; a chain behind it in the slot has its next run all the same. -/
theorem not_engineRunsEnd : ¬ Obligations.EngineRunsEnd := by
  unfold Obligations.EngineRunsEnd
  intro h
  obtain ⟨hend, _⟩ := h sharedSlot 0 0
  obtain ⟨hjob, hwait⟩ := sharedSlot_jobs
  obtain ⟨u, _, hu, _, _, _, _, hclear⟩ := hend (keygenIn 0) (by decide +kernel) (by decide +kernel) hjob
  obtain ⟨hclearing, _⟩ := hclear hwait rfl
  have hloading : (u.cell 0).state = .loading := of_decide_eq_true (nextHas_next cellRunEnd_sharedSlot hu)
  rw [hloading] at hclearing
  cases hclearing

/-! ### A job of a custom function for a management command -/

/-- A hash job with a ticket, in the name of a KEY_GENERATE of the operator: engines 0 and 1 have failed on it, and engine 2 works on it. ENQH issues no such
job, since it takes the operational command of its core (`State.coreCmd`), but the statement is about every state. -/
def managedTicket : State :=
  { readyModule with
    cores := [(0, { jobs := [{ kind := .hash, tried := [(0, 0), (0, 1)], dom := operator, id := some 1 }] })]
    hashes := [(2, { busy := some (0, 0) })]
    doms := [(operator, { cmds := [runningCmd 0x0401 1] })] }

/-- The mismatch of the third engine ends the job, which keeps its slot for EWAIT: `State.escalate` sends a management command back without a core reset. -/
theorem hashLaneMismatch_managedTicket : nextHas (fun t => (t.job 0 0).isSome) (exec (.hashLaneMismatch 2) managedTicket) = true := by decide +kernel

/-- Refutes O43: a job that fails on its third unit stays on its core where it has a ticket and names a management command. -/
theorem not_unitFaultsAct : ¬ Obligations.UnitFaultsAct := by
  unfold Obligations.UnitFaultsAct
  intro h
  obtain ⟨_, _, _, _, _, hhash, _⟩ := h managedTicket 2 0 true (by decide +kernel)
  obtain ⟨u, hu, _, hthree, _⟩ := hhash 0 0 _ rfl rfl (by decide +kernel)
  have hnone : u.job 0 0 = none := hthree (by decide +kernel) (by decide +kernel)
  have hsome := nextHas_next hashLaneMismatch_managedTicket hu
  rw [hnone] at hsome
  cases hsome

end Sys2Proof.Machine
end

section
/-! PROOF. Rows of public-key operations and key wraps (O13). -/

namespace Sys2Proof.Machine

/-! ### The blinding DRBG depends on the regions alone (R240) -/

section
variable {s t : State}

theorem isSome_takeSeedOf (h : t.regions = s.regions) (r : Nat) (after : Option Nat) : (t.takeSeedOf r after).isSome = (s.takeSeedOf r after).isSome := by
  simp [State.takeSeedOf, State.pool, State.region, h]

theorem region_congr (h : t.regions = s.regions) (r : Nat) : t.region r = s.region r := by rw [State.region, State.region, h]

theorem isSome_borrow (h : t.regions = s.regions) (r : Nat) : (t.borrow r).isSome = (s.borrow r).isSome := by
  have hm : t.mayBorrow r = s.mayBorrow r := by
    unfold State.mayBorrow
    rw [region_congr h]
  have hl : t.lender r = s.lender r := by simp [State.lender, State.pool, State.region, h]
  unfold State.borrow
  rw [hm, hl]
  split
  · cases s.lender r with
    | none => rfl
    | some q => simpa using isSome_takeSeedOf h q none
  · rfl

theorem isSome_regionSeed (h : t.regions = s.regions) (r : Nat) : (t.regionSeed r).isSome = (s.regionSeed r).isSome := by
  have hseed (u : State) : (u.regionSeed r).isSome = ((u.takeSeedOf r none).isSome || (u.borrow r).isSome) := by
    unfold State.regionSeed
    split
    · simp [*]
    · simp [*]
  rw [hseed, hseed, isSome_takeSeedOf h, isSome_borrow h]

theorem blindWaits_regions (h : t.regions = s.regions) (c : Cmd) : t.blindWaits c = s.blindWaits c := by
  unfold State.blindWaits State.blindReady
  rw [region_congr h, isSome_regionSeed h]
end

/-! ### Rows of private and of public keys -/

section
variable {s : State} {d id code : Nat} {c : Cmd}

/-- A started command takes the free value of its row. -/
theorem freed_of_started (h : s.Started d id code c) : s.freed code d id = { s with free := s.free + 1 } := by
  obtain ⟨hc, hp, ho, _⟩ := h
  simp [State.freed, State.runs, hc, hp, ho]

/-- A row that takes a free value ends its command with what its opcode computes from the state after that (log entry 2). -/
theorem runOp_freed (f : State → Cmd → Work) (h : s.Started d id code c) (hb : s.blindWaits c = false) :
    ∃ t x, (s.freed code d id).runOp code d id f = .next t ∧ t.cmd d id = some x ∧ c.Got (f { s with free := s.free + 1 } c) x := by
  rw [freed_of_started h]
  have hregions : ({ s with free := s.free + 1 } : State).regions = s.regions := rfl
  exact runOp_ends f h ((blindWaits_regions hregions c).trans hb)

/-- A row that computes with a private key waits for the blinding DRBG (R240). -/
theorem runOp_waits (f : State → Cmd → Work) (h : s.Started d id code c) (hb : s.blindWaits c = true) : s.runOp code d id f = .next s := by
  obtain ⟨hc, _⟩ := h
  simp [State.runOp, hc, hb]

/-- A row of an operation without a private key ends its command whatever the blinding DRBG does. -/
theorem runOp_public (f : State → Cmd → Work) (hp : privateOp code = false) (h : s.Started d id code c) :
    ∃ t x, s.runOp code d id f = .next t ∧ t.cmd d id = some x ∧ c.Got (f s c) x := by
  have ho : c.entry.opcode = code := by obtain ⟨_, _, ho, _⟩ := h; exact ho
  exact runOp_ends f h (blindWaits_public ho hp)
end

/-! ### The statement -/

/-- Settles O13: each row is that of its opcode with the opcode's work, and waits where the blinding DRBG does not serve it. -/
theorem publicKeyRowsEnd : Obligations.PublicKeyRowsEnd := by
  unfold Obligations.PublicKeyRowsEnd
  intro s d id c
  refine ⟨fun hb => ⟨fun h => ?_, fun h => ?_, fun h => ?_, fun h => ?_, fun h => ?_, fun h => ?_, fun h => ?_⟩, fun hb h => ?_, fun h => ?_, fun h => ?_,
    fun h => ?_, fun h => ?_, fun h => ?_⟩
  · exact runOp_ends (pkSignWork · d ·) h hb
  · exact runOp_ends (decapsulateWork · d ·) h hb
  · exact runOp_ends (agreeStaticWork · d ·) h hb
  · exact runOp_ends (agreeEphemeralWork · d ·) h hb
  · exact runOp_ends (encapsulateWork · d · true) h hb
  · exact runOp_ends (hybridDecapsulateWork · d ·) h hb
  · exact runOp_freed (oaepDecryptWork · d ·) h hb
  · exact runOp_waits (pkSignWork · d ·) h hb
  · exact runOp_public (pkVerifyWork · d ·) rfl h
  · exact runOp_public (encapsulateWork · d · false) rfl h
  · exact runOp_public (oaepEncryptWork · d ·) rfl h
  · exact runOp_public (keyWrapWork · d ·) rfl h
  · exact runOp_public (keyUnwrapWork · d ·) rfl h

end Sys2Proof.Machine
end

section
/-! PROOF. Arithmetic modulo a number, and the rows of group 0x1A (O14). -/

namespace Sys2Proof.Machine

/-! ### Arithmetic modulo a number -/

theorem powModFuel_eq (m : Nat) : ∀ f b e, e < 2 ^ f → powModFuel m f b e = b ^ e % m
  | 0, b, e, h => by
    obtain rfl : e = 0 := Nat.lt_one_iff.mp h
    rfl
  | f + 1, b, e, h => by
    have ih : powModFuel m f (b * b % m) (e / 2) = b ^ (2 * (e / 2)) % m := by
      rw [powModFuel_eq m f _ _ (by omega), ← Nat.pow_mod, ← Nat.pow_two, ← Nat.pow_mul]
    rw [powModFuel]
    split
    case isTrue he => rw [he, Nat.pow_zero]
    case isFalse =>
      dsimp only
      rw [ih]
      split
      case isTrue h1 =>
        rw [Nat.mod_mul_mod, ← Nat.pow_succ, show (2 * (e / 2)).succ = e by omega]
      case isFalse h1 => rw [show 2 * (e / 2) = e by omega]

theorem powMod_eq (b e m : Nat) : powMod b e m = b ^ e % m := by
  rw [powMod, powModFuel_eq m _ _ _ Nat.lt_log2_self, ← Nat.pow_mod]

theorem subMod_eq {a b m : Nat} (h : b < m) : subMod a b m = (a + m - b) % m := by
  rw [subMod, Nat.mod_eq_of_lt h, Nat.add_sub_assoc (Nat.le_of_lt h)]

/-- A step of the algorithm of Euclid halves the product of its pair. -/
theorem two_mul_mul_mod_le {r0 r1 : Nat} (hpos : 0 < r1) (hle : r1 ≤ r0) : 2 * (r1 * (r0 % r1)) ≤ r0 * r1 := by
  have hhalf : 2 * (r0 % r1) ≤ r0 := by
    have hdiv := Nat.div_add_mod r0 r1
    have hquot := Nat.le_mul_of_pos_right r1 (Nat.div_pos hle hpos)
    have hrem := Nat.mod_lt r0 hpos
    omega
  calc 2 * (r1 * (r0 % r1)) = 2 * (r0 % r1) * r1 := by rw [Nat.mul_comm r1, Nat.mul_assoc]
    _ ≤ r0 * r1 := Nat.mul_le_mul_right _ hhalf

/-- A step keeps cofactors: those of a pair modulo `m` give one of any difference of its members. -/
theorem dvd_cofactor_step {m a r0 r1 s0 s1 : Int} (q : Int) (h0 : m ∣ s0 * a - r0) (h1 : m ∣ s1 * a - r1) : m ∣ (s0 - q * s1) * a - (r0 - q * r1) := by
  have heq : (s0 - q * s1) * a - (r0 - q * r1) = (s0 * a - r0) - q * (s1 * a - r1) := by
    simp only [Int.sub_mul, Int.mul_sub, Int.mul_assoc]
    omega
  rw [heq]
  exact Int.dvd_sub h0 (Int.dvd_mul_of_dvd_right h1)

/-- The extended algorithm of Euclid from a pair whose product its steps can halve down to 0: the greatest common divisor, and a cofactor of it wherever the
pair has cofactors of `a` modulo `m`. -/
theorem egcd_spec (a m : Int) : ∀ (f r0 r1 : Nat) (s0 s1 : Int), r1 ≤ r0 → r0 * r1 < 2 ^ f → m ∣ s0 * a - r0 → m ∣ s1 * a - r1 →
    (egcd f r0 r1 s0 s1).1 = Nat.gcd r0 r1 ∧ m ∣ (egcd f r0 r1 s0 s1).2 * a - Nat.gcd r0 r1
  | 0, r0, r1, s0, s1, hle, hf, h0, h1 => by
    have hr : r1 = 0 := by
      rcases Nat.mul_eq_zero.mp (Nat.lt_one_iff.mp hf) with h | h <;> omega
    subst hr
    rw [egcd, Nat.gcd_zero_right]
    exact ⟨rfl, h0⟩
  | f + 1, r0, r1, s0, s1, hle, hf, h0, h1 => by
    rw [egcd]
    by_cases hr : r1 = 0
    · subst hr
      rw [if_pos Int.natCast_zero, Nat.gcd_zero_right]
      exact ⟨rfl, h0⟩
    · have hpos : 0 < r1 := Nat.pos_of_ne_zero hr
      have hmod : (r0 : Int) - r0 / r1 * r1 = ((r0 % r1 : Nat) : Int) := by
        rw [Int.natCast_emod, Int.emod_def, Int.mul_comm]
      have hprod : r1 * (r0 % r1) < 2 ^ f := by
        have hhalf := two_mul_mul_mod_le hpos hle
        rw [Nat.pow_succ] at hf
        omega
      have h2 := dvd_cofactor_step (r0 / r1 : Int) h0 h1
      rw [hmod] at h2
      rw [if_neg (by omega), hmod, Nat.gcd_comm r0 r1, Nat.gcd_rec r1 r0, Nat.gcd_comm (r0 % r1) r1]
      exact egcd_spec a m f r1 (r0 % r1) s1 (s0 - r0 / r1 * s1) (Nat.le_of_lt (Nat.mod_lt _ hpos)) hprod h1 h2

/-- The first step of `invMod` only exchanges the pair. -/
theorem egcd_exchange {a m : Nat} (f : Nat) (h : a < m) : egcd (f + 1) a m 1 0 = egcd f m a 0 1 := by
  have hdiv : (a : Int) / m = 0 := Int.ediv_eq_zero_of_lt (by omega) (by omega)
  rw [egcd, if_neg (by omega), hdiv, Int.zero_mul, Int.zero_mul, Int.sub_zero, Int.sub_zero]

/-- The fuel of `invMod` is enough. -/
theorem mul_mod_lt_fuel {a m : Nat} (hm : 0 < m) : m * (a % m) < 2 ^ (2 * m.log2 + 3) := by
  have hlog : m < 2 ^ (m.log2 + 1) := Nat.lt_log2_self
  calc m * (a % m) ≤ m * m := Nat.mul_le_mul_left _ (Nat.le_of_lt (Nat.mod_lt _ hm))
    _ < 2 ^ (m.log2 + 1) * 2 ^ (m.log2 + 1) := Nat.mul_lt_mul'' hlog hlog
    _ = 2 ^ (m.log2 + 1 + (m.log2 + 1)) := (Nat.pow_add ..).symm
    _ ≤ 2 ^ (2 * m.log2 + 3) := Nat.pow_le_pow_right (by omega) (by omega)

/-- What `invMod` gives: a cofactor of the greatest common divisor, where that is 1. -/
theorem invMod_spec {a m : Nat} (hm : 0 < m) :
    ∃ x : Int, invMod a m = (if Nat.gcd a m = 1 then some (x.emod m).toNat else none) ∧ (m : Int) ∣ x * a - Nat.gcd a m := by
  have hlt : a % m < m := Nat.mod_lt _ hm
  have hgcd : Nat.gcd m (a % m) = Nat.gcd a m := by rw [Nat.gcd_comm m, ← Nat.gcd_rec, Nat.gcd_comm]
  have h0 : (m : Int) ∣ 0 * (a : Int) - m := by
    rw [Int.zero_mul, Int.zero_sub]
    exact Int.dvd_neg.mpr (Int.dvd_refl _)
  have h1 : (m : Int) ∣ 1 * (a : Int) - (a % m : Nat) := by
    rw [Int.one_mul, Int.natCast_emod]
    exact Int.dvd_self_sub_emod
  obtain ⟨hg, hx⟩ := egcd_spec a m _ m (a % m) 0 1 (Nat.le_of_lt hlt) (mul_mod_lt_fuel hm) h0 h1
  rw [hgcd] at hg hx
  refine ⟨_, ?_, hx⟩
  rw [invMod, show 2 * (m.log2 + 2) = 2 * m.log2 + 3 + 1 by omega, egcd_exchange _ hlt]
  have hone : ((a.gcd m : Nat) : Int) = 1 ↔ a.gcd m = 1 := by omega
  simp only [hg, hone]

theorem invMod_none {a m : Nat} (hm : 0 < m) (h : Nat.gcd a m ≠ 1) : invMod a m = none := by
  obtain ⟨_, hi, _⟩ := invMod_spec (a := a) hm
  rw [hi, if_neg h]

theorem invMod_some {a m : Nat} (hm : 1 < m) (h : Nat.gcd a m = 1) : ∃ v, invMod a m = some v ∧ v < m ∧ a * v % m = 1 := by
  obtain ⟨x, hi, hx⟩ := invMod_spec (a := a) (by omega : 0 < m)
  have hpos : 0 ≤ x % (m : Int) := Int.emod_nonneg _ (by omega)
  have hlt : x % (m : Int) < m := Int.emod_lt_of_pos x (by omega)
  refine ⟨(x % (m : Int)).toNat, by rw [hi, if_pos h]; rfl, by omega, ?_⟩
  have hv : (a : Int) * (x % m) % m = 1 := by
    rw [h] at hx
    calc (a : Int) * (x % m) % m = x * a % m := by rw [Int.mul_emod, Int.emod_emod, ← Int.mul_emod, Int.mul_comm]
      _ = 1 % m := Int.emod_eq_emod_iff_emod_sub_eq_zero.mpr (Int.emod_eq_zero_of_dvd hx)
      _ = 1 := Int.emod_eq_of_lt (by omega) (by omega)
  apply Int.natCast_inj.mp
  rw [Int.natCast_emod, Int.natCast_mul, Int.toNat_of_nonneg hpos, hv]
  rfl

/-! ### The block and the input of a modular row (R227) -/

theorem fields_eq_none (status : Nat) (l : List (Nat × Bool)) : fields status l = none ↔ ∀ x ∈ l, x.2 = true := by
  simp [fields]

section
variable {c : Cmd} {n : Nat} {ops : List Nat} {e : Option Nat}

/-- The operands of a block that has them, as the LIU reads them. -/
theorem Cmd.LiInput.operands (h : c.LiInput n ops e) :
    ((List.range ops.length).map fun i => beNat (slice c.input (field c.param 0 2 * (i + 1)) (field c.param 0 2))) = ops := by
  obtain ⟨_, _, _, _, _, hops, _⟩ := h
  refine List.ext_getElem (by simp) fun i _ hi => ?_
  simp [← hops i hi, hi]

/-- The exponent of a block that has one, as the LIU reads it. -/
theorem Cmd.LiInput.exponent (h : c.LiInput n ops e) : ∀ y ∈ e, beNat (slice c.input (field c.param 0 2 * (ops.length + 1)) (field c.param 2 2)) = y := by
  obtain ⟨_, _, _, _, _, _, he, _⟩ := h
  rintro y rfl
  obtain ⟨_, _, hy⟩ := he
  exact hy.symm

theorem Cmd.LiInput.three_le (h : c.LiInput n ops e) : 3 ≤ n := by
  obtain ⟨_, _, _, _, _, _, _, _, h3, _⟩ := h
  exact h3

theorem Cmd.LiInput.operand_lt (h : c.LiInput n ops e) : ∀ x ∈ ops, x < n := by
  obtain ⟨_, _, _, _, _, _, _, _, _, _, hlt⟩ := h
  exact hlt

/-- The checks of the block and of the length of its input pass. -/
theorem Cmd.LiInput.form (h : c.LiInput n ops e) :
    firstFail [need (c.entry.access % 16 = 0) ePkParam 0xFFFF,
      fields ePkParam [(0, 1 ≤ field c.param 0 2 && field c.param 0 2 ≤ 1024),
        (2, if e.isSome then 1 ≤ field c.param 2 2 && field c.param 2 2 ≤ 1024 else field c.param 2 2 = 0)],
      need (c.input.length = field c.param 0 2 * (ops.length + 1) + field c.param 2 2) ePkLength 0] = none := by
  obtain ⟨hacc, hlo, hhi, hlen, _, _, he, _⟩ := h
  cases e with
  | none => simp [firstFail_eq_none, fields_eq_none, hacc, hlo, hhi, hlen, he]
  | some y =>
    obtain ⟨helo, hehi, _⟩ := he
    simp [firstFail_eq_none, fields_eq_none, hacc, hlo, hhi, hlen, helo, hehi]

/-- The checks that the LIU makes on n and on the operands pass. -/
theorem Cmd.LiInput.ranges (h : c.LiInput n ops e) :
    firstFail [need (n % 2 = 1 && 3 ≤ n && c.input.headD 0 != 0) eModulus 0, (ops.findIdx? fun x => x ≥ n).map fun i => (eInputRange, i)] = none := by
  have hlt := h.operand_lt
  obtain ⟨_, _, _, _, _, _, _, hodd, h3, hhead, _⟩ := h
  have hnone : (ops.findIdx? fun x => x ≥ n) = none := by simpa using hlt
  simpa [firstFail_eq_none, hodd, h3, hnone] using hhead

/-- With the block and the input of its form, a modular computation ends its command with what its function gives for n, the operands and the exponent: the
value as OPERAND_LEN bytes, or the failure, which comes after the LIU's work. -/
theorem got_liWork {f : Nat → List Nat → Nat → Except Fail Nat} {r : Except Fail Nat} {x : Cmd} (h : c.LiInput n ops e)
    (hf : ∀ z, (∀ y ∈ e, z = y) → f n ops z = r) (hx : c.Got (liWork c ops.length e.isSome f) x) :
    c.Got (r.map fun v => { out := beBytes (field c.param 0 2) v }) x := by
  have hn : beNat (slice c.input 0 (field c.param 0 2)) = n := by obtain ⟨_, _, _, _, hn, _⟩ := h; exact hn.symm
  unfold liWork at hx
  simp only [hn, h.operands, h.form, h.ranges, hf _ h.exponent] at hx
  cases r with
  | error z => exact hx
  | ok v => exact hx

/-- A row of group 0x1A ends its command with what its function gives. -/
theorem runOp_modular {s : State} {d id code : Nat} {f : Nat → List Nat → Nat → Except Fail Nat} {k : Nat} {exp : Bool} {r : Except Fail Nat}
    (hs : s.Started d id code c) (hp : privateOp code = false) (h : c.LiInput n ops e) (hk : ops.length = k) (he : e.isSome = exp)
    (hf : ∀ z, (∀ y ∈ e, z = y) → f n ops z = r) :
    ∃ t x, s.runOp code d id (fun _ c => liWork c k exp f) = .next t ∧ t.cmd d id = some x ∧
      c.Got (r.map fun v => { out := beBytes (field c.param 0 2) v }) x := by
  subst hk he
  obtain ⟨t, x, ht, hc, hx⟩ := runOp_public (fun _ c => liWork c ops.length e.isSome f) hp hs
  exact ⟨t, x, ht, hc, got_liWork h hf hx⟩
end

/-! ### The statement -/

/-- Settles O14: each row is that of its opcode with a modular function, which gives the result in integers. -/
theorem modularRowsCompute : Obligations.ModularRowsCompute := by
  unfold Obligations.ModularRowsCompute
  refine ⟨fun s d id c n a b e _ => ⟨fun h hi => ?_, fun h hi => ?_, fun h hi => ?_, fun h hi => ?_⟩, fun s d id c n a h hi _ => ?_⟩
  case refine_1 => exact runOp_modular (r := .ok (a ^ e % n)) h rfl hi rfl rfl fun z hz => by simp [powMod_eq, hz e rfl]
  case refine_2 => exact runOp_modular (r := .ok (a * b % n)) h rfl hi rfl rfl fun _ _ => rfl
  case refine_3 => exact runOp_modular (r := .ok ((a + b) % n)) h rfl hi rfl rfl fun _ _ => rfl
  case refine_4 =>
    have hb : b < n := hi.operand_lt b (by simp)
    exact runOp_modular (r := .ok ((a + n - b) % n)) h rfl hi rfl rfl fun _ _ => by simp [subMod_eq hb]
  case refine_5 =>
    have hn := hi.three_le
    split
    case isTrue hg =>
      obtain ⟨v, hv, hlt, hone⟩ := invMod_some (by omega : 1 < n) hg
      exact ⟨v, hlt, hone, runOp_modular (r := .ok v) h rfl hi rfl rfl fun _ _ => by simp [modInverse, hv]⟩
    case isFalse hg =>
      exact runOp_modular (r := .error (eNotInvertible, 0)) h rfl hi rfl rfl fun _ _ => by simp [modInverse, invMod_none (by omega : 0 < n) hg]

end Sys2Proof.Machine
end

section
/-! PROOF. A state in which the statement of traps and interrupts fails (O40). -/

namespace Sys2Proof.Machine

/-- Core 0 runs the invocation of a command that is gone. The region's cache still holds the secret result of a KEM_DECAPSULATE that has computed on the same
core and waits for its commit point, at which the entry is scrubbed (R205). -/
def besideComputed : State :=
  { readyModule with
    cores := [(0, { invocations := [{ pitch := 0, id := 1 }] })]
    regions := [(0, { cache := [{ owner := 0, handle := 5, scope := some 0, job := (0, 0) }] })]
    doms := [(0, { cmds := [{ id := 0, phase := .computed, entry := { opcode := 0x1702 } }] })] }

/-- CANCEL scrubs the entries of commands that still run (`State.scopeLive`), and so leaves that of the computed command. -/
theorem cancel_besideComputed :
    nextHas (fun t => (t.region 0).cache.any fun e => e.scope = some 0) (exec (.cancel 0) besideComputed) = true := by decide +kernel

/-- Refutes O40: in `besideComputed` a job-scoped entry of the core stands after CANCEL, that of another command, which has computed. -/
theorem not_trapsEnterTheHandler : ¬ Obligations.TrapsEnterTheHandler := by
  unfold Obligations.TrapsEnterTheHandler
  intro h
  obtain ⟨_, _, _, hcancel, _⟩ := h besideComputed 0 0
  obtain ⟨t, ht, _, _, hnone⟩ := hcancel (by decide +kernel) (by decide +kernel) (by decide +kernel)
  obtain ⟨e, he, hscope⟩ := List.any_eq_true.mp (nextHas_next cancel_besideComputed ht)
  exact hnone e he (of_decide_eq_true hscope)

end Sys2Proof.Machine
end

section
/-! PROOF. Rows of MACs, PINs, DUKPT and cards (O12). -/

namespace Sys2Proof.Machine

/-- Settles O12: each row is that of its opcode with the opcode's work, and none of them computes with a private key. -/
theorem paymentRowsEnd : Obligations.PaymentRowsEnd := by
  unfold Obligations.PaymentRowsEnd
  intro s d id c
  refine ⟨fun h => ?_, fun h => ?_, fun h => ?_, fun h => ?_, fun h => ?_, fun h => ?_, fun h => ?_, fun h => ?_, fun h => ?_, fun h => ?_⟩
  · exact runOp_public (macWork · d · 6 false) rfl h
  · exact runOp_public (macWork · d · 7 true) rfl h
  · exact runOp_public (pinBlockWork · d ·) rfl h
  · exact runOp_public (pinCheckWork · d ·) rfl h
  · exact runOp_public (dukptPinWork · d ·) rfl h
  · exact runOp_public (dukptMacWork · d ·) rfl h
  · exact runOp_public (dukptDataWork · d ·) rfl h
  · exact runOp_public (dukptIkWork · d ·) rfl h
  · exact runOp_public (cardWork · d · 7 true) rfl h
  · exact runOp_public (cardWork · d · 6 false) rfl h

end Sys2Proof.Machine
end

section
/-! PROOF. Rows of hashes and of random bytes, and the bytes of ENTROPY_STATUS (O15). -/

namespace Sys2Proof.Machine

/-! ### Bytes of a string that is put together -/

theorem byteAt_eq_getElem? (bs : Bytes) (o : Nat) : byteAt bs o = (bs[o]?.getD 0).toNat := by
  unfold byteAt field slice
  by_cases h : o < bs.length
  · rw [List.drop_eq_getElem_cons h, List.getElem?_eq_getElem h]
    rfl
  · have hlen := Nat.le_of_not_lt h
    rw [List.drop_eq_nil_of_le hlen, List.getElem?_eq_none hlen]
    rfl

theorem byteAt_append_left {a : Bytes} (b : Bytes) {o : Nat} (h : o < a.length) : byteAt (a ++ b) o = byteAt a o := by
  rw [byteAt_eq_getElem?, byteAt_eq_getElem?, List.getElem?_append_left h]

theorem byteAt_append_right (a b : Bytes) (o : Nat) : byteAt (a ++ b) (a.length + o) = byteAt b o := by
  rw [byteAt_eq_getElem?, byteAt_eq_getElem?, List.getElem?_append_right (Nat.le_add_right _ _), Nat.add_sub_cancel_left]

/-- The length of a table whose entries have `k` bytes each. -/
theorem length_flatMap_const {α : Type} {f : α → Bytes} {k : Nat} (hf : ∀ x, (f x).length = k) (l : List α) : (l.flatMap f).length = k * l.length := by
  induction l with
  | nil => rfl
  | cons x l ih => rw [List.flatMap_cons, List.length_append, hf, ih, List.length_cons, Nat.mul_succ, Nat.add_comm]

/-- A byte of a table whose entries have `k` bytes each. -/
theorem byteAt_flatMap {α : Type} {f : α → Bytes} {k i : Nat} (hf : ∀ x, (f x).length = k) (hi : i < k) (l : List α) {j : Nat} (hj : j < l.length) :
    byteAt (l.flatMap f) (k * j + i) = byteAt (f l[j]) i := by
  induction l generalizing j with
  | nil => exact absurd hj (Nat.not_lt_zero j)
  | cons x l ih =>
    rw [List.flatMap_cons]
    cases j with
    | zero =>
      rw [Nat.mul_zero, Nat.zero_add, List.getElem_cons_zero]
      exact byteAt_append_left _ (by rwa [hf])
    | succ j =>
      have hpos : k * (j + 1) + i = (f x).length + (k * j + i) := by rw [hf, Nat.mul_succ]; omega
      rw [hpos, byteAt_append_right, ih (Nat.lt_of_succ_lt_succ hj), List.getElem_cons_succ]

theorem length_leBytes (n v : Nat) : (leBytes n v).length = n := by
  induction n generalizing v with
  | zero => rfl
  | succ n ih => rw [leBytes, List.length_cons, ih]

theorem length_zeros (n : Nat) : (zeros n).length = n := List.length_replicate

theorem byteAt_leBytes_one {v : Nat} (h : v < 256) : byteAt (leBytes 1 v) 0 = v := by
  rw [byteAt_eq_getElem?]
  exact Nat.mod_eq_of_lt h

/-! ### ENTROPY_STATUS (R245) -/

theorem SourceState.code_lt (x : SourceState) : x.code < 256 := by cases x <;> decide

/-- The states of a region's three sources, one byte for each. -/
def EntropyRegion.sourceCodes (e : EntropyRegion) : Bytes := (List.range 3).flatMap fun i => leBytes 1 (e.source i).state.code

/-- The 8 bytes that ENTROPY_STATUS gives for a region. -/
def EntropyRegion.record (e : EntropyRegion) : Bytes :=
  e.sourceCodes ++ leBytes 1 e.pool.length ++ leBytes 1 (b2n e.borrowing + 2 * b2n e.conditionerOut) ++ zeros 3

/-- The 32 bytes that it gives for the domain's generator. -/
def Drbg.record (g : Drbg) : Bytes :=
  leBytes 8 g.sinceReseed ++ leBytes 8 g.reseeds ++ leBytes 1 (b2n g.inst + 2 * b2n g.stretched + 4 * b2n (g.sinceReseed ≥ 2 ^ 32)) ++ zeros 15

/-- The output of ENTROPY_STATUS: the regions' bytes, then those of the domain's generator. -/
def State.entropyBytes (s : State) (d : Nat) : Bytes := ((List.range 8).flatMap fun r => (s.region r).entropy.record) ++ (s.dom d).drbg.record

theorem EntropyRegion.length_sourceCodes (e : EntropyRegion) : e.sourceCodes.length = 3 := length_flatMap_const (fun _ => length_leBytes 1 _) _

theorem EntropyRegion.length_record (e : EntropyRegion) : e.record.length = 8 := by
  simp only [record, List.length_append, length_sourceCodes, length_leBytes, length_zeros]

theorem Drbg.length_record (g : Drbg) : g.record.length = 32 := by
  simp only [record, List.length_append, length_leBytes, length_zeros]

/-- The regions' bytes are 8 for each of 8 regions. -/
theorem State.length_regionRecords (s : State) : ((List.range 8).flatMap fun r => (s.region r).entropy.record).length = 64 :=
  length_flatMap_const (fun _ => EntropyRegion.length_record _) _

theorem State.length_entropyBytes (s : State) (d : Nat) : (s.entropyBytes d).length = 96 := by
  rw [entropyBytes, List.length_append, length_regionRecords, Drbg.length_record]

theorem EntropyRegion.byteAt_record (e : EntropyRegion) {i : Nat} (h : i < 3) : byteAt e.record i = (e.source i).state.code := by
  have hcodes : byteAt e.record i = byteAt e.sourceCodes i := by
    rw [record, List.append_assoc, List.append_assoc, byteAt_append_left _ (by rwa [length_sourceCodes])]
  have hcode := byteAt_flatMap (f := fun i => leBytes 1 (e.source i).state.code) (fun _ => length_leBytes 1 _) Nat.zero_lt_one (List.range 3)
    (j := i) (by rwa [List.length_range])
  rw [Nat.one_mul, Nat.add_zero, List.getElem_range, byteAt_leBytes_one (SourceState.code_lt _)] at hcode
  exact hcodes.trans hcode

/-- The byte of a source holds its state. -/
theorem State.byteAt_entropyBytes (s : State) (d : Nat) {r i : Nat} (hr : r < 8) (hi : i < 3) :
    byteAt (s.entropyBytes d) (8 * r + i) = (s.source r i).state.code := by
  rw [entropyBytes, byteAt_append_left _ (by rw [length_regionRecords]; omega),
    byteAt_flatMap (fun _ => EntropyRegion.length_record _) (by omega) _ (by rwa [List.length_range]), List.getElem_range, EntropyRegion.byteAt_record _ hi]
  rfl

/-! ### The rows -/

section
variable {s : State} {d id : Nat} {c : Cmd}

/-- A row of an operation without a private key whose checks pass ends its command with what stands behind them. -/
theorem runOp_passes {code : Nat} {f : State → Cmd → Work} {l : List (Option Fail)} {w : Work} (hp : privateOp code = false)
    (h : s.Started d id code c) (hf : f s c = checked l w) (hl : ∀ x ∈ l, x = none) :
    ∃ t x, s.runOp code d id f = .next t ∧ t.cmd d id = some x ∧ c.Got w x := by
  have h := runOp_public f hp h
  rwa [hf, checked_of_pass w hl] at h

/-- HASH_COMPUTE gives the named hash of the input (R269); the calls of its hash engine are no part of the command's result. -/
theorem execHashCompute_ends (h : s.Started d id 0x1501 c) (hn : noCount c eHashParam = none) (h1 : 1 ≤ byteAt c.param 0) (h8 : byteAt c.param 0 ≤ 8)
    (hl : if byteAt c.param 0 ≥ 7 then 1 ≤ field c.param 4 4 ∧ field c.param 4 4 ≤ 4194304 else field c.param 4 4 = 0) :
    RowEnds (.hashCompute d id) s d id c (.ok
      { out := if byteAt c.param 0 = 7 then shake128 c.input (field c.param 4 4) else if byteAt c.param 0 = 8 then shake256 c.input (field c.param 4 4)
          else hashOf (byteAt c.param 0) c.input }) := by
  obtain ⟨t, x, ht, hx, hg⟩ := runOp_passes (f := fun _ c => hashWork c) rfl h rfl (by split at hl <;> simp [fields_eq_none, *])
  exact ⟨t, x, ht, hx, hg⟩

/-- RANDOM_GENERATE gives the bytes drawn at the command's assignment (R245). -/
theorem execRandomGenerate_ends (h : s.Started d id 0x1801 c) (h1 : 1 ≤ field c.param 0 4) (hm : field c.param 0 4 ≤ 4194304) (ha : field c.param 8 2 ≤ 256)
    (hi : field c.param 8 2 = c.input.length) : RowEnds (.randomGenerate d id) s d id c (.ok { out := c.drawn.getD [] }) :=
  show ∃ t x, execRandomGenerate d id s = .next t ∧ t.cmd d id = some x ∧ c.Got (.ok { out := c.drawn.getD [] }) x from
    runOp_passes rfl h rfl (by simp [fields_eq_none, h1, hm, ← hi, ha])

/-- ENTROPY_STATUS gives the state of every source (R245, Table 9-9). -/
theorem execEntropyStatus_lists (h : s.Started d id 0x1803 c) (hl : c.tooLong 96 = false) :
    ∃ t x, exec (.entropyStatus d id) s = .next t ∧ t.cmd d id = some x ∧ x.status = sOk ∧ x.output.length = 96 ∧
      ∀ r, r < 8 → ∀ i, i < 3 → byteAt x.output (8 * r + i) = (s.source r i).state.code := by
  obtain ⟨t, x, ht, hx, -, -, hg⟩ := runOp_public (fun s _ => .ok { out := s.entropyBytes d }) rfl h
  simp only [State.length_entropyBytes, hl, Bool.false_eq_true, if_false] at hg
  obtain ⟨hs, -, ho, -⟩ := hg
  exact ⟨t, x, ht, hx, hs, by rw [ho, State.length_entropyBytes], fun r hr i hi => by rw [ho, State.byteAt_entropyBytes s d hr hi]⟩
end

/-! ### The statement -/

/-- Settles O15: each row is that of its opcode, with checks that the hypotheses on the operands pass. -/
theorem hashAndRandomRowsEnd : Obligations.HashAndRandomRowsEnd := by
  unfold Obligations.HashAndRandomRowsEnd
  exact ⟨fun s d id c h hn h1 h8 hl => execHashCompute_ends h hn h1 h8 hl,
    fun s d id c => ⟨fun h h1 hm ha hi => execRandomGenerate_ends h h1 hm ha hi, fun h hl => execEntropyStatus_lists h hl⟩⟩

end Sys2Proof.Machine
end

section
/-! PROOF. What every step keeps: the fuses, the codes of the arbiter and of the vote, and the life-cycle state between boots (O5, O6, O7). -/

namespace Sys2Proof.Machine

/-! ### Every row evolves the state -/

/-- Thirteen rows write a fuse, the arbiter's code or the vote register; every other row keeps them all. -/
theorem exec_evolves (c : Instr) (s : State) : Answer.Evolves (exec c s) s := by
  cases c
  case commitPoint => exact execCommitPoint_evolves _ _ _
  case lcTransition => exact execLcTransition_evolves _ _ _ _
  case heartbeatMiss => exact execHeartbeatMiss_evolves _ _ _ _
  case lockstepFault => exact execLockstepFault_evolves _ _
  case wardenPeriodicSelfTest => exact execWardenPeriodicSelfTest_evolves _ _ _
  case switchOver => exact execSwitchOver_evolves _ _
  case wardenSelfTestEnd => exact execWardenSelfTestEnd_evolves _ _ _
  case takeback => exact execTakeback_evolves _ _
  case strikeReset => exact execStrikeReset_evolves _ _ _ _ _
  case coldReset => exact execColdReset_evolves _ _ _ _ _
  case bootEnd => exact execBootEnd_evolves _ _ _
  case lifeCycleReset => exact execLifeCycleReset_evolves _ _ _ _ _
  case debugAccess => exact execDebugAccess_evolves _ _ _
  all_goals exact Answer.Keeps.evolves (by unfold exec; simp)

/-- A step evolves everything but the queue. -/
theorem step_evolves {s t : State} (h : step s = .next t) : { s with pending := t.pending }.Evolves t := by
  unfold step at h
  split at h
  · cases h
    exact State.evolves_of_fixed (by simp [State.pass])
  · next c rest hp =>
    have e := exec_evolves c { s with pending := rest } t h
    have hq : t.pending = rest := e.queue
    rwa [hq]

theorem legalGrant_iff (c : BitVec 16) : LegalGrant c ↔ c ∈ [grantA, grantB, movingToA, movingToB] := by simp [LegalGrant]

/-- What evolves from a state of the invariant meets it. -/
theorem State.Evolves.inv {s t : State} (e : s.Evolves t) (h : s.Inv) : t.Inv := by
  refine ⟨?_, ?_⟩
  · rcases e.grant with g | g
    · exact g ▸ h.1
    · exact (legalGrant_iff _).mp g
  · rcases e.vote with ⟨hs, hv⟩ | v
    · rw [hs, hv, h.2]
    · exact v

/-- Settles O5: each row evolves the state. -/
theorem stepsKeepInvariant : Obligations.StepsKeepInvariant := by
  unfold Obligations.StepsKeepInvariant
  intro s t h e
  exact (step_evolves e).inv h

/-- Settles O6: each row evolves the state. -/
theorem fusesStayBlown : Obligations.FusesStayBlown := by
  unfold Obligations.FusesStayBlown
  intro s t e
  exact (step_evolves e).fuses

/-! ### The life-cycle state in force -/

/-- An answer whose next state has the life-cycle state of `s`. -/
def Answer.SameStage (a : Answer) (s : State) : Prop := ∀ t, a = .next t → t.life.state = s.life.state

theorem sameStage_next (t s : State) : Answer.SameStage (.next t) s ↔ t.life.state = s.life.state := by
  constructor
  · intro h; exact h t rfl
  · intro h u hu; cases hu; exact h

theorem stage_of_fixed {s t : State} (h : t.fixed = s.fixed) : t.life.state = s.life.state := congrArg Fixed.state h

theorem Answer.Keeps.sameStage {a : Answer} {s : State} (h : a.Keeps s) : a.SameStage s := fun t ht => stage_of_fixed (h t ht)

theorem stage_foldl {α : Type} (f : State → α → State) (hf : ∀ (t : State) a, (f t a).life.state = t.life.state) (xs : List α) (s : State) :
    (xs.foldl f s).life.state = s.life.state := by
  induction xs generalizing s with
  | nil => rfl
  | cons a xs ih => exact (ih _).trans (hf s a)

theorem State.stage_setLife (s : State) (x : LcChange) : (s.setLife x).life.state = s.life.state := by
  change (s.life.change x).state = _
  unfold LifeCycleReg.change
  split <;> rfl

theorem stage_attempted (l : LifeCycleReg) (t : Nat) (b : OtpBurn) : (l.attempted t b).state = l.state := (attempted_keeps l t b).2.1

theorem stage_burnPart (l : LifeCycleReg) (k : Nat) (b : OtpBurn) : (l.burnPart k b).state = l.state := (burnPart_keeps l k b).1

theorem stage_transitionRow (s : State) (d : Nat) (b : OtpBurn) (c : Cmd) : (transitionRow s d b c).life.state = s.life.state := by
  change (transitionRow s d b c).fixed.state = s.life.state
  unfold transitionRow
  dsimp only
  repeat' split
  all_goals simp [stage_attempted, stage_burnPart]
  all_goals rfl

theorem execLcTransition_sameStage (d id : Nat) (b : OtpBurn) (s : State) : Answer.SameStage (execLcTransition d id b s) s := by
  unfold execLcTransition State.runStaged
  repeat' split
  all_goals simp [sameStage_next, stage_transitionRow, stage_of_fixed (State.flooredFor_fixed ..)]

/-- Every effect but a change of the life-cycle group keeps that group's fixed fields. -/
theorem State.stage_applyEffect (s : State) (d : Nat) (c : Cmd) (e : Effect) : (s.applyEffect d c e).life.state = s.life.state := by
  cases e with
  | lifeCycle x => exact s.stage_setLife x
  | pitchCreate p conf =>
    change ((s.createPitch p conf).getD s).life.state = _
    cases h : s.createPitch p conf with
    | none => rfl
    | some t => exact stage_of_fixed (State.createPitch_fixed _ _ _ _ h)
  | keyAttr o h a =>
    unfold State.applyEffect
    dsimp only
    split
    · exact stage_of_fixed (by simp)
    · rfl
  | setNow k =>
    unfold State.applyEffect
    dsimp only
    split
    · rfl
    · exact stage_of_fixed (by simp)
  | _ => exact stage_of_fixed (by simp [State.applyEffect])

theorem State.stage_commit (s : State) (d : Nat) (check : EmberCheck) (c : Cmd) : (s.commit d check c).life.state = s.life.state := by
  unfold State.commit
  extract_lets _ c1 _ c2 _ s1 s2 s3 s4 s5 s6 s7 c3 s8 s9 s10
  have h3 : s3.fixed = s.fixed := by
    simp only [s3, State.refusalEntry_fixed, State.mgmtEntry_fixed, s2]
    split <;> simp [s1]
  have h5 : s5.fixed = s.fixed := by
    simp only [s5, s4]
    split <;> simp [h3]
  have h6 : s6.life.state = s.life.state := by
    refine (stage_foldl _ (fun t e => ?_) _ s5).trans (stage_of_fixed h5)
    exact (State.stage_applyEffect ..).trans (stage_of_fixed (State.journalEffect_fixed ..))
  have h8 : s8.fixed = s6.fixed := by simp [s8, s7]
  have h9 : s9.fixed = s6.fixed := by simp [s9, h8]
  have h10 : s10.fixed = s6.fixed := by
    simp only [s10]
    repeat' split
    all_goals simp [h8, h9]
  split
  · exact (stage_of_fixed (by simp [h10])).trans h6
  · exact (stage_of_fixed (by simp [h10])).trans h6

theorem execCommitPoint_sameStage (d : Nat) (done : Committing) (s : State) : Answer.SameStage (execCommitPoint d done s) s := by
  unfold execCommitPoint
  repeat' split
  all_goals simp [sameStage_next, State.stage_commit, stage_of_fixed (State.recommit_fixed ..)]

theorem State.stage_wardenTo (s : State) (w : Nat) (x : WardenState) : (s.wardenTo w x).life.state = s.life.state :=
  stage_of_fixed (State.wardenTo_fixed ..)

theorem State.stage_log (s : State) (code origin severity : Nat) (data : Bytes) : (s.log code origin severity data).life.state = s.life.state :=
  stage_of_fixed (State.log_fixed ..)

theorem State.stage_holdOutputs (s : State) : s.holdOutputs.life.state = s.life.state := stage_of_fixed (State.holdOutputs_fixed s)

theorem State.stage_moveGrant (s : State) : s.moveGrant.life.state = s.life.state := by
  simp only [State.moveGrant, State.stage_wardenTo, State.stage_holdOutputs]

theorem State.stage_wardenFails (s : State) (w : Nat) : (s.wardenFails w).life.state = s.life.state := by
  have h := stage_of_fixed (State.countFailure_fixed s w)
  unfold State.wardenFails
  dsimp only
  split
  · split
    · exact (State.stage_moveGrant _).trans h
    · exact (stage_of_fixed (State.doubleFailure_fixed ..)).trans h
  · exact (stage_of_fixed (State.resetWarden_fixed ..)).trans h

theorem State.stage_endGap (s : State) : s.endGap.life.state = s.life.state := by
  unfold State.endGap
  extract_lets new old t same _ u v
  have ht : t.life.state = s.life.state := stage_of_fixed (foldl_fixed _ _ _ fun t _ => State.applyEntry_fixed ..)
  have hv : v.life.state = s.life.state := (State.stage_log ..).trans ht
  split
  · exact (stage_of_fixed (by simp)).trans hv
  · exact (stage_of_fixed (State.doubleFailure_fixed ..)).trans hv

theorem execSwitchOver_sameStage (gap : Nat) (s : State) : Answer.SameStage (execSwitchOver gap s) s := by
  unfold execSwitchOver
  split
  · exact (sameStage_next _ _).mpr rfl
  · exact (sameStage_next _ _).mpr (State.stage_endGap _)

theorem execHeartbeatMiss_sameStage (w : Nat) (fabric tap : Bool) (s : State) : Answer.SameStage (execHeartbeatMiss w fabric tap s) s := by
  unfold execHeartbeatMiss
  split
  · exact (sameStage_next _ _).mpr rfl
  · dsimp only
    generalize hu : (s.passTo _).setWarden w _ = u
    have h : u.pathFlags.life.state = s.life.state := by rw [← hu]; rfl
    repeat' split
    all_goals simp [sameStage_next, State.stage_wardenFails, stage_of_fixed (State.log_fixed ..), stage_of_fixed (State.raise_fixed ..), h]

theorem execLockstepFault_sameStage (w : Nat) (s : State) : Answer.SameStage (execLockstepFault w s) s := by
  unfold execLockstepFault
  split
  · exact (sameStage_next _ _).mpr rfl
  · exact (sameStage_next _ _).mpr (State.stage_wardenFails _ _)

theorem execWardenPeriodicSelfTest_sameStage (w : Nat) (pass : Bool) (s : State) : Answer.SameStage (execWardenPeriodicSelfTest w pass s) s := by
  unfold execWardenPeriodicSelfTest
  split
  · exact (sameStage_next _ _).mpr rfl
  · exact (sameStage_next _ _).mpr (State.stage_wardenFails _ _)

theorem State.stage_grantTo (s : State) (w : Nat) : (s.grantTo w).life.state = s.life.state := State.stage_wardenTo ..

theorem execWardenSelfTestEnd_sameStage (w : Nat) (pass : Bool) (s : State) : Answer.SameStage (execWardenSelfTestEnd w pass s) s := by
  unfold execWardenSelfTestEnd
  split
  · exact (sameStage_next _ _).mpr rfl
  · have hp := stage_of_fixed (State.passTo_fixed s ((s.warden w).testFrom + 200000000))
    extract_lets u other x v y z a b
    have hz : z.life.state = s.life.state := (stage_of_fixed (State.wardenTo_fixed ..)).trans hp
    repeat' split
    all_goals simp [sameStage_next, State.stage_grantTo, stage_of_fixed (State.snapshotTo_fixed ..), stage_of_fixed (State.wardensHalt_fixed ..), hz]
    all_goals exact (stage_of_fixed (State.wardenTo_fixed ..)).trans hp

theorem execTakeback_sameStage (gap : Nat) (s : State) : Answer.SameStage (execTakeback gap s) s := by
  unfold execTakeback
  repeat' split
  all_goals rw [sameStage_next]
  case h_2.isFalse.isFalse =>
    rw [stage_of_fixed (State.answerHeld_fixed _), stage_of_fixed (State.releaseHeld_fixed _), State.stage_log]
    simp only [State.setWarden, stage_of_fixed (State.pass_fixed ..), State.stage_wardenTo, State.stage_holdOutputs]
  all_goals rfl

theorem State.debugWrite_sameStage (s : State) (x : DebugTarget) (b : Bytes) : Answer.SameStage (s.debugWrite x b) s := by
  unfold State.debugWrite
  split
  case h_7 => exact (State.writeRegister_fixed _ _ _ _ _).sameStage
  case h_11 => exact (sameStage_next _ _).mpr rfl
  all_goals exact (sameStage_next _ _).mpr (stage_of_fixed (by simp))

theorem execDebugAccess_sameStage (x : DebugTarget) (w : Option Bytes) (s : State) : Answer.SameStage (execDebugAccess x w s) s := by
  unfold execDebugAccess
  dsimp only
  repeat' split
  case h_1 => exact State.debugWrite_sameStage _ _ _
  case h_2 => exact (sameStage_next _ _).mpr (stage_of_fixed (by simp))
  case isFalse.isTrue => exact (sameStage_next _ _).mpr (stage_of_fixed (by simp))
  case isTrue => exact (sameStage_next _ _).mpr rfl

theorem State.stage_bootWardens (s : State) (a b : Bool) : (s.bootWardens a b).life.state = s.life.state := by
  simp only [State.bootWardens, State.stage_wardenTo, State.setWarden]

theorem State.stage_bootDone (s : State) (a b : Bool) : (s.bootDone a b).life.state = s.life.state := by
  unfold State.bootDone
  extract_lets u locked before entered _ v x y
  have hu : u.life.state = s.life.state := by
    simp only [u]
    rw [stage_of_fixed (State.ignoredEntry_fixed _), State.stage_bootWardens]
  have hx : x.life.state = v.life.state := stage_of_fixed (State.foldDoms_fixed _ _ _ fun _ _ => State.pitchEvent_fixed ..)
  have hy : y.life.state = x.life.state := by
    simp only [y]
    split
    · exact stage_of_fixed (State.bootLock_fixed _)
    · rfl
  have hv : v.life.state = u.life.state := by simp only [v]
  rw [stage_of_fixed (State.trainHost_fixed _), life_setTamper, hy, hx, hv, hu]

/-- Past its seventh step, the boot has read the fuses. -/
theorem execBootEnd_sameStage (a b : Bool) (s : State) (h : ¬ s.boot.step < 7) : Answer.SameStage (execBootEnd a b s) s := by
  unfold execBootEnd
  rw [if_neg h]
  split
  · dsimp only
    split
    · exact (sameStage_next _ _).mpr (stage_of_fixed (by simp))
    · exact (sameStage_next _ _).mpr (State.stage_bootDone _ _ _)
  · exact (sameStage_next _ _).mpr rfl

/-- The rows in which a boot reads the fuses. -/
def State.Boots (s : State) (c : Instr) : Prop :=
  (∃ a b f u, c = .coldReset a b f u) ∨ (∃ a b f u, c = .lifeCycleReset a b f u) ∨ (∃ a b f u, c = .strikeReset a b f u) ∨
    (s.boot.step < 7 ∧ ∃ a b, c = .bootEnd a b)

theorem exec_sameStage (c : Instr) (s : State) (h : ¬ s.Boots c) : Answer.SameStage (exec c s) s := by
  cases c
  case coldReset => exact (h (.inl ⟨_, _, _, _, rfl⟩)).elim
  case lifeCycleReset => exact (h (.inr (.inl ⟨_, _, _, _, rfl⟩))).elim
  case strikeReset => exact (h (.inr (.inr (.inl ⟨_, _, _, _, rfl⟩)))).elim
  case bootEnd => exact execBootEnd_sameStage _ _ s fun hs => h (.inr (.inr (.inr ⟨hs, _, _, rfl⟩)))
  case commitPoint => exact execCommitPoint_sameStage _ _ _
  case lcTransition => exact execLcTransition_sameStage _ _ _ _
  case heartbeatMiss => exact execHeartbeatMiss_sameStage _ _ _ _
  case lockstepFault => exact execLockstepFault_sameStage _ _
  case wardenPeriodicSelfTest => exact execWardenPeriodicSelfTest_sameStage _ _ _
  case switchOver => exact execSwitchOver_sameStage _ _
  case wardenSelfTestEnd => exact execWardenSelfTestEnd_sameStage _ _ _
  case takeback => exact execTakeback_sameStage _ _
  case debugAccess => exact execDebugAccess_sameStage _ _ _
  all_goals exact Answer.Keeps.sameStage (by unfold exec; simp)

/-- Settles O7: outside a boot, a row keeps the life-cycle state. -/
theorem lifeCycleMovesAtBoots : Obligations.LifeCycleMovesAtBoots := by
  unfold Obligations.LifeCycleMovesAtBoots
  intro c s t h hne
  by_contra hb
  exact hne (exec_sameStage c s hb t h)

end Sys2Proof.Machine
end

section
/-! PROOF. Instructions of a block core that compute on registers (O33, O34, O35). -/

namespace Sys2Proof.Machine

/-! ### The shapes of the rows -/

/-- Tags of a rule that an instruction's operands can have. -/
def plainRule (rule : List (List Tag)) : Prop := ∀ l ∈ rule, plainTags l

/-- An instruction of two registers of the shared shape computes what its function gives on operands of a part of its rule. -/
theorem aluRow_of_alu {i : Nat → BitVec 5 → BitVec 5 → BitVec 5 → Instr} {op : Nat} {rule part : List (List Tag)} {g f : BitVec 64 → KWord → KWord → KWord}
    (hi : ∀ s k rd a b, exec (i k rd a b) s = s.alu k (wordRR op rd a b) rd [a, b] rule fun pc => two (g pc)) (hr : plainRule rule)
    (hp : part ⊆ rule) (hf : ∀ pc x y, [x.tag, y.tag] ∈ part → g pc x y = f pc x y) : AluRow i op part f := by
  intro s k rd a b h ht
  have hm : ([a, b].map fun r => ((s.core k).reg r).tag) ∈ rule := hp ht
  rw [hi, alu_ok h hm hr, ← hf _ _ _ ht]
  rfl

/-- One of one register. -/
theorem unaryRow_of_alu {i : Nat → BitVec 5 → BitVec 5 → Instr} {op : Nat} {rule part : List (List Tag)} {g f : BitVec 64 → KWord → KWord}
    (hi : ∀ s k rd a, exec (i k rd a) s = s.alu k (wordRR op rd a 0) rd [a] rule fun pc => one (g pc)) (hr : plainRule rule)
    (hp : part ⊆ rule) (hf : ∀ pc x, [x.tag] ∈ part → g pc x = f pc x) : UnaryRow i op part f := by
  intro s k rd a h ht
  have hm : ([a].map fun r => ((s.core k).reg r).tag) ∈ rule := hp ht
  rw [hi, alu_ok h hm hr, ← hf _ _ ht]
  rfl

/-- One of one register and an immediate. -/
theorem immRow_of_alu {i : Nat → BitVec 5 → BitVec 5 → BitVec 14 → Instr} {op : Nat} {rule part : List (List Tag)} {g f : BitVec 64 → KWord → BitVec 14 → KWord}
    (hi : ∀ s k rd a imm, exec (i k rd a imm) s = s.alu k (wordI op rd a imm) rd [a] rule fun pc => one fun x => g pc x imm) (hr : plainRule rule)
    (hp : part ⊆ rule) (hf : ∀ pc x imm, [x.tag] ∈ part → g pc x imm = f pc x imm) : ImmRow i op part f := by
  intro s k rd a imm h ht
  have hm : ([a].map fun r => ((s.core k).reg r).tag) ∈ rule := hp ht
  rw [hi, alu_ok h hm hr, ← hf _ _ _ ht]
  rfl

/-- One that compares two registers. -/
theorem aluRow_of_compare {i : Nat → BitVec 5 → BitVec 5 → BitVec 5 → Instr} {op : Nat} {rule part : List (List Tag)} {g f : KWord → KWord → Bool}
    (hi : ∀ s k rd a b, exec (i k rd a b) s = s.compare k (wordRR op rd a b) rd a b rule g) (hr : plainRule rule)
    (hp : part ⊆ rule) (hf : ∀ x y, [x.tag, y.tag] ∈ part → g x y = f x y) : AluRow i op part fun _ x y => kBool (f x y) := by
  intro s k rd a b h ht
  rw [hi, compare_ok h (hp ht) hr, hf _ _ ht]

theorem plainRule_arith : plainRule ruleArith := by simp [plainRule, ruleArith, plainTags, Tag.illegal]

/-! ### Arithmetic (R287) -/

/-- INT operands: the checked operation. -/
theorem arith_int {fi : Int → Int → Int} {fb : BitVec 64 → BitVec 64 → BitVec 64} (pc : BitVec 64) {x y : KWord} (h : x.tag = .int) :
    arith fi fb pc x y = intResult pc (fi x.val.toInt y.val.toInt) := if_pos h

/-- BITS operands: the wrapping one. -/
theorem arith_bits {fi : Int → Int → Int} {fb : BitVec 64 → BitVec 64 → BitVec 64} (pc : BitVec 64) {x y : KWord} (h : x.tag = .bits) :
    arith fi fb pc x y = kBits (fb x.val y.val) := if_neg (by simp [h])

/-- A row of ADD's form on INT words, and on BITS words. -/
theorem arithRow {i : Nat → BitVec 5 → BitVec 5 → BitVec 5 → Instr} {op : Nat} {fi : Int → Int → Int} {fb : BitVec 64 → BitVec 64 → BitVec 64}
    (hi : ∀ s k rd a b, exec (i k rd a b) s = s.alu k (wordRR op rd a b) rd [a, b] ruleArith fun pc => two (arith fi fb pc)) :
    AluRow i op [[.int, .int]] (fun pc x y => intResult pc (fi x.val.toInt y.val.toInt)) ∧
      AluRow i op [[.bits, .bits]] (fun _ x y => kBits (fb x.val y.val)) := by
  refine ⟨aluRow_of_alu hi plainRule_arith (by simp [ruleArith]) fun pc x y h => ?_,
    aluRow_of_alu hi plainRule_arith (by simp [ruleArith]) fun pc x y h => ?_⟩
  · simp only [List.mem_singleton, List.cons.injEq, and_true] at h
    exact arith_int pc h.1
  · simp only [List.mem_singleton, List.cons.injEq, and_true] at h
    exact arith_bits pc h.1

/-- A row of DIV's form on INT words, and on BITS words. -/
theorem divideRow {i : Nat → BitVec 5 → BitVec 5 → BitVec 5 → Instr} {op : Nat} {fi : Int → Int → Int} {fb : BitVec 64 → BitVec 64 → BitVec 64}
    (hi : ∀ s k rd a b, exec (i k rd a b) s = s.alu k (wordRR op rd a b) rd [a, b] ruleArith fun pc => two (divide fi fb pc)) :
    AluRow i op [[.int, .int]] (fun pc x y => if y.val = 0 then kErr errDivz pc else intResult pc (fi x.val.toInt y.val.toInt)) ∧
      AluRow i op [[.bits, .bits]] (fun pc x y => if y.val = 0 then kErr errDivz pc else kBits (fb x.val y.val)) := by
  refine ⟨aluRow_of_alu hi plainRule_arith (by simp [ruleArith]) fun pc x y h => ?_,
    aluRow_of_alu hi plainRule_arith (by simp [ruleArith]) fun pc x y h => ?_⟩
  · simp only [List.mem_singleton, List.cons.injEq, and_true] at h
    simp only [divide, arith_int pc h.1]
  · simp only [List.mem_singleton, List.cons.injEq, and_true] at h
    simp only [divide, arith_bits pc h.1]

/-- A remainder is in the range of INT. -/
theorem intResult_tmod (pc x y : BitVec 64) : intResult pc (x.toInt.tmod y.toInt) = kInt (BitVec.ofInt 64 (x.toInt.tmod y.toInt)) := by
  have hx := x.le_toInt
  have hx' := x.toInt_lt
  have h : (x.toInt.tmod y.toInt).natAbs ≤ x.toInt.natAbs := by
    rw [Int.natAbs_tmod]
    exact Nat.mod_le _ _
  refine if_pos ?_
  rcases Int.le_total 0 x.toInt with h0 | h0
  · have := Int.tmod_nonneg y.toInt h0
    omega
  · have h1 := Int.tmod_nonneg y.toInt (Int.neg_nonneg_of_nonpos h0)
    rw [Int.neg_tmod] at h1
    omega

theorem ofNat_div (x y : BitVec 64) : BitVec.ofNat 64 (x.toNat / y.toNat) = x / y :=
  BitVec.eq_of_toNat_eq (by simp [Nat.mod_eq_of_lt (Nat.lt_of_le_of_lt (Nat.div_le_self ..) x.isLt)])

theorem ofNat_mod (x y : BitVec 64) : BitVec.ofNat 64 (x.toNat % y.toNat) = x % y :=
  BitVec.eq_of_toNat_eq (by simp [Nat.mod_eq_of_lt (Nat.lt_of_le_of_lt (Nat.mod_le ..) x.isLt)])

/-! ### ERR words (R285, R288, R291) -/

@[simp] theorem tag_kErr (code : Nat) (pc : BitVec 64) : (kErr code pc).tag = .err := rfl

/-- WHERE of an ERR word is the address of the instruction that made it. -/
theorem errWhere_kErr (code : Nat) (pc : BitVec 64) (h : pc.toNat < 2 ^ 32) : (kErr code pc).errWhere = pc.toNat := by
  simp only [kErr, KWord.errWhere, bits, BitVec.toNat_ofNat]
  omega

/-- A shift of a word that is no ERR word gives no ERR word but RANGE. -/
theorem shifted_err {x y : KWord} {f : BitVec 64 → Nat → BitVec 64} {pc : BitVec 64} (hx : x.tag ≠ .err) (h : (shifted x y f pc).tag = .err) :
    shifted x y f pc = kErr errRange pc := by
  unfold shifted at *
  split
  · rfl
  · next hc => rw [if_neg hc] at h; exact absurd h hx

/-- RETAG of a word that is no ERR word gives no ERR word but RANGE. -/
theorem retagged_err {pc : BitVec 64} {function : Bool} {x y : KWord} {n : Nat} (hx : x.tag ≠ .err) (h : retagged pc function x n = .ok y)
    (hy : y.tag = .err) : y = kErr errRange pc := by
  unfold retagged at h
  split at h
  · cases h; exact absurd hy hx
  · repeat' split at h
    all_goals cases h
    all_goals simp_all [kInt, kBits, kTime, kAddr]

theorem plainRule_of {rule : List (List Tag)} (h : ∀ l ∈ rule, ∀ t ∈ l, t.illegal = false ∧ t ≠ .empty ∧ t ≠ .err) : plainRule rule := fun l hl =>
  ⟨fun t ht => (h l hl t ht).1, fun he => (h l hl _ he).2.1 rfl, fun he => (h l hl _ he).2.2 rfl⟩

/-- The counts of a shift: the model's function is that of R288. -/
theorem shift_eq_shifted (k : Shift) (pc : BitVec 64) (x y : KWord) : shift k pc x y = shifted x y (shiftBy k) pc := by
  simp only [shift, shifted, Bool.and_eq_true, decide_eq_true_eq]

theorem shiftRow {i : Nat → BitVec 5 → BitVec 5 → BitVec 5 → Instr} {op : Nat} {part : List (List Tag)} (k : Shift)
    (hi : ∀ s n rd a b, exec (i n rd a b) s = s.alu n (wordRR op rd a b) rd [a, b] ruleShift fun pc => two (shift k pc)) (hp : part ⊆ ruleShift) :
    AluRow i op part fun pc x y => shifted x y (shiftBy k) pc :=
  aluRow_of_alu hi (plainRule_of (by decide)) hp fun pc x y _ => shift_eq_shifted k pc x y

/-- NEG checks INT and wraps BITS. -/
theorem negRow {part : List (List Tag)} {f : BitVec 64 → KWord → KWord} (hp : part ⊆ [[.int], [.bits]])
    (hf : ∀ pc (x : KWord), [x.tag] ∈ part → (if x.tag = .int then intResult pc (-x.val.toInt) else kBits (-x.val)) = f pc x) : UnaryRow .neg 0x07 part f :=
  unaryRow_of_alu (g := fun pc x => if x.tag = .int then intResult pc (-x.val.toInt) else kBits (-x.val)) (fun _ _ _ _ => rfl) (plainRule_of (by decide)) hp hf

/-- ADDI checks INT and wraps BITS. -/
theorem addiRow {part : List (List Tag)} {f : BitVec 64 → KWord → BitVec 14 → KWord} (hp : part ⊆ [[.int], [.bits]])
    (hf : ∀ pc (x : KWord) (imm : BitVec 14), [x.tag] ∈ part → arith (· + ·) (· + ·) pc x { tag := x.tag, val := imm.signExtend 64 } = f pc x imm) :
    ImmRow .addi 0x10 part f :=
  immRow_of_alu (g := fun pc x imm => arith (· + ·) (· + ·) pc x { tag := x.tag, val := imm.signExtend 64 }) (fun _ _ _ _ _ => rfl)
    (plainRule_of (by decide)) hp hf

/-- Settles O33: each instruction is of a shared shape, with the function that R287 gives it. -/
theorem arithmeticIsChecked : Obligations.ArithmeticIsChecked := by
  unfold Obligations.ArithmeticIsChecked
  intro ii bb checked natural
  refine ⟨(arithRow fun _ _ _ _ _ => rfl).1, (arithRow fun _ _ _ _ _ => rfl).2, (arithRow fun _ _ _ _ _ => rfl).1, (arithRow fun _ _ _ _ _ => rfl).2,
    (arithRow fun _ _ _ _ _ => rfl).1, (arithRow fun _ _ _ _ _ => rfl).2, (divideRow fun _ _ _ _ _ => rfl).1, ?_, ?_, ?_, ?_⟩
  · simpa only [ofNat_div] using (divideRow (i := .div) (fi := Int.tdiv) fun _ _ _ _ _ => rfl).2
  · simpa only [intResult_tmod] using (divideRow (i := .rem) (fi := Int.tmod) (fb := (· % ·)) fun _ _ _ _ _ => rfl).1
  · simpa only [ofNat_mod] using (divideRow (i := .rem) (fi := Int.tmod) fun _ _ _ _ _ => rfl).2
  refine ⟨?_, ?_, ?_, ?_, ?_, ?_, ?_, ?_, ?_, ?_, fun pc x y f hx h => shifted_err hx h, fun pc fn x y n hx h hy => retagged_err hx h hy,
    fun code pc h => ⟨rfl, errWhere_kErr code pc h⟩⟩
  · exact negRow (by simp) fun pc x h => if_pos (by simpa using h)
  · exact negRow (by simp) fun pc x h => if_neg (by simp_all)
  · exact addiRow (by simp) fun pc x imm h => by
      rw [arith_int pc (by simpa using h), BitVec.toInt_signExtend_of_le (by decide)]; rfl
  · exact addiRow (by simp) fun pc x imm h => arith_bits pc (by simpa using h)
  · exact shiftRow .left (fun _ _ _ _ _ => rfl) (by simp [ii, bb, ruleShift])
  · exact aluRow_of_alu (g := fun pc x y => natResult pc kAddr (x.val.toNat + y.val.toInt)) (fun _ _ _ _ _ => rfl) (plainRule_of (by decide)) (by simp)
      fun _ _ _ _ => rfl
  · exact immRow_of_alu (g := fun pc x imm => natResult pc kAddr (x.val.toNat + imm.toInt)) (fun _ _ _ _ _ => rfl) (plainRule_of (by decide)) (by simp)
      fun _ _ _ _ => rfl
  · exact aluRow_of_alu (g := fun pc x y => intResult pc ((x.val.toNat : Int) - y.val.toNat)) (fun _ _ _ _ _ => rfl) (plainRule_of (by decide)) (by simp)
      fun _ _ _ _ => rfl
  · exact aluRow_of_alu (g := fun pc x y => natResult pc kTime (x.val.toNat + y.val.toInt)) (fun _ _ _ _ _ => rfl) (plainRule_of (by decide)) (by simp)
      fun _ _ _ _ => rfl
  · exact aluRow_of_alu (g := fun pc x y => intResult pc ((x.val.toNat : Int) - y.val.toNat)) (fun _ _ _ _ _ => rfl) (plainRule_of (by decide)) (by simp)
      fun _ _ _ _ => rfl

/-! ### Shifts (R288) -/

/-- A shift by an immediate has an INT count. -/
theorem shiftImmRow {i : Nat → BitVec 5 → BitVec 5 → BitVec 14 → Instr} {op : Nat} (k : Shift)
    (hi : ∀ s n rd a imm, exec (i n rd a imm) s = s.alu n (wordI op rd a imm) rd [a] [[.int], [.bits]] fun pc =>
      one fun x => shift k pc x (kInt (imm.signExtend 64))) :
    ImmRow i op [[.int], [.bits]] fun pc x imm => shifted x (kInt (imm.signExtend 64)) (shiftBy k) pc :=
  immRow_of_alu (g := fun pc x imm => shift k pc x (kInt (imm.signExtend 64))) hi (plainRule_of (by decide)) (fun _ h => h)
    fun pc x imm _ => shift_eq_shifted k pc x _

/-- Settles O34: each of the six is the model's shift, whose counts and results are those of R288. -/
theorem shiftsFollowFourSteps : Obligations.ShiftsFollowFourSteps := by
  unfold Obligations.ShiftsFollowFourSteps
  intro tags shl shr sar
  exact ⟨shiftRow .left (fun _ _ _ _ _ => rfl) (fun _ h => h), shiftRow .right (fun _ _ _ _ _ => rfl) (fun _ h => h),
    shiftRow .arith (fun _ _ _ _ _ => rfl) (fun _ h => h), shiftImmRow .left fun _ _ _ _ _ => rfl, shiftImmRow .right fun _ _ _ _ _ => rfl,
    shiftImmRow .arith fun _ _ _ _ _ => rfl⟩

/-! ### Carry-less products (R289) -/

/-- The exclusive or of the first `n` values of `f`. -/
def xorUpTo (f : Nat → Bool) (n : Nat) : Bool := (List.range n).foldl (fun t j => t != f j) false

theorem xorUpTo_succ (f : Nat → Bool) (n : Nat) : xorUpTo f (n + 1) = (xorUpTo f n != f n) := by
  simp [xorUpTo, List.range_succ]

theorem foldl_xor_start {f : Nat → Bool} (l : List Nat) (b : Bool) : l.foldl (fun t j => t != f j) b = (b != l.foldl (fun t j => t != f j) false) := by
  induction l generalizing b with
  | nil => simp
  | cons a l ih =>
    rw [List.foldl_cons, ih, List.foldl_cons, ih (false != f a)]
    simp

theorem xorUpTo_congr {f g : Nat → Bool} {n : Nat} (h : ∀ i, i < n → f i = g i) : xorUpTo f n = xorUpTo g n := by
  induction n with
  | zero => rfl
  | succ n ih => rw [xorUpTo_succ, xorUpTo_succ, ih fun i hi => h i (by omega), h n (by omega)]

/-- The order of the values does not count. -/
theorem xorUpTo_reverse (f : Nat → Bool) (n : Nat) : xorUpTo (fun j => f (n - j)) (n + 1) = xorUpTo f (n + 1) := by
  induction n with
  | zero => rfl
  | succ n ih =>
    have h : xorUpTo (fun j => f (n + 1 - j)) (n + 2) = (f (n + 1) != xorUpTo (fun j => f (n - j)) (n + 1)) := by
      unfold xorUpTo
      rw [List.range_succ_eq_map, List.foldl_cons, foldl_xor_start, List.foldl_map]
      simp
    rw [h, ih, xorUpTo_succ f (n + 1)]
    exact Bool.xor_comm _ _

/-- Values that are false from `m` on do not count. -/
theorem xorUpTo_of_le {f : Nat → Bool} {m n : Nat} (hm : m ≤ n) (h : ∀ i, m ≤ i → f i = false) : xorUpTo f n = xorUpTo f m := by
  induction n, hm using Nat.le_induction with
  | base => rfl
  | succ n hn ih => rw [xorUpTo_succ, ih, h n hn]; simp

/-- A bit of the model's product. -/
theorem getLsbD_carryless (a b : BitVec 64) (n : Nat) (hn : n < 128) :
    (carryless a b).getLsbD n = xorUpTo (fun i => b.getLsbD i && (decide (i ≤ n) && a.getLsbD (n - i))) 64 := by
  have h : ∀ m, ((List.range m).foldl (fun t i => if b.getLsbD i then t ^^^ (a.zeroExtend 128 <<< i) else t) (0 : BitVec 128)).getLsbD n =
      xorUpTo (fun i => b.getLsbD i && (decide (i ≤ n) && a.getLsbD (n - i))) m := by
    intro m
    induction m with
    | zero => simp [xorUpTo]
    | succ m ih =>
      rw [List.range_succ, List.foldl_append, xorUpTo_succ, ← ih]
      simp only [List.foldl_cons, List.foldl_nil]
      split
      · next hb =>
        have hz : (decide (m ≤ n) && (decide (n - m < 128) && a.getLsbD (n - m))) = (decide (m ≤ n) && a.getLsbD (n - m)) := by
          rw [show n - m < 128 by omega |> decide_eq_true]; simp
        have hd : (!decide (n < m)) = decide (m ≤ n) := by rw [← decide_not]; simp only [Nat.not_lt]
        simp [hb, hn, ← hz, hd]
      · next hb => simp [hb]
  exact h 64

/-- It is the bit of R289. -/
theorem getLsbD_carryless_eq_clBit (a b : BitVec 64) (n : Nat) (hn : n < 128) : (carryless a b).getLsbD n = clBit a b n := by
  rw [getLsbD_carryless a b n hn]
  have hc : clBit a b n = xorUpTo (fun i => b.getLsbD i && (decide (i ≤ n) && a.getLsbD (n - i))) (n + 1) := by
    rw [← xorUpTo_reverse]
    exact xorUpTo_congr fun i hi => by simp [show n - (n - i) = i by omega, Bool.and_comm]
  rw [hc]
  have h64 (i : Nat) (hi : 64 ≤ i) : (b.getLsbD i && (decide (i ≤ n) && a.getLsbD (n - i))) = false := by simp [BitVec.getLsbD_of_ge b i hi]
  have hn1 (i : Nat) (hi : n + 1 ≤ i) : (b.getLsbD i && (decide (i ≤ n) && a.getLsbD (n - i))) = false := by simp [show ¬ i ≤ n by omega]
  rcases Nat.le_total 64 (n + 1) with h | h
  · exact (xorUpTo_of_le h h64).symm
  · exact xorUpTo_of_le h hn1

theorem getLsbD_clWord (a b : BitVec 64) (o n : Nat) (hn : n < 64) : (clWord a b o).getLsbD n = clBit a b (o + n) := by
  have h : ∀ m, m ≤ 64 → ((List.range m).foldl (fun t i => if clBit a b (o + i) then t ||| ((1 : BitVec 64) <<< i) else t) 0).getLsbD n =
      (decide (n < m) && clBit a b (o + n)) := by
    intro m hm
    induction m with
    | zero => simp
    | succ m ih =>
      have ih := ih (by omega)
      rw [List.range_succ, List.foldl_append]
      simp only [List.foldl_cons, List.foldl_nil]
      generalize (List.range m).foldl _ (0 : BitVec 64) = v at ih ⊢
      split
      · next hb =>
        rw [BitVec.getLsbD_or, ih]
        rcases Nat.lt_trichotomy n m with h | h | h
        · simp [h, show n < m + 1 by omega, BitVec.getLsbD_shiftLeft]
        · subst h
          simp [hb, hn]
        · simp [show ¬ n < m by omega, show ¬ n < m + 1 by omega, BitVec.getLsbD_shiftLeft, show n - m ≠ 0 by omega]
      · next hb =>
        rw [ih]
        rcases Nat.lt_trichotomy n m with h | h | h
        · simp [h, show n < m + 1 by omega]
        · subst h
          simp [hb]
        · simp [show ¬ n < m by omega, show ¬ n < m + 1 by omega]
  exact (h 64 (Nat.le_refl _)).trans (by simp [hn])

/-- The low and the high half of the product. -/
theorem truncate_carryless (a b : BitVec 64) :
    (carryless a b).truncate 64 = clWord a b 0 ∧ (carryless a b >>> 64).truncate 64 = clWord a b 64 := by
  constructor
  · refine BitVec.eq_of_getLsbD_eq fun i hi => ?_
    rw [getLsbD_clWord _ _ _ _ hi, Nat.zero_add, ← getLsbD_carryless_eq_clBit _ _ _ (by omega)]
    simp [hi]
  · refine BitVec.eq_of_getLsbD_eq fun i hi => ?_
    rw [getLsbD_clWord _ _ _ _ hi, ← getLsbD_carryless_eq_clBit _ _ _ (by omega)]
    simp [hi]

/-! ### Logic, constants and compares (R286, R289, R290) -/

/-- A row of two BITS words. -/
theorem bitsRow {i : Nat → BitVec 5 → BitVec 5 → BitVec 5 → Instr} {op : Nat} {f g : KWord → KWord → KWord}
    (hi : ∀ s k rd a b, exec (i k rd a b) s = s.alu k (wordRR op rd a b) rd [a, b] ruleBits2 fun _ => two g) (hf : ∀ x y, g x y = f x y) :
    AluRow i op [[.bits, .bits]] fun _ x y => f x y :=
  aluRow_of_alu (g := fun _ => g) hi (plainRule_of (by decide)) (fun _ h => h) fun _ x y _ => hf x y

theorem logicRow {i : Nat → BitVec 5 → BitVec 5 → BitVec 5 → Instr} {op : Nat} (f : BitVec 64 → BitVec 64 → BitVec 64)
    (hi : ∀ s k rd a b, exec (i k rd a b) s = s.alu k (wordRR op rd a b) rd [a, b] ruleLogic fun _ => two (logic f)) :
    AluRow i op [[.bits, .bits], [.bool, .bool]] fun _ x y => { tag := x.tag, val := f x.val y.val } :=
  aluRow_of_alu (g := fun _ => logic f) hi (plainRule_of (by decide)) (fun _ h => h) fun _ _ _ _ => rfl

/-- NOT of BITS, and of a BOOL. -/
theorem notRow {part : List (List Tag)} {f : KWord → KWord} (hp : part ⊆ [[.bits], [.bool]])
    (hf : ∀ x : KWord, [x.tag] ∈ part → (if x.tag = .bool then kBool (x.val = 0) else kBits (~~~x.val)) = f x) : UnaryRow .not 0x0B part fun _ => f :=
  unaryRow_of_alu (g := fun _ x => if x.tag = .bool then kBool (x.val = 0) else kBits (~~~x.val)) (fun _ _ _ _ => rfl) (plainRule_of (by decide)) hp
    fun _ => hf

/-- A row of a BITS word and an immediate. -/
theorem bitsImmRow {i : Nat → BitVec 5 → BitVec 5 → BitVec 14 → Instr} {op : Nat} (f : BitVec 64 → BitVec 64 → BitVec 64)
    (hi : ∀ s k rd a imm, exec (i k rd a imm) s = s.alu k (wordI op rd a imm) rd [a] [[.bits]] fun _ =>
      one fun x => kBits (f x.val (imm.signExtend 64))) :
    ImmRow i op [[.bits]] fun _ x imm => kBits (f x.val (imm.signExtend 64)) :=
  immRow_of_alu (g := fun _ x imm => kBits (f x.val (imm.signExtend 64))) hi (plainRule_of (by decide)) (fun _ h => h) fun _ _ _ _ => rfl

/-- CLT's and CLE's row: INT words signed, TIME words unsigned. -/
theorem orderRow {i : Nat → BitVec 5 → BitVec 5 → BitVec 5 → Instr} {op : Nat} {fi : Int → Int → Bool} {fn : Nat → Nat → Bool}
    (hi : ∀ s k rd a b, exec (i k rd a b) s = s.compare k (wordRR op rd a b) rd a b [[.int, .int], [.time, .time]] fun x y =>
      if x.tag = .int then fi x.val.toInt y.val.toInt else fn x.val.toNat y.val.toNat) :
    AluRow i op [[.int, .int]] (fun _ x y => kBool (fi x.val.toInt y.val.toInt)) ∧
      AluRow i op [[.time, .time]] (fun _ x y => kBool (fn x.val.toNat y.val.toNat)) := by
  refine ⟨aluRow_of_compare hi (plainRule_of (by decide)) (by simp) fun x y h => if_pos ?_,
    aluRow_of_compare hi (plainRule_of (by decide)) (by simp) fun x y h => if_neg ?_⟩
  · simp only [List.mem_singleton, List.cons.injEq] at h
    exact h.1
  · simp only [List.mem_singleton, List.cons.injEq] at h
    simp [h.1]

/-- Settles O35: each instruction is of a shared shape; the halves of the carry-less product are those of R289 bit by bit. -/
theorem logicAndAddressesCompute : Obligations.LogicAndAddressesCompute := by
  unfold Obligations.LogicAndAddressesCompute
  refine ⟨⟨bitsRow (g := fun x y => kBits (BitVec.ofNat 64 (x.val.toNat * y.val.toNat / 2 ^ 64))) (fun _ _ _ _ _ => rfl) fun _ _ => rfl, logicRow _ fun _ _ _ _ _ => rfl, logicRow _ fun _ _ _ _ _ => rfl,
    logicRow _ fun _ _ _ _ _ => rfl, notRow (by simp) fun x h => if_neg (by simp_all), notRow (by simp) fun x h => if_pos (by simpa using h),
    bitsImmRow _ fun _ _ _ _ _ => rfl, bitsImmRow _ fun _ _ _ _ _ => rfl, bitsImmRow _ fun _ _ _ _ _ => rfl,
    bitsRow (g := fun x y => kBits ((carryless x.val y.val).truncate 64)) (fun _ _ _ _ _ => rfl) fun x y => by rw [(truncate_carryless ..).1],
    bitsRow (g := fun x y => kBits ((carryless x.val y.val >>> 64).truncate 64)) (fun _ _ _ _ _ => rfl) fun x y => by rw [(truncate_carryless ..).2],
    fun s k rd imm h half => ⟨fun e => constant_ok (f := fun _ => kInt (imm.signExtend 64)) e,
      fun e => constant_ok (f := fun _ => kBits (imm.zeroExtend 64)) e, fun e ht => ?_, fun e h1 h2 => ?_⟩⟩, ?_⟩
  · have hm : ([rd].map fun r => ((s.core k).reg r).tag) ∈ [[Tag.bits]] := by simp [ht]
    exact alu_ok (f := fun _ => one fun x => kBits (BitVec.ofNat 64 (setBytes x.val.toNat (2 * h.toNat) 2 half.toNat))) e hm (plainRule_of (by decide))
  · have hx : exec (.mkerr k rd imm) s = s.constant k (wordU 0x1B rd imm) rd (kErr imm.toNat) := if_pos (by simp [h1, h2])
    rw [hx, constant_ok e]
  · refine ⟨aluRow_of_compare (g := fun x y => x.val = y.val) (fun _ _ _ _ _ => rfl) (plainRule_of (by decide)) (fun _ h => h) fun _ _ _ => rfl,
      aluRow_of_compare (g := fun x y => x.val != y.val) (fun _ _ _ _ _ => rfl) (plainRule_of (by decide)) (fun _ h => h) fun _ _ _ => Bool.eq_iff_iff.mpr (by simp),
      (orderRow (i := .clt) (fi := fun x y => x < y) (fn := fun x y => x < y) fun _ _ _ _ _ => rfl).1,
      (orderRow (i := .clt) (fi := fun x y => x < y) (fn := fun x y => x < y) fun _ _ _ _ _ => rfl).2,
      (orderRow (i := .cle) (fi := fun x y => x ≤ y) (fn := fun x y => x ≤ y) fun _ _ _ _ _ => rfl).1,
      (orderRow (i := .cle) (fi := fun x y => x ≤ y) (fn := fun x y => x ≤ y) fun _ _ _ _ _ => rfl).2,
      aluRow_of_compare (g := fun x y => x.val.toNat < y.val.toNat) (fun _ _ _ _ _ => rfl) (plainRule_of (by decide)) (fun _ h => h) fun _ _ _ => rfl,
      aluRow_of_compare (g := fun x y => x.val.toNat ≤ y.val.toNat) (fun _ _ _ _ _ => rfl) (plainRule_of (by decide)) (fun _ h => h) fun _ _ _ => rfl⟩

end Sys2Proof.Machine
end

section
/-! PROOF. Instructions of a block core that move words, branch, and act on the system; traps that enter the handler (O36, O39). -/

namespace Sys2Proof.Machine

/-! ### What a trap leaves of the core that it enters -/

/-- A core without its memory, its jobs, its invocations and what the counters change of it: its registers and its CSRs of traps. -/
def Core.bare (K : Core) : Core :=
  { K with jobs := [], ipend := 0, perfNumber := 0, perfSkid := 0, mem := [], colours := [], invocations := [], active := [], standby := [], instret := 0 }

/-- Core `k` of a state without that. -/
def State.bare (s : State) (k : Nat) : Core := (s.core k).bare

theorem bare_foldl {α : Type} (k : Nat) (l : List α) (f : State → α → State) (s : State) (h : ∀ t a, (f t a).bare k = t.bare k) :
    (l.foldl f s).bare k = s.bare k := by
  induction l generalizing s with
  | nil => rfl
  | cons a l ih => rw [List.foldl_cons, ih, h]

/-- A change of the state that leaves the cores. -/
theorem bare_of_cores {s t : State} (k : Nat) (h : t.cores = s.cores) : t.bare k = s.bare k := by
  unfold State.bare State.core
  rw [h]

theorem Tab.get_map {α : Type} (t : Tab α) (d : α) (f : Nat → α → α) (i : Nat) :
    Tab.get (t.map fun p => (p.1, f p.1 p.2)) d i = (Tab.find t i).elim d (f i) := by
  unfold Tab.get
  induction t with
  | nil => rfl
  | cons p t ih =>
    rw [List.map_cons, Tab.find, Tab.find]
    split
    · next h => subst h; rfl
    · exact ih

section
variable (s : State) (k : Nat)

/-- A change of one core that keeps it bare. -/
theorem bare_setCore (n : Nat) (f : Core → Core) (hf : ∀ K : Core, (f K).bare = K.bare) : (s.setCore n f).bare k = s.bare k := by
  unfold State.bare
  rw [core_setCore]
  split
  · next h => subst h; exact hf _
  · rfl

@[simp] theorem bare_setEntropy (r : Nat) (f : EntropyRegion → EntropyRegion) : (s.setEntropy r f).bare k = s.bare k := rfl

@[simp] theorem bare_setLiu (n : Nat) (f : Liu → Liu) : (s.setLiu n f).bare k = s.bare k := rfl

@[simp] theorem bare_setRegion (n : Nat) (f : Region → Region) : (s.setRegion n f).bare k = s.bare k := rfl

@[simp] theorem bare_log (code origin severity : Nat) (data : Bytes) : (s.log code origin severity data).bare k = s.bare k := by
  refine bare_of_cores k ?_
  unfold State.log State.trailAs
  dsimp only
  (repeat' split) <;> rfl

@[simp] theorem bare_message (v : Nat) (now : Bool) : (s.message v now).bare k = s.bare k := by
  refine bare_of_cores k ?_
  unfold State.message
  dsimp only
  (repeat' split) <;> rfl

@[simp] theorem bare_regionEvent (r kind : Nat) : (s.regionEvent r kind).bare k = s.bare k := by
  unfold State.regionEvent State.raise
  split
  · rfl
  · unfold State.eventEdge
    dsimp only
    split
    · rw [bare_message, bare_log]; rfl
    · rw [bare_message]; rfl

@[simp] theorem bare_bump (kind unit index n : Nat) : (s.bump kind unit index n).bare k = s.bare k := by
  unfold State.bump
  dsimp only
  repeat' split
  · rfl
  · refine (bare_setCore _ k _ _ fun K => ?_).trans ?_ <;> rfl
  · rfl

@[simp] theorem bare_count (kind unit event : Nat) (dom : Option Nat) (n : Nat) : (s.count kind unit event dom n).bare k = s.bare k :=
  bare_foldl k _ _ _ fun t i => by split <;> simp

@[simp] theorem bare_setBorrowing (r : Nat) (on : Bool) : (s.setBorrowing r on).bare k = s.bare k := by
  unfold State.setBorrowing
  split <;> simp

theorem bare_takeSeedOf {s t : State} (k : Nat) {r : Nat} {after : Option Nat} {a : Bytes} (h : s.takeSeedOf r after = some (a, t)) : t.bare k = s.bare k := by
  simp only [State.takeSeedOf, Option.map_eq_some_iff, Prod.mk.injEq] at h
  obtain ⟨_, _, _, rfl⟩ := h
  rfl

theorem bare_regionSeed {s t : State} (k : Nat) {r : Nat} {a : Bytes} (h : s.regionSeed r = some (a, t)) : t.bare k = s.bare k := by
  unfold State.regionSeed State.borrow at h
  split at h
  · next hp => cases h; exact bare_takeSeedOf k hp
  · split at h
    · simp only [Option.bind_eq_some_iff, Option.map_eq_some_iff, Prod.mk.injEq] at h
      obtain ⟨_, _, p, hp, rfl, rfl⟩ := h
      rw [bare_count, bare_setBorrowing, bare_takeSeedOf k hp]
    · cases h

@[simp] theorem bare_reseedBlinding (r : Nat) : (s.reseedBlinding r).bare k = s.bare k := by
  unfold State.reseedBlinding
  split
  · rfl
  · split
    · next h => rw [bare_setEntropy, bare_regionSeed k h]
    · rfl

@[simp] theorem bare_blind (r : Nat) (ns : List Nat) : (s.blind r ns).2.bare k = s.bare k := by
  unfold State.blind
  dsimp only
  split <;> simp

@[simp] theorem bare_leaveContext (l x : Nat) : (s.leaveContext l x).bare k = s.bare k := by
  simp [State.leaveContext]

@[simp] theorem bare_goOn (l : Nat) : (s.goOn l).bare k = s.bare k := by
  unfold State.goOn State.chooseWork
  dsimp only
  (repeat' split) <;> rfl

@[simp] theorem bare_setJob (n slot : Nat) (f : Job → Job) : (s.setJob n slot f).bare k = s.bare k :=
  bare_setCore s k n _ fun K => by rfl

@[simp] theorem bare_feedHash (r : Nat) : (s.feedHash r).bare k = s.bare k := by
  unfold State.feedHash
  dsimp only
  split
  · rfl
  · split
    · rfl
    · exact bare_setJob ..

@[simp] theorem bare_feedHashes (r : Nat) : (s.feedHashes r).bare k = s.bare k := bare_foldl k _ _ _ fun t _ => bare_feedHash t k r

/-- A change of every core of a list that keeps each of them bare. -/
theorem bare_mapCores (f : Nat → Core → Core) (hf : ∀ n K, (f n K).bare = K.bare) :
    { s with cores := s.cores.map fun (p : Nat × Core) => (p.1, f p.1 p.2) }.bare k = s.bare k := by
  have h := Tab.get_map s.cores {} f k
  unfold State.bare State.core Tab.get at *
  dsimp only
  rw [h]
  cases Tab.find s.cores k with
  | none => rfl
  | some K => exact hf k K

@[simp] theorem bare_dropJobs (mine : Nat → Bool) : (s.dropJobs mine).bare k = s.bare k := by
  unfold State.dropJobs
  dsimp only
  rw [bare_foldl k _ _ _ fun _ _ => bare_feedHashes .., bare_foldl k _ _ _ fun _ _ => bare_goOn ..,
    bare_foldl k _ _ _ fun _ _ => bare_leaveContext ..]
  refine Eq.trans ?_ (bare_mapCores s k (fun n K => if mine n then { K with jobs := K.jobs.filter fun j => j.ended.isSome && !j.firmware } else K) fun n K => ?_)
  · exact bare_of_cores k rfl
  · split <;> rfl

@[simp] theorem bare_prepare (n colour a len : Nat) : (s.prepare n colour a len).bare k = s.bare k := by
  unfold State.prepare
  split
  · rfl
  · split
    · exact bare_setCore s k n _ fun K => by rfl
    · rfl

@[simp] theorem bare_setCmd (d id : Nat) (f : Cmd → Cmd) : (s.setCmd d id f).bare k = s.bare k := rfl

@[simp] theorem bare_endInvocation (n : Nat) (i : Invocation) (w : Work) : (s.endInvocation n i w).bare k = s.bare k := by
  have h : (s.clearInvocation n i).bare k = s.bare k := by
    unfold State.clearInvocation
    dsimp only
    refine (bare_setCore _ k _ _ fun K => ?_).trans ?_
    · rfl
    rw [bare_dropJobs, bare_foldl k _ _ _ fun t a => bare_prepare ..]
  unfold State.endInvocation
  dsimp only
  repeat' split
  · rw [bare_setCmd, h]
  · exact h
  · exact h

/-- What a trap, taken outside a handler, leaves of the core. -/
theorem bare_trap (t : Trap) (h : (s.core k).inTrap = false) : (s.trap k t).bare k = ((s.core k).enter t false (s.core k).pc).bare := by
  have ht (u : State) (hu : u.bare k = s.bare k) : (u.take k t false (s.core k).pc).bare k = ((s.core k).enter t false (s.core k).pc).bare := by
    have hc : ((u.count 0 k 0x13 (u.coreDom k) 1).core k).bare = (s.core k).bare := (bare_count ..).trans hu
    unfold State.take
    dsimp only
    generalize u.count 0 k 0x13 (u.coreDom k) 1 = v at hc ⊢
    have hi : (v.core k).inTrap = false := (congrArg (a₁ := (v.core k).bare) Core.inTrap hc).trans h
    rw [if_neg (by simp [hi])]
    unfold State.bare
    rw [core_setCore_same]
    exact congrArg (a₁ := (v.core k).bare) (a₂ := (s.core k).bare) (fun K => (Core.enter K t false (s.core k).pc).bare) hc
  unfold State.trap
  extract_lets K u v
  have hv : v.bare k = ((s.core k).enter t false (s.core k).pc).bare := ht u (by unfold u; split <;> rfl)
  repeat' split
  · exact hv
  · exact hv
  · rw [bare_endInvocation, hv]
  · rw [bare_endInvocation, State.trapEntry, bare_log, hv]
end

theorem tstatus_enter (f e : Bool) : let v := BitVec.ofNat 64 (16 * b2n f + 4 + 2 * b2n e)
    v.getLsbD 3 = false ∧ v.getLsbD 0 = false ∧ v.getLsbD 2 = true ∧ v.getLsbD 4 = f ∧ v.getLsbD 1 = e := by
  cases f <;> cases e <;> decide

/-- A core that enters its handler stands there (R300). -/
theorem entered_enter (K : Core) (t : Trap) (interrupt : Bool) : K.Entered (K.enter t interrupt K.pc) (causeWord t interrupt) t.tval :=
  have ⟨hf, he, ht, hm, hi⟩ := tstatus_enter K.function K.enabled
  ⟨rfl, rfl, rfl, rfl, hf, he, ht, hm, hi, rfl, rfl⟩

/-- Nothing that a core drops when bare shows in how it stands at its handler. -/
theorem entered_bare {K L M : Core} {cause tval : BitVec 64} (h : K.Entered L cause tval) (hb : M.bare = L.bare) : K.Entered M cause tval := by
  obtain ⟨h1, h2, h3, h4, h5, h6, h7, h8, h9, h10, h11⟩ := h
  exact ⟨(congrArg Core.tpc hb).trans h1, (congrArg Core.tcause hb).trans h2, (congrArg Core.tval hb).trans h3, (congrArg Core.pc hb).trans h4,
    (congrArg Core.function hb).trans h5, (congrArg Core.enabled hb).trans h6, (congrArg Core.inTrap hb).trans h7,
    (congrArg (fun M => M.tstatus.getLsbD 4) hb).trans h8, (congrArg (fun M => M.tstatus.getLsbD 1) hb).trans h9, (congrArg Core.regs hb).trans h10,
    (congrArg Core.tvec hb).trans h11⟩

/-- A core that has taken a trap stands at its handler. -/
theorem entered_trap (s : State) (k : Nat) (t : Trap) (h : (s.core k).inTrap = false) :
    (s.core k).Entered ((s.trap k t).core k) (causeWord t false) t.tval :=
  entered_bare (entered_enter _ t false) (bare_trap s k t h)

/-! ### Operands that may be ERR words (R283, R284) -/

/-- A register's word that the first two checks of R283 let through. -/
def Core.Held (K : Core) (r : BitVec 5) : Prop := (K.reg r).tag ≠ .empty ∧ (K.reg r).tag.illegal = false

theorem held_of_tag {K : Core} {r : BitVec 5} {t : Tag} (h : (K.reg r).tag = t) (he : t ≠ .empty) (hi : t.illegal = false) : K.Held r :=
  ⟨h ▸ he, h ▸ hi⟩

theorem checkHeld_operands {K : Core} {l : List (BitVec 5)} (h : ∀ r ∈ l, K.Held r) : checkHeld (K.operands l) = .ok () := by
  refine checkHeld_ok ?_ ?_
  · rw [operands_tags]
    intro t ht
    obtain ⟨r, hr, rfl⟩ := List.mem_map.mp ht
    exact (h r hr).2
  · rw [operands_tags]
    intro ht
    obtain ⟨r, hr, he⟩ := List.mem_map.mp ht
    exact (h r hr).1 he

theorem held_pair {K : Core} {a b : BitVec 5} (ha : K.Held a) (hb : K.Held b) : ∀ r ∈ [a, b], K.Held r := by
  intro r hr
  rcases List.mem_cons.mp hr with rfl | hr
  · exact ha
  · rwa [List.mem_singleton.mp hr]

theorem held_triple {K : Core} {a b c : BitVec 5} (ha : K.Held a) (hb : K.Held b) (hc : K.Held c) : ∀ r ∈ [a, b, c], K.Held r := by
  intro r hr
  rcases List.mem_cons.mp hr with rfl | hr
  · exact ha
  · exact held_pair hb hc r hr

/-- The first ERR word of two registers. -/
theorem firstErr_pair {K : Core} {a b : BitVec 5} :
    ((K.reg a).tag = .err → firstErr (K.operands [a, b]) = some (K.reg a)) ∧
      ((K.reg a).tag ≠ .err → (K.reg b).tag = .err → firstErr (K.operands [a, b]) = some (K.reg b)) := by
  refine ⟨fun h => ?_, fun h h' => ?_⟩
  · simp [firstErr, Core.operands, h]
  · simp [firstErr, Core.operands, h, h']

/-- An instruction of the ALU's shape passes on the first ERR word among its operands. -/
theorem alu_passes_err {s : State} {k w : Nat} {rd : BitVec 5} {rs : List (BitVec 5)} {rule : List (List Tag)} {f : BitVec 64 → List KWord → KWord} {e : KWord}
    (h : s.Executes k w) (hh : ∀ r ∈ rs, (s.core k).Held r) (he : firstErr ((s.core k).operands rs) = some e) :
    s.alu k w rd rs rule f = .next (s.wrote k rd e) := by
  refine insnCore_ok h ?_
  simp only [propagate, checkHeld_operands hh, he, Except.map]

/-- A compare of an ERR word traps ERR_CONSUMED. -/
theorem compare_traps_err {s : State} {k w : Nat} {rd a b : BitVec 5} {rule : List (List Tag)} {f : KWord → KWord → Bool} (h : s.Executes k w)
    (hh : ∀ r ∈ [a, b], (s.core k).Held r) (he : ((s.core k).reg a).tag = .err) :
    s.compare k w rd a b rule f = .next (s.trap k
      { cause := errConsumed, tval := BitVec.ofNat 64 ((s.core k).reg a).errWhere, tag := 6, errCode := ((s.core k).reg a).errCode }) := by
  refine insnCore_trap h ?_
  simp only [consume, checkHeld_operands hh, checkErr, firstErr_pair.1 he]
  rfl

/-- An instruction of one register that it checks itself. -/
theorem consume_one {K : Core} {r : BitVec 5} {t : Tag} (h : (K.reg r).tag = t) (hp : plainTags [t]) : consume (K.operands [r]) [[t]] = .ok [K.reg r] := by
  have hm : (K.operands [r]).map (fun o => o.word.tag) = [t] := by rw [operands_tags]; simp [h]
  rw [consume_ok (by rwa [hm]) (by simp [hm]), operands_words]
  rfl

theorem plainTags_one {t : Tag} (h : t.illegal = false ∧ t ≠ .empty ∧ t ≠ .err) : plainTags [t] :=
  plainRule_of (rule := [[t]]) (by simpa using h) [t] (List.mem_singleton.mpr rfl)

/-- An instruction that writes a register alone. -/
theorem insnCore_wrote {s : State} {k w : Nat} {rd : BitVec 5} {f : Core → Except Stop Core} {x : KWord} (h : s.Executes k w)
    (hf : f (s.core k) = .ok ((s.core k).set rd x).advance) : s.insnCore k w f = .next (s.wrote k rd x) := insnCore_ok h hf

/-! ### Words that move (R284, R290, R291) -/

section
variable {s : State} {k : Nat} {rd a b c : BitVec 5}

/-- SEL of a BOOL chooses; an ERR condition is passed on. -/
theorem execSel_ok {x : KWord} (h : s.Executes k (wordR 0x2E rd a b c 0)) (hh : ∀ r ∈ [a, b, c], (s.core k).Held r)
    (hx : ((s.core k).reg a).tag = .bool ∧ (if ((s.core k).reg a).val = 1 then (s.core k).reg b else (s.core k).reg c) = x ∨
      ((s.core k).reg a).tag = .err ∧ (s.core k).reg a = x) : execSel k rd a b c s = .next (s.wrote k rd x) := by
  unfold execSel
  refine insnCore_wrote h ?_
  simp only [checkHeld_operands hh]
  rcases hx with ⟨ht, rfl⟩ | ⟨ht, rfl⟩
  · simp [ht]
  · simp [ht]

theorem execMov_ok (h : s.Executes k (wordRR 0x30 rd a 0)) (hh : (s.core k).Held a) : execMov k rd a s = .next (s.wrote k rd ((s.core k).reg a)) := by
  unfold execMov
  refine insnCore_wrote h ?_
  simp only [checkHeld_operands (l := [a]) (by simpa using hh)]

/-- RETAG copies an ERR word and converts any other. -/
theorem execRetag_ok {n : BitVec 4} {x : KWord} (h : s.Executes k (wordR 0x31 rd a 0 0 n)) (hn : n.toNat < 8) (hh : (s.core k).Held a)
    (hx : ((s.core k).reg a).tag = .err ∧ (s.core k).reg a = x ∨
      ((s.core k).reg a).tag ≠ .err ∧ retagged (s.core k).pc (s.core k).function ((s.core k).reg a) n.toNat = .ok x) :
    execRetag k rd a n s = .next (s.wrote k rd x) := by
  unfold execRetag
  refine insnCore_wrote h ?_
  simp only [checkHeld_operands (l := [a]) (by simpa using hh), if_neg (Nat.not_le.mpr hn)]
  rcases hx with ⟨ht, rfl⟩ | ⟨ht, hx⟩
  · simp [ht]
  · simp [ht, hx]

theorem execTagof_ok (h : s.Executes k (wordRR 0x32 rd a 0)) (hi : ((s.core k).reg a).tag.illegal = false) :
    execTagof k rd a s = .next (s.wrote k rd (kInt (BitVec.ofNat 64 ((s.core k).reg a).tag.number))) := by
  unfold execTagof
  refine insnCore_wrote h ?_
  simp [hi]

theorem execErrcode_ok (h : s.Executes k (wordRR 0x33 rd a 0)) (he : ((s.core k).reg a).tag = .err) :
    execErrcode k rd a s = .next (s.wrote k rd (kInt (BitVec.ofNat 64 ((s.core k).reg a).errCode))) := by
  unfold execErrcode
  refine insnCore_wrote h ?_
  simp [checkHeld_operands (l := [a]) (by simpa using held_of_tag he (by simp) rfl), he]

/-- TCAUSE of ERR_CONSUMED carries the tag and the code of the word. -/
theorem causeWord_errConsumed (w : KWord) (v : BitVec 64) : causeWord { cause := errConsumed, tval := v, tag := 6, errCode := w.errCode } false =
    BitVec.ofNat 64 (w.errCode * 2 ^ 16 + 6 * 2 ^ 12 + 5) := by
  have h : w.errCode < 65536 := by unfold KWord.errCode bits; omega
  unfold causeWord
  rw [Nat.mod_eq_of_lt h, show b2n false = 0 from rfl]
  norm_num [errConsumed]

/-! ### Branches and jumps (R282, R286) -/

/-- A branch on a BOOL, taken where its value is the one that the instruction names. -/
theorem branch_ok {w : Nat} {off : Int} {on : Bool} {pc : BitVec 64} (h : s.Executes k w) (ht : ((s.core k).reg a).tag = .bool)
    (hp : (if decide (((s.core k).reg a).val = 1) = on then target (s.core k).pc off else (s.core k).pc + 4) = pc) :
    s.branch k w a off on = .next (s.became k { s.core k with pc := pc }) := by
  subst hp
  refine insnCore_ok h ?_
  rw [consume_one ht (plainTags_one (by decide))]
  simp only [Except.map, List.any_cons, List.any_nil, Bool.or_false, decide_eq_true_eq]
  have e : ((((s.core k).reg a).val = 1) = (on = true)) ↔ decide (((s.core k).reg a).val = 1) = on := by cases on <;> simp
  simp only [e]
  split <;> rfl

theorem execBt_ok {off : BitVec 19} (h : s.Executes k (wordU 0x50 a off)) (ht : ((s.core k).reg a).tag = .bool) : execBt k a off s =
    .next (s.became k { s.core k with pc := if ((s.core k).reg a).val = 1 then target (s.core k).pc off.toInt else (s.core k).pc + 4 }) :=
  branch_ok h ht (by simp)

theorem execBf_ok {off : BitVec 19} (h : s.Executes k (wordU 0x51 a off)) (ht : ((s.core k).reg a).tag = .bool) : execBf k a off s =
    .next (s.became k { s.core k with pc := if ((s.core k).reg a).val = 1 then (s.core k).pc + 4 else target (s.core k).pc off.toInt }) :=
  branch_ok h ht (by simp)

theorem execJ_ok {far : BitVec 24} (h : s.Executes k (wordJ 0x52 far)) :
    execJ k far s = .next (s.became k { s.core k with pc := target (s.core k).pc far.toInt }) := insnCore_ok h rfl

theorem execJal_ok {far : BitVec 24} (h : s.Executes k (wordJ 0x53 far)) : execJal k far s =
    .next (s.became k { (s.core k).set 30 (kCode ((s.core k).pc + 4)) with pc := target (s.core k).pc far.toInt }) := insnCore_ok h rfl

/-- A jump to a CODE word. -/
theorem execJr_ok (h : s.Executes k (wordR 0x54 0 a 0 0 0)) (ht : ((s.core k).reg a).tag = .code) :
    execJr k a s = .next (s.became k { s.core k with pc := ((s.core k).reg a).val }) := by
  refine insnCore_ok h ?_
  rw [consume_one ht (plainTags_one (by decide))]
  rfl

theorem execJalr_ok (h : s.Executes k (wordR 0x55 0 a 0 0 0)) (ht : ((s.core k).reg a).tag = .code) :
    execJalr k a s = .next (s.became k { (s.core k).set 30 (kCode ((s.core k).pc + 4)) with pc := ((s.core k).reg a).val }) := by
  refine insnCore_ok h ?_
  rw [consume_one ht (plainTags_one (by decide))]
  rfl

theorem execLeac_ok {off : BitVec 19} (h : s.Executes k (wordU 0x56 a off)) :
    execLeac k a off s = .next (s.wrote k a (kCode (target (s.core k).pc off.toInt))) := insnCore_wrote h rfl
end

/-- ADD passes on the first ERR word. -/
theorem execAdd_err {s : State} {k : Nat} {rd a b : BitVec 5} {e : KWord} (h : s.Executes k (wordRR 0x01 rd a b)) (hh : ∀ r ∈ [a, b], (s.core k).Held r)
    (he : firstErr ((s.core k).operands [a, b]) = some e) : execAdd k rd a b s = .next (s.wrote k rd e) := by
  unfold execAdd
  exact alu_passes_err h hh he

/-- CEQ of an ERR word enters the handler. -/
theorem execCeq_err {s : State} {k : Nat} {rd a b : BitVec 5} (h : s.Executes k (wordRR 0x28 rd a b)) (hh : ∀ r ∈ [a, b], (s.core k).Held r)
    (he : ((s.core k).reg a).tag = .err) (hi : (s.core k).inTrap = false) : ∃ t, execCeq k rd a b s = .next t ∧
      (s.core k).Entered (t.core k) (BitVec.ofNat 64 (((s.core k).reg a).errCode * 2 ^ 16 + 6 * 2 ^ 12 + 5)) (BitVec.ofNat 64 ((s.core k).reg a).errWhere) := by
  unfold execCeq
  refine ⟨_, compare_traps_err h hh he, ?_⟩
  rw [← causeWord_errConsumed]
  exact entered_trap s k _ hi

/-- Settles O36: each row is that of its instruction; a compare of an ERR word enters the handler. -/
theorem wordsMoveAndBranchesJump : Obligations.WordsMoveAndBranchesJump := by
  unfold Obligations.WordsMoveAndBranchesJump
  refine ⟨fun s k rd a b c n => ?_, fun s k r off far => ?_⟩
  · intro K held
    have he (r : BitVec 5) (h : (K.reg r).tag = .err) : K.Held r := held_of_tag h (by simp) rfl
    refine ⟨fun h hb hc ht => ?_, fun h hb hc ht => ?_, fun h ha => execMov_ok h ha, fun x h hn ha ht hx => execRetag_ok h hn ha (.inr ⟨ht, hx⟩),
      fun h hn ht => execRetag_ok h hn (he a ht) (.inl ⟨ht, rfl⟩), fun h hi => execTagof_ok h hi, fun h ht => execErrcode_ok h ht,
      fun h ha hb ht => ?_, fun h ha hb hn ht => ?_, fun h ha hb ht hf hi => ?_, fun _ => ⟨rfl, rfl⟩⟩
    · exact execSel_ok h (held_triple (held_of_tag ht (by simp) rfl) hb hc) (.inl ⟨ht, rfl⟩)
    · exact execSel_ok h (held_triple (he a ht) hb hc) (.inr ⟨ht, rfl⟩)
    · exact execAdd_err h (held_pair ha hb) (firstErr_pair.1 ht)
    · exact execAdd_err h (held_pair ha hb) (firstErr_pair.2 hn ht)
    · exact execCeq_err h (held_pair ha hb) ht hi
  · intro K there next
    exact ⟨fun h ht => execBt_ok h ht, fun h ht => execBf_ok h ht, execJ_ok, execJal_ok, execJr_ok, execJalr_ok, execLeac_ok⟩

/-! ### CSRs, RSWAP and ERET (R300, R301, R312) -/

section
variable {s : State} {k : Nat} {rd : BitVec 5} {n : BitVec 14}

theorem plain_csrTag {n : Nat} {g : Tag} (h : csrTag n = some g) : plainTags [g] := by
  unfold csrTag at h
  split at h
  all_goals cases h
  all_goals exact plainTags_one (by decide)

theorem execCsrr_ok {g : Tag} (h : s.Executes k (wordI 0x90 rd 0 n)) (hg : csrTag n.toNat = some g)
    (hm : (s.core k).function = false ∨ s.mayRead k n.toNat = true) : execCsrr k rd n s = .next (s.wrote k rd { tag := g, val := s.csr k n.toNat }) := by
  unfold execCsrr
  refine insnCore_wrote h ?_
  simp only [hg]
  rw [if_neg (by rcases hm with hm | hm <;> simp [hm])]

theorem execCsrw_ok {g : Tag} (h : s.Executes k (wordI 0x91 rd 0 n)) (hg : csrTag n.toNat = some g) (hm : (s.core k).function = false)
    (ht : ((s.core k).reg rd).tag = g) : execCsrw k rd n s = .next (s.became k ((s.core k).setCsr n.toNat ((s.core k).reg rd).val).advance) := by
  unfold execCsrw
  refine insnCore_ok h ?_
  simp only [hg, hm, Bool.false_eq_true, if_false, consume_one ht (plain_csrTag hg)]
  rfl

theorem wordR_op (op : Nat) : wordR op 0 0 0 0 0 = op := by simp [wordR]

theorem execRswap_ok (h : s.Executes k 0x92) (hm : (s.core k).function = false) :
    execRswap k s = .next (s.became k { s.core k with active := (s.core k).standby, standby := [], pc := (s.core k).pc + 4 }) := by
  unfold execRswap
  refine insnCore_ok (by rwa [wordR_op]) ?_
  rw [if_neg (by simp [hm])]
  rfl

/-- What ERET makes of TSTATUS. -/
theorem tstatus_return (f e : Bool) : let v := BitVec.ofNat 64 (16 * b2n f + 8 * b2n f + 2 * b2n e + b2n e)
    v.getLsbD 3 = f ∧ v.getLsbD 0 = e ∧ v.getLsbD 2 = false := by
  cases f <;> cases e <;> decide

theorem execEret_ok (h : s.Executes k 0x93) (hm : (s.core k).function = false) :
    ∃ L, execEret k s = .next (s.became k L) ∧ L.pc = (s.core k).tpc ∧ L.function = (s.core k).tstatus.getLsbD 4 ∧
      L.enabled = (s.core k).tstatus.getLsbD 1 ∧ L.inTrap = false ∧ L.regs = (s.core k).regs := by
  obtain ⟨hf, he, ht⟩ := tstatus_return ((s.core k).tstatus.getLsbD 4) ((s.core k).tstatus.getLsbD 1)
  unfold execEret
  exact ⟨_, insnCore_ok (by rwa [wordR_op]) (if_neg (by simp [hm])), rfl, hf, he, ht, rfl⟩

/-- The cause word of a trap whose cause takes a byte. -/
theorem causeWord_plain (c : Nat) (v : BitVec 64) (hc : c < 256) : causeWord { cause := c, tval := v } false = BitVec.ofNat 64 c := by
  unfold causeWord
  congr 1
  simp [b2n]
  omega

/-- A trap of such a cause, entered. -/
theorem entered_plain (s : State) (k c : Nat) (v : BitVec 64) (hc : c < 256) (hi : (s.core k).inTrap = false) :
    (s.core k).Entered ((s.trap k { cause := c, tval := v }).core k) (BitVec.ofNat 64 c) v :=
  causeWord_plain c v hc ▸ entered_trap s k { cause := c, tval := v } hi

/-- An instruction of FIRMWARE mode traps PRIV in FUNCTION mode. -/
theorem insnCore_priv {w : Nat} {f : Core → Except Stop Core} (h : s.Executes k w) (hi : (s.core k).inTrap = false)
    (hf : f (s.core k) = .error (wordTrap privCause w)) :
    ∃ t, s.insnCore k w f = .next t ∧ (s.core k).Entered (t.core k) (BitVec.ofNat 64 9) (BitVec.ofNat 64 w) :=
  ⟨_, insnCore_trap h hf, entered_plain s k 9 (BitVec.ofNat 64 w) (by omega) hi⟩

/-- RSWAP and ERET do. -/
theorem exec_priv (hf : (s.core k).function = true) (hi : (s.core k).inTrap = false) :
    (s.Executes k 0x92 → ∃ t, execRswap k s = .next t ∧ (s.core k).Entered (t.core k) 9 0x92) ∧
      (s.Executes k 0x93 → ∃ t, execEret k s = .next t ∧ (s.core k).Entered (t.core k) 9 0x93) := by
  unfold execRswap execEret
  simp only [wordR_op]
  exact ⟨fun h => insnCore_priv h hi (if_pos hf), fun h => insnCore_priv h hi (if_pos hf)⟩
end

/-- Settles O39: each row is that of its instruction; one that traps enters the handler. -/
theorem systemInstructionsAct : Obligations.SystemInstructionsAct := by
  unfold Obligations.SystemInstructionsAct
  intro s k rd n K
  refine ⟨fun g h hg hm => execCsrr_ok h hg hm, fun g h hg hm ht => execCsrw_ok h hg hm ht, fun h hm => execRswap_ok h hm, fun h hm => execEret_ok h hm,
    fun hf hi => exec_priv hf hi⟩

end Sys2Proof.Machine
end

section
/-!
PROOF. The state after reset and the state codes (O4, O8).
-/

namespace Sys2Proof.Machine

/-- The number of bits in which two codes differ. -/
def codeDistance (a b : BitVec 16) : Nat := ((List.range 16).filter fun i => a.getLsbD i != b.getLsbD i).length

/-- Two codes of the list that differ do so in 6 bits at least, as a test that runs. -/
def codesApart (l : List (BitVec 16)) : Bool := l.all fun a => l.all fun b => a == b || Nat.ble 6 (codeDistance a b)

theorem codesApart_spec {l : List (BitVec 16)} (h : codesApart l = true) : ∀ a ∈ l, ∀ b ∈ l, a ≠ b → 6 ≤ codeDistance a b := by
  intro a ha b hb hn
  have hab := List.all_eq_true.mp (List.all_eq_true.mp h a ha) b hb
  rcases Bool.or_eq_true _ _ ▸ hab with he | hd
  · exact absurd (eq_of_beq he) hn
  · exact Nat.le_of_ble_eq_true hd

theorem tamperCodes_apart : codesApart [tamperNormal, tamperShed, tamperLock, tamperStriking, tamperHalted] = true := by decide

theorem strikeCodes_apart : codesApart [strikeArmed, strikeStage1, strikeStage2, strikeStage3, strikeDone] = true := by decide

theorem grantCodes_apart : codesApart [grantA, grantB, movingToA, movingToB] = true := by decide

theorem voteCodes_apart : codesApart [LifeCycle.blank.voteCode, LifeCycle.vendorTest.voteCode, LifeCycle.provisioned.voteCode,
    LifeCycle.development.voteCode, LifeCycle.field.voteCode, LifeCycle.returned.voteCode, LifeCycle.scrapped.voteCode] = true := by decide

/-- Settles O8: the codes of each machine, compared two by two. -/
theorem codesKeepDistance : Obligations.CodesKeepDistance := by
  unfold Obligations.CodesKeepDistance
  exact ⟨codesApart_spec tamperCodes_apart, codesApart_spec strikeCodes_apart, codesApart_spec grantCodes_apart, codesApart_spec voteCodes_apart⟩

/-- Every table of the state after reset is empty: each number answers the default. -/
theorem reset_parts (n : Nat) : State.reset.dom n = {} ∧ State.reset.core n = {} ∧ State.reset.host.vector n = {} := ⟨rfl, rfl, rfl⟩

/-- A core after reset has INT 0 in W0 and EMPTY in every other register (R277). -/
theorem fresh_reg (r : BitVec 5) : ({} : Core).reg 0 = kInt 0 ∧ (r ≠ 0 → (({} : Core).reg r).tag = .empty) := by
  refine ⟨rfl, fun h => ?_⟩
  rw [Core.reg, if_neg h]
  rfl

/-- Settles O4: the invariant by the values of the two registers, the rest by the empty tables. -/
theorem resetMeetsInvariant : Obligations.ResetMeetsInvariant := by
  unfold Obligations.ResetMeetsInvariant
  refine ⟨⟨by decide, rfl⟩, rfl, rfl, rfl, rfl, rfl, rfl, rfl, rfl, rfl, rfl, rfl, fun _ => ⟨rfl, rfl, rfl, rfl, rfl⟩, fun _ => rfl, fun k r => ?_, rfl, rfl, rfl⟩
  obtain ⟨-, hk, -⟩ := reset_parts k
  rw [hk]
  exact ⟨rfl, (fresh_reg r).2, rfl, rfl, rfl, rfl⟩

end Sys2Proof.Machine
end

section
/-!
PROOF. What a core's memories read after a write, and the loads and stores that rest on it (O37).
-/

namespace Sys2Proof.Machine

/-! ### Bytes of a number (R8, R279) -/

/-- A write of one byte leaves every other byte as it is. -/
theorem setBytes_otherByte (v x : Nat) {o i : Nat} (h : i ≠ o) : setBytes v o 1 x / 256 ^ i % 256 = v / 256 ^ i % 256 := by
  rcases Nat.lt_or_gt_of_ne h with hl | hg
  · obtain ⟨q, rfl⟩ := Nat.exists_eq_add_of_lt hl
    have hm : (256 : Nat) ^ (i + q + 1) = 256 ^ i * (256 * 256 ^ q) := by rw [Nat.pow_succ, Nat.pow_add]; ring
    have hs : setBytes v (i + q + 1) 1 x = v % 256 ^ (i + q + 1) + 256 ^ i * (256 * (256 ^ q * (x % 256 + 256 * (v / (256 ^ (i + q + 1) * 256))))) := by
      simp only [setBytes, hm, Nat.pow_one]; ring
    rw [hs, Nat.add_mul_div_left _ _ (Nat.pow_pos (by decide)), Nat.add_mul_mod_self_left, hm, Nat.mod_mul_right_div_self, Nat.mod_mul_right_mod]
  · obtain ⟨q, rfl⟩ := Nat.exists_eq_add_of_lt hg
    have hW : 0 < 256 ^ o * 256 := Nat.mul_pos (Nat.pow_pos (by decide)) (by decide)
    have hm : (256 : Nat) ^ (o + q + 1) = 256 ^ o * 256 * 256 ^ q := by rw [Nat.pow_succ, Nat.pow_add]; ring
    have hlow : v % 256 ^ o + x % 256 * 256 ^ o < 256 ^ o * 256 := by
      have h1 := Nat.mod_lt v (Nat.pow_pos (n := o) (show 0 < 256 by decide))
      have h2 := Nat.mul_le_mul_right (256 ^ o) (show x % 256 ≤ 255 by omega)
      omega
    have hs : setBytes v o 1 x = v % 256 ^ o + x % 256 * 256 ^ o + 256 ^ o * 256 * (v / (256 ^ o * 256)) := by
      simp only [setBytes, Nat.pow_one, Nat.mul_comm (v / (256 ^ o * 256))]
    have hd := fun y : Nat => (Nat.div_div_eq_div_mul y (256 ^ o * 256) (256 ^ q)).symm
    rw [hm, hd, hd, hs, Nat.add_mul_div_left _ _ hW, Nat.div_eq_of_lt hlow, Nat.zero_add]

/-- A byte of a 64-bit word is that of the number it is cut from. -/
theorem wordByte_ofNat (v : Nat) {i : Nat} (h : i < 8) : (BitVec.ofNat 64 v).toNat / 256 ^ i % 256 = v / 256 ^ i % 256 := by
  obtain ⟨q, hq⟩ := Nat.exists_eq_add_of_le (Nat.le_of_lt_succ h)
  have hm : (2 : Nat) ^ 64 = 256 ^ i * (256 * 256 ^ q) := by
    rw [show (2 : Nat) ^ 64 = 256 ^ (7 + 1) by norm_num, hq, Nat.pow_succ, Nat.pow_add]; ring
  rw [BitVec.toNat_ofNat, hm, Nat.mod_mul_right_div_self, Nat.mod_mul_right_mod]

theorem getElem?_leBytes (n v : Nat) {i : Nat} (h : i < n) : (leBytes n v)[i]? = some (BitVec.ofNat 8 (v / 256 ^ i)) := by
  induction n generalizing v i with
  | zero => omega
  | succ n ih =>
    cases i with
    | zero => simp [leBytes]
    | succ i => rw [leBytes, List.getElem?_cons_succ, ih (v / 256) (by omega), Nat.div_div_eq_div_mul, Nat.pow_succ, Nat.mul_comm 256]

theorem byteAt_leBytes {n i : Nat} (v : Nat) (h : i < n) : byteAt (leBytes n v) i = v / 256 ^ i % 256 := by
  rw [byteAt_eq_getElem?, getElem?_leBytes n v h]
  rfl

theorem leNat_leBytes (n v : Nat) : leNat (leBytes n v) = v % 256 ^ n := by
  induction n generalizing v with
  | zero => simp [leBytes, leNat, Nat.mod_one]
  | succ n ih =>
    rw [leBytes, leNat, ih, Nat.pow_succ, Nat.mul_comm (256 ^ n), Nat.mod_mul]
    rfl

/-! ### A byte memory -/

theorem get_putBytes (bs : Bytes) (t : List Host.Cell) (o j : Nat) :
    Tab.get (putBytes t o bs) 0 j = if o ≤ j then bs[j - o]?.getD (Tab.get t 0 j) else Tab.get t 0 j := by
  induction bs generalizing t o with
  | nil => simp [putBytes]
  | cons b bs ih =>
    rw [putBytes, ih]
    rcases Nat.lt_trichotomy j o with hl | rfl | hg
    · rw [if_neg (by omega), if_neg (by omega), Tab.get_put_other _ _ _ (by omega)]
    · rw [if_neg (by omega), if_pos (Nat.le_refl _), Tab.get_put_same]
      simp
    · obtain ⟨q, rfl⟩ := Nat.exists_eq_add_of_lt hg
      rw [if_pos (by omega), if_pos (by omega), Tab.get_put_other _ _ _ (by omega), show o + q + 1 - (o + 1) = q by omega,
        show o + q + 1 - o = q + 1 by omega, List.getElem?_cons_succ]

/-- Bytes put somewhere read as written. -/
theorem read_putBytes_same (bs : Bytes) (t : List Host.Cell) (o : Nat) : (List.range bs.length).map (fun i => Tab.get (putBytes t o bs) 0 (o + i)) = bs := by
  refine List.ext_getElem (by simp) fun i _ hi => ?_
  rw [List.getElem_map, List.getElem_range, get_putBytes, if_pos (Nat.le_add_right _ _), Nat.add_sub_cancel_left, List.getElem?_eq_getElem hi]
  rfl

/-- Those beside them read as before. -/
theorem get_putBytes_other {bs : Bytes} {t : List Host.Cell} {o j : Nat} (h : j < o ∨ o + bs.length ≤ j) :
    Tab.get (putBytes t o bs) 0 j = Tab.get t 0 j := by
  rw [get_putBytes]
  split
  · rw [List.getElem?_eq_none (by omega)]
    rfl
  · rfl

/-! ### Words of a core's memory (R278, R279) -/

section
variable (s : State) (k : Nat)

@[simp] theorem region_setCore_any (n r : Nat) (f : Core → Core) : (s.setCore n f).region r = s.region r := rfl

@[simp] theorem core_setRegion_any (n r : Nat) (f : Region → Region) : (s.setRegion r f).core n = s.core n := rfl

/-- A change of a core's registers leaves its words. -/
theorem word_setCore (f : Core → Core) (hf : (f (s.core k)).mem = (s.core k).mem) (a : Nat) : (s.setCore k f).word k a = s.word k a := by
  simp only [State.word, core_setCore_same, hf, region_setCore_any]

theorem byte_setCore (f : Core → Core) (hf : (f (s.core k)).mem = (s.core k).mem) (a : Nat) : (s.setCore k f).byte k a = s.byte k a := by
  simp only [State.byte, word_setCore s k f hf]

/-- A store changes the core's memory alone, or none of it. -/
theorem core_setWord (a : Nat) (w : KWord) : ∃ m, (s.setWord k a w).core k = { s.core k with mem := m } := by
  unfold State.setWord
  split
  · exact ⟨_, core_setCore_same _ _ _⟩
  · exact ⟨_, rfl⟩

theorem word_setWord_same {a : Nat} {w : KWord} (hw : a < 0x80000 ∨ w.tag = .bits) : (s.setWord k a w).word k a = w := by
  unfold State.setWord State.word
  by_cases ha : a < 0x80000
  · simp only [if_pos ha, core_setCore_same, Tab.get_put_same]
  · obtain ⟨t, v⟩ := w
    obtain rfl : t = .bits := hw.resolve_left ha
    have hr := read_putBytes_same (leBytes 8 v.toNat) (s.region (k / 12)).buffer (a - windowBase)
    rw [length_leBytes] at hr
    simp only [if_neg ha, region_setRegion_same, hr, leNat_leBytes]
    rw [kBits, show (256 : Nat) ^ 8 = 2 ^ 64 by norm_num, Nat.mod_eq_of_lt v.isLt, BitVec.ofNat_toNat, BitVec.setWidth_eq]

/-- A word of the map. -/
def wordPlace (a : Nat) : Prop := a % 8 = 0 ∧ (inLocal a 8 = true ∨ inWindow a 8 = true)

theorem wordPlace_iff (a : Nat) : wordPlace a ↔ a % 8 = 0 ∧ (a + 8 ≤ 0x80000 ∨ windowBase ≤ a ∧ a + 8 ≤ windowBase + 0x800000) := by
  simp [wordPlace, inLocal, inWindow]

theorem word_setWord_other {a b : Nat} (w : KWord) (ha : wordPlace a) (hb : wordPlace b) (h : a ≠ b) : (s.setWord k a w).word k b = s.word k b := by
  rw [wordPlace_iff] at ha hb
  simp only [windowBase] at ha hb
  unfold State.setWord State.word
  by_cases hla : a < 0x80000
  · rw [if_pos hla]
    simp only [core_setCore_same, region_setCore_any]
    rw [Tab.get_put_other _ _ _ (by omega)]
  · rw [if_neg hla]
    simp only [core_setRegion_any, region_setRegion_same]
    by_cases hlb : b < 0x80000
    · rw [if_pos hlb, if_pos hlb]
    · rw [if_neg hlb, if_neg hlb]
      congr 3
      refine List.map_congr_left fun i hi => get_putBytes_other ?_
      rw [length_leBytes]
      have hi := List.mem_range.mp hi
      simp only [windowBase]
      omega

/-! ### Bytes of a core's memory (R279) -/

/-- The byte at an address, as a part of its word. -/
theorem toNat_byte (a : Nat) : (s.byte k a).toNat = (s.word k (a / 8 * 8)).val.toNat / 256 ^ (a % 8) % 256 := by
  rw [State.byte, byteAt_leBytes _ (Nat.mod_lt _ (by decide)), BitVec.toNat_ofNat]
  exact Nat.mod_mod _ _

/-- The word of a byte after a store of it is BITS. -/
theorem word_setByte (a : Nat) (b : Byte) : (s.setByte k a b).word k (a / 8 * 8) = kBits (BitVec.ofNat 64
    (setBytes (if (s.word k (a / 8 * 8)).tag = .empty then 0 else (s.word k (a / 8 * 8)).val.toNat) (a % 8) 1 b.toNat)) :=
  word_setWord_same s k (.inr rfl)

theorem core_setByte (a : Nat) (b : Byte) : ∃ m, (s.setByte k a b).core k = { s.core k with mem := m } := core_setWord s k _ _

theorem byte_setByte_same (a : Nat) (b : Byte) : (s.setByte k a b).byte k a = b := by
  have hi : a % 8 < 8 := Nat.mod_lt _ (by decide)
  refine BitVec.eq_of_toNat_eq ?_
  have hf := setBytes_field (if (s.word k (a / 8 * 8)).tag = .empty then 0 else (s.word k (a / 8 * 8)).val.toNat) (a % 8) 1 b.toNat
  rw [Nat.pow_one] at hf
  rw [toNat_byte, word_setByte, kBits, wordByte_ofNat _ hi, hf]
  exact Nat.mod_eq_of_lt b.isLt

/-- Another byte of a word of BITS keeps its value. -/
theorem byte_setByte_word {a x : Nat} (b : Byte) (hx : x / 8 = a / 8) (hn : x ≠ a) (ht : (s.word k (a / 8 * 8)).tag = .bits) :
    (s.setByte k a b).byte k x = s.byte k x := by
  have hi : x % 8 < 8 := Nat.mod_lt _ (by decide)
  refine BitVec.eq_of_toNat_eq ?_
  rw [toNat_byte, toNat_byte, hx, word_setByte, kBits, wordByte_ofNat _ hi, setBytes_otherByte _ _ (by omega), ht]
  rfl

/-- So does a byte of another word. -/
theorem byte_setByte_other {a x : Nat} (b : Byte) (ha : wordPlace (a / 8 * 8)) (hx : wordPlace (x / 8 * 8)) (hn : x / 8 ≠ a / 8) :
    (s.setByte k a b).byte k x = s.byte k x := by
  have hw : (s.setByte k a b).word k (x / 8 * 8) = s.word k (x / 8 * 8) := word_setWord_other s k _ ha hx (by omega)
  rw [State.byte, hw, State.byte]

/-! ### Accesses that are let through (R278, R283) -/

variable {s k}

theorem reach_iff {kind : AccessKind} {a n : Nat} :
    s.reach k kind a n = .ok () ↔ a % n = 0 ∧ s.allows k kind a n = true ∧ (s.core k).stalls a n = false := by
  unfold State.reach
  by_cases h1 : a % n = 0 <;> by_cases h2 : s.allows k kind a n = true <;> by_cases h3 : (s.core k).stalls a n = true <;> simp [h1, h2, h3]

theorem place_of_allows {kind : AccessKind} {a n : Nat} (h : s.allows k kind a n = true) : inLocal a n = true ∨ inWindow a n = true := by
  rw [State.allows, Bool.and_eq_true, Bool.or_eq_true] at h
  exact h.1

theorem wordPlace_of_reach {kind : AccessKind} {a : Nat} (h : s.reach k kind a 8 = .ok ()) : wordPlace a := by
  obtain ⟨ha, hg, -⟩ := reach_iff.mp h
  exact ⟨ha, place_of_allows hg⟩

/-- The word of a byte that is reached stands in the map too. -/
theorem wordPlace_of_byte {kind : AccessKind} {a : Nat} (h : s.reach k kind a 1 = .ok ()) : wordPlace (a / 8 * 8) := by
  obtain ⟨-, hg, -⟩ := reach_iff.mp h
  have hp := place_of_allows hg
  rw [wordPlace_iff]
  simp only [inLocal, inWindow, decide_eq_true_eq, Bool.and_eq_true] at hp
  unfold windowBase at hp ⊢
  omega

theorem mayStore_iff {a p : Nat} {w : KWord} : s.mayStore k a p w = .ok () ↔ s.reach k .write a 8 = .ok () ∧ (a < 0x80000 ∨ w.tag = .bits) := by
  unfold State.mayStore
  cases s.reach k .write a 8 with
  | error e => simp
  | ok u =>
    by_cases h : a < 0x80000
    · simp [h, Nat.not_le.mpr h]
    · by_cases ht : w.tag = .bits <;> simp [h, Nat.le_of_not_lt h, ht]

theorem mayStoreByte_iff {a : Nat} : s.mayStoreByte k a = .ok () ↔
    s.reach k .write a 1 = .ok () ∧ ((s.word k (a / 8 * 8)).tag = .bits ∨ (s.word k (a / 8 * 8)).tag = .empty) := by
  unfold State.mayStoreByte
  cases s.reach k .write a 1 with
  | error e => simp
  | ok u => cases (s.word k (a / 8 * 8)).tag <;> simp

theorem checkHeld_memory (a : Nat) : checkHeld [s.memOperand k a] = .ok () ↔ (s.word k (a / 8 * 8)).tag ≠ .empty ∧ (s.word k (a / 8 * 8)).tag.illegal = false := by
  unfold checkHeld
  by_cases h2 : (s.word k (a / 8 * 8)).tag = .empty
  · simp [State.memOperand, h2, Tag.illegal]
  · by_cases h1 : (s.word k (a / 8 * 8)).tag.illegal = true <;> simp [State.memOperand, h1, h2]

theorem loadWord_iff {a : Nat} {w : KWord} : s.loadWord k a = .ok w ↔
    s.reach k .read a 8 = .ok () ∧ w.tag ≠ .empty ∧ w.tag.illegal = false ∧ s.word k a = w := by
  unfold State.loadWord
  cases hr : s.reach k .read a 8 with
  | error e => simp
  | ok u =>
    have ha : a / 8 * 8 = a := by have := (wordPlace_of_reach hr).1; omega
    cases hh : checkHeld [s.memOperand k a] with
    | error e =>
      have hn : ¬ checkHeld [s.memOperand k a] = .ok () := by simp [hh]
      rw [checkHeld_memory, ha] at hn
      simp only [reduceCtorEq, true_and, false_iff]
      rintro ⟨h1, h2, rfl⟩
      exact hn ⟨h1, h2⟩
    | ok u =>
      have hn := hh
      rw [checkHeld_memory, ha] at hn
      simp only [Except.ok.injEq, true_and]
      refine ⟨fun h => ⟨h ▸ hn.1, h ▸ hn.2, h⟩, fun h => h.2.2⟩

theorem checkTags_bits (o : Operand) : checkTags [[.bits]] [o] = .ok () ↔ o.word.tag = .bits := by
  by_cases h : o.word.tag = .bits
  · simp [checkTags, h]
  · simp [checkTags, h, Ne.symm h]

theorem loadByte_iff {a : Nat} {b : Byte} : s.loadByte k a = .ok b ↔
    s.reach k .read a 1 = .ok () ∧ (s.word k (a / 8 * 8)).tag = .bits ∧ s.byte k a = b := by
  unfold State.loadByte
  have hh := checkHeld_memory (s := s) (k := k) a
  have ht : checkTags [[.bits]] [s.memOperand k a] = .ok () ↔ (s.word k (a / 8 * 8)).tag = .bits := checkTags_bits _
  cases s.reach k .read a 1 with
  | error e => simp
  | ok u =>
    by_cases hb : (s.word k (a / 8 * 8)).tag = .bits
    · rw [ht.mpr hb, hh.mpr (by simp [hb, Tag.illegal])]
      simp [hb]
    · cases checkHeld [s.memOperand k a] with
      | error e => simp [hb]
      | ok u =>
        cases hc : checkTags [[.bits]] [s.memOperand k a] with
        | error e => simp [hb]
        | ok u => exact absurd (ht.mp hc) hb
end

/-! ### Loads and stores (R278, R279, R284) -/

section
variable {s : State} {k a : Nat} {rd r : BitVec 5} {imm : BitVec 14}

theorem effective_ok {w : KWord} (h : (w.val.toNat : Int) + imm.toInt = a) (ha : a < 2 ^ 64) : effective w imm = .ok a := by
  simp only [effective, h]
  rw [if_pos ⟨Int.natCast_nonneg a, by exact_mod_cast ha⟩, Int.toNat_natCast]

/-- The address operand, with others that hold words the checks let through. -/
theorem address_ok {K : Core} {others : List (BitVec 5)} (hr : (K.reg r).tag = .addr) (h : ((K.reg r).val.toNat : Int) + imm.toInt = a) (ha : a < 2 ^ 64)
    (ho : ∀ x ∈ others, K.Held x ∧ (K.reg x).tag ≠ .err) : K.address r others imm = .ok a := by
  have hheld : checkHeld (K.operands (r :: others)) = .ok () := by
    refine checkHeld_operands fun x hx => ?_
    rcases List.mem_cons.mp hx with rfl | hx
    · exact held_of_tag hr (by decide) (by decide)
    · exact (ho x hx).1
  have herr : checkErr (K.operands (r :: others)) = .ok () := by
    refine checkErr_ok ?_
    rw [operands_tags, List.mem_map]
    rintro ⟨x, hx, he⟩
    rcases List.mem_cons.mp hx with rfl | hx
    · exact absurd (hr.symm.trans he) (by decide)
    · exact (ho x hx).2 he
  have htag : checkTags [[.addr]] (K.operands [r]) = .ok () := by
    refine checkTags_ok _ _ ?_
    rw [operands_tags]
    simp [hr]
  simp only [Core.address, hheld, herr, htag, effective_ok h ha]

theorem address_alone {K : Core} (hr : (K.reg r).tag = .addr) (h : ((K.reg r).val.toNat : Int) + imm.toInt = a) (ha : a < 2 ^ 64) :
    K.address r [] imm = .ok a := address_ok hr h ha fun _ hx => absurd hx List.not_mem_nil

/-- An instruction that executes and whose meaning gives a state completes. -/
theorem insn_ok {w : Nat} {f : Except Stop State} {u : State} (h : s.Executes k w) (hf : f = .ok u) :
    s.insn k w f = .next (u.retire k (s.core k).function) := by
  rw [insn_executes h, hf]
  rfl

theorem execLdw_ok {w : KWord} (h : s.Executes k (wordI 0x40 rd r imm)) (ha : (s.core k).address r [] imm = .ok a) (hw : s.loadWord k a = .ok w) :
    execLdw k rd r imm s = .next (s.wrote k rd w) := by
  unfold execLdw
  refine insn_ok (u := s.setCore k fun _ => ((s.core k).set rd w).advance) h ?_
  rw [ha]
  simp only [Except.bind, hw, Except.map]
  rfl

theorem execLdw_align (h : s.Executes k (wordI 0x40 rd r imm)) (ha : (s.core k).address r [] imm = .ok a) (hn : a % 8 ≠ 0) (hi : (s.core k).inTrap = false) :
    ∃ t, execLdw k rd r imm s = .next t ∧ (s.core k).Entered (t.core k) (BitVec.ofNat 64 7) (BitVec.ofNat 64 a) := by
  refine ⟨s.trap k { cause := 7, tval := BitVec.ofNat 64 a }, ?_, entered_plain s k 7 (BitVec.ofNat 64 a) (by omega) hi⟩
  unfold execLdw
  rw [insn_executes h, ha]
  simp only [Except.bind, State.loadWord, State.reach, bne_iff_ne, ne_eq, hn, not_false_eq_true, if_true]
  rfl

theorem execLdb_ok {b : Byte} (h : s.Executes k (wordI 0x42 rd r imm)) (ha : (s.core k).address r [] imm = .ok a) (hb : s.loadByte k a = .ok b) :
    execLdb k rd r imm s = .next (s.wrote k rd (kBits (b.zeroExtend 64))) := by
  unfold execLdb
  refine insn_ok (u := s.setCore k fun _ => ((s.core k).set rd (kBits (b.zeroExtend 64))).advance) h ?_
  rw [ha]
  simp only [Except.bind, hb, Except.map]
  rfl

theorem execStw_ok (h : s.Executes k (wordI 0x41 rd r imm)) (ha : (s.core k).address r [rd] imm = .ok a)
    (hm : s.mayStore k a 2 ((s.core k).reg rd) = .ok ()) :
    execStw k rd r imm s = .next (((s.setWord k a ((s.core k).reg rd)).setCore k Core.advance).retire k (s.core k).function) := by
  unfold execStw
  refine insn_ok h ?_
  rw [ha]
  simp only [Except.bind, hm, Except.map]

theorem execStb_ok (h : s.Executes k (wordI 0x43 rd r imm)) (ha : (s.core k).address r [rd] imm = .ok a) (ht : ((s.core k).reg rd).tag = .bits)
    (hm : s.mayStoreByte k a = .ok ()) :
    execStb k rd r imm s =
      .next (((s.setByte k a (((s.core k).reg rd).val.truncate 8)).setCore k Core.advance).retire k (s.core k).function) := by
  unfold execStb
  refine insn_ok h ?_
  rw [ha]
  simp only [Except.bind, ht, bne_self_eq_false, Bool.false_eq_true, if_false, hm, Except.map]

/-- What a store leaves as it is: every other word of the map, and the core but for its pc and its memory. -/
def State.StoredAt (s u : State) (k a : Nat) : Prop :=
  (∀ x, x ≠ a / 8 → inLocal (8 * x) 8 = true ∨ inWindow (8 * x) 8 = true → u.word k (8 * x) = s.word k (8 * x)) ∧
    { u.core k with mem := (s.core k).mem } = (s.core k).advance

theorem storedAt_setWord {x : Nat} {w : KWord} (hx : wordPlace x) (ha : x = a / 8 * 8) : s.StoredAt ((s.setWord k x w).setCore k Core.advance) k a := by
  refine ⟨fun y hy hp => ?_, ?_⟩
  · rw [word_setCore _ _ Core.advance rfl]
    exact word_setWord_other s k w hx ⟨by omega, hp⟩ (by omega)
  · obtain ⟨m, hm⟩ := core_setWord s k x w
    rw [core_setCore_same, hm]
    rfl
end

/-- Settles O37: each row is that of its instruction; what is read back after a store is what was put there. -/
theorem loadsAndStoresAct : Obligations.LoadsAndStoresAct := by
  unfold Obligations.LoadsAndStoresAct
  intro s k a rd r imm K hr he ha w stored
  have haddr := address_alone hr he ha
  refine ⟨fun h hg hw hi => ?_, fun h hg hw => ?_, fun h hm hn hi => ?_, fun h hm ht => ?_, fun h hn hi => execLdw_align h haddr hn hi⟩
  · have hd : a / 8 * 8 = a := by have := (reach_iff.mp hg).1; omega
    exact execLdw_ok h haddr (loadWord_iff.mpr ⟨hg, hw, hi, by rw [← hd]⟩)
  · exact execLdb_ok h haddr (loadByte_iff.mpr ⟨hg, hw, rfl⟩)
  · obtain ⟨hg, hw⟩ := mayStore_iff.mp hm
    obtain ⟨he', hne⟩ : (K.reg rd).tag ≠ .empty ∧ (K.reg rd).tag ≠ .err := by simpa using hn
    have hd : a / 8 * 8 = a := by have := (reach_iff.mp hg).1; omega
    refine ⟨_, execStw_ok h (address_ok hr he ha fun x hx => ?_) hm, ?_, storedAt_setWord (wordPlace_of_reach hg) hd.symm⟩
    · rw [List.mem_singleton.mp hx]
      exact ⟨⟨he', hi⟩, hne⟩
    · rw [word_setCore _ _ Core.advance rfl]
      exact word_setWord_same s k hw
  · obtain ⟨hg, -⟩ := mayStoreByte_iff.mp hm
    refine ⟨_, execStb_ok h (address_ok hr he ha fun x hx => ?_) ht hm, ?_, ?_, fun x hx hn hw => ?_, storedAt_setWord (wordPlace_of_byte hg) rfl⟩
    · rw [List.mem_singleton.mp hx]
      exact ⟨held_of_tag ht (by decide) (by decide), by rw [ht]; decide⟩
    · rw [byte_setCore _ _ Core.advance rfl, byte_setByte_same]
    · rw [word_setCore _ _ Core.advance rfl, word_setByte]
      rfl
    · rw [byte_setCore _ _ Core.advance rfl, byte_setByte_word s k _ hx hn hw]

end Sys2Proof.Machine
end

section
/-!
PROOF. Stream instructions, alone and under a SPAN (O38).
-/

namespace Sys2Proof.Machine

/-! ### Registers (R277) -/

theorem reg_set_same (K : Core) {r : BitVec 5} (w : KWord) (h : r ≠ 0) : (K.set r w).reg r = w := by
  simp only [Core.set, Core.reg, if_neg h, Tab.get_put_same]

theorem reg_set_other (K : Core) {r x : BitVec 5} (w : KWord) (h : x ≠ r) : (K.set r w).reg x = K.reg x := by
  unfold Core.set
  split
  · rfl
  · have hn : r.toNat ≠ x.toNat := fun e => h (BitVec.eq_of_toNat_eq e.symm)
    simp only [Core.reg, Tab.get_put_other _ _ _ hn]

@[simp] theorem mem_set (K : Core) (r : BitVec 5) (w : KWord) : (K.set r w).mem = K.mem := by
  unfold Core.set
  split <;> rfl

@[simp] theorem pc_set (K : Core) (r : BitVec 5) (w : KWord) : (K.set r w).pc = K.pc := by
  unfold Core.set
  split <;> rfl

@[simp] theorem span_set (K : Core) (r : BitVec 5) (w : KWord) : (K.set r w).span = K.span := by
  unfold Core.set
  split <;> rfl

/-! ### The entry of a stream instruction (R292) -/

section
variable {K : Core} {x : StreamInsn}

/-- Without a SPAN, pointers of tag ADDR pass the entry. -/
theorem enter_alone (hd : (K.reg wDst).tag = .addr) (hs : x.source = true → (K.reg wSrc).tag = .addr) : x.enter K false = .ok () := by
  cases hx : x.source
  · simp [StreamInsn.enter, StreamInsn.pointers, hx, hd, checkHeld, checkErr, firstErr, checkTags, Tag.illegal, Except.bind]
  · simp [StreamInsn.enter, StreamInsn.pointers, hx, hd, hs hx, checkHeld, checkErr, firstErr, checkTags, Tag.illegal, Except.bind]

/-- Under one, CNT is an INT that is not negative besides. -/
theorem enter_prefixed (hc : (K.reg wCnt).tag = .int) (hn : 0 ≤ (K.reg wCnt).val.toInt) (hd : (K.reg wDst).tag = .addr) (hs : (K.reg wSrc).tag = .addr)
    (hx : x.source = true) : x.enter K true = .ok () := by
  simp [StreamInsn.enter, StreamInsn.pointers, hx, hc, hd, hs, hn, checkHeld, checkErr, firstErr, checkTags, Tag.illegal, Except.bind]

end

/-! ### The core after an element (R292, R294) -/

theorem fixedRole_iff : ∀ r : BitVec 5, fixedRole r = false ↔ r ≠ 27 ∧ r ≠ 28 ∧ r ≠ 29 := by decide

/-- The core with the comparison of its element in RD. -/
def StreamInsn.judged (x : StreamInsn) (K : Core) (r : Option Bool) : Core :=
  match r with | some b => K.set x.rd (kBool b) | none => K

/-- How far an element moves a pointer. -/
def StreamInsn.size (x : StreamInsn) : BitVec 64 := if x.word then 8 else 1

/-- The core with the pointers that its element uses past it. -/
def StreamInsn.moved (x : StreamInsn) (K : Core) : Core :=
  (if x.source then K.set wSrc (kAddr ((K.reg wSrc).val + x.size)) else K).set wDst (kAddr ((K.reg wDst).val + x.size))

/-- The core with one element less to do, past the run's end where none is left. -/
def StreamInsn.counted (x : StreamInsn) (K : Core) : Core :=
  let M := (x.moved K).set wCnt (kInt ((K.reg wCnt).val - 1))
  if (K.reg wCnt).val - 1 = 0 then { M with pc := K.pc + 8, span := none } else M

theorem after_alone (x : StreamInsn) (K : Core) (r : Option Bool) : x.after K r none = (x.moved (x.judged K r)).advance := rfl

theorem after_prefixed (x : StreamInsn) (K : Core) (r : Option Bool) (stop : Nat) : x.after K r (some stop) =
    if (stop = 1 ∧ r = some false) ∨ (stop = 2 ∧ r = some true) then { x.judged K r with pc := K.pc + 8, span := none }
    else x.counted (x.judged K r) := by
  have hp : (x.judged K r).pc = K.pc := by
    cases r with
    | none => rfl
    | some b => exact pc_set _ _ _
  rw [← hp]
  simp only [StreamInsn.after, Bool.or_eq_true, Bool.and_eq_true, decide_eq_true_eq]
  rfl

section
variable (x : StreamInsn) (K : Core)

theorem judged_reg (hf : fixedRole x.rd = false) (r : Option Bool) {n : BitVec 5} (hn : fixedRole n = true) : (x.judged K r).reg n = K.reg n := by
  cases r with
  | none => rfl
  | some b => exact reg_set_other _ _ fun e => by rw [e, hf] at hn; exact absurd hn (by decide)

@[simp] theorem judged_mem (r : Option Bool) : (x.judged K r).mem = K.mem := by
  cases r with
  | none => rfl
  | some b => exact mem_set _ _ _

@[simp] theorem judged_pc (r : Option Bool) : (x.judged K r).pc = K.pc := by
  cases r with
  | none => rfl
  | some b => exact pc_set _ _ _

@[simp] theorem judged_span (r : Option Bool) : (x.judged K r).span = K.span := by
  cases r with
  | none => rfl
  | some b => exact span_set _ _ _

theorem moved_dst : (x.moved K).reg 29 = kAddr ((K.reg 29).val + x.size) := reg_set_same _ _ (by decide)

theorem moved_src : (x.moved K).reg 28 = if x.source then kAddr ((K.reg 28).val + x.size) else K.reg 28 := by
  rw [StreamInsn.moved, reg_set_other _ _ (by decide)]
  split
  · exact reg_set_same _ _ (by decide)
  · rfl

theorem moved_other {n : BitVec 5} (h28 : n ≠ 28) (h29 : n ≠ 29) : (x.moved K).reg n = K.reg n := by
  refine (reg_set_other _ _ h29).trans ?_
  split
  · exact reg_set_other _ _ h28
  · rfl

@[simp] theorem moved_mem : (x.moved K).mem = K.mem := by
  rw [StreamInsn.moved, mem_set]
  split <;> simp

@[simp] theorem moved_pc : (x.moved K).pc = K.pc := by
  rw [StreamInsn.moved, pc_set]
  split <;> simp

@[simp] theorem moved_span : (x.moved K).span = K.span := by
  rw [StreamInsn.moved, span_set]
  split <;> simp
end

/-! ### A stream instruction that runs -/

section
variable {s : State} {k : Nat} {x : StreamInsn} {f : Element → State → ElementResult}

/-- What a stream instruction of a core works on. -/
def State.element (s : State) (k : Nat) (x : StreamInsn) : Element :=
  { core := k, src := ((s.core k).reg 28).val.toNat, dst := ((s.core k).reg 29).val.toNat, rs := (s.core k).reg x.rs, register := x.rs.toNat, word := x.word }

/-- One whose fields and pointers are right performs its element. -/
theorem perform_element {u : State} {r : Option Bool} (he : x.enter (s.core k) (s.core k).span.isSome = .ok ())
    (hn : (s.core k).span.isSome = true → ((s.core k).reg wCnt).val ≠ 0) (hf : f (s.element k x) s = .ok (u, r)) :
    x.perform k f s = .ok (u.setCore k fun C => x.after C r (s.core k).span) := by
  have hc : ((s.core k).span.isSome && decide (((s.core k).reg wCnt).val = 0)) = false := by
    cases h : (s.core k).span.isSome
    · rfl
    · simpa using hn h
  unfold StreamInsn.perform
  simp only [he, Except.bind, hc, Bool.false_eq_true, if_false]
  rw [State.element] at hf
  erw [hf]
  rfl

/-- Without a SPAN, fields that are an instruction run. -/
theorem stream_alone (h : s.Executes k x.encoded) (hi : x.illegal = false) (hd : fixedRole x.rd = false) (hs : fixedRole x.rs = false) :
    s.stream k x f = s.complete k (x.perform k f s) := by
  obtain ⟨hw, hp, hf⟩ := h
  unfold State.stream
  simp only [hw, hp, hi, hd, hs, Option.isSome_none, Bool.false_eq_true, if_false, Nat.add_zero, Bool.or_false]
  rw [hf]

/-- Fields that are none trap. -/
theorem stream_illegal (h : s.Executes k x.encoded) (hi : (x.illegal || fixedRole x.rd || fixedRole x.rs) = true) (ht : (s.core k).inTrap = false) :
    ∃ t, s.stream k x f = .next t ∧ (s.core k).Entered (t.core k) (BitVec.ofNat 64 1) (BitVec.ofNat 64 x.encoded) := by
  obtain ⟨hw, hp, hf⟩ := h
  refine ⟨s.trap k { cause := 1, tval := BitVec.ofNat 64 x.encoded }, ?_, entered_plain s k 1 _ (by omega) ht⟩
  unfold State.stream
  simp only [hw, hp, hi, Option.isSome_none, Bool.false_eq_true, if_false, if_true, Nat.add_zero]
  rw [hf]
  rfl

/-- What runs without a SPAN leaves: its stores, the comparison, and the pointers past the element. -/
theorem stream_runs {u : State} {r : Option Bool} {m : Tab KWord} {P : State → Prop} (h : s.Executes k x.encoded) (hi : x.illegal = false) (hd : fixedRole x.rd = false)
    (hs : fixedRole x.rs = false) (h29 : ((s.core k).reg 29).tag = .addr) (h28 : x.source = true → ((s.core k).reg 28).tag = .addr)
    (hf : f (s.element k x) s = .ok (u, r)) (hu : u.core k = { s.core k with mem := m })
    (hP : ∀ v : State, (∀ a, v.word k a = u.word k a) → (∀ a, v.byte k a = u.byte k a) → (v.core k).mem = m →
      (∀ b, r = some b → x.rd ≠ 0 → (v.core k).reg x.rd = kBool b) → P v) :
    ∃ v : State, s.stream k x f = .next (v.retire k (s.core k).function) ∧ (v.core k).pc = (s.core k).pc + 4 ∧
      (v.core k).reg 29 = kAddr (((s.core k).reg 29).val + x.size) ∧
      (v.core k).reg 28 = (if x.source then kAddr (((s.core k).reg 28).val + x.size) else (s.core k).reg 28) ∧
      (v.core k).reg 27 = (s.core k).reg 27 ∧ P v := by
  have hp : (s.core k).span = none := h.2.1
  have he : x.enter (s.core k) (s.core k).span.isSome = .ok () := by rw [hp]; exact enter_alone h29 h28
  have hmem : (x.after (u.core k) r none).mem = (u.core k).mem := by
    rw [after_alone]
    exact (moved_mem _ _).trans (judged_mem _ _ _)
  have hreg : ∀ n, (u.core k).reg n = (s.core k).reg n := fun n => by rw [hu]; rfl
  have hrole : ∀ n, fixedRole n = true → (x.judged (u.core k) r).reg n = (s.core k).reg n := fun n hn =>
    (judged_reg x _ hd r hn).trans (hreg n)
  refine ⟨u.setCore k fun C => x.after C r none, ?_, ?_⟩
  · rw [stream_alone h hi hd hs, perform_element he (fun e => by rw [hp] at e; exact absurd e (by decide)) hf, hp]
    rfl
  · have hv : ∀ a, (u.setCore k fun C => x.after C r none).word k a = u.word k a := word_setCore u k _ hmem
    have hb : ∀ a, (u.setCore k fun C => x.after C r none).byte k a = u.byte k a := byte_setCore u k _ hmem
    have hP' := hP _ hv hb
    rw [core_setCore_same, after_alone] at hP' ⊢
    refine ⟨?_, ?_, ?_, ?_, hP' ?_ fun b hr h0 => ?_⟩
    · show (x.moved _).pc + 4 = _
      rw [moved_pc, judged_pc, hu]
    · exact (moved_dst _ _).trans (by rw [hrole 29 rfl])
    · exact (moved_src _ _).trans (by rw [hrole 28 rfl])
    · exact (moved_other _ _ (by decide) (by decide)).trans (hrole 27 rfl)
    · show (x.moved _).mem = _
      rw [moved_mem, judged_mem, hu]
    · obtain ⟨-, h28', h29'⟩ := (fixedRole_iff _).mp hd
      subst hr
      exact (moved_other _ _ h28' h29').trans (reg_set_same _ _ h0)
end

/-! ### The checks of an element (R283, R293) -/

section
variable {y : Element} {s : State} {own : List Operand} {reads writes : List Nat}

theorem reach_all {kind : AccessKind} {n : Nat} (hn : (if y.word then 8 else 1) = n) : ∀ {l : List Nat}, (∀ a ∈ l, s.reach y.core kind a n = .ok ()) →
    y.reach s kind l = .ok ()
  | [], _ => rfl
  | a :: l, h => by
    rw [Element.reach, hn, h a List.mem_cons_self]
    exact reach_all hn fun b hb => h b (List.mem_cons_of_mem _ hb)

/-- Words: each location is reached, RS is no ERR word, and what is read is held. -/
theorem check_words {rule : List (List Tag)} (hy : y.word = true) (hr : ∀ a ∈ reads, ∃ w, s.loadWord y.core a = .ok w)
    (hw : ∀ a ∈ writes, s.reach y.core .write a 8 = .ok ())
    (ho : ∀ o ∈ own, o.word.tag ≠ .empty ∧ o.word.tag.illegal = false ∧ o.word.tag ≠ .err)
    (ht : checkTags rule ((own ++ reads.map (s.memOperand y.core)).take (rule.headD []).length) = .ok ()) :
    y.check s own reads writes rule = .ok () := by
  have hmem : ∀ o ∈ own ++ reads.map (s.memOperand y.core), o.word.tag ≠ .empty ∧ o.word.tag.illegal = false := by
    intro o hm
    rcases List.mem_append.mp hm with h | h
    · exact ⟨(ho o h).1, (ho o h).2.1⟩
    · obtain ⟨a, ha, rfl⟩ := List.mem_map.mp h
      obtain ⟨w, hl⟩ := hr a ha
      obtain ⟨hg, h1, h2, hv⟩ := loadWord_iff.mp hl
      have hd : a / 8 * 8 = a := by have := (reach_iff.mp hg).1; omega
      simpa only [State.memOperand, hd, hv] using And.intro h1 h2
  have hheld : checkHeld (own ++ reads.map (s.memOperand y.core)) = .ok () := by
    refine checkHeld_ok (fun t h => ?_) fun h => ?_
    · obtain ⟨o, hm, rfl⟩ := List.mem_map.mp h
      exact (hmem o hm).2
    · obtain ⟨o, hm, he⟩ := List.mem_map.mp h
      exact (hmem o hm).1 he
  have herr : checkErr own = .ok () := checkErr_ok fun h => by
    obtain ⟨o, hm, he⟩ := List.mem_map.mp h
    exact (ho o hm).2.2 he
  have h1 : y.reach s .read reads = .ok () := reach_all (by rw [hy]; rfl) fun a ha => (loadWord_iff.mp (hr a ha).choose_spec).1
  have h2 : y.reach s .write writes = .ok () := reach_all (by rw [hy]; rfl) hw
  simp only [Element.check, h1, h2, hy, if_true, List.append_nil, Except.bind, hheld, herr, ht]

/-- Bytes: RS and every word of theirs is BITS; one that is stored into may be EMPTY. -/
theorem check_bytes {rule : List (List Tag)} (hy : y.word = false) (hr : ∀ a ∈ reads, ∃ b, s.loadByte y.core a = .ok b)
    (hw : ∀ a ∈ writes, s.mayStoreByte y.core a = .ok ()) (ho : ∀ o ∈ own, o.word.tag = .bits) : y.check s own reads writes rule = .ok () := by
  have h1 : y.reach s .read reads = .ok () := reach_all (by rw [hy]; rfl) fun a ha => (loadByte_iff.mp (hr a ha).choose_spec).1
  have h2 : y.reach s .write writes = .ok () := reach_all (by rw [hy]; rfl) fun a ha => (mayStoreByte_iff.mp (hw a ha)).1
  have hmem : ∀ o ∈ own ++ (reads ++ writes.filter fun a => !reads.contains a && (s.word y.core (a / 8 * 8)).tag != .empty).map (s.memOperand y.core),
      o.word.tag = .bits := by
    intro o hm
    rcases List.mem_append.mp hm with h | h
    · exact ho o h
    · obtain ⟨a, ha, rfl⟩ := List.mem_map.mp h
      rcases List.mem_append.mp ha with ha | ha
      · exact (loadByte_iff.mp (hr a ha).choose_spec).2.1
      · obtain ⟨ha, hn⟩ := List.mem_filter.mp ha
        have hne : (s.word y.core (a / 8 * 8)).tag ≠ .empty := bne_iff_ne.mp (Bool.and_eq_true_iff.mp hn).2
        exact (mayStoreByte_iff.mp (hw a ha)).2.resolve_right hne
  generalize hl : own ++ (reads ++ writes.filter fun a => !reads.contains a && (s.word y.core (a / 8 * 8)).tag != .empty).map (s.memOperand y.core) = l at hmem
  have hheld : checkHeld l = .ok () := by
    refine checkHeld_ok (fun t h => ?_) fun h => ?_
    · obtain ⟨o, hm, rfl⟩ := List.mem_map.mp h
      rw [hmem o hm]
      rfl
    · obtain ⟨o, hm, he⟩ := List.mem_map.mp h
      exact absurd ((hmem o hm).symm.trans he) (by decide)
  have herr : checkErr own = .ok () := checkErr_ok fun h => by
    obtain ⟨o, hm, he⟩ := List.mem_map.mp h
    exact absurd ((ho o hm).symm.trans he) (by decide)
  have htags : checkTags [List.replicate l.length .bits] l = .ok () := by
    refine checkTags_ok l _ (List.mem_singleton.mpr ?_)
    refine List.eq_replicate_iff.mpr ⟨List.length_map _, fun t h => ?_⟩
    obtain ⟨o, hm, rfl⟩ := List.mem_map.mp h
    exact hmem o hm
  simp only [Element.check, h1, h2, hy, Bool.false_eq_true, if_false, Except.bind, hl, hheld, herr, htags]
end

/-! ### What an element gives (R293 Table 11-9) -/

section
variable {y : Element} {s : State} {v w : KWord} {b c : Byte}

/-- What a word that loads is. -/
theorem word_of_load {k a : Nat} (h : s.loadWord k a = .ok v) : s.word k a = v := (loadWord_iff.mp h).2.2.2

theorem byte_of_load {k a : Nat} (h : s.loadByte k a = .ok b) : s.byte k a = b := (loadByte_iff.mp h).2.2

theorem write_of_mayStore {k a p : Nat} (h : s.mayStore k a p v = .ok ()) : ∀ x ∈ [a], s.reach k .write x 8 = .ok () := by
  intro x hx
  rw [List.mem_singleton.mp hx]
  exact (mayStore_iff.mp h).1

theorem all_one {α : Type} {P : α → Prop} {a : α} (h : P a) : ∀ x ∈ [a], P x := by
  intro x hx
  rwa [List.mem_singleton.mp hx]

theorem all_two {α : Type} {P : α → Prop} {a b : α} (h : P a) (h' : P b) : ∀ x ∈ [a, b], P x := by
  intro x hx
  rcases List.mem_cons.mp hx with rfl | hx
  · exact h
  · exact all_one h' x hx

theorem copy_word (hy : y.word = true) (hl : s.loadWord y.core y.src = .ok v) (hm : s.mayStore y.core y.dst 4 v = .ok ()) :
    y.copy s = .ok (s.setWord y.core y.dst v, none) := by
  have hc : y.check s [] [y.src] [y.dst] [] = .ok () := check_words hy (all_one ⟨v, hl⟩) (write_of_mayStore hm) (by simp) rfl
  simp only [Element.copy, hc, hy, if_true, Except.bind, Except.map, word_of_load hl, hm]

theorem copy_byte (hy : y.word = false) (hl : s.loadByte y.core y.src = .ok b) (hm : s.mayStoreByte y.core y.dst = .ok ()) :
    y.copy s = .ok (s.setByte y.core y.dst b, none) := by
  have hc : y.check s [] [y.src] [y.dst] [] = .ok () := check_bytes hy (all_one ⟨b, hl⟩) (all_one hm) (by simp)
  simp only [Element.copy, hc, hy, Bool.false_eq_true, if_false, Except.bind, byte_of_load hl]

theorem fill_word (hy : y.word = true) (hv : y.rs.tag ∉ [Tag.empty, .err]) (hi : y.rs.tag.illegal = false) (hm : s.mayStore y.core y.dst 1 y.rs = .ok ()) :
    y.fill false s = .ok (s.setWord y.core y.dst y.rs, none) := by
  obtain ⟨h1, h2⟩ : y.rs.tag ≠ .empty ∧ y.rs.tag ≠ .err := by simpa using hv
  have hc : y.check s [y.own] [] [y.dst] [] = .ok () := check_words hy (by simp) (write_of_mayStore hm) (all_one ⟨h1, hi, h2⟩) rfl
  simp only [Element.fill, hc, hy, Bool.false_eq_true, if_false, if_true, Except.bind, Except.map, hm]

theorem fill_empty (hm : s.mayStore y.core y.dst 1 {} = .ok ()) : y.fill true s = .ok (s.setWord y.core y.dst {}, none) := by
  simp only [Element.fill, if_true, Except.map, hm]

theorem fill_byte (hy : y.word = false) (hv : y.rs.tag = .bits) (hm : s.mayStoreByte y.core y.dst = .ok ()) :
    y.fill false s = .ok (s.setByte y.core y.dst (y.rs.val.truncate 8), none) := by
  have hc : y.check s [y.own] [] [y.dst] [] = .ok () := check_bytes hy (by simp) (all_one hm) (all_one hv)
  simp only [Element.fill, hc, hy, Bool.false_eq_true, if_false, Except.bind]

theorem same_word (hy : y.word = true) (h1 : s.loadWord y.core y.src = .ok v) (h2 : s.loadWord y.core y.dst = .ok w) :
    y.same s = .ok (s, some (decide (v = w))) := by
  have hc : y.check s [] [y.src, y.dst] [] [] = .ok () := check_words hy (all_two ⟨v, h1⟩ ⟨w, h2⟩) (by simp) (by simp) rfl
  simp only [Element.same, hc, hy, if_true, Except.map, word_of_load h1, word_of_load h2]

theorem same_byte (hy : y.word = false) (h1 : s.loadByte y.core y.src = .ok b) (h2 : s.loadByte y.core y.dst = .ok c) :
    y.same s = .ok (s, some (decide (b = c))) := by
  have hc : y.check s [] [y.src, y.dst] [] [] = .ok () := check_bytes hy (all_two ⟨b, h1⟩ ⟨c, h2⟩) (by simp) (by simp)
  simp only [Element.same, hc, hy, Bool.false_eq_true, if_false, Except.map, byte_of_load h1, byte_of_load h2]

theorem find_word (hy : y.word = true) (hv : y.rs.tag ∈ [Tag.bits, .int, .bool, .addr, .handle, .time]) (h : s.loadWord y.core y.dst = .ok w) :
    y.find s = .ok (s, some (decide (w = y.rs))) := by
  have ho : y.rs.tag ≠ .empty ∧ y.rs.tag.illegal = false ∧ y.rs.tag ≠ .err := by
    generalize y.rs.tag = t at hv
    revert t
    decide
  have ht : checkTags [[.bits], [.int], [.bool], [.addr], [.handle], [.time]] [y.own] = .ok () := by
    refine checkTags_ok _ _ ?_
    simp only [List.mem_cons, List.not_mem_nil, or_false, List.map_cons, List.map_nil, Element.own, List.cons.injEq, and_true] at hv ⊢
    exact hv
  have hc : y.check s [y.own] [y.dst] [] [[.bits], [.int], [.bool], [.addr], [.handle], [.time]] = .ok () :=
    check_words hy (all_one ⟨w, h⟩) (by simp) (all_one ho) ht
  simp only [Element.find, hc, hy, if_true, Except.map, word_of_load h]

theorem find_byte (hy : y.word = false) (hv : y.rs.tag = .bits) (h : s.loadByte y.core y.dst = .ok b) :
    y.find s = .ok (s, some (decide (b.zeroExtend 64 = y.rs.val))) := by
  have hc : y.check s [y.own] [y.dst] [] [[.bits], [.int], [.bool], [.addr], [.handle], [.time]] = .ok () :=
    check_bytes hy (all_one ⟨b, h⟩) (by simp) (all_one hv)
  simp only [Element.find, hc, hy, Bool.false_eq_true, if_false, Except.map, byte_of_load h]

theorem xor_word (hy : y.word = true) (h1 : s.loadWord y.core y.src = .ok v) (h2 : s.loadWord y.core y.dst = .ok w) (hv : v.tag = .bits) (hw : w.tag = .bits)
    (hm : s.mayStore y.core y.dst 4 w = .ok ()) : y.xor s = .ok (s.setWord y.core y.dst (kBits (v.val ^^^ w.val)), none) := by
  have hd : ∀ {a : Nat} {u : KWord}, s.loadWord y.core a = .ok u → (s.memOperand y.core a).word = u := fun {a u} h => by
    have := (reach_iff.mp (loadWord_iff.mp h).1).1
    rw [State.memOperand, show a / 8 * 8 = a by omega]
    exact word_of_load h
  have ht : checkTags [[.bits, .bits]] [s.memOperand y.core y.src, s.memOperand y.core y.dst] = .ok () := by
    refine checkTags_ok _ _ ?_
    simp [hd h1, hd h2, hv, hw]
  have hc : y.check s [] [y.src, y.dst] [y.dst] [[.bits, .bits]] = .ok () :=
    check_words hy (all_two ⟨v, h1⟩ ⟨w, h2⟩) (write_of_mayStore hm) (by simp) ht
  simp only [Element.xor, hc, hy, if_true, Except.map, word_of_load h1, word_of_load h2]

theorem xor_byte (hy : y.word = false) (h1 : s.loadByte y.core y.src = .ok b) (h2 : s.loadByte y.core y.dst = .ok c)
    (hm : s.mayStoreByte y.core y.dst = .ok ()) : y.xor s = .ok (s.setByte y.core y.dst (b ^^^ c), none) := by
  have hc : y.check s [] [y.src, y.dst] [y.dst] [[.bits, .bits]] = .ok () := check_bytes hy (all_two ⟨b, h1⟩ ⟨c, h2⟩) (all_one hm) (by simp)
  simp only [Element.xor, hc, hy, Bool.false_eq_true, if_false, Except.map, byte_of_load h1, byte_of_load h2]

theorem exchange_word (hy : y.word = true) (h1 : s.loadWord y.core y.src = .ok v) (h2 : s.loadWord y.core y.dst = .ok w)
    (hm : s.mayStore y.core y.src 4 w = .ok ()) (hm' : s.mayStore y.core y.dst 4 v = .ok ()) :
    y.exchange s = .ok ((s.setWord y.core y.src w).setWord y.core y.dst v, none) := by
  have hc : y.check s [] [y.src, y.dst] [y.src, y.dst] [] = .ok () :=
    check_words hy (all_two ⟨v, h1⟩ ⟨w, h2⟩) (all_two (mayStore_iff.mp hm).1 (mayStore_iff.mp hm').1) (by simp) rfl
  simp only [Element.exchange, hc, hy, if_true, Except.bind, Except.map, word_of_load h1, word_of_load h2, hm, hm']

theorem exchange_byte (hy : y.word = false) (h1 : s.loadByte y.core y.src = .ok b) (h2 : s.loadByte y.core y.dst = .ok c)
    (hm : s.mayStoreByte y.core y.src = .ok ()) (hm' : s.mayStoreByte y.core y.dst = .ok ()) :
    y.exchange s = .ok ((s.setByte y.core y.src c).setByte y.core y.dst b, none) := by
  have hc : y.check s [] [y.src, y.dst] [y.src, y.dst] [] = .ok () := check_bytes hy (all_two ⟨b, h1⟩ ⟨c, h2⟩) (all_two hm hm') (by simp)
  simp only [Element.exchange, hc, hy, Bool.false_eq_true, if_false, Except.bind, byte_of_load h1, byte_of_load h2]

/-- Two words exchanged read as exchanged, also where they are one. -/
theorem exchanged_words {k a d : Nat} (ha : s.loadWord k a = .ok v) (hd : s.loadWord k d = .ok w) (hm : s.mayStore k a 4 w = .ok ())
    (hm' : s.mayStore k d 4 v = .ok ()) :
    ((s.setWord k a w).setWord k d v).word k a = w ∧ ((s.setWord k a w).setWord k d v).word k d = v := by
  have hv := word_setWord_same (s.setWord k a w) k (mayStore_iff.mp hm').2
  refine ⟨?_, hv⟩
  by_cases h : d = a
  · subst h
    exact hv.trans ((word_of_load ha).symm.trans (word_of_load hd))
  · rw [word_setWord_other _ _ _ (wordPlace_of_reach (mayStore_iff.mp hm').1) (wordPlace_of_reach (mayStore_iff.mp hm).1) h]
    exact word_setWord_same s k (mayStore_iff.mp hm).2

theorem exchanged_bytes {k a d : Nat} (ha : s.loadByte k a = .ok b) (hd : s.loadByte k d = .ok c) :
    ((s.setByte k a c).setByte k d b).byte k a = c ∧ ((s.setByte k a c).setByte k d b).byte k d = b := by
  have hv := byte_setByte_same (s.setByte k a c) k d b
  refine ⟨?_, hv⟩
  by_cases h : d = a
  · subst h
    exact hv.trans ((byte_of_load ha).symm.trans (byte_of_load hd))
  · refine Eq.trans ?_ (byte_setByte_same s k a c)
    by_cases hw : a / 8 = d / 8
    · refine byte_setByte_word _ _ _ hw (Ne.symm h) ?_
      rw [← hw, word_setByte]
      rfl
    · exact byte_setByte_other _ _ _ (wordPlace_of_byte (loadByte_iff.mp hd).1) (wordPlace_of_byte (loadByte_iff.mp ha).1) hw
end

/-! ### Runs under a SPAN (R292, R294) -/

section
variable {s : State} {k : Nat} {x : StreamInsn} {f : Element → State → ElementResult} {stop : Nat}

/-- Under a SPAN that suits it, an instruction goes on with its run. -/
theorem stream_prefixed (hw : s.coreWaits k = false) (hp : (s.core k).span = some stop) (hf : s.fetchInsn k ((s.core k).pc.toNat + 4) x.encoded = .ok true)
    (hb : x.badSpan stop = false) (hi : x.illegal = false) : s.stream k x f = s.complete k (x.perform k f s) := by
  unfold State.stream
  simp only [hw, hp, Option.isSome_some, if_true, hf, hb, hi, Bool.false_eq_true, if_false]

/-- A run with nothing left ends. -/
theorem perform_ended (he : x.enter (s.core k) true = .ok ()) (hp : (s.core k).span.isSome = true) (hn : ((s.core k).reg wCnt).val = 0) :
    x.perform k f s = .ok (s.setCore k fun K => { K with pc := K.pc + 8, span := none }) := by
  unfold StreamInsn.perform
  simp only [hp, he, Except.bind, hn, decide_true, Bool.and_true, if_true]

/-- A comparison in a run: the element that STOP names ends it, and any other is counted. -/
theorem after_compared (K : Core) (b : Bool) (hf : fixedRole x.rd = false) (h0 : x.rd ≠ 0) (hs : x.source = true) :
    let L := x.after K (some b) (some stop)
    L.reg x.rd = kBool b ∧
      (if (stop = 1 ∧ b = false) ∨ (stop = 2 ∧ b = true) then
        L.reg 27 = K.reg 27 ∧ L.reg 28 = K.reg 28 ∧ L.reg 29 = K.reg 29 ∧ L.pc = K.pc + 8 ∧ L.span = none
      else
        L.reg 27 = kInt ((K.reg 27).val - 1) ∧ L.reg 28 = kAddr ((K.reg 28).val + x.size) ∧ L.reg 29 = kAddr ((K.reg 29).val + x.size) ∧
          (if (K.reg 27).val - 1 = 0 then L.pc = K.pc + 8 ∧ L.span = none else L.pc = K.pc ∧ L.span = K.span)) := by
  obtain ⟨h27, h28, h29⟩ := (fixedRole_iff _).mp hf
  have hrd : (x.judged K (some b)).reg x.rd = kBool b := reg_set_same _ _ h0
  have hrole := fun (n : BitVec 5) (hn : fixedRole n = true) => judged_reg x K hf (some b) hn
  have hpc := judged_pc x K (some b)
  have hspan := judged_span x K (some b)
  intro L
  simp only [L, after_prefixed, Option.some.injEq]
  generalize x.judged K (some b) = J at hrd hrole hpc hspan
  split
  · exact ⟨hrd, hrole 27 rfl, hrole 28 rfl, hrole 29 rfl, rfl, rfl⟩
  · have hM : ∀ n, ((x.counted J).reg n = ((x.moved J).set wCnt (kInt ((J.reg wCnt).val - 1))).reg n) := fun n => by
      unfold StreamInsn.counted
      split <;> rfl
    have hother := fun n (h : n ≠ 27) => (hM n).trans (reg_set_other (x.moved J) (kInt ((J.reg wCnt).val - 1)) h)
    refine ⟨?_, ?_, ?_, ?_, ?_⟩
    · rw [hother _ h27, moved_other x J h28 h29, hrd]
    · have hc : J.reg wCnt = K.reg 27 := hrole 27 rfl
      exact (hM 27).trans ((reg_set_same _ (r := wCnt) _ (by decide)).trans (by rw [hc]))
    · rw [hother 28 (by decide), moved_src, hs, if_pos rfl, hrole 28 rfl]
    · rw [hother 29 (by decide), moved_dst, hrole 29 rfl]
    · unfold StreamInsn.counted
      rw [show J.reg wCnt = K.reg 27 from hrole 27 rfl]
      split
      · exact ⟨by rw [hpc], rfl⟩
      · exact ⟨by rw [pc_set, moved_pc, hpc], by rw [span_set, moved_span, hspan]⟩
end

/-- SPAN without a SPAN before it marks its core (R295). -/
theorem execSpan_marks {s : State} {k : Nat} {stop : BitVec 2} (h : s.Executes k (wordP 0x6F stop)) (hs : stop ≠ 3) :
    execSpan k stop s = .next (s.setCore k fun K => { K with span := some stop.toNat }) := by
  obtain ⟨hw, hp, hf⟩ := h
  unfold execSpan
  simp only [hw, hp, hs, Option.isSome_none, Bool.false_eq_true, if_false, Nat.add_zero]
  rw [hf]

/-! ### The rows (R282, R292, R293) -/

section
variable {s : State} {k : Nat} {rd rs : BitVec 5} {word e : Bool}

/-- The fields of each row. -/
def scopyInsn (rd rs : BitVec 5) (word e : Bool) : StreamInsn :=
  { op := 0x68, rd := rd, rs := rs, word := word, e := e, source := true, compares := false, names := false }

def sfillInsn (rd rs : BitVec 5) (word e : Bool) : StreamInsn :=
  { op := 0x69, rd := rd, rs := rs, word := word, e := e, source := false, compares := false, names := true }

def scmpInsn (rd rs : BitVec 5) (word e : Bool) : StreamInsn :=
  { op := 0x6A, rd := rd, rs := rs, word := word, e := e, source := true, compares := true, names := false }

def sfindInsn (rd rs : BitVec 5) (word e : Bool) : StreamInsn :=
  { op := 0x6B, rd := rd, rs := rs, word := word, e := e, source := false, compares := true, names := true }

def sxorInsn (rd rs : BitVec 5) (word e : Bool) : StreamInsn :=
  { op := 0x6C, rd := rd, rs := rs, word := word, e := e, source := true, compares := false, names := false }

def sexchInsn (rd rs : BitVec 5) (word e : Bool) : StreamInsn :=
  { op := 0x6D, rd := rd, rs := rs, word := word, e := e, source := true, compares := false, names := false }

/-- Fields that are an instruction: RD where there is a comparison, RS where it is named, and no E. -/
theorem legal_plain {x : StreamInsn} (hd : (x.rd != 0) = x.compares) (hs : x.names = true ∨ x.rs = 0) (he : x.e = false) : x.illegal = false := by
  have hr : (!x.names && x.rs != 0) = false := by rcases hs with h | h <;> rw [h] <;> simp
  rw [StreamInsn.illegal, hd, hr, he, bne_self_eq_false]
  rfl

theorem illegal_iff (x : StreamInsn) : x.illegal = true ↔
    ((x.rd != 0) ≠ x.compares ∨ x.names = false ∧ x.rs ≠ 0) ∨ x.e = true ∧ ¬ (x.op = 0x69 ∧ x.word = true ∧ x.rs = 0) := by
  simp only [StreamInsn.illegal, Bool.or_eq_true, Bool.and_eq_true, bne_iff_ne, Bool.not_eq_true', ne_eq, decide_eq_true_eq, ← Bool.not_eq_true, and_assoc]

/-- Fields that are none: RD without a comparison, or none for one; RS where it is not named; E where it means nothing; a fixed register. -/
theorem refused_of {x : StreamInsn} (h : (x.rd != 0) ≠ x.compares ∨ (x.names = false ∧ x.rs ≠ 0) ∨
    (x.e = true ∧ ¬ (x.op = 0x69 ∧ x.word = true ∧ x.rs = 0)) ∨ fixedRole x.rd = true ∨ fixedRole x.rs = true) :
    (x.illegal || fixedRole x.rd || fixedRole x.rs) = true := by
  simp only [Bool.or_eq_true, illegal_iff]
  tauto

theorem rd_without {r : BitVec 5} (h : r ≠ 0) : (r != 0) ≠ false := by simpa using h

theorem rd_missing {r : BitVec 5} (h : r = 0) : (r != 0) ≠ true := by simpa using h

theorem fixedRole_of_free {r : BitVec 5} (h : r ≠ 27 ∧ r ≠ 28 ∧ r ≠ 29) : fixedRole r = false := (fixedRole_iff r).mpr h

theorem fixedRole_of_not_free {r : BitVec 5} (h : ¬ (r ≠ 27 ∧ r ≠ 28 ∧ r ≠ 29)) : fixedRole r = true := by
  by_contra hn
  exact h ((fixedRole_iff r).mp (Bool.not_eq_true _ ▸ hn))
end

/-- Settles O38: each row performs the element of its instruction, or traps on fields that are none; under a SPAN SCMP counts its run. -/
theorem streamsMoveElements : Obligations.StreamsMoveElements := by
  unfold Obligations.StreamsMoveElements
  refine ⟨fun s k rd rs word => ?_, fun s k rd stop => ?_⟩
  · intro K src dst size free runs
    refine ⟨?_, ?_, ?_, ?_, ?_, ?_, ?_, ?_, ?_, ?_, ?_, ?_, ?_, ?_⟩
    · rintro w rfl hl hm h h29 h28
      obtain ⟨m, hu⟩ := core_setWord s k dst w
      exact stream_runs (x := scopyInsn 0 0 true false) h rfl rfl rfl h29 h28 (copy_word rfl hl hm) hu
        fun v hv _ _ _ => (hv _).trans (word_setWord_same s k (mayStore_iff.mp hm).2)
    · rintro b rfl hl hm h h29 h28
      obtain ⟨m, hu⟩ := core_setByte s k dst b
      exact stream_runs (x := scopyInsn 0 0 false false) h rfl rfl rfl h29 h28 (copy_byte rfl hl hm) hu
        fun v _ hv _ _ => (hv _).trans (byte_setByte_same s k dst b)
    · rintro rfl hf ht hi hm h h29 h28
      obtain ⟨m, hu⟩ := core_setWord s k dst (K.reg rs)
      exact stream_runs (x := sfillInsn 0 rs true false) h rfl rfl (fixedRole_of_free hf) h29 h28 (fill_word rfl ht hi hm) hu
        fun v hv _ _ _ => (hv _).trans (word_setWord_same s k (mayStore_iff.mp hm).2)
    · rintro rfl hm h h29 h28
      obtain ⟨m, hu⟩ := core_setWord s k dst {}
      exact stream_runs (x := sfillInsn 0 0 true true) h rfl rfl rfl h29 h28 (fill_empty hm) hu
        fun v hv _ _ _ => congrArg KWord.tag ((hv _).trans (word_setWord_same s k (mayStore_iff.mp hm).2))
    · rintro rfl hf ht hm h h29 h28
      obtain ⟨m, hu⟩ := core_setByte s k dst ((K.reg rs).val.truncate 8)
      exact stream_runs (x := sfillInsn 0 rs false false) h rfl rfl (fixedRole_of_free hf) h29 h28 (fill_byte rfl ht hm) hu
        fun v _ hv _ _ => (hv _).trans (byte_setByte_same s k dst _)
    · rintro a b rfl h0 hf hl hl' h h29 h28
      exact stream_runs (x := scmpInsn rd 0 true false) h (legal_plain (bne_iff_ne.mpr h0) (.inr rfl) rfl) (fixedRole_of_free hf) rfl h29 h28
        (same_word rfl hl hl') (m := K.mem) rfl fun v _ _ hm hr => ⟨hr _ rfl h0, hm⟩
    · rintro a b rfl h0 hf hl hl' h h29 h28
      exact stream_runs (x := scmpInsn rd 0 false false) h (legal_plain (bne_iff_ne.mpr h0) (.inr rfl) rfl) (fixedRole_of_free hf) rfl h29 h28
        (same_byte rfl hl hl') (m := K.mem) rfl fun v _ _ hm hr => ⟨hr _ rfl h0, hm⟩
    · rintro b rfl h0 hf hf' ht hl h h29 h28
      exact stream_runs (x := sfindInsn rd rs true false) h (legal_plain (bne_iff_ne.mpr h0) (.inl rfl) rfl) (fixedRole_of_free hf) (fixedRole_of_free hf') h29
        h28 (find_word rfl ht hl) (m := K.mem) rfl fun v _ _ _ hr => hr _ rfl h0
    · rintro b rfl h0 hf hf' ht hl h h29 h28
      exact stream_runs (x := sfindInsn rd rs false false) h (legal_plain (bne_iff_ne.mpr h0) (.inl rfl) rfl) (fixedRole_of_free hf) (fixedRole_of_free hf') h29
        h28 (find_byte rfl ht hl) (m := K.mem) rfl fun v _ _ _ hr => hr _ rfl h0
    · rintro a b rfl hl hl' ha hb hm h h29 h28
      obtain ⟨m, hu⟩ := core_setWord s k dst (kBits (a.val ^^^ b.val))
      exact stream_runs (x := sxorInsn 0 0 true false) h rfl rfl rfl h29 h28 (xor_word rfl hl hl' ha hb hm) hu
        fun v hv _ _ _ => (hv _).trans (word_setWord_same s k (.inr rfl))
    · rintro a b rfl hl hl' hm h h29 h28
      obtain ⟨m, hu⟩ := core_setByte s k dst (a ^^^ b)
      exact stream_runs (x := sxorInsn 0 0 false false) h rfl rfl rfl h29 h28 (xor_byte rfl hl hl' hm) hu
        fun v _ hv _ _ => (hv _).trans (byte_setByte_same s k dst _)
    · rintro a b rfl hl hl' hm hm' h h29 h28
      obtain ⟨m, hu⟩ := core_setWord s k src b
      obtain ⟨n, hu'⟩ := core_setWord (s.setWord k src b) k dst a
      rw [hu] at hu'
      obtain ⟨h1, h2⟩ := exchanged_words hl hl' hm hm'
      exact stream_runs (x := sexchInsn 0 0 true false) h rfl rfl rfl h29 h28 (exchange_word rfl hl hl' hm hm') hu'
        fun v hv _ _ _ => ⟨(hv _).trans h1, (hv _).trans h2⟩
    · rintro a b rfl hl hl' hm hm' h h29 h28
      obtain ⟨m, hu⟩ := core_setByte s k src b
      obtain ⟨n, hu'⟩ := core_setByte (s.setByte k src b) k dst a
      rw [hu] at hu'
      obtain ⟨h1, h2⟩ := exchanged_bytes hl hl'
      exact stream_runs (x := sexchInsn 0 0 false false) h rfl rfl rfl h29 h28 (exchange_byte rfl hl hl' hm hm') hu'
        fun v _ hv _ _ => ⟨(hv _).trans h1, (hv _).trans h2⟩
    · intro e trapped
      have moves : rd ≠ 0 ∨ rs ≠ 0 ∨ e = true → ∀ op, op ≠ 0x69 → (rd != 0) ≠ false ∨ ((false = false) ∧ rs ≠ 0) ∨
          (e = true ∧ ¬ (op = 0x69 ∧ word = true ∧ rs = 0)) ∨ fixedRole rd = true ∨ fixedRole rs = true := by
        rintro (h | h | h) op hop
        · exact .inl (rd_without h)
        · exact .inr (.inl ⟨rfl, h⟩)
        · exact .inr (.inr (.inl ⟨h, fun hx => hop hx.1⟩))
      refine ⟨fun hc => ⟨?_, ?_, ?_⟩, fun hc h => ?_, fun hc h => ?_, fun hc h => ?_⟩
      · exact fun h => stream_illegal (x := scopyInsn rd rs word e) h (refused_of (moves hc 0x68 (by decide)))
      · exact fun h => stream_illegal (x := sxorInsn rd rs word e) h (refused_of (moves hc 0x6C (by decide)))
      · exact fun h => stream_illegal (x := sexchInsn rd rs word e) h (refused_of (moves hc 0x6D (by decide)))
      · refine stream_illegal (x := sfillInsn rd rs word e) h (refused_of ?_)
        rcases hc with h | h | ⟨he, hw⟩
        · exact .inl (rd_without h)
        · exact .inr (.inr (.inr (.inr (fixedRole_of_not_free h))))
        · refine .inr (.inr (.inl ⟨he, fun hx => ?_⟩))
          rcases hw with hw | hw
          · exact absurd (hw.symm.trans hx.2.1) (by decide)
          · exact hw hx.2.2
      · refine stream_illegal (x := scmpInsn rd rs word e) h (refused_of ?_)
        rcases hc with h | h | h | h
        · exact .inl (rd_missing h)
        · exact .inr (.inr (.inr (.inl (fixedRole_of_not_free h))))
        · exact .inr (.inl ⟨rfl, h⟩)
        · exact .inr (.inr (.inl ⟨h, fun hx => absurd (show (0x6A : Nat) = 0x69 from hx.1) (by decide)⟩))
      · refine stream_illegal (x := sfindInsn rd rs word e) h (refused_of ?_)
        rcases hc with h | h | h | h
        · exact .inl (rd_missing h)
        · exact .inr (.inr (.inr (.inl (fixedRole_of_not_free h))))
        · exact .inr (.inr (.inr (.inr (fixedRole_of_not_free h))))
        · exact .inr (.inr (.inl ⟨h, fun hx => absurd (show (0x6B : Nat) = 0x69 from hx.1) (by decide)⟩))
  · intro K n
    refine ⟨fun h hs => ?_, fun a b hw hp hs hf h0 h27 h28 h29 hc hn hsrc hdst ha hb => ?_⟩
    · exact execSpan_marks h hs
    · have hrd := fixedRole_of_free ⟨h27, h28, h29⟩
      have hi : (scmpInsn rd 0 true false).illegal = false := legal_plain (bne_iff_ne.mpr h0) (.inr rfl) rfl
      have hbad : (scmpInsn rd 0 true false).badSpan stop.toNat = false := by
        rw [StreamInsn.badSpan, show fixedRole (scmpInsn rd 0 true false).rd = false from hrd]
        exact Bool.and_false _
      have hrun := stream_prefixed (x := scmpInsn rd 0 true false) (f := Element.same) hw hp hf hbad hi
      have he : (scmpInsn rd 0 true false).enter (s.core k) true = .ok () := enter_prefixed hc hn hdst hsrc rfl
      have hpre : (s.core k).span.isSome = true := by rw [hp]; rfl
      refine ⟨fun hz => ?_, fun hz => ?_⟩
      · refine hrun.trans ?_
        rw [perform_ended he hpre hz]
        rfl
      · refine ⟨s.setCore k fun C => (scmpInsn rd 0 true false).after C (some (decide (a = b))) (some stop.toNat), hrun.trans ?_, ?_⟩
        · rw [perform_element (hpre ▸ he) (fun _ => hz) (same_word rfl ha hb), hp]
          rfl
        · rw [core_setCore_same]
          obtain ⟨hreg, hrest⟩ := after_compared (x := scmpInsn rd 0 true false) (stop := stop.toNat) K (decide (a = b)) hrd h0 rfl
          have h1 : stop.toNat = 1 ↔ stop = 1 := ⟨fun e => BitVec.eq_of_toNat_eq e, fun e => congrArg BitVec.toNat e⟩
          have h2 : stop.toNat = 2 ↔ stop = 2 := ⟨fun e => BitVec.eq_of_toNat_eq e, fun e => congrArg BitVec.toNat e⟩
          have hK : K.span = some stop.toNat := hp
          simp only [decide_eq_false_iff_not, decide_eq_true_eq, sub_eq_zero, h1, h2, hK] at hrest
          exact ⟨hreg, hrest⟩

end Sys2Proof.Machine
end

section
/-! PROOF. A state in which the statement of engine calls fails (O41). -/

namespace Sys2Proof.Machine

/-- Core 0 waits by EWAIT for ticket 0 while the job in slot 0 is one that Efori issued for a RANDOM_GENERATE of its own. -/
def foreignTicket : State :=
  { readyModule with
    cores := [(0, { regs := [(3, kBits 0)], jobs := [drawChain] })]
    doms := [(0, { cmds := [runningCmd 0x1801 0] })] }

theorem foreignTicket_executes : foreignTicket.Executes 0 (wordR 0x84 1 3 0 0 0) := ⟨by decide +kernel, rfl, by decide +kernel⟩

/-- No ticket of the core names the job, since no instruction issued it: EWAIT traps. -/
theorem execEwait_foreignTicket : nextHas (fun t => (t.core 0).inTrap) (exec (.ewait 0 1 3) foreignTicket) = true := by decide +kernel

/-- Refutes O41: in `foreignTicket` EWAIT does not wait. The statement takes the first job whose slot and generation make the ticket, one of Efori's too. -/
theorem not_engineCallsAct : ¬ Obligations.EngineCallsAct := by
  unfold Obligations.EngineCallsAct
  intro h
  obtain ⟨_, _, _, hewait, _⟩ := h foreignTicket 0 1 3
  obtain ⟨hwaits, _⟩ := hewait drawChain foreignTicket_executes rfl (by decide +kernel)
  have ht : (foreignTicket.core 0).inTrap = true := nextHas_next execEwait_foreignTicket (hwaits rfl)
  exact absurd ht (by decide +kernel)

end Sys2Proof.Machine
end

section
/-!
PROOF. What entries of the trail, messages and events leave of the state, and the TAP and the debug master (O60).
-/

namespace Sys2Proof.Machine

/-! ### Notes: entries, messages and events (R411, R424, R456) -/

/-- The state without what notes change: the trail, the events, the free values, the messages on their way and their vectors. -/
def State.silent (s : State) : State :=
  { s with free := 0, trail := {}, events := {}, host := { s.host with sent := [], waiting := [], vectors := [] }, guy := { s.guy with held := [] } }

section
variable (s : State)

@[simp] theorem silent_log (code origin severity : Nat) (data : Bytes) : (s.log code origin severity data).silent = s.silent := by
  unfold State.log State.trailAs
  dsimp only
  (repeat' split) <;> rfl

@[simp] theorem silent_message (v : Nat) (now : Bool) : (s.message v now).silent = s.silent := by
  unfold State.message
  dsimp only
  (repeat' split) <;> rfl

@[simp] theorem silent_eventEdge (source : Nat) : (s.eventEdge source).silent = s.silent := by
  unfold State.eventEdge
  dsimp only
  split <;> simp

@[simp] theorem silent_raise (source : Nat) : (s.raise source).silent = s.silent := by
  unfold State.raise
  split
  · rfl
  · rw [silent_eventEdge]
    rfl

@[simp] theorem host_log (code origin severity : Nat) (data : Bytes) : (s.log code origin severity data).host = s.host := by
  unfold State.log State.trailAs
  dsimp only
  (repeat' split) <;> rfl

@[simp] theorem guy_log (code origin severity : Nat) (data : Bytes) : (s.log code origin severity data).guy = s.guy := by
  unfold State.log State.trailAs
  dsimp only
  (repeat' split) <;> rfl

/-- A message goes to the host at once, or elsewhere. -/
theorem sent_message (v : Nat) (now : Bool) : ∃ l, (s.message v now).host.sent = s.host.sent ++ l ∧ l.length ≤ 1 := by
  have none : ∀ t : State, t.host.sent = s.host.sent → ∃ l, t.host.sent = s.host.sent ++ l ∧ l.length ≤ 1 := fun t h =>
    ⟨[], by rw [h, List.append_nil], by decide⟩
  unfold State.message
  dsimp only
  repeat' split
  · exact none _ rfl
  · exact none _ rfl
  · exact none _ rfl
  · exact none _ rfl
  · exact ⟨[_], rfl, Nat.le_refl 1⟩

theorem sent_raise (source : Nat) : ∃ l, (s.raise source).host.sent = s.host.sent ++ l ∧ l.length ≤ 1 := by
  unfold State.raise
  split
  · exact ⟨[], by rw [List.append_nil], by decide⟩
  · unfold State.eventEdge
    dsimp only
    split
    · simpa using sent_message (State.log { s with events := { s.events with latched := insertNat s.events.latched source } } 8 (originOf 0 0) notice
        (leBytes 2 source)) _ _
    · exact sent_message _ _ _

/-! ### The TAP (R407) -/

@[simp] theorem silent_shiftOut (b : Bytes) : (s.shiftOut b).silent = s.silent := rfl

@[simp] theorem silent_refusedEntry : s.refusedEntry.silent = s.silent := by
  unfold State.refusedEntry
  split
  · exact silent_log ..
  · rfl

@[simp] theorem host_refusedEntry : s.refusedEntry.host = s.host := by
  unfold State.refusedEntry
  split
  · exact host_log ..
  · rfl
end

section
variable {s : State} {ir : TapInstr} {data : Bytes}

/-- The TAP out of its reset. -/
def State.wakeTap (s : State) : State := { s with tap := { s.tap with trst := false, inReset := false } }

/-- The state once an instruction is selected, before it acts. -/
def State.selectTap (s : State) (ir : TapInstr) : State :=
  let t := { s with tap := { s.tap with ir := ir } }
  if s.life.extest && ir != .extest then t.leaveExtest else t

theorem selectTap_keeps (s : State) (ir : TapInstr) : (s.selectTap ir).host = s.host ∧ (s.selectTap ir).boot = s.boot ∧
    (s.selectTap ir).tap = { s.tap with ir := ir } := by
  unfold State.selectTap
  dsimp only
  split <;> exact ⟨rfl, rfl, rfl⟩

/-- What a selected instruction does. -/
def State.actTap (s : State) (ir : TapInstr) (data : Bytes) : State :=
  match ir with
  | .bypass => s.shiftOut data
  | .idcode => s.shiftOut (slice Config.idcode 0 4)
  | .sample => { s with free := s.free + 1 }.shiftOut (Config.free s.free data.length)
  | .preload => { s with tap := { s.tap with boundary := data } }
  | .extest => if s.boot.held then s else s.enterExtest
  | .debug => s

/-- An instruction that the level allows is selected and acts. -/
theorem execTapInstruction_allowed (hp : s.boot.powered = true) (hn : tapNeeds ir s.life.debugLevel = true) :
    execTapInstruction ir data false s = .next ((s.wakeTap.selectTap ir).actTap ir data) := by
  unfold execTapInstruction
  simp only [hp, hn, Bool.not_true, Bool.or_self, Bool.false_eq_true, if_false, if_true]
  cases ir <;> rfl

/-- BYPASS stands in for any other, after its entry. -/
theorem execTapInstruction_refused (hp : s.boot.powered = true) (hn : tapNeeds ir s.life.debugLevel = false) :
    ∃ t : State, t.host = s.host ∧ execTapInstruction ir data false s = .next ((t.selectTap .bypass).shiftOut data) := by
  refine ⟨s.wakeTap.refusedEntry, host_refusedEntry _, ?_⟩
  unfold execTapInstruction
  simp only [hp, hn, Bool.not_true, Bool.or_self, Bool.false_eq_true, if_false]
  rfl
end

/-- What an instruction that acts leaves of the TAP and the port. -/
theorem actTap_shows (s : State) (ir : TapInstr) (data : Bytes) :
    (s.actTap ir data).tap.ir = s.tap.ir ∧ (s.actTap ir data).tap.inReset = s.tap.inReset ∧ (ir = .preload → (s.actTap ir data).tap.boundary = data) ∧
      (ir = .idcode → (s.actTap ir data).host.sent = s.host.sent ++ [.tap (slice Config.idcode 0 4)]) ∧ (ir = .extest → (s.actTap ir data).boot.held = true) := by
  cases ir with
  | extest =>
    unfold State.actTap
    dsimp only
    split
    · next h => exact ⟨rfl, rfl, nofun, nofun, fun _ => h⟩
    · exact ⟨rfl, rfl, nofun, nofun, fun _ => rfl⟩
  | idcode => exact ⟨rfl, rfl, nofun, fun _ => rfl, nofun⟩
  | preload => exact ⟨rfl, rfl, fun _ => rfl, nofun, nofun⟩
  | bypass => exact ⟨rfl, rfl, nofun, nofun, nofun⟩
  | sample => exact ⟨rfl, rfl, nofun, nofun, nofun⟩
  | debug => exact ⟨rfl, rfl, nofun, nofun, nofun⟩

/-- TRST_N selects IDCODE, and EXTEST is left (R483). -/
theorem execTrstNAssert_resets (s : State) : ∃ u, execTrstNAssert s = .next u ∧ u.tap.trst = true ∧ u.tap.ir = .idcode ∧ u.life.extest = false := by
  refine ⟨_, rfl, ?_⟩
  split
  · exact ⟨rfl, rfl, rfl⟩
  · next h => exact ⟨rfl, rfl, Bool.eq_false_of_not_eq_true h⟩

/-! ### The debug master (R313) -/

section
variable {s : State} {x : DebugTarget}

theorem execDebugAccess_reads (hr : s.running = true) (h : s.debugServes x false = true) :
    execDebugAccess x none s = .next ((s.debugRead x).2.shiftOut (s.debugRead x).1) := by
  unfold execDebugAccess
  simp only [hr, h, Option.isSome_none, Bool.not_true, Bool.false_eq_true, if_false]

theorem execDebugAccess_writes {b : Bytes} (hr : s.running = true) (h : s.debugServes x true = true) : execDebugAccess x (some b) s = s.debugWrite x b := by
  unfold execDebugAccess
  simp only [hr, h, Option.isSome_some, Bool.not_true, Bool.false_eq_true, if_false]

theorem execDebugAccess_refuses {w : Option Bytes} (hr : s.running = true) (h : s.debugServes x w.isSome = false) :
    execDebugAccess x w s = .next s.debugRefuse := by
  unfold execDebugAccess
  simp only [hr, h, Bool.not_true, Bool.not_false, Bool.false_eq_true, if_false, if_true]

/-- FULL serves every access that no rule excepts. -/
theorem debugServes_full {w : Bool} (hl : s.life.debugLevel = 3) (h : debugLocked x = false) (hn : neverRead x = false) : s.debugServes x w = true := by
  simp [State.debugServes, hl, h, hn]

/-- TRACE serves the trace that it reaches. -/
theorem debugServes_trace {k : Nat} (hl : s.life.debugLevel = 2) (h : s.traced k = true) : s.debugServes (.trace k) false = true := by
  simp [State.debugServes, debugLocked, neverRead, State.traceReaches, hl, h]

theorem debugServes_locked {w : Bool} (hc : customerState s.life.state = true) (h : debugLocked x = true) : s.debugServes x w = false := by
  simp [State.debugServes, hc, h]

/-- A refused access once it is counted, entered and answered with nothing. -/
def State.debugNoted (s : State) : State :=
  (State.refusedEntry { s with life := { s.life with refusals := (s.life.refusals.filter fun t => s.now < t + 1000000000) ++ [s.now] } }).shiftOut []

theorem debugNoted_eq (s : State) : s.debugNoted.host = { s.host with sent := s.host.sent ++ [.tap []] } ∧
    s.debugNoted.silent = State.silent { s with life := s.debugNoted.life } := by
  have hh := host_refusedEntry { s with life := { s.life with refusals := (s.life.refusals.filter fun t => s.now < t + 1000000000) ++ [s.now] } }
  have hs := silent_refusedEntry { s with life := { s.life with refusals := (s.life.refusals.filter fun t => s.now < t + 1000000000) ++ [s.now] } }
  have hl : s.debugNoted.life = { s.life with refusals := (s.life.refusals.filter fun t => s.now < t + 1000000000) ++ [s.now] } := (congrArg State.life hs :)
  rw [hl]
  exact ⟨congrArg (fun h : HostPort => { h with sent := h.sent ++ [HostOut.tap []] }) hh, hs⟩

/-- A refused access shifts out nothing, and DEBUG_PROBE sends a message at most. -/
theorem debugRefuse_notes (s : State) : ∃ l, s.debugRefuse.host.sent = s.host.sent ++ .tap [] :: l ∧ l.length ≤ 1 ∧
    s.debugRefuse.doms = s.doms ∧ s.debugRefuse.cores = s.cores ∧ s.debugRefuse.ember = s.ember := by
  obtain ⟨hh, hs⟩ := debugNoted_eq s
  have quiet : ∀ t : State, t.silent = s.debugNoted.silent → t.doms = s.doms ∧ t.cores = s.cores ∧ t.ember = s.ember := fun t h =>
    ⟨(congrArg State.doms (h.trans hs) :), (congrArg State.cores (h.trans hs) :), (congrArg State.ember (h.trans hs) :)⟩
  by_cases hc : ((s.life.refusals.filter fun t => s.now < t + 1000000000) ++ [s.now]).length > 16
  · have he : s.debugRefuse = (s.debugNoted.log codeProbe (originOf 0 0) security (leBytes 1 s.life.state.code ++ leBytes 1 s.life.debugLevel)).raise 0x195 := if_pos hc
    obtain ⟨l, hl, hn⟩ := sent_raise (s.debugNoted.log codeProbe (originOf 0 0) security (leBytes 1 s.life.state.code ++ leBytes 1 s.life.debugLevel)) 0x195
    rw [he]
    refine ⟨l, ?_, hn, quiet _ (by rw [silent_raise, silent_log])⟩
    rw [hl, host_log, hh, List.append_assoc]
    rfl
  · have he : s.debugRefuse = s.debugNoted := if_neg hc
    rw [he]
    exact ⟨[], by rw [hh], by decide, quiet _ rfl⟩
end

/-- Settles O60: each clause is that of its row. -/
theorem debugIsLevelled : Obligations.DebugIsLevelled := by
  unfold Obligations.DebugIsLevelled
  intro s ir data x k a level
  refine ⟨fun hp hn => ?_, fun hp hn => ?_, execTrstNAssert_resets s, fun hr h => ⟨_, execDebugAccess_reads hr h, rfl⟩, fun _ => ?_,
    fun hr h => execDebugAccess_writes hr h, fun hr hl => ⟨?_, fun i => ?_, fun i => ?_, fun n => ?_⟩, fun hr hl ht => ?_, fun w hr h => ?_, fun hc h => ?_⟩
  · obtain ⟨hh, -, ht⟩ := selectTap_keeps s.wakeTap ir
    obtain ⟨hir, hreset, hpre, hid, hext⟩ := actTap_shows (s.wakeTap.selectTap ir) ir data
    rw [ht] at hir hreset
    rw [hh] at hid
    exact ⟨_, execTapInstruction_allowed hp hn, hir, hreset, hpre, hid, hext⟩
  · obtain ⟨t, ht, he⟩ := execTapInstruction_refused (data := data) hp hn
    obtain ⟨hh, -, hir⟩ := selectTap_keeps t .bypass
    refine ⟨_, he, congrArg Tap.ir hir, ?_⟩
    show (t.selectTap .bypass).host.sent ++ _ = _
    rw [hh, ht]
  · exact if_pos (Bool.or_true _)
  · exact execDebugAccess_writes hr (debugServes_full hl rfl rfl)
  · exact execDebugAccess_reads hr (debugServes_full hl rfl rfl)
  · exact execDebugAccess_reads hr (debugServes_full hl rfl rfl)
  · exact execDebugAccess_reads hr (debugServes_full hl rfl rfl)
  · exact execDebugAccess_reads hr (debugServes_trace hl ht)
  · obtain ⟨l, hsent, hn, hd, hk, he⟩ := debugRefuse_notes s
    exact ⟨_, l, execDebugAccess_refuses hr h, hsent, hn, hd, hk, he⟩
  · exact ⟨debugServes_locked hc h, debugServes_locked hc h⟩

end Sys2Proof.Machine
end

section
/-!
PROOF. The discipline of the device clock by TICK_IN (O47).
-/

namespace Sys2Proof.Machine

/-! ### What notes leave of the clock and of the staging sets -/

section
variable (s : State)

/-- An event of a pitch is noted in its EVENT_ACK besides. -/
theorem silent_pitchEvent (d b : Nat) : (s.pitchEvent d b).silent = State.silent { s with doms := (s.pitchEvent d b).doms } := by
  unfold State.pitchEvent
  dsimp only
  repeat' split
  · rw [silent_eventEdge, doms_eventEdge]
    rfl
  · rfl
  · rw [silent_raise, doms_raise]
  · rw [silent_raise, doms_raise]
  · rw [silent_raise, doms_raise]
  · rfl

@[simp] theorem clock_log (code origin severity : Nat) (data : Bytes) : (s.log code origin severity data).clock = s.clock :=
  (congrArg State.clock (silent_log ..) :)

@[simp] theorem clock_raise (source : Nat) : (s.raise source).clock = s.clock := (congrArg State.clock (silent_raise ..) :)

@[simp] theorem clock_pitchEvent (d b : Nat) : (s.pitchEvent d b).clock = s.clock := (congrArg State.clock (silent_pitchEvent ..) :)

@[simp] theorem sets_log (code origin severity : Nat) (data : Bytes) : (s.log code origin severity data).sets = s.sets :=
  (congrArg State.sets (silent_log ..) :)

@[simp] theorem sets_raise (source : Nat) : (s.raise source).sets = s.sets := (congrArg State.sets (silent_raise ..) :)

@[simp] theorem sets_pitchEvent (d b : Nat) : (s.pitchEvent d b).sets = s.sets := (congrArg State.sets (silent_pitchEvent ..) :)

/-- A state of the clock is entered, with its notes. -/
@[simp] theorem clock_clockTo (new : ClockState) : (s.clockTo new).clock = { s.clock with state := new } := by
  unfold State.clockTo
  split
  · next h => rw [← h]
  · rw [clock_raise, clock_log]
    rfl

@[simp] theorem sets_clockTo (new : ClockState) : (s.clockTo new).sets = s.sets := by
  unfold State.clockTo
  split
  · rfl
  · rw [sets_raise, sets_log]
    rfl

@[simp] theorem clock_stageOutcome (k : Nat) (f : Option Fail) (x : StageSet) : (s.stageOutcome k f x).clock = s.clock := by
  unfold State.stageOutcome
  dsimp only
  (repeat' split) <;> simp

/-- The outcome of a commit is written in the set that is left. -/
theorem state_stageOutcome (k j : Nat) (f : Option Fail) (x : StageSet) :
    ((s.stageOutcome k f x).stage j).state = if k = j then x.state else (s.stage j).state := by
  have h : ∀ t u : State, t.sets = u.sets → t.stage j = u.stage j := fun t u e => by rw [State.stage, e, State.stage]
  unfold State.stageOutcome
  dsimp only
  split
  · rw [h _ _ (sets_pitchEvent ..), h _ _ (sets_log ..), stage_setStage]
    split <;> rfl
  · split
    · rw [h _ _ (sets_raise ..), h _ _ (sets_log ..), stage_setStage]
      split <;> rfl
    · rw [h _ _ (sets_raise ..), h _ _ (sets_log ..), stage_setStage]
      split <;> rfl

/-- Sets emptied one after another. -/
theorem foldl_emptied (f : Option Fail) (l : List Nat) (j : Nat) :
    let t := l.foldl (fun s k => s.stageOutcome k f (s.stage k).emptied) s
    t.clock = s.clock ∧ (t.stage j).state = if j ∈ l then .empty else (s.stage j).state := by
  induction l generalizing s with
  | nil => simp
  | cons k l ih =>
    obtain ⟨hc, hs⟩ := ih (s.stageOutcome k f (s.stage k).emptied)
    refine ⟨hc.trans (clock_stageOutcome ..), hs.trans ?_⟩
    rw [state_stageOutcome]
    by_cases hl : j ∈ l
    · simp [hl]
    · by_cases hk : k = j
      · simp [hk, StageSet.emptied]
      · simp [hl, hk, Ne.symm hk]

/-- Every set that is PENDING fails and is EMPTY. -/
theorem failPending_sets : s.failPending.clock = s.clock ∧
    ∀ k, k ≤ 257 → (s.failPending.stage k).state = if (s.stage k).state = .pending then .empty else (s.stage k).state := by
  refine ⟨(foldl_emptied s _ _ 0).1, fun k hk => (foldl_emptied s _ _ k).2.trans ?_⟩
  have hm : k ∈ chipSet :: tamperSet :: List.range 256 := by
    simp only [chipSet, tamperSet, List.mem_cons, List.mem_range]
    omega
  by_cases hp : (s.stage k).state = .pending
  · rw [if_pos (List.mem_filter.mpr ⟨hm, decide_eq_true hp⟩), if_pos hp]
  · rw [if_neg fun h => hp (by simpa using (List.mem_filter.mp h).2), if_neg hp]
end

/-! ### Pulses (R326 to R328) -/

section
variable (s : State)

/-- A rejected pulse. -/
theorem rejectPulse_clock (cause : Nat) : let d := (s.rejectPulse cause).clock
    d.tai = s.clock.tai ∧ d.mono = s.clock.mono ∧ d.state = s.clock.state ∧ d.lastEdge = s.clock.lastEdge ∧ d.inWindow = 0 ∧ d.lastReject = cause ∧
      d.shorts = s.clock.shorts + b2n (cause = pulseShort) ∧ d.longs = s.clock.longs + b2n (cause = pulseLong) := by
  unfold State.rejectPulse
  simp only [clock_log]
  exact ⟨rfl, rfl, rfl, rfl, rfl, rfl, rfl, rfl⟩

theorem nearestSecond_mod (t : Nat) : nearestSecond t % 1000000000 = 0 := by
  unfold nearestSecond
  omega

/-- Steering changes the rate alone, and an alignment moves no reading back. -/
theorem steer_keeps (c : Clock) (edge at_ period : Nat) : (c.steer edge at_ period).tai = c.tai ∧ (c.steer edge at_ period).mono = c.mono ∧
    (c.steer edge at_ period).state = c.state := by
  cases c
  exact ⟨rfl, rfl, rfl⟩

theorem align_keeps (c : Clock) (at_ : Nat) : c.tai ≤ (c.align at_).tai ∧ (c.align at_).mono = c.mono := by
  cases c
  exact ⟨Nat.le_max_left _ _, rfl⟩

/-- What an accepted pulse makes of the clock: its edge is noted, and the clock goes on towards LOCKED. -/
def Clock.Accepts (c d : Clock) (edge at_ k : Nat) : Prop :=
  c.tai ≤ d.tai ∧ d.mono = c.mono ∧ d.lastEdge = some edge ∧
    (c.state = .unsynchronised → d.state = .acquiring ∧ d.inWindow = 1) ∧
    (c.state = .acquiring → k = 1 → 2 ≤ c.inWindow → d.state = .locked ∧ d.lastEdgeTai % 1000000000 = 0) ∧
    (c.state = .acquiring → c.inWindow < 2 → d.state = .acquiring) ∧
    (c.state = .locked → d.state = .locked ∧ d.lastEdgeTai = at_) ∧
    (c.state = .holdover ∨ c.state = .untrusted → d.state = if 2 ≤ c.inWindow then .locked else c.state)

/-- A clock that keeps its reading and its instant, and notes the edge, accepts it where its state moves as it should. -/
theorem accepts_of {c d : Clock} {edge at_ x k n : Nat} {new : ClockState} (ht : c.tai ≤ d.tai) (hm : d.mono = c.mono)
    (h0 : c.state = .unsynchronised → new = .acquiring ∧ n = 1)
    (h1 : c.state = .acquiring → k = 1 → 2 ≤ c.inWindow → new = .locked ∧ x % 1000000000 = 0) (h1' : c.state = .acquiring → c.inWindow < 2 → new = .acquiring)
    (h2 : c.state = .locked → new = .locked ∧ x = at_)
    (h3 : c.state = .holdover ∨ c.state = .untrusted → new = if 2 ≤ c.inWindow then .locked else c.state) :
    c.Accepts { d.edge edge x with inWindow := n, state := new } edge at_ k :=
  ⟨ht, hm, rfl, h0, h1, h1', h2, h3⟩

/-- One that keeps its own state does too. -/
theorem accepts_in {c d : Clock} {edge at_ k n : Nat} (hs : d.state = c.state) (ht : c.tai ≤ d.tai) (hm : d.mono = c.mono)
    (h0 : c.state ≠ .unsynchronised) (h1 : c.state = .acquiring → k = 1 → ¬ 2 ≤ c.inWindow)
    (h3 : c.state = .holdover ∨ c.state = .untrusted → ¬ 2 ≤ c.inWindow) : c.Accepts { d.edge edge at_ with inWindow := n } edge at_ k := by
  have h := accepts_of (c := c) (d := d) (edge := edge) (at_ := at_) (x := at_) (k := k) (n := n) (new := c.state) ht hm (fun h => absurd h h0)
    (fun h hk hn => absurd hn (h1 h hk)) (fun h _ => h) (fun h => ⟨h, rfl⟩) (fun h => (if_neg (h3 h)).symm)
  rwa [← hs] at h

section
variable {s : State} {edge at_ k : Nat}

/-- The length of the last second on the reference. -/
def State.periodOf (s : State) (edge k : Nat) : Nat := (edge - s.clock.lastEdge.getD (edge - 1000000000)) / k

theorem accepts_unsynchronised (h : s.clock.state = .unsynchronised) : s.clock.Accepts (s.acceptPulse edge at_ k).clock edge at_ k := by
  have he : s.acceptPulse edge at_ k = (s.setClock fun c => { c.edge edge at_ with inWindow := 1 }).clockTo .acquiring := by
    unfold State.acceptPulse
    dsimp only
    rw [h]
  rw [he, clock_clockTo]
  exact accepts_of (d := s.clock) (Nat.le_refl _) rfl (fun _ => ⟨rfl, rfl⟩) (by simp [h]) (by simp [h]) (by simp [h]) (by simp [h])

theorem accepts_acquiring (h : s.clock.state = .acquiring) : s.clock.Accepts (s.acceptPulse edge at_ k).clock edge at_ k := by
  have he : s.acceptPulse edge at_ k =
      let n := if k = 1 && s.clock.inWindow > 0 then s.clock.inWindow + 1 else 1
      if n ≥ 3 then
        (s.setClock fun c => { ((c.align at_).steer edge at_ (s.periodOf edge k)).edge edge (nearestSecond at_) with inWindow := n }).clockTo .locked
      else s.setClock fun c => { c.edge edge at_ with inWindow := n } := by
    unfold State.acceptPulse
    dsimp only
    rw [h]
    rfl
  rw [he]
  generalize s.periodOf edge k = period
  generalize hn : (if k = 1 && s.clock.inWindow > 0 then s.clock.inWindow + 1 else 1) = n
  by_cases h3 : n ≥ 3
  · obtain ⟨ha, hma⟩ := align_keeps s.clock at_
    obtain ⟨ht', hm', -⟩ := steer_keeps (s.clock.align at_) edge at_ period
    have hnot : ¬ s.clock.inWindow < 2 := by split at hn <;> omega
    simp only [if_pos h3, clock_clockTo]
    exact accepts_of (d := (s.clock.align at_).steer edge at_ period) (x := nearestSecond at_) (ha.trans ht'.ge) (hm'.trans hma) (by simp [h])
      (fun _ _ _ => ⟨rfl, nearestSecond_mod at_⟩) (fun _ hl => absurd hl hnot) (by simp [h]) (by simp [h])
  · simp only [if_neg h3]
    refine accepts_in (d := s.clock) rfl (Nat.le_refl _) rfl (by simp [h]) (fun _ hk hl => h3 ?_) (by simp [h])
    rw [← hn, if_pos (by simp only [hk, decide_true, Bool.true_and, decide_eq_true_eq]; omega)]
    omega

theorem accepts_locked (h : s.clock.state = .locked) : s.clock.Accepts (s.acceptPulse edge at_ k).clock edge at_ k := by
  have he : s.acceptPulse edge at_ k =
      s.setClock fun c => { (c.steer edge at_ (s.periodOf edge k)).edge edge at_ with inWindow := min 255 (c.inWindow + 1) } := by
    unfold State.acceptPulse
    dsimp only
    rw [h]
    rfl
  obtain ⟨ht, hm, hs⟩ := steer_keeps s.clock edge at_ (s.periodOf edge k)
  rw [he]
  exact accepts_in (d := s.clock.steer edge at_ (s.periodOf edge k)) hs ht.ge hm (by simp [h]) (by simp [h]) (by simp [h])

theorem accepts_holdover (h : s.clock.state = .holdover ∨ s.clock.state = .untrusted) : s.clock.Accepts (s.acceptPulse edge at_ k).clock edge at_ k := by
  have he : s.acceptPulse edge at_ k =
      if s.clock.inWindow + 1 ≥ 3 then
        (s.setClock fun c => { (c.steer edge at_ (s.periodOf edge k)).edge edge at_ with inWindow := min 255 (s.clock.inWindow + 1) }).clockTo .locked
      else s.setClock fun c => { c.edge edge at_ with inWindow := s.clock.inWindow + 1 } := by
    unfold State.acceptPulse
    dsimp only
    rcases h with h | h
    · rw [h]
      rfl
    · rw [h]
      rfl
  have h0 : s.clock.state ≠ .unsynchronised := by rcases h with h | h <;> simp [h]
  have h1 : s.clock.state ≠ .acquiring := by rcases h with h | h <;> simp [h]
  have h2 : s.clock.state ≠ .locked := by rcases h with h | h <;> simp [h]
  rw [he]
  by_cases hn : s.clock.inWindow + 1 ≥ 3
  · obtain ⟨ht, hm, -⟩ := steer_keeps s.clock edge at_ (s.periodOf edge k)
    have hto : ∀ d : Clock, s.clock.tai ≤ d.tai → d.mono = s.clock.mono →
        s.clock.Accepts (State.clockTo { s with clock := { d.edge edge at_ with inWindow := min 255 (s.clock.inWindow + 1) } } .locked).clock edge at_ k := by
      intro d ht hm
      rw [clock_clockTo]
      exact accepts_of (x := at_) ht hm (fun e => absurd e h0) (fun e => absurd e h1) (fun e => absurd e h1) (fun e => absurd e h2)
        (fun _ => (if_pos (by omega)).symm)
    rw [if_pos hn]
    exact hto _ ht.ge hm
  · rw [if_neg hn]
    exact accepts_in (d := s.clock) rfl (Nat.le_refl _) rfl h0 (fun e => absurd e h1) (fun _ hl => hn (by omega))

theorem acceptPulse_clock (s : State) (edge at_ k : Nat) : s.clock.Accepts (s.acceptPulse edge at_ k).clock edge at_ k := by
  cases h : s.clock.state with
  | unsynchronised => exact accepts_unsynchronised h
  | acquiring => exact accepts_acquiring h
  | locked => exact accepts_locked h
  | holdover => exact accepts_holdover (.inl h)
  | untrusted => exact accepts_holdover (.inr h)
end
end

/-! ### The rows -/

section
variable {s : State}

/-- The state at a falling edge: the edge came `wait` ns from now and stayed `high` ns. -/
def State.atFall (s : State) (wait high : Nat) : State := (s.pass wait).pass high

theorem atFall_clock (s : State) (wait high : Nat) : let d := (s.atFall wait high).clock
    s.clock.tai ≤ d.tai ∧ d.mono = s.clock.mono + wait + high ∧ d.state = s.clock.state ∧ d.lastEdge = s.clock.lastEdge ∧ d.inWindow = s.clock.inWindow ∧
      d.shorts = s.clock.shorts ∧ d.longs = s.clock.longs :=
  ⟨(Nat.le_add_right _ _).trans (Nat.le_add_right _ _), rfl, rfl, rfl, rfl, rfl, rfl⟩

/-- What a pulse does at its falling edge. -/
def State.fallen (s : State) (edge at_ high : Nat) : State :=
  if high < 10 then s
  else if high < 1000 then s.rejectPulse pulseShort
  else if high > 500000000 then s.rejectPulse pulseLong
  else
    match s.clock.lastEdge with
    | none => s.acceptPulse edge at_ 1
    | some t =>
      match judgeEdge s.chip.periodWindow (edge - t) (s.clock.state = .acquiring) with
      | .ok k => s.acceptPulse edge at_ k
      | .error cause => s.rejectPulse cause

theorem execTickInPulse_eq {wait high : Nat} (hr : s.running = true) :
    execTickInPulse wait high s = .next ((s.atFall wait high).fallen (s.now + wait) (s.pass wait).clock.target high) := by
  unfold execTickInPulse State.fallen State.atFall
  simp only [hr, Bool.not_true, Bool.false_eq_true, if_false]
  by_cases h1 : high < 10
  · simp only [if_pos h1]
  · by_cases h2 : high < 1000
    · simp only [if_neg h1, if_pos h2]
    · by_cases h3 : high > 500000000
      · simp only [if_neg h1, if_neg h2, if_pos h3]
      · simp only [if_neg h1, if_neg h2, if_neg h3]
        cases ((s.pass wait).pass high).clock.lastEdge with
        | none => rfl
        | some t =>
          cases hj : judgeEdge ((s.pass wait).pass high).chip.periodWindow (s.now + wait - t) (((s.pass wait).pass high).clock.state = .acquiring) with
          | ok k => simp only [hj]
          | error c => simp only [hj]

/-- The judged cases of a pulse, by how long it stays high. -/
theorem fallen_short {edge at_ high : Nat} (h : 10 ≤ high) (h' : high < 1000) : s.fallen edge at_ high = s.rejectPulse pulseShort := by
  rw [State.fallen, if_neg (by omega), if_pos h']

theorem fallen_long {edge at_ high : Nat} (h : 500000000 < high) : s.fallen edge at_ high = s.rejectPulse pulseLong := by
  rw [State.fallen, if_neg (by omega), if_neg (by omega), if_pos h]

theorem fallen_first {edge at_ high : Nat} (h : 1000 ≤ high) (h' : high ≤ 500000000) (hl : s.clock.lastEdge = none) :
    s.fallen edge at_ high = s.acceptPulse edge at_ 1 := by
  rw [State.fallen, if_neg (by omega), if_neg (by omega), if_neg (by omega), hl]

theorem fallen_judged {edge at_ high t : Nat} (h : 1000 ≤ high) (h' : high ≤ 500000000) (hl : s.clock.lastEdge = some t) :
    s.fallen edge at_ high = match judgeEdge s.chip.periodWindow (edge - t) (s.clock.state = .acquiring) with
      | .ok k => s.acceptPulse edge at_ k
      | .error cause => s.rejectPulse cause := by
  rw [State.fallen, if_neg (by omega), if_neg (by omega), if_neg (by omega), hl]

/-- No pulse moves the reading back, and none takes time of its own. -/
theorem fallen_keeps (s : State) (edge at_ high : Nat) : s.clock.tai ≤ (s.fallen edge at_ high).clock.tai ∧ (s.fallen edge at_ high).clock.mono = s.clock.mono := by
  have rejected : ∀ c, s.clock.tai ≤ (s.rejectPulse c).clock.tai ∧ (s.rejectPulse c).clock.mono = s.clock.mono := fun c => by
    obtain ⟨ht, hm, -⟩ := rejectPulse_clock s c
    exact ⟨ht.ge, hm⟩
  have accepted : ∀ k, s.clock.tai ≤ (s.acceptPulse edge at_ k).clock.tai ∧ (s.acceptPulse edge at_ k).clock.mono = s.clock.mono := fun k => by
    obtain ⟨ht, hm, -⟩ := acceptPulse_clock s edge at_ k
    exact ⟨ht, hm⟩
  unfold State.fallen
  repeat' split
  · exact ⟨Nat.le_refl _, rfl⟩
  · exact rejected _
  · exact rejected _
  · exact accepted 1
  · exact accepted _
  · exact rejected _

/-- TICK_TIMEOUT goes to 1.5 s after the last accepted edge. -/
theorem passTo_mono (s : State) (t : Nat) : (s.passTo t).clock.mono = max s.clock.mono t := by
  show s.clock.mono + (t - s.clock.mono) = _
  omega

/-- The count of pulses is dropped at an instant, and the clock may enter a state there. -/
theorem dropCount_at (s : State) (t : Nat) : let u := (s.passTo t).setClock fun c => { c with inWindow := 0, lastAccept := (s.passTo t).now }
    u.now = max s.now t ∧ u.clock.inWindow = 0 ∧ u.clock.state = s.clock.state := ⟨passTo_mono s t, rfl, rfl⟩

theorem holdOver_at (s : State) (t : Nat) : let u := ((s.passTo t).setClock fun c => { c with inWindow := 0 }).clockTo .holdover
    u.now = max s.now t ∧ u.clock.inWindow = 0 ∧ u.clock.state = .holdover := by
  simp only [State.now, clock_clockTo]
  exact ⟨passTo_mono s t, rfl, trivial⟩

theorem execTickTimeout_acquiring (hr : s.running = true) (h : s.clock.state = .acquiring) : ∃ u, execTickTimeout s = .next u ∧
    u.now = max s.now (s.clock.lastAccept + 1500000000) ∧ u.clock.inWindow = 0 ∧ u.clock.state = .acquiring := by
  unfold execTickTimeout
  simp only [hr, h, Bool.not_true, Bool.false_eq_true, if_false]
  generalize s.clock.lastAccept + 1500000000 = t
  obtain ⟨hn, hw, hs⟩ := dropCount_at s t
  exact ⟨_, rfl, hn, hw, hs.trans h⟩

theorem execTickTimeout_locked (hr : s.running = true) (h : s.clock.state = .locked) : ∃ u, execTickTimeout s = .next u ∧
    u.now = max s.now (s.clock.lastAccept + 1500000000) ∧ u.clock.inWindow = 0 ∧ u.clock.state = .holdover := by
  unfold execTickTimeout
  simp only [hr, h, Bool.not_true, Bool.false_eq_true, if_false]
  generalize s.clock.lastAccept + 1500000000 = t
  exact ⟨_, rfl, holdOver_at s t⟩

/-- The clock is left TIME_UNTRUSTED at an instant, and every timed commit that pends fails. -/
theorem untrust_at (s : State) (t : Nat) : let u := (((s.passTo t).setClock fun c => { c with set := false }).clockTo .untrusted).failPending
    u.clock.state = .untrusted ∧ u.clock.set = false ∧ u.now = max s.now t ∧
      ∀ k, k ≤ 257 → (u.stage k).state = if (s.stage k).state = .pending then .empty else (s.stage k).state := by
  obtain ⟨hc, hs⟩ := failPending_sets (((s.passTo t).setClock fun c => { c with set := false }).clockTo .untrusted)
  have hsets : ∀ k, (((s.passTo t).setClock fun c => { c with set := false }).clockTo .untrusted).stage k = s.stage k := fun k => by
    rw [State.stage, sets_clockTo]
    rfl
  simp only [State.now, hc, clock_clockTo]
  refine ⟨trivial, rfl, passTo_mono s t, fun k hk => ?_⟩
  rw [hs k hk, hsets]

/-- Past the limit of HOLDOVER every timed commit that pends fails. -/
theorem execHoldoverLimit_untrusts (hr : s.running = true) (h : s.clock.state = .holdover) : ∃ u, execHoldoverLimit s = .next u ∧
    u.clock.state = .untrusted ∧ u.clock.set = false ∧ u.now = max s.now (s.clock.lastEdge.getD 0 + s.chip.holdoverLimit * 1000000000) ∧
      ∀ k, k ≤ 257 → (u.stage k).state = if (s.stage k).state = .pending then .empty else (s.stage k).state := by
  unfold execHoldoverLimit
  simp only [hr, h, decide_true, Bool.and_self, if_true]
  generalize s.clock.lastEdge.getD 0 + s.chip.holdoverLimit * 1000000000 = t
  exact ⟨_, rfl, untrust_at s t⟩
end

/-- Settles O47: a pulse is judged at its falling edge; the two limits of the clock's states follow their rows. -/
theorem pulsesDisciplineTheClock : Obligations.PulsesDisciplineTheClock := by
  unfold Obligations.PulsesDisciplineTheClock
  intro s wait high hr c
  refine ⟨?_, execTickTimeout_acquiring hr, execTickTimeout_locked hr, execHoldoverLimit_untrusts hr⟩
  obtain ⟨htai, hmono, hstate, hlast, hwin, hshort, hlong⟩ := atFall_clock s wait high
  have hwindow : (s.atFall wait high).chip.periodWindow = s.chip.periodWindow := rfl
  obtain ⟨ht, hm⟩ := fallen_keeps (s.atFall wait high) (s.now + wait) (s.pass wait).clock.target high
  refine ⟨_, execTickInPulse_eq hr, htai.trans ht, hm.trans hmono, fun h => ?_, fun h h' => ?_, fun h => ?_, fun h h' hl hu => ?_, fun t h h' hl => ?_⟩
  · rw [State.fallen, if_pos h]
    exact ⟨hstate, hshort, hwin, hlast⟩
  · rw [fallen_short h h']
    obtain ⟨-, -, h1, h2, h3, h4, h5, h6⟩ := rejectPulse_clock (s.atFall wait high) pulseShort
    exact ⟨h5.trans (congrArg (· + 1) hshort), h3, h1.trans hstate, h4⟩
  · rw [fallen_long h]
    obtain ⟨-, -, h1, h2, h3, h4, h5, h6⟩ := rejectPulse_clock (s.atFall wait high) pulseLong
    exact ⟨h6.trans (congrArg (· + 1) hlong), h3, h1.trans hstate, h4⟩
  · rw [fallen_first h h' (hlast.trans hl)]
    obtain ⟨-, -, -, h0, -⟩ := acceptPulse_clock (s.atFall wait high) (s.now + wait) (s.pass wait).clock.target 1
    exact h0 (hstate.trans hu)
  · rw [fallen_judged h h' (hlast.trans hl), hwindow, hstate]
    intro judged
    refine ⟨fun cause hj => ?_, fun k hj => ?_⟩
    · rw [show judgeEdge _ _ _ = _ from hj]
      obtain ⟨-, -, h1, h2, h3, h4, -⟩ := rejectPulse_clock (s.atFall wait high) cause
      exact ⟨h4, h3, h1.trans hstate, h2.trans (hlast.trans hl)⟩
    · rw [show judgeEdge _ _ _ = _ from hj]
      have ha := acceptPulse_clock (s.atFall wait high) (s.now + wait) (s.pass wait).clock.target k
      unfold Clock.Accepts at ha
      rw [hstate, hwin] at ha
      obtain ⟨-, -, h1, h2, h3, h4, h5, h6⟩ := ha
      exact ⟨h1, fun hs => (h2 hs).1, h3, h4, h5, h6⟩

end Sys2Proof.Machine
end

section
/-!
PROOF. Messages of the management bus (O59).
-/

namespace Sys2Proof.Machine

section
variable {s t u : State} {b m r : Bytes} {c : Nat × Nat × Nat} {f : State → Bytes → Bytes × State}

/-- A whole message of a row's command is answered by what the row makes of it. -/
theorem busRow_answers (hb : s.busAnswers = true) (hp : pecHolds b = true) (hi : s.wakeModule.packetIn b = (some m, t)) (hc : commandOf m = c)
    (hf : f t m = (r, u)) : s.busRow c b f = .next (u.packetsOut b (responseHead m ++ r)) := by
  unfold State.busRow
  simp only [hb, hp, hi, hc, hf, Bool.not_true, Bool.false_eq_true, if_false, if_true]

/-- A packet whose PEC does not hold is counted alone. -/
theorem busRow_badPec (hb : s.busAnswers = true) (hp : pecHolds b = false) : s.busRow c b f = .next s.badPec := by
  unfold State.busRow
  simp only [hb, hp, Bool.not_true, Bool.not_false, Bool.false_eq_true, if_false, if_true]

theorem execGetTid_badPec (hb : s.busAnswers = true) (hp : pecHolds b = false) : execGetTid b s = .next s.badPec := by
  unfold execGetTid
  exact busRow_badPec hb hp

theorem badPec_counts (s : State) : s.badPec.smb.badPec = s.smb.badPec + 1 := by
  have h := silent_log { s with smb := { s.smb with badPec := s.smb.badPec + 1 } } codePec (originOf 0 0) errorSeverity []
  exact congrArg Smb.badPec (congrArg State.smb h :)

/-- The record of a handle, as far as it is asked for. -/
theorem execGetPdr_answers {h : Nat} (hb : s.busAnswers = true) (hp : pecHolds b = true) (hi : s.wakeModule.packetIn b = (some m, t))
    (hc : commandOf m = (1, 2, 0x51)) (hh : field m 4 4 = h) (h1 : 1 ≤ h) (h13 : h ≤ 13) :
    let r := (t.pdr (sensorList.getD (h - 1) 0)).take (field m 13 2)
    execGetPdr b s = .next (t.packetsOut b (responseHead m ++ ([0] ++ leBytes 4 (h + 1) ++ zeros 4 ++ [5] ++ leBytes 2 r.length ++ r))) := by
  have hlen : h - 1 < sensorList.length := by
    show h - 1 < 14
    omega
  have hnext : h < sensorList.length := by
    show h < 14
    omega
  unfold execGetPdr
  refine busRow_answers hb hp hi hc ?_
  simp only [hh, Nat.max_eq_right h1, List.getElem?_eq_getElem hlen, if_pos hnext, List.getD_eq_getElem _ _ hlen]

/-- ARP assigns the address to the module that its identifier names (R468). -/
theorem execSmbusArp_assigns (hb : s.busAnswers = true) (hp : pecHolds b = true) (hl : b.length = 21) (h1 : slice b 0 3 = [0xC2, 0x04, 17])
    (h2 : slice b 3 16 = slice Config.udid 0 16) :
    execSmbusArp b s = .next { s.wakeModule with smb := { s.smb with address := byteAt b 19 / 2 } } := by
  unfold execSmbusArp
  simp only [hb, hp, hl, h1, h2, Bool.not_true, Bool.false_eq_true, if_false, decide_true, Bool.and_self, if_true]

/-- An SMBus reply goes to its port, unless a warden gap holds it (R356). -/
theorem emit_smbus (s : State) (x : Bytes) : s.emit (.smbus x) = if s.guy.holding then s.hold (.smbus x) else s.putRaw (.smbus x) := by
  unfold State.emit
  cases s.guy.holding <;> rfl
end

/-- Settles O59: each row answers its message; the bus itself follows its rows. -/
theorem busMessagesAreAnswered : Obligations.BusMessagesAreAnswered := by
  unfold Obligations.BusMessagesAreAnswered
  intro s t b m reading hb answered
  refine ⟨fun hp => ⟨execGetTid_badPec hb hp, badPec_counts s⟩, fun hp hi => ⟨?_, ?_, ?_, ?_, ?_, ?_, ?_, ?_, ?_, ?_, ?_, ?_, ?_⟩, fun hp hl h1 h2 => ?_,
    ⟨_, rfl, rfl⟩, ⟨_, rfl, rfl⟩, fun ha => ?_⟩
  · intro hc h3 h0 h255
    show execSetEndpointId b s = _
    unfold execSetEndpointId
    exact busRow_answers hb hp hi hc (if_neg (by simp [Nat.not_le.mpr h3, h0, h255]))
  · intro hc
    show execGetEndpointId b s = _
    unfold execGetEndpointId
    exact busRow_answers hb hp hi hc rfl
  · intro hc
    show execGetEndpointUuid b s = _
    unfold execGetEndpointUuid
    exact busRow_answers hb hp hi hc rfl
  · intro hc h0
    show execGetMctpVersionSupport b s = _
    unfold execGetMctpVersionSupport
    exact busRow_answers hb hp hi hc (if_pos (by simp [h0]))
  · intro hc
    show execGetMessageTypeSupport b s = _
    unfold execGetMessageTypeSupport
    exact busRow_answers hb hp hi hc rfl
  · intro hc
    show execGetTid b s = _
    unfold execGetTid
    exact busRow_answers hb hp hi hc rfl
  · intro hc h9
    show execGetPldmVersion b s = _
    unfold execGetPldmVersion
    exact busRow_answers hb hp hi hc (if_pos (by simp [pldmType, h9]))
  · intro hc
    show execGetPldmTypes b s = _
    unfold execGetPldmTypes
    exact busRow_answers hb hp hi hc rfl
  · intro hc h4
    show execGetPldmCommands b s = _
    unfold execGetPldmCommands
    exact busRow_answers hb hp hi hc (if_pos (by simp [pldmType, h4]))
  · intro n hc h1 h10 hr x
    have hn : numericSensor (field m 4 2) = true := by rw [numericSensor, decide_eq_true h1, decide_eq_true h10]; rfl
    show execGetSensorReading b reading s = _
    unfold execGetSensorReading
    exact busRow_answers hb hp hi hc ((if_neg (by rw [hn]; decide)).trans (if_neg (by simp [hr])))
  · intro n hc h20 h23 hr x
    have hn : stateSensor (field m 4 2) = true := by rw [stateSensor, decide_eq_true h20, decide_eq_true h23]; rfl
    show execGetStateSensorReadings b s = _
    unfold execGetStateSensorReadings
    exact busRow_answers hb hp hi hc ((if_neg (by rw [hn]; decide)).trans (if_neg (by simp [hr])))
  · intro l hc
    show execGetPdrRepositoryInfo b s = _
    unfold execGetPdrRepositoryInfo
    exact busRow_answers hb hp hi hc rfl
  · exact fun hc h1 h13 => execGetPdr_answers hb hp hi hc rfl h1 h13
  · exact ⟨_, execSmbusArp_assigns hb hp hl h1 h2, rfl⟩
  · refine ⟨_, crc8 (leBytes 1 (2 * s.smb.address)), if_pos (by rw [hb, ha]; rfl), ?_⟩
    rw [emit_smbus]
    refine ⟨fun hg => ?_, fun hg => ?_⟩
    · rw [hg]
      rfl
    · rw [hg]
      exact ⟨rfl, rfl⟩

end Sys2Proof.Machine
end

section
/-!
PROOF. The session of the twin link: training, the key exchange and its refresh (O57).
-/

namespace Sys2Proof.Machine

/-! ### What the shared operations do to the link -/

section
variable (s : State)

@[simp] theorem link_log (code origin severity : Nat) (data : Bytes) : (s.log code origin severity data).link = s.link :=
  (congrArg State.link (silent_log ..) :)

@[simp] theorem link_raise (source : Nat) : (s.raise source).link = s.link := (congrArg State.link (silent_raise ..) :)

@[simp] theorem link_sessionChange (severity : Nat) : (s.sessionChange severity).link = s.link := by
  unfold State.sessionChange
  rw [link_raise, link_log]

@[simp] theorem clock_sessionChange (severity : Nat) : (s.sessionChange severity).clock = s.clock := by
  unfold State.sessionChange
  rw [clock_raise, clock_log]

/-- A link without its session. -/
def TwinLink.ended (l : TwinLink) (mode : LinkMode) : TwinLink :=
  { l with mode := mode, epoch := 0, keys := [], oldKeys := [], txNo := 1, rxNo := 1, unacked := [], queued := [], rxPart := [], helloIn := false
           confirmOut := false, transcript := [], kemKey := [], tagFails := [] }

theorem retrain_link (mode : LinkMode) : (s.retrain mode).link = s.link.ended mode ∧ (s.retrain mode).clock = s.clock := by
  unfold State.retrain
  dsimp only
  split
  · rw [link_sessionChange, clock_sessionChange]
    exact ⟨rfl, rfl⟩
  · exact ⟨rfl, rfl⟩

/-- The link is back in TRAINING, without keys. -/
def State.LinkDown (s : State) : Prop := s.link.mode = .training ∧ s.link.keys = [] ∧ s.link.unacked = []

theorem retrain_down : (s.retrain .training).LinkDown := by
  unfold State.LinkDown
  rw [(retrain_link s .training).1]
  exact ⟨rfl, rfl, rfl⟩

/-- A refused session waits a second besides. -/
theorem refuseSession_down : s.refuseSession.LinkDown ∧ s.refuseSession.link.retryAt = s.now + 1000000000 := by
  refine ⟨retrain_down s, ?_⟩
  show (s.retrain .training).clock.mono + 1000000000 = _
  rw [(retrain_link s .training).2]
  rfl

/-- A frame that is sent, or held, changes no more of the session than its numbers and its buffers. -/
structure TwinLink.SameSession (l m : TwinLink) : Prop where
  mode : m.mode = l.mode
  keys : m.keys = l.keys
  oldKeys : m.oldKeys = l.oldKeys
  epoch : m.epoch = l.epoch
  epochSince : m.epochSince = l.epochSince
  kemKey : m.kemKey = l.kemKey
  confirmOut : m.confirmOut = l.confirmOut
  helloIn : m.helloIn = l.helloIn
  initiator : m.initiator = l.initiator
  peerSerial : m.peerSerial = l.peerSerial

theorem TwinLink.SameSession.trans {l m n : TwinLink} (h : l.SameSession m) (h' : m.SameSession n) : l.SameSession n :=
  ⟨h'.mode.trans h.mode, h'.keys.trans h.keys, h'.oldKeys.trans h.oldKeys, h'.epoch.trans h.epoch, h'.epochSince.trans h.epochSince,
    h'.kemKey.trans h.kemKey, h'.confirmOut.trans h.confirmOut, h'.helloIn.trans h.helloIn, h'.initiator.trans h.initiator,
    h'.peerSerial.trans h.peerSerial⟩

theorem sendFrame_link (type : Nat) (p : Bytes) : s.link.SameSession (s.sendFrame type p).link := by
  unfold State.sendFrame
  dsimp only
  (repeat' split) <;> exact ⟨rfl, rfl, rfl, rfl, rfl, rfl, rfl, rfl, rfl, rfl⟩

theorem sendQueued_link (l : List Bytes) : s.link.SameSession (s.sendQueued l).link := by
  induction l generalizing s with
  | nil => exact ⟨rfl, rfl, rfl, rfl, rfl, rfl, rfl, rfl, rfl, rfl⟩
  | cons m l ih => exact (sendFrame_link s _ _).trans (ih _)

theorem flushQueued_link : s.link.SameSession s.flushQueued.link := by
  have h : s.link.SameSession ({ s.link with queued := [] } : TwinLink) := ⟨rfl, rfl, rfl, rfl, rfl, rfl, rfl, rfl, rfl, rfl⟩
  exact h.trans (sendQueued_link { s with link := { s.link with queued := [] } } _)

theorem sendRekey_link (p : Bytes) : s.link.SameSession (s.sendRekey p).link := by
  have h := sendFrame_link s 7 p
  exact ⟨h.mode, h.keys, h.oldKeys, h.epoch, h.epochSince, h.kemKey, h.confirmOut, h.helloIn, h.initiator, h.peerSerial⟩

/-! ### Seeds (R236) -/

/-- Seeds come from the regions, whatever stands in the link. -/
theorem takeSeed_withLink (l : TwinLink) (after : Option Nat) (order : List Nat) :
    State.takeSeed { s with link := l } after order = (s.takeSeed after order).map fun p => (p.1, { p.2 with link := l }) := by
  induction order with
  | nil => rfl
  | cons r rs ih =>
    have h1 : State.takeSeedOf { s with link := l } r after = (s.takeSeedOf r after).map fun p => (p.1, { p.2 with link := l }) := by
      unfold State.takeSeedOf
      rw [Option.map_map]
      rfl
    rw [State.takeSeed, h1, State.takeSeed]
    cases s.takeSeedOf r after with
    | none => exact ih
    | some x => rfl

theorem takeTwo_withLink (l : TwinLink) (order : List Nat) :
    State.takeTwo { s with link := l } order = (s.takeTwo order).map fun x => (x.1, x.2.1, { x.2.2 with link := l }) := by
  unfold State.takeTwo
  rw [takeSeed_withLink]
  cases s.takeSeed none order with
  | none => rfl
  | some p =>
    show (State.takeSeed { p.2 with link := l } none order).map _ = _
    rw [takeSeed_withLink, Option.map_map]
    show _ = ((p.2.takeSeed none order).map _).map _
    rw [Option.map_map]
    rfl
end

theorem link_takeTwo {s t : State} {a b : Bytes} {order : List Nat} (h : s.takeTwo order = some (a, b, t)) : t.link = s.link := by
  have hw := takeTwo_withLink s s.link order
  rw [show ({ s with link := s.link } : State) = s from rfl, h] at hw
  have hl := congrArg (fun x : Option (Bytes × Bytes × State) => x.map fun y => y.2.2.link) hw
  exact Option.some.inj hl

/-- The initiator's half leaves the session but for its secret. -/
theorem openExchange_link {s t : State} {p : Bytes} (h : s.openExchange = some (p, t)) : t.link = { s.link with kemKey := t.link.kemKey } := by
  unfold State.openExchange at h
  obtain ⟨⟨a, b, u⟩, hu, he⟩ := Option.map_eq_some_iff.mp h
  have ht : _ = t := (Prod.ext_iff.mp he).2
  rw [← link_takeTwo hu, ← ht]

/-- With two seeds ready the responder answers. -/
theorem answerExchange_some (s : State) {l : TwinLink} {p : Bytes} {x : Bytes × Bytes × State} (h : s.takeTwo (List.range 8) = some x) :
    ∃ a kz t, State.answerExchange { s with link := l } p = some (a, kz, t) ∧ t.link = l := by
  have ht := takeTwo_withLink s l (List.range 8)
  rw [h] at ht
  unfold State.answerExchange
  rw [ht]
  exact ⟨_, _, _, rfl, rfl⟩

/-- An accepted frame moves the session's counts alone. -/
theorem acceptFrame_link {s t : State} {b : Bytes} {x : Nat × Bytes} (h : s.acceptFrame b = (some x, t)) :
    t.now = s.now ∧ t.link.keys = s.link.keys ∧ t.link.epoch = s.link.epoch ∧ t.link.kemKey = s.link.kemKey ∧ t.link.initiator = s.link.initiator := by
  unfold State.acceptFrame at h
  dsimp only at h
  (repeat' split at h) <;> cases h
  all_goals exact ⟨rfl, rfl, rfl, rfl, rfl⟩

/-! ### The rows (R463, R465, R466) -/

section
variable {s t : State} {b p : Bytes}

theorem execLinkTrained_up (hr : s.linkRuns = true) (hb : s.boot.state ≠ .booting) (hm : s.link.mode = .down ∨ s.link.mode = .training) (half : Bool) :
    ∃ u, execLinkTrained half s = .next u ∧ u.link.mode = .up ∧ u.link.half = half ∧ u.now = max s.now s.link.retryAt ∧
      u.host.sent = s.host.sent ++ [.frame s.helloFrame] := by
  refine ⟨_, if_neg ?_, rfl, rfl, passTo_mono s _, rfl⟩
  rcases hm with hm | hm <;> simp [hr, hb, hm]

theorem execLaneFail_down (hr : s.linkRuns = true) (hm : s.link.mode ≠ .down) : ∃ u, execLaneFail s = .next u ∧ u.LinkDown ∧ u.link.half = true := by
  refine ⟨_, if_neg (by simp [hr, hm]), ?_⟩
  obtain ⟨h1, h2, h3⟩ := retrain_down s
  unfold State.LinkDown
  rw [link_log]
  exact ⟨⟨h1, h2, h3⟩, rfl⟩

theorem execFrameTimeout_down (hr : s.linkRuns = true) (hm : s.link.mode = .up ∨ s.link.mode = .secure) (fec : Bool) :
    ∃ u, execFrameTimeout fec s = .next u ∧ u.LinkDown ∧ u.now = if fec then s.now else max s.now (s.link.lastFrame + 1000000) := by
  refine ⟨_, if_neg (by rcases hm with hm | hm <;> simp [hr, hm]), retrain_down _, ?_⟩
  unfold State.now
  rw [(retrain_link _ .training).2]
  cases fec
  · exact passTo_mono s _
  · rfl

/-- The state once a HELLO has been heard. -/
def State.helloHeard (s : State) (b p : Bytes) : State :=
  let initiator := decide (beNat (slice Config.serial 0 16) < beNat (slice p 0 16))
  { s with link := { s.link with helloIn := true, rxNo := s.link.rxNo + 1, lastFrame := s.now, initiator := initiator, peerSerial := slice p 0 16
                                 peerState := byteAt p 16, peerChain := p.drop 17
                                 transcript := if initiator then s.link.transcript ++ b else b ++ s.link.transcript } }

theorem execHello_drops (hr : s.linkRuns = true) (hm : s.link.mode = .up) (hh : s.link.helloIn = false) (hp : s.plainNext 1 b = none) :
    execHello b s = .next s.dropFrame := by
  unfold execHello
  rw [if_neg (by simp [hr, hm, hh]), hp]

theorem execHello_refuses (hr : s.linkRuns = true) (hm : s.link.mode = .up) (hh : s.link.helloIn = false) (hp : s.plainNext 1 b = some p)
    (hf : s.peerFits (slice p 0 16) (byteAt p 16) (p.drop 17) = false) : execHello b s = .next (s.helloHeard b p).refuseSession := by
  unfold execHello
  rw [if_neg (by simp [hr, hm, hh]), hp]
  exact if_pos (by rw [Bool.not_eq_true']; exact hf)

/-- A peer that fits is known; the initiator goes on with what it can. -/
theorem execHello_knows (hr : s.linkRuns = true) (hm : s.link.mode = .up) (hh : s.link.helloIn = false) (hp : s.plainNext 1 b = some p)
    (hf : s.peerFits (slice p 0 16) (byteAt p 16) (p.drop 17) = true) : ∃ u, execHello b s = .next u ∧ (s.helloHeard b p).link.SameSession
      { u.link with kemKey := (s.helloHeard b p).link.kemKey } := by
  have hself : (s.helloHeard b p).link.SameSession { (s.helloHeard b p).link with kemKey := (s.helloHeard b p).link.kemKey } :=
    ⟨rfl, rfl, rfl, rfl, rfl, rfl, rfl, rfl, rfl, rfl⟩
  have he : execHello b s = if (s.helloHeard b p).link.initiator then
      match (s.helloHeard b p).openExchange with
      | some (q, t) => .next (t.sendPlain 2 q)
      | none => .next (s.helloHeard b p)
    else .next (s.helloHeard b p) := by
    unfold execHello
    rw [if_neg (by simp [hr, hm, hh]), hp]
    exact if_neg (by rw [Bool.not_eq_true', Bool.not_eq_false]; exact hf)
  rw [he]
  split
  · split
    next q t hq =>
      refine ⟨_, rfl, ?_⟩
      have hl := openExchange_link hq
      generalize (s.helloHeard b p).link = l at hl
      show l.SameSession { t.link with txNo := _, transcript := _, kemKey := _ }
      rw [hl]
      exact ⟨rfl, rfl, rfl, rfl, rfl, rfl, rfl, rfl, rfl, rfl⟩
    next => exact ⟨_, rfl, hself⟩
  · exact ⟨_, rfl, hself⟩

/-- The state once a KEY_SETUP has been heard. -/
def State.setupHeard (s : State) (b : Bytes) : State :=
  { s with link := { s.link with rxNo := s.link.rxNo + 1, lastFrame := s.now, transcript := s.link.transcript ++ b } }

/-- Epoch 1 begins with this side's KEY_CONFIRM. -/
theorem keysReady_link (s : State) (kz : Bytes) : (s.keysReady kz).link.epoch = 1 ∧ (s.keysReady kz).link.confirmOut = true ∧
    (s.keysReady kz).link.keys = s.link.deriveKeys kz 1 := by
  have hs : s.keysReady kz = State.sendFrame
      { s with link := { s.link with keys := s.link.deriveKeys kz 1, epoch := 1, txNo := 1, rxNo := 1, kemKey := [], confirmOut := true } } 3
      (s.attest s.link.transcript) := rfl
  generalize s.link.deriveKeys kz 1 = keys at hs ⊢
  rw [hs]
  have h := sendFrame_link { s with link := { s.link with keys := keys, epoch := 1, txNo := 1, rxNo := 1, kemKey := [], confirmOut := true } } 3
    (s.attest s.link.transcript)
  exact ⟨h.epoch, h.confirmOut, h.keys⟩

theorem execKeySetup_drops (hr : s.linkRuns = true) (hm : s.link.mode = .up) (hh : s.link.helloIn = true) (hk : s.link.keys = [])
    (hp : s.plainNext 2 b = none) : execKeySetup b s = .next s.dropFrame := by
  unfold execKeySetup
  rw [if_neg (by simp [hr, hm, hh, hk]), hp]

/-- The initiator takes the answer. -/
theorem execKeySetup_closes (hr : s.linkRuns = true) (hm : s.link.mode = .up) (hh : s.link.helloIn = true) (hk : s.link.keys = [])
    (hp : s.plainNext 2 b = some p) (hl : p.length = 1600) (hi : s.link.initiator = true) (hkem : s.link.kemKey ≠ []) :
    execKeySetup b s = .next ((s.setupHeard b).keysReady (s.link.closeExchange p)) := by
  unfold execKeySetup
  rw [if_neg (by simp [hr, hm, hh, hk]), hp]
  exact (if_pos hi).trans (if_neg (by simp [hkem, hl]))

/-- The responder answers, where its key is one and seeds are ready. -/
theorem execKeySetup_answers {x : Bytes × Bytes × State} (hr : s.linkRuns = true) (hm : s.link.mode = .up) (hh : s.link.helloIn = true)
    (hk : s.link.keys = []) (hp : s.plainNext 2 b = some p) (hl : p.length = 1600) (hi : s.link.initiator = false)
    (hv : kemEkValid 1024 (p.take 1568) = true) (hx : s.takeTwo (List.range 8) = some x) :
    ∃ t kz, execKeySetup b s = .next (State.keysReady t kz) := by
  obtain ⟨a, kz, t, ht, -⟩ := answerExchange_some s (l := { s.link with
    rxNo := s.link.rxNo + 1, lastFrame := s.now, transcript := s.link.transcript ++ b }) (p := p) hx
  refine ⟨t.sendPlain 2 a, kz, ?_⟩
  unfold execKeySetup
  rw [if_neg (by simp [hr, hm, hh, hk]), hp]
  refine (if_neg (by simp [hi])).trans ((if_neg (by simp [hl, hv])).trans ?_)
  rw [ht]

theorem execKeyConfirm_judges {ty : Nat} (hr : s.linkRuns = true) (hm : s.link.mode = .up) (hk : s.link.keys ≠ []) (hb : byteAt b 0 = 3)
    (ha : s.acceptFrame b = (some (ty, p), t)) : execKeyConfirm b s = .next
      (if officerVerify 0x21 (Config.chainKey t.link.peerChain) t.link.transcript p then
        (State.sessionChange { t with link := { t.link with mode := .secure, epochSince := t.now } }
          (if Config.chainSelfSigned t.link.peerChain then security else warning)).flushQueued
      else t.refuseSession) := by
  unfold execKeyConfirm
  rw [if_neg (by simp [hr, hm, hk, hb]), ha]
  dsimp only
  split <;> rfl

/-- A SECURE session, once what waited has been sent. -/
theorem secured_link (t : State) (severity : Nat) :
    let u := (State.sessionChange { t with link := { t.link with mode := .secure, epochSince := t.now } } severity).flushQueued
    u.link.mode = .secure ∧ u.link.epochSince = t.now := by
  have h := flushQueued_link (State.sessionChange { t with link := { t.link with mode := .secure, epochSince := t.now } } severity)
  rw [link_sessionChange] at h
  exact ⟨h.mode, h.epochSince⟩

theorem execRekey_opens (hr : s.linkRuns = true) (hm : s.link.mode = .secure) (hi : s.link.initiator = true) (hk : s.link.kemKey = [])
    (ho : (if 2 ^ 32 < s.link.txNo ∨ 2 ^ 32 < s.link.rxNo then s else s.passTo (s.link.epochSince + 86400000000000)).openExchange = some (p, t)) :
    execRekey [] s = .next (t.sendRekey p) := by
  unfold execRekey
  rw [if_neg (by simp [hr, hm]), if_pos rfl, if_neg (by simp [hi, hk])]
  simp only [Bool.or_eq_true, decide_eq_true_eq]
  rw [ho]

/-- The next epoch begins where the initiator takes the answer. -/
theorem execRekey_closes {ty : Nat} (hr : s.linkRuns = true) (hm : s.link.mode = .secure) (hb : byteAt b 0 = 7)
    (ha : s.acceptFrame b = (some (ty, p), t)) (hl : p.length = 1600) (hi : t.link.initiator = true) (hk : t.link.kemKey ≠ []) :
    execRekey b s = .next ((State.nextEpoch { t with link := { t.link with transcript := t.link.transcript ++ b } } (t.link.closeExchange p)).flushQueued) := by
  have hne : b ≠ [] := by
    rintro rfl
    exact absurd hb (by decide)
  unfold execRekey
  rw [if_neg (by simp [hr, hm]), if_neg hne, if_neg (by simp [hb]), ha]
  exact (if_neg (by simp [hl])).trans ((if_pos hi).trans (if_neg hk))

theorem execClose_ends {ty : Nat} (hr : s.linkRuns = true) (hm : s.link.mode = .secure) (hb : byteAt b 0 = 8)
    (ha : s.acceptFrame b = (some (ty, p), t)) : execClose b s = .next (t.retrain .training) := by
  unfold execClose
  rw [if_neg (by simp [hr, hm, hb]), ha]
end

/-- Settles O57: each row follows its frame, and what is sent leaves the session as it stands. -/
theorem linkSessionsForm : Obligations.LinkSessionsForm := by
  unfold Obligations.LinkSessionsForm
  intro s b half fec hr l down
  refine ⟨fun hb hm => execLinkTrained_up hr hb hm half, fun hm => execLaneFail_down hr hm, fun hm => execFrameTimeout_down hr hm fec, fun hm hh => ⟨?_, ?_⟩,
    fun hm hh hk => ⟨execKeySetup_drops hr hm hh hk, ?_, ?_⟩, ?_, ?_, ?_, ?_⟩
  · exact execHello_drops hr hm hh
  · intro p hp fits
    cases hf : s.peerFits (slice p 0 16) (byteAt p 16) (p.drop 17)
    · obtain ⟨hd, ht⟩ := refuseSession_down (s.helloHeard b p)
      exact ⟨_, execHello_refuses hr hm hh hp hf, fun _ => ⟨hd, ht⟩, fun h => absurd (hf.symm.trans h) (by decide)⟩
    · obtain ⟨u, hu, hs⟩ := execHello_knows hr hm hh hp hf
      exact ⟨u, hu, fun h => absurd (hf.symm.trans h) (by decide), fun _ => ⟨hs.mode.trans hm, hs.helloIn, hs.peerSerial, hs.initiator⟩⟩
  · intro p hp hl hi hkem
    obtain ⟨he, hc, hkeys⟩ := keysReady_link (s.setupHeard b) (s.link.closeExchange p)
    exact ⟨_, execKeySetup_closes hr hm hh hk hp hl hi hkem, he, hc, hkeys⟩
  · intro p x hp hl hi hv hx
    obtain ⟨t, kz, h⟩ := execKeySetup_answers hr hm hh hk hp hl hi hv hx
    obtain ⟨he, hc, -⟩ := keysReady_link t kz
    exact ⟨_, h, he, hc⟩
  · intro p t ty hm hk hb ha good
    obtain ⟨hnow, -⟩ := acceptFrame_link ha
    refine ⟨_, execKeyConfirm_judges hr hm hk hb ha, fun hg => ?_, fun hg => ?_⟩
    · rw [if_pos hg, ← hnow]
      exact secured_link t _
    · rw [if_neg (by rw [show officerVerify _ _ _ _ = false from hg]; decide), ← hnow]
      exact refuseSession_down t
  · intro p t hm hi hk ho
    refine ⟨execRekey_opens hr hm hi hk ho, (sendRekey_link t p).epoch.trans ?_⟩
    rw [openExchange_link ho]
    split <;> rfl
  · intro p t ty hm hb ha hl hi hk
    obtain ⟨-, hkeys, hep, hkem, hini⟩ := acceptFrame_link ha
    have h := flushQueued_link (State.nextEpoch { t with link := { t.link with transcript := t.link.transcript ++ b } } (t.link.closeExchange p))
    refine ⟨_, execRekey_closes hr hm hb ha hl (hini.trans hi) (hkem ▸ hk), ?_, h.oldKeys.trans hkeys, h.kemKey⟩
    rw [h.epoch]
    exact congrArg (· + 1) hep
  · intro p t ty hm hb ha
    exact ⟨_, execClose_ends hr hm hb ha, retrain_down t⟩

end Sys2Proof.Machine
end

section
/-!
PROOF. What completions, aborts and the LOCK response leave of the state, and the resets of the host's side (O54).
-/

namespace Sys2Proof.Machine

/-! ### What entries, messages, completions and the journal change -/

/-- The state without what entries, messages, completions, command work and journal entries change, and the wardens without their
running digests. -/
structure Calm where
  rest : State
  wardens : Nat → Warden

def State.calm (s : State) : Calm where
  rest := { s with
    free := 0, doms := [], regions := [], trail := {}, events := {}, wardens := [], allBusy := false
    host := { s.host with sent := [], waiting := [], vectors := [] }
    guy := { s.guy with held := [], saturated := false, lastSaturated := none, journal := [], written := 0, headDigest := [] } }
  wardens := fun w => { s.warden w with digest := [], applied := 0 }

@[simp] theorem calm_foldl {α : Type} (f : State → α → State) (hf : ∀ t a, (f t a).calm = t.calm) (l : List α) (s : State) :
    (l.foldl f s).calm = s.calm := by
  induction l generalizing s with
  | nil => rfl
  | cons a l ih => rw [List.foldl_cons, ih, hf]

section
variable (s : State)

@[simp] theorem calm_setDom (d : Nat) (f : Dom → Dom) : (s.setDom d f).calm = s.calm := rfl

@[simp] theorem calm_setCmd (d id : Nat) (f : Cmd → Cmd) : (s.setCmd d id f).calm = s.calm := rfl

@[simp] theorem calm_fresh (n : Nat) : (s.fresh n).2.calm = s.calm := rfl

@[simp] theorem calm_trailAs (code origin severity flags : Nat) (data : Bytes) (toMram : Bool) (time : Nat) :
    (s.trailAs code origin severity flags data toMram time).calm = s.calm := by
  unfold State.trailAs
  dsimp only
  (repeat' split) <;> rfl

@[simp] theorem calm_log (code origin severity : Nat) (data : Bytes) : (s.log code origin severity data).calm = s.calm := calm_trailAs ..

@[simp] theorem calm_suppress (code origin : Nat) : (s.suppress code origin).calm = s.calm := rfl

@[simp] theorem calm_message (v : Nat) (now : Bool) : (s.message v now).calm = s.calm := by
  unfold State.message
  dsimp only
  (repeat' split) <;> rfl

@[simp] theorem calm_eventEdge (source : Nat) : (s.eventEdge source).calm = s.calm := by
  unfold State.eventEdge
  dsimp only
  split <;> simp

@[simp] theorem calm_raise (source : Nat) : (s.raise source).calm = s.calm := by
  unfold State.raise
  split
  · rfl
  · rw [calm_eventEdge]
    rfl

@[simp] theorem calm_pitchEvent (d b : Nat) : (s.pitchEvent d b).calm = s.calm := by
  unfold State.pitchEvent
  dsimp only
  (repeat' split) <;> simp

@[simp] theorem calm_scrubJob (d id : Nat) : (s.scrubJob d id).calm = s.calm := rfl

@[simp] theorem calm_cut (d : Nat) (c : Cmd) : (s.cut d c).calm = s.calm := by
  unfold State.cut
  dsimp only
  split <;> rfl

/-- An applied entry moves the running digests alone. -/
@[simp] theorem calm_applyEntry (w : Nat) (received : JournalEntry → Bytes) : (s.applyEntry w received).calm = s.calm := by
  unfold State.applyEntry
  split
  · rfl
  · next e es _ =>
    refine (Calm.mk.injEq ..).mpr ⟨rfl, funext fun v => ?_⟩
    change { (s.setWarden w fun x => { x with digest := sha384 (x.digest ++ received e), applied := x.applied + 1 }).warden v with
      digest := [], applied := 0 } = _
    rw [warden_setWarden]
    split
    · next h => rw [h]
    · rfl

@[simp] theorem calm_journal (kind : JournalKind) (d seq : Nat) (data : Bytes) : (s.journal kind d seq data).calm = s.calm := by
  unfold State.journal State.applyJournal
  dsimp only
  (repeat' split)
  · rfl
  · exact calm_applyEntry s _ _
  · rfl

theorem calm_saturated (b : Bool) : ({ s with guy := { s.guy with saturated := b } }).calm = s.calm := rfl

@[simp] theorem calm_saturation : s.saturation.calm = s.calm := by
  have noted : (({ s with guy := { s.guy with saturated := true } }).raise 0x192).calm = s.calm := (calm_raise _ _).trans (calm_saturated s true)
  have told (due : Bool) (t : State) (ht : t.calm = s.calm) (x y n : Nat) (b : Bytes) :
      (if due then State.log { t with guy := { t.guy with lastSaturated := some n } } x y warning b else t.suppress x y).calm = s.calm := by
    split
    · exact (calm_log ..).trans ht
    · exact ht
  unfold State.saturation
  dsimp only
  split
  · rfl
  · split
    · rfl
    · exact told _ _ noted _ _ _ _

@[simp] theorem calm_busyTimer (d : Nat) : (s.busyTimer d).calm = s.calm := by
  have told (has : Bool) (t : State) (k : JournalKind) (n : Nat) (b : Bytes) : (if has then t.journal k d n b else t).calm = t.calm := by
    split
    · exact calm_journal ..
    · rfl
  unfold State.busyTimer
  dsimp only
  rw [calm_saturation, calm_foldl _ fun t e => calm_pitchEvent t e _]
  exact told _ _ _ _ _

@[simp] theorem calm_cancelDom (d : Nat) : (s.cancelDom d).calm = s.calm := by
  unfold State.cancelDom
  rw [calm_busyTimer]
  refine calm_foldl _ (fun t c => ?_) _ s
  exact calm_cut _ d c

/-! ### What cancelled commands leave of a domain (R42, R108) -/

/-- A domain without its commands, their BUSY state and its events. -/
def Dom.still (D : Dom) : Dom := { D with cmds := [], mgmtBusy := false, eventAck := 0 }

theorem still_setDom {f : Dom → Dom} (hf : ∀ D, (f D).still = D.still) (d e : Nat) : ((s.setDom d f).dom e).still = (s.dom e).still := by
  rw [dom_setDom]
  split
  · next h => rw [hf, h]
  · rfl

theorem dom_of_doms {s t : State} (h : t.doms = s.doms) (e : Nat) : t.dom e = s.dom e := by rw [State.dom, h, State.dom]

theorem still_foldl {α : Type} (f : State → α → State) (e : Nat) (hf : ∀ t a, ((f t a).dom e).still = (t.dom e).still) (l : List α) (s : State) :
    ((l.foldl f s).dom e).still = (s.dom e).still := by
  induction l generalizing s with
  | nil => rfl
  | cons a l ih => rw [List.foldl_cons, ih, hf]

@[simp] theorem still_pitchEvent (d b e : Nat) : ((s.pitchEvent d b).dom e).still = (s.dom e).still := by
  have marked : ((s.setDom d fun D => { D with eventAck := D.eventAck ||| 2 ^ b }).dom e).still = (s.dom e).still := still_setDom s (by intro; rfl) d e
  unfold State.pitchEvent
  dsimp only
  split
  · split
    · rw [dom_of_doms (doms_eventEdge _ _)]
      exact marked
    · exact marked
  · (repeat' split)
    · rw [dom_of_doms (doms_raise _ _)]
    · rw [dom_of_doms (doms_raise _ _)]
    · rw [dom_of_doms (doms_raise _ _)]
    · rfl

@[simp] theorem doms_saturation : s.saturation.doms = s.doms := by
  have told (due : Bool) (t : State) (ht : t.doms = s.doms) (x y n : Nat) (b : Bytes) :
      (if due then State.log { t with guy := { t.guy with lastSaturated := some n } } x y warning b else t.suppress x y).doms = s.doms := by
    split
    · exact (doms_log ..).trans ht
    · exact ht
  unfold State.saturation
  dsimp only
  split
  · rfl
  · split
    · rfl
    · exact told _ _ ((doms_raise { s with guy := { s.guy with saturated := true } } 0x192).trans rfl) _ _ _ _

@[simp] theorem still_busyTimer (d e : Nat) : ((s.busyTimer d).dom e).still = (s.dom e).still := by
  have told (has : Bool) (t : State) (k : JournalKind) (n : Nat) (b : Bytes) : (if has then t.journal k d n b else t).doms = t.doms := by
    split
    · exact doms_journal ..
    · rfl
  unfold State.busyTimer
  dsimp only
  rw [dom_of_doms (doms_saturation _), still_foldl _ e fun t x => still_pitchEvent t x _ e, dom_of_doms (told _ _ _ _ _)]
  exact still_setDom s (f := fun D => { D with mgmtBusy := if D.mgmtBusy then (s.dom d).mgmtCount > 32 else (s.dom d).mgmtCount ≥ 64 }) (fun _ => rfl) d e

@[simp] theorem still_cut (d : Nat) (c : Cmd) (e : Nat) : ((s.cut d c).dom e).still = (s.dom e).still := by
  unfold State.cut
  dsimp only
  split
  · exact still_setDom (s.scrubJob d c.id) (by intro; rfl) d e
  · exact still_setDom (s.scrubJob d c.id) (by intro; rfl) d e

@[simp] theorem still_cancelDom (d e : Nat) : ((s.cancelDom d).dom e).still = (s.dom e).still := by
  unfold State.cancelDom
  rw [still_busyTimer]
  refine still_foldl _ e (fun t c => ?_) _ s
  exact (still_cut _ d c e).trans (still_setDom t (by intro; rfl) d e)

/-! ### What leaving jobs change (R172, R205, R216) -/

/-- The calm state without the engines, the cores and the counters. -/
def State.outside (s : State) : State := { s.calm.rest with cells := [], lius := [], hashes := [], cores := [], perf := {} }

theorem outside_of_calm {s t : State} (h : t.calm = s.calm) : t.outside = s.outside := by rw [State.outside, h, State.outside]

theorem outside_foldl {α : Type} (f : State → α → State) (hf : ∀ t a, (f t a).outside = t.outside) (l : List α) (s : State) :
    (l.foldl f s).outside = s.outside := by
  induction l generalizing s with
  | nil => rfl
  | cons a l ih => rw [List.foldl_cons, ih, hf]

@[simp] theorem outside_raise (source : Nat) : (s.raise source).outside = s.outside := outside_of_calm (calm_raise ..)

@[simp] theorem outside_bump (kind unit index n : Nat) : (s.bump kind unit index n).outside = s.outside := by
  unfold State.bump
  dsimp only
  (repeat' split) <;> rfl

@[simp] theorem outside_count (kind unit event : Nat) (dom : Option Nat) (n : Nat) : (s.count kind unit event dom n).outside = s.outside := by
  unfold State.count
  exact outside_foldl _ (fun t i => by split <;> simp) _ _

@[simp] theorem outside_setRegion (r : Nat) (f : Region → Region) : (s.setRegion r f).outside = s.outside := rfl

@[simp] theorem outside_setEntropy (r : Nat) (f : EntropyRegion → EntropyRegion) : (s.setEntropy r f).outside = s.outside := rfl

theorem outside_takeSeedOf {s t : State} {r : Nat} {after : Option Nat} {a : Bytes} (h : s.takeSeedOf r after = some (a, t)) :
    t.outside = s.outside := by
  simp only [State.takeSeedOf, Option.map_eq_some_iff, Prod.mk.injEq] at h
  obtain ⟨_, _, _, rfl⟩ := h
  rfl

@[simp] theorem outside_setBorrowing (r : Nat) (on : Bool) : (s.setBorrowing r on).outside = s.outside := by
  unfold State.setBorrowing
  split
  · rfl
  · exact outside_of_calm ((calm_raise ..).trans (calm_log ..))

theorem outside_regionSeed {s t : State} {r : Nat} {a : Bytes} (h : s.regionSeed r = some (a, t)) : t.outside = s.outside := by
  unfold State.regionSeed State.borrow at h
  split at h
  · next hp => cases h; exact outside_takeSeedOf hp
  · split at h
    · simp only [Option.bind_eq_some_iff, Option.map_eq_some_iff, Prod.mk.injEq] at h
      obtain ⟨_, _, p, hp, rfl, rfl⟩ := h
      rw [outside_count, outside_setBorrowing, outside_takeSeedOf hp]
    · cases h

@[simp] theorem outside_reseedBlinding (r : Nat) : (s.reseedBlinding r).outside = s.outside := by
  unfold State.reseedBlinding
  split
  · rfl
  · split
    · next h => rw [outside_setEntropy, outside_regionSeed h]
    · rfl

@[simp] theorem outside_blind (r : Nat) (ns : List Nat) : (s.blind r ns).2.outside = s.outside := by
  unfold State.blind
  dsimp only
  split <;> simp

@[simp] theorem outside_chooseWork (l : Nat) : (s.chooseWork l).outside = s.outside := by
  unfold State.chooseWork
  dsimp only
  (repeat' split) <;> rfl

@[simp] theorem outside_goOn (l : Nat) : (s.goOn l).outside = s.outside := by
  unfold State.goOn
  split <;> simp

@[simp] theorem outside_leaveContext (l x : Nat) : (s.leaveContext l x).outside = s.outside := by
  unfold State.leaveContext
  exact outside_blind s _ _

@[simp] theorem outside_feedHash (r : Nat) : (s.feedHash r).outside = s.outside := by
  unfold State.feedHash
  dsimp only
  split
  · rfl
  · split <;> rfl

@[simp] theorem outside_feedHashes (r : Nat) : (s.feedHashes r).outside = s.outside := outside_foldl _ (fun t _ => outside_feedHash t r) _ s

@[simp] theorem outside_dropJobs (mine : Nat → Bool) : (s.dropJobs mine).outside = s.outside := by
  unfold State.dropJobs
  dsimp only
  refine (outside_foldl _ (fun t r => outside_feedHashes t r) _ _).trans ((outside_foldl _ outside_goOn _ _).trans ?_)
  exact outside_foldl _ (fun t (p : Nat × Nat) => outside_leaveContext t p.1 p.2) _ _

@[simp] theorem doms_dropJobs (mine : Nat → Bool) : (s.dropJobs mine).doms = s.doms := by
  unfold State.dropJobs
  dsimp only
  refine (doms_foldl _ _ _ fun t r => doms_feedHashes t r).trans ((doms_foldl _ _ _ doms_goOn).trans ?_)
  exact doms_foldl _ _ _ fun t (p : Nat × Nat) => doms_leaveContext t p.1 p.2

/-! ### The reset of the host's side (R442) -/

/-- A domain after a host reset, against the one before. -/
def Dom.HostFresh (D old : Dom) : Prop := D.queues = [] ∧ D.waiting = [] ∧ D.keys = old.keys ∧ D.conf = old.conf

theorem hostFresh_of_still {D E old : Dom} (h : D.still = E.still) (f : E.HostFresh old) : D.HostFresh old := by
  obtain ⟨hq, hw, hk, hc⟩ := f
  exact ⟨(congrArg Dom.queues h :).trans hq, (congrArg Dom.waiting h :).trans hw, (congrArg Dom.keys h :).trans hk, (congrArg Dom.conf h :).trans hc⟩

theorem keys_of_still {D E : Dom} (h : D.still = E.still) : D.keys = E.keys ∧ D.conf = E.conf := by
  obtain ⟨-, -, hk, hc⟩ := hostFresh_of_still (E := { E with queues := [], waiting := [] }) (D := { D with queues := [], waiting := [] }) (old := E)
    (congrArg (fun x : Dom => { x with queues := [], waiting := [] }) h) ⟨rfl, rfl, rfl, rfl⟩
  exact ⟨hk, hc⟩

theorem still_cancelHost_same (d : Nat) : ((s.cancelHost d).dom d).still = (s.dom d).hostReset.still := by
  unfold State.cancelHost
  rw [still_cancelDom, dom_setDom_same]
  rfl

theorem still_cancelHost_other {d e : Nat} (h : e ≠ d) : ((s.cancelHost d).dom e).still = (s.dom e).still := by
  unfold State.cancelHost
  rw [still_cancelDom, dom_setDom_other _ h]

theorem calm_cancelHost (d : Nat) : (s.cancelHost d).calm = s.calm := by
  unfold State.cancelHost
  exact calm_cancelDom _ d

/-- A domain that keeps its keys and configuration, and is emptied where it is named. -/
theorem cancelHost_hostFresh (d e : Nat) {old : Dom} (h : (s.dom e).keys = old.keys ∧ (s.dom e).conf = old.conf) (f : d = e ∨ (s.dom e).HostFresh old) :
    ((s.cancelHost d).dom e).HostFresh old := by
  by_cases hd : e = d
  · subst hd
    exact hostFresh_of_still (still_cancelHost_same s e) ⟨rfl, rfl, h.1, h.2⟩
  · exact hostFresh_of_still (still_cancelHost_other s hd) (f.resolve_left fun x => hd x.symm)

theorem cancelHost_keys (d e : Nat) : ((s.cancelHost d).dom e).keys = (s.dom e).keys ∧ ((s.cancelHost d).dom e).conf = (s.dom e).conf := by
  by_cases hd : e = d
  · subst hd
    have h := keys_of_still (still_cancelHost_same s e)
    exact h
  · exact keys_of_still (still_cancelHost_other s hd)

theorem cancelHosts_hostFresh (l : List Nat) (e : Nat) {old : Dom} (h : (s.dom e).keys = old.keys ∧ (s.dom e).conf = old.conf)
    (f : e ∈ l ∨ (s.dom e).HostFresh old) : ((l.foldl State.cancelHost s).dom e).HostFresh old := by
  induction l generalizing s with
  | nil => exact f.resolve_left (List.not_mem_nil)
  | cons d l ih =>
    rw [List.foldl_cons]
    have kept := cancelHost_keys s d e
    have h' : ((s.cancelHost d).dom e).keys = old.keys ∧ ((s.cancelHost d).dom e).conf = old.conf := ⟨kept.1.trans h.1, kept.2.trans h.2⟩
    rcases f with f | f
    · rcases List.mem_cons.mp f with rfl | f
      · exact ih _ h' (.inr (cancelHost_hostFresh s e e h (.inl rfl)))
      · exact ih _ h' (.inl f)
    · exact ih _ h' (.inr (cancelHost_hostFresh s d e h (.inr f)))

/-- A key that a table does not list reads as absent. -/
theorem Tab.find_eq_none {α : Type} (t : Tab α) (i : Nat) (h : i ∉ t.map (·.1)) : Tab.find t i = none := by
  induction t with
  | nil => rfl
  | cons p t ih =>
    simp only [List.map_cons, List.mem_cons, not_or] at h
    rw [Tab.find, if_neg fun e => h.1 e.symm, ih h.2]

theorem dropSets_doms (l : List Nat) : (l.foldl State.dropSet s).doms = s.doms := doms_foldl _ _ _ fun _ _ => rfl

theorem dropSets_outside (l : List Nat) : (l.foldl State.dropSet s).outside = { s.outside with sets := (l.foldl State.dropSet s).sets } := by
  induction l generalizing s with
  | nil => rfl
  | cons k l ih => rw [List.foldl_cons, ih]; rfl

theorem dropSets_state (l : List Nat) (k : Nat) (h : k ∈ l ∨ (s.stage k).state = .empty) : ((l.foldl State.dropSet s).stage k).state = .empty := by
  induction l generalizing s with
  | nil => exact h.resolve_left List.not_mem_nil
  | cons j l ih =>
    rw [List.foldl_cons]
    refine ih _ ?_
    rw [State.dropSet, stage_setStage]
    split
    · exact .inr rfl
    · next hj => exact h.imp_left fun m => (List.mem_cons.mp m).resolve_left fun e => hj e.symm

end

theorem calm_resetEntry (s : State) (kind : ResetKind) (a b c : Nat) : (s.resetEntry kind a b c).calm = s.calm := calm_trailAs ..

theorem doms_resetEntry (s : State) (kind : ResetKind) (a b c : Nat) : (s.resetEntry kind a b c).doms = s.doms := doms_trailAs ..

/-- The state of a host reset once its commands are cancelled and its jobs dropped (R442 Table 19-3). -/
def State.hostDefaults (s : State) : State :=
  let s := { s with cores := []
                    regions := s.regions.map fun (p : Nat × Region) =>
                      (p.1, { p.2 with buffer := [], granules := [], cycleBase := 0, cycleSince := s.now }) }
  let s := s.endDebug
  { s with host := s.host.reset, guy := { s.guy with held := [] }, perf := Perf.cleared, trail := { s.trail with cursor := 0 } }

def State.hostDropped (s : State) : State := ((s.sets.map (·.1)).foldl State.dropSet s).dropJobs fun _ => true

theorem hostReset_eq (s : State) (kind : ResetKind) (n : Nat) :
    s.hostReset kind n = ((s.doms.map (·.1)).foldl State.cancelHost s).hostDropped.hostDefaults.resetEntry kind n s.cancelCount s.discardCount := by
  unfold State.hostReset State.hostDefaults State.hostDropped State.clearBlocks
  rfl

theorem hostDefaults_of_outside {t x : State} (h : t.outside = x) : t.hostDefaults.sets = x.sets ∧ t.hostDefaults.boot = x.boot ∧
    t.hostDefaults.host.linkUp = x.host.linkUp :=
  ⟨(congrArg State.sets h :), (congrArg State.boot h :), (congrArg (fun x : State => x.host.linkUp) h :)⟩

theorem hostDropped_outside (a : State) : a.hostDropped.outside = { a.outside with sets := ((a.sets.map (·.1)).foldl State.dropSet a).sets } :=
  (outside_dropJobs _ _).trans (dropSets_outside a _)

theorem hostDropped_doms (a : State) : a.hostDropped.doms = a.doms := (doms_dropJobs _ _).trans (dropSets_doms a _)

theorem dropSets_empty (a : State) (k : Nat) : (((a.sets.map (·.1)).foldl State.dropSet a).stage k).state = .empty := by
  refine dropSets_state a _ k ?_
  by_cases hk : k ∈ a.sets.map (·.1)
  · exact .inl hk
  · exact .inr (by rw [State.stage, Tab.get, Tab.find_eq_none _ _ hk]; rfl)

theorem perf_hostDefaults (t : State) : t.hostDefaults.perf = Perf.cleared ∧ t.hostDefaults.cores = [] ∧ t.hostDefaults.doms = t.doms := ⟨rfl, rfl, rfl⟩

theorem parts_of_calm {s t : State} (h : t.calm = s.calm) :
    t.perf = s.perf ∧ t.cores = s.cores ∧ t.sets = s.sets ∧ t.boot = s.boot ∧ t.host.linkUp = s.host.linkUp :=
  ⟨congrArg (fun x : Calm => x.rest.perf) h, congrArg (fun x : Calm => x.rest.cores) h, congrArg (fun x : Calm => x.rest.sets) h,
    congrArg (fun x : Calm => x.rest.boot) h, congrArg (fun x : Calm => x.rest.host.linkUp) h⟩

/-- A domain that no reset touches is fresh if the table does not list it. -/
theorem cancelled_hostFresh (s : State) (d : Nat) : (((s.doms.map (·.1)).foldl State.cancelHost s).dom d).HostFresh (s.dom d) := by
  refine cancelHosts_hostFresh s _ d ⟨rfl, rfl⟩ ?_
  by_cases hd : d ∈ s.doms.map (·.1)
  · exact .inl hd
  · exact .inr (by rw [State.dom, Tab.get, Tab.find_eq_none _ _ hd]; exact ⟨rfl, rfl, rfl, rfl⟩)

/-- What a host reset leaves and what it clears. -/
theorem hostReset_outcome (s : State) (kind : ResetKind) (n : Nat) :
    (s.hostReset kind n).perf = Perf.cleared ∧ (s.hostReset kind n).cores = [] ∧ (∀ k, ((s.hostReset kind n).stage k).state = .empty) ∧
      (∀ d, ((s.hostReset kind n).dom d).HostFresh (s.dom d)) ∧ (s.hostReset kind n).boot = s.boot ∧
      (s.hostReset kind n).host.linkUp = s.host.linkUp := by
  rw [hostReset_eq]
  have fresh := cancelled_hostFresh s
  have cancelled : ((s.doms.map (·.1)).foldl State.cancelHost s).calm = s.calm := calm_foldl _ calm_cancelHost _ s
  generalize (s.doms.map (·.1)).foldl State.cancelHost s = a at fresh cancelled ⊢
  obtain ⟨sets, boot, link⟩ := hostDefaults_of_outside (hostDropped_outside a)
  obtain ⟨perf, cores, doms⟩ := perf_hostDefaults a.hostDropped
  rw [hostDropped_doms] at doms
  generalize a.hostDropped.hostDefaults = c at sets boot link perf cores doms ⊢
  obtain ⟨hp, hc, hs, hb, hl⟩ := parts_of_calm (calm_resetEntry c kind n s.cancelCount s.discardCount)
  obtain ⟨-, -, -, boot', link'⟩ := parts_of_calm cancelled
  refine ⟨hp.trans perf, hc.trans cores, fun k => ?_, fun d => ?_, hb.trans (boot.trans boot'), hl.trans (link.trans link')⟩
  · rw [State.stage, hs, sets]
    exact dropSets_empty a k
  · rw [dom_of_doms ((doms_resetEntry ..).trans doms)]
    exact fresh d

end Sys2Proof.Machine
end

section
/-!
PROOF. What completions, aborts, LOCK and STRIKE leave of the state, and the resets of the host's side (O54).
-/

namespace Sys2Proof.Machine

section
variable (s : State)

/-! ### Completions (R25, R41, R356) -/

@[simp] theorem calm_wait (o : HostOut) : (s.wait o).calm = s.calm := rfl

@[simp] theorem calm_hold (o : HostOut) : (s.hold o).calm = s.calm := rfl

@[simp] theorem calm_putRaw (o : HostOut) : (s.putRaw o).calm = s.calm := rfl

@[simp] theorem calm_dirtyFail (d : Nat) : (s.dirtyFail d).calm = s.calm := by
  unfold State.dirtyFail
  simp

@[simp] theorem calm_dirtyIssue (d w : Nat) : (s.dirtyIssue d w).calm = s.calm := by
  unfold State.dirtyIssue
  dsimp only
  (repeat' split) <;> simp

@[simp] theorem calm_dirtyMark (d addr len : Nat) : (s.dirtyMark d addr len).calm = s.calm := by
  unfold State.dirtyMark
  split
  · rfl
  · exact calm_foldl _ (fun t w => calm_dirtyIssue t d w) _ _

@[simp] theorem calm_put (o : HostOut) : (s.put o).calm = s.calm := by
  unfold State.put
  split <;> simp

@[simp] theorem calm_emitNow (o : HostOut) : (s.emitNow o).calm = s.calm := by
  unfold State.emitNow
  split <;> simp

@[simp] theorem calm_emit (o : HostOut) : (s.emit o).calm = s.calm := by
  unfold State.emit
  split <;> simp

@[simp] theorem calm_aggregate (d q : Nat) (now : Bool) : (s.aggregate d q now).calm = s.calm := by
  unfold State.aggregate State.journalTimer
  dsimp only
  (repeat' split) <;> simp

@[simp] theorem calm_post (d q : Nat) (x : Completion) (now : Bool) : (s.post d q x now).calm = s.calm := by
  have told (c : Bool) (t : State) (o : HostOut) : (if c then t.emitNow o else t.emit o).calm = t.calm := by split <;> simp
  unfold State.post
  dsimp only
  split
  · rfl
  · split
    · exact (told ..).trans (calm_setDom ..)
    · rw [calm_aggregate]
      exact (told ..).trans (calm_setDom ..)

/-! ### Aborts (R27, R375) -/

@[simp] theorem calm_mgmtEntry (d : Nat) (c : Cmd) : (s.mgmtEntry d c).calm = s.calm := by
  unfold State.mgmtEntry State.mgmtLog
  split <;> simp

@[simp] theorem calm_abortPost (d : Nat) (c : Cmd) (source : Nat) : (s.abortPost d c source).calm = s.calm := by
  unfold State.abortPost
  split <;> simp

@[simp] theorem calm_setAside (d : Nat) (c : Cmd) : (s.setAside d c).calm = s.calm := rfl

@[simp] theorem calm_abortCmd (source : Nat) (p : Posting) (d : Nat) (c : Cmd) : (s.abortCmd source p d c).calm = s.calm := by
  unfold State.abortCmd
  dsimp only
  split <;> simp

@[simp] theorem calm_abortDom (source : Nat) (p : Posting) (only : Cmd → Bool) (d : Nat) : (s.abortDom source p only d).calm = s.calm := by
  unfold State.abortDom
  rw [calm_busyTimer]
  exact calm_foldl _ (fun t c => calm_abortCmd t source p d c) _ s

@[simp] theorem calm_abortAll (source : Nat) (p : Posting) : (s.abortAll source p).calm = s.calm := by
  unfold State.abortAll State.foldDoms
  dsimp only
  exact calm_foldl _ (fun t d => calm_abortDom t source p _ d) _ s

@[simp] theorem calm_lockPitch (p : Nat) : (s.lockPitch p).calm = s.calm := by
  unfold State.lockPitch
  dsimp only
  (repeat' split) <;> simp

/-! ### LOCK and STRIKE (R375, R377) -/

/-- The module as LOCK leaves it. -/
def State.lockEntered (s : State) : State :=
  if s.wakeModule.boot.state = .locked then s.wakeModule
  else ({ s.wakeModule with boot := { s.wakeModule.boot with state := .locked } }).driveHealth

theorem lockModule_calm (source : Nat) (p : Posting) : (s.lockModule source p).calm = s.lockEntered.calm := by
  unfold State.lockModule State.lockEntered State.foldDoms
  dsimp only
  by_cases h : s.wakeModule.boot.state = .locked
  · rw [if_pos h, if_pos h, calm_abortAll]
  · rw [if_neg h, if_neg h, calm_raise, calm_log, calm_abortAll, calm_foldl]
    intro t p
    split
    · rfl
    · exact calm_lockPitch t p

/-! ### What no response changes: main power and the supplies -/

/-- Whether the main domain is powered, and its supplies. -/
def State.power (s : State) : Bool × Supplies := (s.boot.powered, s.supplies)

theorem power_of_calm {s t : State} (h : t.calm = s.calm) : t.power = s.power :=
  congrArg (fun x : Calm => (x.rest.boot.powered, x.rest.supplies)) h

theorem power_lockEntered : s.lockEntered.power = s.power := by
  unfold State.lockEntered State.driveHealth State.wakeModule
  dsimp only
  (repeat' split) <;> rfl

theorem power_lockModule (source : Nat) (p : Posting) : (s.lockModule source p).power = s.power :=
  (power_of_calm (lockModule_calm s source p)).trans (power_lockEntered s)

@[simp] theorem power_setTamper (f : Tamper → Tamper) : (s.setTamper f).power = s.power := rfl

@[simp] theorem power_endDebug : s.endDebug.power = s.power := rfl

/-- The calm part of a state after a change of the tamper logic depends on the calm part before it. -/
theorem calm_setTamper {s t : State} (h : t.calm = s.calm) (f : Tamper → Tamper) : (t.setTamper f).calm = (s.setTamper f).calm :=
  congrArg (fun x : Calm => (⟨{ x.rest with tamper := f x.rest.tamper }, x.wardens⟩ : Calm)) h

theorem calm_setShed (on : Bool) : (s.setShed on).calm = (s.setTamper fun t => { t with shed := on }).calm := by
  unfold State.setShed
  split
  · next h => subst h; rfl
  · exact calm_setTamper (calm_foldl _ (by intro t r; rfl) _ s) _

@[simp] theorem power_setShed (on : Bool) : (s.setShed on).power = s.power := power_of_calm (s := s.setTamper fun t => { t with shed := on }) (calm_setShed s on)

theorem power_lock (source : Nat) : (s.lock source).power = s.power := by
  unfold State.lock
  dsimp only
  (repeat' split)
  · rfl
  · rfl
  · exact power_lockModule ..

theorem power_struck (halt : Bool) : (s.struck halt).power = s.power := by
  unfold State.struck
  dsimp only
  split
  · exact power_setShed ..
  · split
    · exact power_setShed ..
    · exact (power_lockModule ..).trans (power_setShed ..)

theorem power_driveHealth : s.driveHealth.power = s.power := by
  unfold State.driveHealth
  split <;> rfl

theorem power_strike (halt : Bool) : (s.strike halt).power = s.power := by
  have struck : (if s.tamper.striking then s else s.struck halt).power = s.power := by
    split
    · rfl
    · exact power_struck ..
  unfold State.strike
  dsimp only
  generalize (if s.tamper.striking then s else s.struck halt) = u at struck ⊢
  (repeat' split)
  · exact (power_driveHealth _).trans struck
  · exact struck
  · exact struck

theorem power_respond (n : Nat) (r : Response) : (s.respond n r).power = s.power := by
  unfold State.respond
  dsimp only
  split
  · rfl
  · generalize hu : State.setShed _ true = u
    have shed : u.power = s.power := hu ▸ power_setShed _ _
    split
    · exact (power_lock ..).trans shed
    · exact (power_strike ..).trans shed
    · exact (power_strike ..).trans shed
    · exact shed

/-- The tamper logic with the side actions of an alarm (R372). -/
def State.alarmTaken (s : State) (n : Nat) : State :=
  s.setTamper fun t =>
    { t.took (s.tamper.response n) with
      flags := t.flags ||| BitVec.ofNat 16 (2 ^ n) ||| (if !s.boot.powered then 0x4000 else 0)
      alarmCount := min 0xFFFF (t.alarmCount + 1), firstSource := if t.firstSource = 0xFF then n else t.firstSource
      emberLock := t.emberLock || (!s.boot.powered && (s.tamper.response n).code ≥ 3)
      counts := Tab.put t.counts 0 n (min 0xFFFFFFFF (Tab.get t.counts 0 n + 1)) }

/-- The event of an alarm is raised, or owed where the trail does not run (R384). -/
theorem alarmSides_calm (n detector : Nat) : (s.alarmSides n detector).calm = (s.alarmTaken n).calm ∨
    (s.alarmSides n detector).calm = ((s.alarmTaken n).setTamper fun t => { t with owedEvents := t.owedEvents ||| BitVec.ofNat 10 (2 ^ n) }).calm := by
  unfold State.alarmSides
  change State.calm (if (s.alarmTaken n).trailRuns then _ else _) = _ ∨ State.calm (if (s.alarmTaken n).trailRuns then _ else _) = _
  split
  · exact .inl ((calm_raise ..).trans (calm_trailAs ..))
  · exact .inr rfl

theorem power_alarmSides (n detector : Nat) : (s.alarmSides n detector).power = s.power := by
  rcases alarmSides_calm s n detector with h | h
  · exact power_of_calm (s := s.alarmTaken n) h
  · exact power_of_calm (s := (s.alarmTaken n).setTamper _) h

/-- The tamper logic with a detector in alarm (R370). -/
def State.detected (s : State) (n detector : Nat) : State :=
  let b : BitVec 10 := BitVec.ofNat 10 (2 ^ n)
  let time := if s.boot.powered then s.clock.tai else 0
  s.setTamper fun t =>
    { t with alarm := t.alarm ||| b, shedSince := if t.response n = .shed then none else t.shedSince
             detectorA := if n != 9 && detector % 2 = 0 then t.detectorA ||| b else t.detectorA
             detectorB := if n != 9 && detector % 2 = 1 then t.detectorB ||| b else t.detectorB
             pairs := if n = 9 then insertNat t.pairs detector else t.pairs
             since := if t.alarm.getLsbD n then t.since else Tab.insert t.since n (detector, time) }

theorem alarm_eq (n detector : Nat) : s.alarm n detector =
    if !s.detects n detector then s
    else if s.tamper.reported n detector then s.detected n detector
    else ((s.detected n detector).alarmSides n detector).respond n (s.tamper.response n) := rfl

theorem power_alarm (n detector : Nat) : (s.alarm n detector).power = s.power := by
  rw [alarm_eq]
  split
  · rfl
  · split
    · rfl
    · exact (power_respond ..).trans (power_alarmSides ..)

theorem power_alarmEnd (n detector : Nat) : (s.alarmEnd n detector).power = s.power := by
  unfold State.alarmEnd
  split <;> rfl

theorem power_excursion (n v : Nat) : (s.excursion n v).power =
    (s.boot.powered, { s.supplies with excursions := Tab.put s.supplies.excursions 0 n (Tab.get s.supplies.excursions 0 n + 1) }) := by
  unfold State.excursion
  dsimp only
  split
  · exact power_of_calm (calm_log ..)
  · rfl

end

/-! ### The resets and the supplies -/

theorem hostResetNow_runs {s : State} (hb : s.boot.state ≠ .booting) (ht : s.tamper.striking = false) (kind : ResetKind) (n : Nat) :
    s.hostResetNow kind n = s.hostReset kind n := by
  unfold State.hostResetNow
  rw [if_neg (by simp [ht]), if_neg hb]

theorem trainHost_up {s : State} (hr : s.running = true) (hp : s.host.perst = false) (hc : s.supplies.refclk = true)
    (hb : s.boot.state ≠ .booting ∨ 3 ≤ s.boot.step) : s.trainHost.host.linkUp = true := by
  have open_ : (s.running && !s.host.perst && s.supplies.refclk && !(s.boot.state = .booting && s.boot.step < 3)) = true := by
    rw [hr, hp, hc]
    simpa using hb.imp_right Nat.not_lt.mpr
  unfold State.trainHost
  rw [if_pos open_]

theorem trainHost_pins (s : State) : s.trainHost.host.perst = s.host.perst ∧ s.trainHost.supplies = s.supplies := by
  unfold State.trainHost
  split <;> exact ⟨rfl, rfl⟩

theorem running_of_boot {s t : State} (h : t.boot = s.boot) : t.running = s.running := by
  rw [State.running, h, State.running]

/-- An excursion counts itself, and nothing else of what a reset reads. -/
theorem excursion_outcome (s : State) (n v : Nat) : (s.excursion n v).boot = s.boot ∧ (s.excursion n v).tamper = s.tamper ∧
    (s.excursion n v).doms = s.doms ∧ (s.excursion n v).host = s.host ∧ (s.excursion n v).running = s.running := by
  have told (t : State) : (t.log codeExcursion (originOf 10 n) errorSeverity (leBytes 8 n ++ leBytes 8 v)).calm = t.calm := calm_log ..
  unfold State.excursion
  dsimp only
  split
  · have h := told { s with supplies := { s.supplies with excursions := Tab.put s.supplies.excursions 0 n (Tab.get s.supplies.excursions 0 n + 1) } }
    have hb := (congrArg (fun x : Calm => x.rest.boot) h :)
    exact ⟨hb, (congrArg (fun x : Calm => x.rest.tamper) h :), doms_log .., host_log .., running_of_boot hb⟩
  · exact ⟨rfl, rfl, rfl, rfl, rfl⟩

theorem excursion_power {s t : State} (h : t.power = s.power) (n v : Nat) :
    (t.excursion n v).boot.powered = s.boot.powered ∧
      Tab.get (t.excursion n v).supplies.excursions 0 n = Tab.get s.supplies.excursions 0 n + 1 ∧
      (t.excursion n v).supplies.p3v3 = s.supplies.p3v3 := by
  have powered : t.boot.powered = s.boot.powered := congrArg Prod.fst h
  have supplies : t.supplies = s.supplies := congrArg Prod.snd h
  have e := power_excursion t n v
  rw [powered, supplies] at e
  have es : (t.excursion n v).supplies =
      { s.supplies with excursions := Tab.put s.supplies.excursions 0 n (Tab.get s.supplies.excursions 0 n + 1) } := congrArg Prod.snd e
  rw [es]
  have counted : Tab.get (Tab.put s.supplies.excursions 0 n (Tab.get s.supplies.excursions 0 n + 1)) 0 n =
      Tab.get s.supplies.excursions 0 n + 1 := Tab.get_put_same ..
  exact ⟨congrArg Prod.fst e, counted, rfl⟩

/-- Once the boot is over and no STRIKE is in progress, a warm reset and a DEVICE_RESET are host resets. -/
theorem hostResetNow_outcome {s t : State} (hb : t.boot = s.boot) (ht : t.tamper = s.tamper) (hd : t.doms = s.doms) (hl : t.host = s.host)
    (booted : s.boot.state ≠ .booting) (quiet : s.tamper.striking = false) (kind : ResetKind) (n : Nat) :
    ((t.hostResetNow kind n).perf = Perf.cleared ∧ (t.hostResetNow kind n).cores = [] ∧
      (∀ k, ((t.hostResetNow kind n).stage k).state = .empty) ∧ ∀ d, ((t.hostResetNow kind n).dom d).HostFresh (s.dom d)) ∧
      (t.hostResetNow kind n).boot = s.boot ∧ (t.hostResetNow kind n).host.linkUp = s.host.linkUp := by
  rw [hostResetNow_runs (by rw [hb]; exact booted) (by rw [ht]; exact quiet)]
  obtain ⟨perf, cores, sets, doms, boot, link⟩ := hostReset_outcome t kind n
  refine ⟨⟨perf, cores, sets, fun d => ?_⟩, boot.trans hb, link.trans (by rw [hl])⟩
  rw [← dom_of_doms hd d]
  exact doms d

theorem execWarmReset_runs {s : State} (hr : s.running = true) (trigger : WarmTrigger) :
    execWarmReset trigger s =
      let s := (if trigger = .refclk then s.excursion 4 0 else s).hostResetNow .warm (WarmTrigger.code trigger)
      match trigger with
      | .perst => .next { s with host := { s.host with perst := true, linkUp := false } }
      | .refclk => .next { s with host := { s.host with linkUp := false }, supplies := { s.supplies with refclk := false } }
      | _ => .next s := by
  unfold execWarmReset
  refine (if_neg (by simp [hr])).trans ?_
  cases trigger <;> rfl

/-- Settles O54: a host reset empties every domain that the table lists, and no response of the tamper logic reaches the supplies. -/
theorem hostResetsAct : Obligations.HostResetsAct := by
  unfold Obligations.HostResetsAct
  intro s trigger mv duration fresh
  refine ⟨?_, ?_, ?_, ?_, ?_, ?_, ?_⟩
  · intro hr hb ht
    change ∃ u, execWarmReset trigger s = .next u ∧ _
    rw [execWarmReset_runs hr]
    cases trigger with
    | perst =>
      obtain ⟨f, boot, -⟩ := hostResetNow_outcome (t := s) rfl rfl rfl rfl hb ht .warm (WarmTrigger.code .perst)
      exact ⟨_, rfl, f, boot, rfl, fun _ => rfl, nofun⟩
    | hotReset =>
      obtain ⟨f, boot, link⟩ := hostResetNow_outcome (t := s) rfl rfl rfl rfl hb ht .warm (WarmTrigger.code .hotReset)
      exact ⟨_, rfl, f, boot, link, nofun, nofun⟩
    | linkDown =>
      obtain ⟨f, boot, link⟩ := hostResetNow_outcome (t := s) rfl rfl rfl rfl hb ht .warm (WarmTrigger.code .linkDown)
      exact ⟨_, rfl, f, boot, link, nofun, nofun⟩
    | refclk =>
      obtain ⟨hb', ht', hd', hl', -⟩ := excursion_outcome s 4 0
      obtain ⟨f, boot, -⟩ := hostResetNow_outcome hb' ht' hd' hl' hb ht .warm (WarmTrigger.code .refclk)
      exact ⟨_, rfl, f, boot, rfl, nofun, fun _ => rfl⟩
  · intro hr hb hl
    have now : exec .deviceReset s = .next (s.hostResetNow .device 0) := by
      change execDeviceReset s = _
      unfold execDeviceReset
      rw [if_pos (by simp [hr, hl])]
    rw [now]
    refine ⟨fun ht => ?_, fun ht => ?_⟩
    · obtain ⟨f, -, link⟩ := hostResetNow_outcome (t := s) rfl rfl rfl rfl hb ht .device 0
      exact ⟨_, rfl, f, link.trans hl⟩
    · unfold State.hostResetNow
      rw [if_pos ht]
  · intro hr hb ht
    have booting (kind : ResetKind) (n : Nat) : s.hostResetNow kind n = if kind = .warm && n = 0 then { s with host := s.host.reset } else s := by
      unfold State.hostResetNow
      rw [if_neg (by simp [ht]), if_pos hb]
    refine ⟨⟨_, (execWarmReset_runs hr .perst).trans rfl, ?_⟩, fun hl => ?_, (execWarmReset_runs hr .hotReset).trans ?_⟩
    · change (_ : HostPort) = _ ∧ (s.hostResetNow .warm 0).doms = _ ∧ (s.hostResetNow .warm 0).sets = _
      rw [booting]
      refine ⟨?_, rfl, rfl⟩
      rw [if_neg (by decide), booting]
      rfl
    · change execDeviceReset s = _
      unfold execDeviceReset
      rw [if_pos (by simp [hr, hl]), booting]
      rfl
    · dsimp only
      rw [if_neg (by decide), booting]
      rfl
  · refine ⟨_, rfl, (trainHost_pins _).1, fun hr hc hb => trainHost_up hr rfl hc hb⟩
  · intro hc
    refine ⟨_, if_neg (by simp [hc]), congrArg Supplies.refclk (trainHost_pins _).2, fun hr hp hb => trainHost_up hr hp rfl hb⟩
  · intro hv hm
    have reached : ¬((10800 ≤ mv && mv ≤ 13200 || !s.supplies.p12v) = true) := by
      simp only [hv, Bool.not_true, Bool.or_false, Bool.and_eq_true, decide_eq_true_eq]
      omega
    obtain ⟨powered, counted, -⟩ := excursion_power (s := s) (t := if s.running then s.pass duration else s) (by split <;> rfl) 1 mv
    change ∃ v, execP12vExcursion mv duration s = .next v ∧ _
    unfold execP12vExcursion
    rw [if_neg reached]
    dsimp only
    generalize (if s.running then s.pass duration else s).excursion 1 mv = u at powered counted ⊢
    by_cases lost : (decide (mv < 8000) || decide (mv < 10200) && decide (duration > 1000000)) = true
    · rw [if_pos lost]
      simp only [Bool.or_eq_true, Bool.and_eq_true, decide_eq_true_eq] at lost
      exact ⟨_, rfl, counted, fun _ => ⟨rfl, rfl, rfl⟩, fun _ _ => by omega⟩
    · rw [if_neg lost]
      simp only [Bool.or_eq_true, Bool.and_eq_true, decide_eq_true_eq] at lost
      have kept : ∀ t : State, t.power = u.power → Tab.get t.supplies.excursions 0 1 = Tab.get s.supplies.excursions 0 1 + 1 ∧
          (mv < 8000 ∨ (mv < 10200 ∧ 1000000 < duration) → t.boot.powered = false ∧ t.host.linkUp = false ∧ t.trail.sram = []) ∧
          (8000 ≤ mv → 10200 ≤ mv ∨ duration ≤ 1000000 → t.boot.powered = s.boot.powered) := by
        intro t ht
        refine ⟨?_, fun h => (lost h).elim, fun _ _ => (congrArg Prod.fst ht).trans powered⟩
        have supplies : t.supplies = u.supplies := congrArg Prod.snd ht
        rw [supplies, counted]
      split
      · exact ⟨_, rfl, kept _ ((power_alarmEnd ..).trans (power_alarm ..))⟩
      · exact ⟨_, rfl, kept _ rfl⟩
  · intro hv
    obtain ⟨powered, counted, aux⟩ := excursion_power (s := s) (t := if s.running then s.pass duration else s) (by split <;> rfl) 2 0
    change ∃ v, execP3v3AuxLoss duration s = .next v ∧ _
    unfold execP3v3AuxLoss
    rw [if_neg (by simp [hv])]
    dsimp only
    generalize (if s.running then s.pass duration else s).excursion 2 0 = u at powered counted aux ⊢
    by_cases short : duration < 100000
    · rw [if_pos short]
      exact ⟨_, rfl, counted, by rw [if_pos short]; exact powered, by rw [aux, hv, decide_eq_true short]⟩
    · rw [if_neg short]
      exact ⟨_, rfl, counted, by rw [if_neg short]; rfl, by rw [decide_eq_false short]; rfl⟩

end Sys2Proof.Machine
end

section
/-!
PROOF. The DOE mailbox and its responder (O55, O56).
-/

namespace Sys2Proof.Machine

/-! ### What an answer leaves of the host port (R458) -/

/-- A state whose host port has the same items and the same exchange. -/
def State.SamePort (t s : State) : Prop := t.host.sent = s.host.sent ∧ t.host.spdm.busy = s.host.spdm.busy

theorem samePort_withReply {s t : State} {r : Reply} (h : t.SamePort s) (hr : r.2.busy = s.host.spdm.busy) : (t.withReply r).2.2.SamePort s := ⟨h.1, hr⟩

section
variable (s : State) (x : Spdm) (m : Bytes)

theorem busy_getCertificate : (getCertificate s x m).2.busy = x.busy := by
  unfold getCertificate
  dsimp only
  split <;> rfl

theorem busy_challenge (n : Bytes) : (challenge s n x m).2.busy = x.busy := by
  unfold challenge
  split <;> rfl

theorem busy_getMeasurements (n : Bytes) : (getMeasurements s n x m).2.busy = x.busy := by
  unfold getMeasurements
  dsimp only
  split
  · rfl
  · split <;> rfl

theorem busy_keyExchange (d n : Bytes) : (keyExchange s d n x m).2.busy = x.busy := by
  unfold keyExchange
  dsimp only
  (repeat' split) <;> rfl

theorem busy_finishSession : (finishSession x m).2.busy = x.busy := by
  unfold finishSession
  dsimp only
  split <;> rfl

theorem busy_keyUpdate : (keyUpdate x m).2.busy = x.busy := by
  unfold keyUpdate
  dsimp only
  (repeat' split) <;> rfl

theorem answer_samePort (secured : Bool) : (s.answer m secured).2.2.SamePort s := by
  have same : s.SamePort s := ⟨rfl, rfl⟩
  unfold State.answer
  dsimp only
  generalize (if byteAt m 1 = 0x84 then 0x10 else 0x12) = version
  split
  · exact same
  · split
    · exact same
    · split
      · exact same
      · split
        · exact samePort_withReply same rfl
        · exact samePort_withReply same rfl
        · exact samePort_withReply same rfl
        · exact samePort_withReply same rfl
        · exact samePort_withReply same (busy_getCertificate ..)
        · exact samePort_withReply (t := (s.fresh 32).2) same (busy_challenge ..)
        · exact samePort_withReply (t := (s.fresh 32).2) same (busy_getMeasurements ..)
        · exact samePort_withReply (t := ((s.fresh 56).2.fresh 34).2) same (busy_keyExchange ..)
        · exact samePort_withReply same (busy_finishSession ..)
        · exact same
        · have h := samePort_withReply same (busy_keyUpdate s.host.spdm m)
          split
          · exact h
          · exact h
        · exact samePort_withReply same rfl
        · exact same

end

theorem reply_sent (s : State) (type : Nat) (r : Bytes) (malformed : Bool) :
    (s.reply type r malformed).host.sent = s.host.sent ++ [.doe (doeObject type r)] ∧ (s.reply type r malformed).host.spdm.busy = s.host.spdm.busy := by
  have told (t : State) (code : Nat) (o : HostOut) : ((t.log code (originOf 0 0) errorSeverity (r.take 4)).putRaw o).host.sent = t.host.sent ++ [o] ∧
      ((t.log code (originOf 0 0) errorSeverity (r.take 4)).putRaw o).host.spdm.busy = t.host.spdm.busy := by
    unfold State.putRaw
    dsimp only
    rw [host_log]
    exact ⟨rfl, rfl⟩
  unfold State.reply
  cases malformed with
  | false => exact ⟨rfl, rfl⟩
  | true =>
    rw [if_pos rfl]
    exact told { s with host := { s.host with spdm := { s.host.spdm with malformed := s.host.spdm.malformed + 1 } } } _ _

theorem answer_keepsPort {s t : State} (h : t.SamePort s) (m : Bytes) (secured : Bool) : (t.answer m secured).2.2.SamePort s := by
  have k := answer_samePort t m secured
  exact ⟨k.1.trans h.1, k.2.trans h.2⟩

/-- An answered object puts one object on the port. -/
theorem answerObject_sent (s : State) (b : Bytes) :
    (∃ o, (s.answerObject b).host.sent = s.host.sent ++ [.doe o]) ∧ (s.answerObject b).host.spdm.busy = s.host.spdm.busy := by
  have one (t : State) (h : t.SamePort s) (type : Nat) (r : Bytes) (bad : Bool) :
      (∃ o, (t.reply type r bad).host.sent = s.host.sent ++ [.doe o]) ∧ (t.reply type r bad).host.spdm.busy = s.host.spdm.busy := by
    obtain ⟨hs, hb⟩ := reply_sent t type r bad
    exact ⟨⟨_, hs.trans (by rw [h.1])⟩, hb.trans h.2⟩
  have counted {t : State} (h : t.SamePort s) (n : Nat) : State.SamePort { t with host := { t.host with spdm := { t.host.spdm with rspSeq := n } } } s := ⟨h.1, h.2⟩
  unfold State.answerObject
  dsimp only
  split
  · exact one s ⟨rfl, rfl⟩ _ _ _
  · exact one _ (answer_samePort ..) _ _ _
  · split
    · exact one s ⟨rfl, rfl⟩ _ _ _
    · next m _ =>
      generalize ha : State.answer _ m true = a
      have k : a.2.2.SamePort s := by
        rw [← ha]
        exact answer_keepsPort ⟨rfl, rfl⟩ _ _
      exact one _ (counted k _) _ _ _
  · exact one s ⟨rfl, rfl⟩ _ _ _

/-- Settles O55: every row of the mailbox is its code's. -/
theorem mailboxObjectsAreAnswered : Obligations.MailboxObjectsAreAnswered := by
  unfold Obligations.MailboxObjectsAreAnswered
  intro s b row code hrow
  have isRow : exec (row b) s = s.doeRow code b := by
    simp only [List.mem_cons, Prod.mk.injEq, List.not_mem_nil, or_false] at hrow
    rcases hrow with h | h | h | h | h | h | h | h | h | h | h | h | h <;> (obtain ⟨rfl, rfl⟩ := h; rfl)
  refine ⟨fun hr hl hb hh hx hq => ?_, _, rfl, rfl, rfl, rfl⟩
  rw [isRow]
  have mine : (match s.requestCode b with | some c => decide (c = code) | none => true) = true := by
    rcases hq with h | h <;> simp [h]
  have taken : ¬((!(s.boot.powered && !s.boot.held && s.host.linkUp && s.boot.state != .booting && s.boot.state != .halted) || s.host.spdm.busy ||
      !(match s.requestCode b with | some c => decide (c = code) | none => true)) = true) := by
    rw [mine, hx, hl]
    have run : (s.boot.powered && !s.boot.held) = true := hr
    rw [run]
    simp [hb, hh]
  unfold State.doeRow
  refine ⟨fun hg => ?_, fun hg => ?_⟩
  · obtain ⟨⟨o, hs⟩, hbusy⟩ := answerObject_sent s b
    exact ⟨_, o, (if_neg taken).trans (if_neg (by simp [hg])), rfl, hs, hbusy.trans hx⟩
  · exact ⟨_, (if_neg taken).trans (if_pos hg), rfl, rfl, rfl⟩

/-! ### The responder (R458 to R460) -/

/-- The answer to a request in its stage, by its code. -/
def State.answerTo (s : State) (m : Bytes) (code : Nat) : Bytes × Bool × State :=
  let x := s.host.spdm
  match code with
  | 0x84 => s.withReply (getVersion x m)
  | 0xE1 => s.withReply (getCapabilities x m)
  | 0xE3 => s.withReply (negotiateAlgorithms x m)
  | 0x81 => s.withReply (getDigests s x m)
  | 0x82 => s.withReply (getCertificate s x m)
  | 0x83 => let (n, s) := s.fresh 32; s.withReply (challenge s n x m)
  | 0xE0 => let (n, s) := s.fresh 32; s.withReply (getMeasurements s n x m)
  | 0xE4 => let (d, s) := s.fresh 56; let (n, s) := s.fresh 34; s.withReply (keyExchange s d n x m)
  | 0xE5 => s.withReply (finishSession x m)
  | 0xE8 => ([0x12, 0x68, 0, 0], false, s)
  | 0xE9 =>
    let (r, e, s) := s.withReply (keyUpdate x m)
    (r, e, if e || byteAt m 2 = 3 then s else { s with host := { s.host with ide := s.host.ide.map fun (p : Nat × IdeStream) => (p.1, p.2.toggled) } })
  | 0xEC => s.withReply (endSession x m)
  | _ => let (r, t) := ideMessage s.host.ide m; (r, byteAt r 1 == 0x7F, { s with host := { s.host with ide := t } })

/-- A whole request of a known code is judged by its stage. -/
theorem answer_judged {s : State} {m : Bytes} {c : Nat} (hc : byteAt m 1 = c) (h0 : byteAt m 0 = if c = 0x84 then 0x10 else 0x12)
    (hl : requestLen c ≤ m.length) (hm : c ≠ 0xE0 ∨ bit (byteAt m 2) 0 = false) (hk : knownRequest c = true) (secured : Bool) :
    s.answer m secured = if !stageFor s.host.spdm c || (inSession c && !secured) then (spdmError 4, true, s) else s.answerTo m c := by
  subst hc
  have whole : ¬((decide (m.length < requestLen (byteAt m 1)) || byteAt m 0 != (if byteAt m 1 = 0x84 then 0x10 else 0x12) ||
      (decide (byteAt m 1 = 0xE0) && bit (byteAt m 2) 0 && decide (m.length < 37))) = true) := by
    rw [← h0]
    rcases hm with hm | hm <;> simp [hm, hl]
  unfold State.answer
  dsimp only
  rw [if_neg whole, if_neg (by simp [hk])]
  rfl

/-- A request in its stage has its code's answer. -/
theorem answer_staged {s : State} {m : Bytes} {c : Nat} (hc : byteAt m 1 = c) (h0 : byteAt m 0 = if c = 0x84 then 0x10 else 0x12)
    (hl : requestLen c ≤ m.length) (hm : c ≠ 0xE0 ∨ bit (byteAt m 2) 0 = false) (hk : knownRequest c = true) (hs : stageFor s.host.spdm c = true)
    {secured : Bool} (hi : inSession c = false ∨ secured = true) : s.answer m secured = s.answerTo m c := by
  rw [answer_judged hc h0 hl hm hk, if_neg (by rcases hi with hi | hi <;> simp [hs, hi])]

theorem byteAt_drop (m : Bytes) (k o : Nat) : byteAt (m.drop k) o = byteAt m (k + o) := by
  rw [byteAt_eq_getElem?, byteAt_eq_getElem?, List.getElem?_drop]

theorem slice_append_middle {a b c : Bytes} {o n : Nat} (ha : a.length = o) (hb : b.length = n := by rfl) : slice (a ++ (b ++ c)) o n = b := by
  subst ha hb
  unfold slice
  dsimp only
  rw [List.drop_left, List.take_left, Nat.sub_self, List.replicate_zero, List.append_nil]

theorem answerTo_keyUpdate (s : State) (m : Bytes) :
    (s.answerTo m 0xE9).1 = (keyUpdate s.host.spdm m).1 ∧ (s.answerTo m 0xE9).2.2.host.spdm = (keyUpdate s.host.spdm m).2 := by
  have told (e : Bool) (t : State) :
      (if e then t else { t with host := { t.host with ide := t.host.ide.map fun (p : Nat × IdeStream) => (p.1, p.2.toggled) } }).host.spdm = t.host.spdm := by
    cases e <;> rfl
  exact ⟨rfl, told _ (s.withReply (keyUpdate s.host.spdm m)).2.2⟩

theorem answerTo_ide (s : State) (m : Bytes) : (s.answerTo m 0xFE).2.2.host.ide = (ideMessage s.host.ide m).2 := rfl

/-- Settles O56: each request in its stage, by its code. -/
theorem responderFollowsItsStages : Obligations.ResponderFollowsItsStages := by
  unfold Obligations.ResponderFollowsItsStages
  intro s m n x code sound r q
  have inClear (c : Nat) (hc : code = c) (hd : c ≠ 0x84) (hs : sound) (hm : c ≠ 0xE0 ∨ bit (byteAt m 2) 0 = false)
      (hk : knownRequest c = true) (hst : stageFor x c = true) (hi : inSession c = false) : r = s.answerTo m c :=
    answer_staged hc (by rw [if_neg hd]; exact hs.1) (hc ▸ hs.2) hm hk hst (.inl hi)
  have secured (c : Nat) (hc : code = c) (hd : c ≠ 0x84 ∧ c ≠ 0xE0) (hs : sound) (hk : knownRequest c = true) (hst : stageFor x c = true) :
      q = s.answerTo m c :=
    answer_staged hc (by rw [if_neg hd.1]; exact hs.1) (hc ▸ hs.2) (.inl hd.2) hk hst (.inr rfl)
  have ide0 : byteAt (m.drop 11) 0 = byteAt m 11 := byteAt_drop m 11 0
  have ide3 : byteAt (m.drop 11) 3 = byteAt m 14 := byteAt_drop m 11 3
  have ide5 : byteAt (m.drop 11) 5 = byteAt m 16 := byteAt_drop m 11 5
  refine ⟨?_, ?_, ?_, ?_, ?_, ?_, ?_, ?_, ?_, ?_, ?_, ?_, ?_, ?_, ?_, ?_⟩
  · intro h0 hc hl
    have hr : r = s.answerTo m 0x84 := answer_staged hc h0 hl (.inl (by decide)) (by decide) rfl (.inl (by decide))
    rw [hr]
    exact ⟨rfl, rfl, rfl⟩
  · intro hs hc hst
    rw [inClear 0xE1 hc (by decide) hs (.inl (by decide)) (by decide) (by simp [stageFor, hst]) (by decide)]
    exact ⟨rfl, rfl⟩
  · intro hs hc hst
    rw [inClear 0xE3 hc (by decide) hs (.inl (by decide)) (by decide) (by simp [stageFor, hst]) (by decide)]
    exact ⟨rfl, rfl⟩
  · intro hs hc hst
    rw [inClear 0x81 hc (by decide) hs (.inl (by decide)) (by decide) (by simp [stageFor, hst]) (by decide)]
    rfl
  · intro hs hc hst h2
    rw [inClear 0x82 hc (by decide) hs (.inl (by decide)) (by decide) (by simp [stageFor, hst]) (by decide)]
    change if _ then (getCertificate s x m).1.drop 8 = _ else (getCertificate s x m).1 = _
    unfold getCertificate
    split
    · next ho =>
      rw [if_neg (by simp [h2, ho])]
      rw [List.drop_append_of_le_length (by simp [length_leBytes])]
      rw [List.drop_eq_nil_of_le (by simp [length_leBytes]), List.nil_append]
    · next ho =>
      rw [if_pos (by simp [h2]; omega)]
  · intro hs hc hst h2
    rw [inClear 0x83 hc (by decide) hs (.inl (by decide)) (by decide) (by simp [stageFor, hst]) (by decide)]
    change ∃ rest, (challenge (s.fresh 32).2 (s.fresh 32).1 x m).1 = _
    unfold challenge
    rw [if_neg (by simp [h2])]
    exact ⟨(s.fresh 32).1 ++ ((s.fresh 32).2.summary (byteAt m 3) ++ (leBytes 2 0 ++ _)), by simp only [List.append_assoc]; rfl⟩
  · intro hs hc hst h2 h3 h6
    rw [inClear 0xE0 hc (by decide) hs (.inr h2) (by decide) (by simp [stageFor, hst]) (by decide)]
    change slice (getMeasurements (s.fresh 32).2 (s.fresh 32).1 x m).1 8 _ = _
    unfold getMeasurements
    have one : (if byteAt m 3 = 0 then [] else if byteAt m 3 = 255 then measurementBlocks else [byteAt m 3]) = [byteAt m 3] := by
      rw [if_neg (by omega), if_neg (by omega)]
    dsimp only
    rw [one, if_neg (by simp only [Bool.and_eq_true, decide_eq_true_eq]; omega), h2, if_neg (by decide), List.flatMap_singleton]
    change slice ((([0x12, 0x60] ++ leBytes 1 _ ++ [0] ++ leBytes 1 _ ++ leBytes 3 _) ++ s.measurement (byteAt m 3)) ++ _ ++ _) 8 _ = _
    rw [List.append_assoc, List.append_assoc]
    exact slice_append_middle (by simp [length_leBytes])
  · intro hs hc hst h2
    have hj := answer_judged (s := s) hc (by rw [if_neg (by decide)]; exact hs.1) (hc ▸ hs.2) (.inr h2) (by decide) false
    have out : stageFor s.host.spdm 0xE0 = false := by
      change decide (s.host.spdm.stage = .negotiated) = false
      exact decide_eq_false hst
    rw [out, if_pos (by decide)] at hj
    exact hj
  · intro hs hc hst hv
    rw [secured 0xE5 hc (by decide) hs (by decide) (by simp [stageFor, hst])]
    change (finishSession x m).1 = _ ∧ (finishSession x m).2.session = _
    unfold finishSession
    rw [if_pos hv]
    exact ⟨rfl, rfl⟩
  · intro hs hc hst hv
    rw [secured 0xE5 hc (by decide) hs (by decide) (by simp [stageFor, hst])]
    change (finishSession x m).1 = _ ∧ (finishSession x m).2.session = _
    unfold finishSession
    rw [if_neg hv]
    exact ⟨rfl, hst⟩
  · intro hs hc hst
    rw [secured 0xE8 hc (by decide) hs (by decide) (by simp [stageFor, hst])]
    rfl
  · intro hs hc hst h2
    rw [secured 0xE9 hc (by decide) hs (by decide) (by simp [stageFor, hst])]
    have upd : keyUpdate x m = ([0x12, 0x69] ++ leBytes 1 1 ++ leBytes 1 (byteAt m 3),
        { x with reqSecret := spdmDerive x.reqSecret "traffic upd" [], reqSeq := 0 }) := by
      unfold keyUpdate
      rw [h2]
      rfl
    obtain ⟨hm, hx⟩ := answerTo_keyUpdate s m
    rw [hm, hx, upd]
    exact ⟨rfl, rfl, rfl⟩
  · intro hs hc hst
    rw [secured 0xEC hc (by decide) hs (by decide) (by simp [stageFor, hst])]
    exact ⟨rfl, rfl, rfl⟩
  · intro hs hc hst h2 hi
    rw [secured 0xFE hc (by decide) hs (by decide) (by simp [stageFor, hst])]
    rw [answerTo_ide]
    unfold ideMessage
    dsimp only
    rw [ide0, ide3, ide5, if_neg (Nat.not_le.mpr hi), h2]
    simp only [Tab.get_put_same, Tab.find_insert, if_true]
  · intro hs hc hst h2 hi
    rw [secured 0xFE hc (by decide) hs (by decide) (by simp [stageFor, hst])]
    rw [answerTo_ide]
    unfold ideMessage
    dsimp only
    rw [ide0, ide3, ide5, if_neg (Nat.not_le.mpr hi), h2]
    simp only [Tab.get_put_same]
  · intro hr hsec
    change ∃ u, execIdeIntegrityFail n s = .next u ∧ _
    unfold execIdeIntegrityFail
    have run : (s.boot.powered && !s.boot.held) = true := hr
    rw [if_pos (by rw [run, hsec]; rfl)]
    refine ⟨_, rfl, ?_⟩
    rw [host_log, Tab.get_put_same]
    exact ⟨rfl, rfl⟩

end Sys2Proof.Machine
end

section
/-!
PROOF. The log memories, the host's controls and the dirty-page bitmap (O52).
-/

namespace Sys2Proof.Machine

/-! ### What an entry leaves of the log's state (R421) -/

/-- The state of the log and of its memories. -/
def Trail.memories (t : Trail) : Nat × Bool × Bool := (t.state, t.sramFailed, t.mramFailed)

theorem mem_insertNat (l : List Nat) (x : Nat) : x ∈ insertNat l x := by
  induction l with
  | nil => exact List.mem_singleton_self x
  | cons y ys ih =>
    rw [insertNat]
    split
    · exact List.mem_cons_self ..
    · split
      · next h => exact h ▸ List.mem_cons_self ..
      · exact List.mem_cons_of_mem _ ih

theorem memories_flush (t : Trail) : t.flush.memories = t.memories := by
  unfold Trail.flush
  split <;> rfl

/-- An entry put into the ring that the log's state allows. -/
theorem memories_stored (t : Trail) (mram sram : List LogEntry) (n : Nat) (toMram : Bool) :
    Trail.memories (if t.state = 1 then { t with mram := mram }
      else if toMram then Trail.flush { t with sram := sram, unflushed := n } else { t with sram := sram, unflushed := n }) = t.memories := by
  split
  · rfl
  · split
    · exact memories_flush _
    · rfl

theorem memories_append (t : Trail) (e : LogEntry) (tai : Nat) (trusted toMram : Bool) : (t.append e tai trusted toMram).memories = t.memories := by
  unfold Trail.append
  exact memories_stored _ _ _ _ _

theorem memories_checkpoint (t : Trail) (tai : Nat) (trusted key : Bool) (held : Option Nat) :
    (t.checkpoint tai trusted key held).memories = t.memories := by
  unfold Trail.checkpoint
  exact memories_append _ _ _ _ _

section
variable (s : State)

theorem memories_trailAs (code origin severity flags : Nat) (data : Bytes) (toMram : Bool) (time : Nat) :
    (s.trailAs code origin severity flags data toMram time).trail.memories = s.trail.memories := by
  have due (t : Trail) (c : Prop) [Decidable c] : (if c then t.checkpoint s.clock.tai s.clock.trusted s.attested else t).memories = t.memories := by
    split
    · exact memories_checkpoint ..
    · rfl
  unfold State.trailAs
  dsimp only
  generalize exempt code = ex
  split
  · split <;> rfl
  · split
    · rfl
    · rw [memories_append, due]
      cases ex <;> rfl

theorem memories_message (v : Nat) (now : Bool) : (s.message v now).trail = s.trail := by
  unfold State.message
  dsimp only
  (repeat' split) <;> rfl

theorem memories_eventEdge (source : Nat) : (s.eventEdge source).trail.memories = s.trail.memories := by
  unfold State.eventEdge
  dsimp only
  rw [memories_message]
  split
  · exact memories_trailAs ..
  · rfl

theorem memories_raise (source : Nat) : (s.raise source).trail.memories = s.trail.memories := by
  unfold State.raise
  split
  · rfl
  · exact memories_eventEdge _ _

theorem events_trailAs (code origin severity flags : Nat) (data : Bytes) (toMram : Bool) (time : Nat) :
    (s.trailAs code origin severity flags data toMram time).events = s.events := by
  unfold State.trailAs
  dsimp only
  (repeat' split) <;> rfl

theorem events_message (v : Nat) (now : Bool) : (s.message v now).events = s.events := by
  unfold State.message
  dsimp only
  (repeat' split) <;> rfl

theorem events_eventEdge (source : Nat) : (s.eventEdge source).events = s.events := by
  unfold State.eventEdge
  dsimp only
  rw [events_message]
  split
  · exact events_trailAs ..
  · rfl

/-- A source that occurs is latched. -/
theorem mem_latched_raise (source : Nat) : source ∈ (s.raise source).events.latched := by
  unfold State.raise
  split
  · next h => exact List.contains_iff_mem.mp h
  · rw [events_eventEdge]
    exact mem_insertNat _ _

end

/-! ### Items that leave on the host port in their order (R25) -/

/-- The items sent so far are the first of those sent later. -/
def State.Sends (s t : State) : Prop := ∃ l, t.host.sent = s.host.sent ++ l

theorem State.Sends.refl (s : State) : s.Sends s := ⟨[], (List.append_nil _).symm⟩

theorem State.Sends.trans {s t u : State} (h : s.Sends t) (k : t.Sends u) : s.Sends u := by
  obtain ⟨l, hl⟩ := h
  obtain ⟨m, hm⟩ := k
  exact ⟨l ++ m, by rw [hm, hl, List.append_assoc]⟩

theorem sends_of_sent {s t : State} (h : t.host.sent = s.host.sent) : s.Sends t := ⟨[], by rw [h, List.append_nil]⟩

theorem sends_foldl {α : Type} (f : State → α → State) (hf : ∀ (t : State) a, t.Sends (f t a)) (l : List α) (s : State) : s.Sends (l.foldl f s) := by
  induction l generalizing s with
  | nil => exact .refl s
  | cons a l ih => exact (hf s a).trans (ih _)

section
variable (s : State)

theorem sends_putRaw (o : HostOut) : s.Sends (s.putRaw o) := ⟨[o], rfl⟩

theorem sends_message (v : Nat) (now : Bool) : s.Sends (s.message v now) := by
  obtain ⟨l, hl, -⟩ := sent_message s v now
  exact ⟨l, hl⟩

theorem sends_raise (source : Nat) : s.Sends (s.raise source) := by
  obtain ⟨l, hl, -⟩ := sent_raise s source
  exact ⟨l, hl⟩

theorem sends_log (code origin severity : Nat) (data : Bytes) : s.Sends (s.log code origin severity data) := sends_of_sent (by rw [host_log])

theorem sends_eventEdge (source : Nat) : s.Sends (s.eventEdge source) := by
  unfold State.eventEdge
  dsimp only
  split
  · exact (sends_log ..).trans (sends_message ..)
  · exact sends_message ..

theorem sends_pitchEvent (d b : Nat) : s.Sends (s.pitchEvent d b) := by
  unfold State.pitchEvent
  dsimp only
  split
  · split
    · exact sends_eventEdge (s.setDom d fun D => { D with eventAck := D.eventAck ||| 2 ^ b }) d
    · exact .refl s
  · (repeat' split)
    · exact sends_raise ..
    · exact sends_raise ..
    · exact sends_raise ..
    · exact .refl s

theorem sends_dirtyFail (d : Nat) : s.Sends (s.dirtyFail d) := by
  unfold State.dirtyFail
  exact State.Sends.trans (t := State.log _ codeDirty _ _ _) (sends_of_sent (by rw [host_log]; rfl)) (sends_pitchEvent ..)

theorem sends_dirtyIssue (d w : Nat) : s.Sends (s.dirtyIssue d w) := by
  unfold State.dirtyIssue
  dsimp only
  (repeat' split)
  · exact .refl s
  · exact sends_dirtyFail ..
  · exact .refl s
  · exact ⟨[_], rfl⟩

theorem sends_dirtyMark (d addr len : Nat) : s.Sends (s.dirtyMark d addr len) := by
  unfold State.dirtyMark
  split
  · exact .refl s
  · exact State.Sends.trans (t := s.setDom d _) (.refl s) (sends_foldl _ (fun t w => sends_dirtyIssue t d w) _ _)

theorem sends_put (o : HostOut) : s.Sends (s.put o) := by
  unfold State.put
  split
  · exact (sends_putRaw ..).trans (sends_dirtyMark ..)
  · exact (sends_putRaw ..).trans (sends_dirtyMark ..)
  · exact sends_putRaw ..

theorem sends_release : s.Sends s.release := by
  have list (l : List HostOut) (t : State) : t.Sends (t.releaseList l) := by
    induction l generalizing t with
    | nil => exact .refl t
    | cons o os ih =>
      rw [State.releaseList]
      split
      · exact State.Sends.trans (.refl t) (ih (t.wait o))
      · exact (sends_put t o).trans (ih _)
  exact list s.host.waiting { s with host := { s.host with waiting := [] } }

theorem sends_sendAllPending : s.Sends s.sendAllPending := by
  refine sends_foldl _ (fun t v => ?_) _ s
  unfold State.sendPending
  dsimp only
  split
  · exact sends_message (t.setVector v fun e => { e with pending := false }) v _
  · exact .refl t

@[simp] theorem calm_release : s.release.calm = s.calm := by
  have list (l : List HostOut) (t : State) : (t.releaseList l).calm = t.calm := by
    induction l generalizing t with
    | nil => rfl
    | cons o os ih =>
      rw [State.releaseList, ih]
      split <;> simp
  exact list s.host.waiting { s with host := { s.host with waiting := [] } }

@[simp] theorem calm_sendAllPending : s.sendAllPending.calm = s.calm := by
  refine calm_foldl _ (fun t v => ?_) _ s
  unfold State.sendPending
  dsimp only
  split
  · exact calm_message (t.setVector v fun e => { e with pending := false }) v _
  · rfl

end

/-- The controls of the configuration space. -/
def HostPort.controls (h : HostPort) : List Bool × Nat :=
  ([h.memSpace, h.busMaster, h.pasidEnable, h.atomicReq, h.msixEnable, h.functionMask, h.d3hot], h.devCtl2)

/-! ### The failure of a log memory (R421) -/

theorem memories_tested (t : Trail) (sram mram : Bool) :
    (t.tested sram mram).memories = (if !mram then 2 else if !sram then 1 else 0, !sram, !mram) := rfl

/-- The first entry of a failed log state leaves the log in it, with its event latched. -/
theorem logFailed_outcome (s : State) (address : Bytes) :
    (s.logFailed address).trail.memories = s.trail.memories ∧ (if s.trail.state = 1 then 0x193 else 0x194) ∈ (s.logFailed address).events.latched := by
  unfold State.logFailed
  split
  · exact ⟨(memories_raise ..).trans (memories_trailAs ..), mem_latched_raise ..⟩
  · exact ⟨(memories_raise ..).trans (memories_trailAs ..), mem_latched_raise ..⟩

/-- A memory that fails and changes the log's state. -/
theorem logFail_outcome {s : State} {sram : Bool} {n : Nat} {a b : Bool} (address : Nat)
    (h : (s.trail.tested (!sram && !s.trail.sramFailed) (sram && !s.trail.mramFailed)).memories = (n, a, b)) (hn : n ≠ s.trail.state) :
    (s.logFail sram address).trail.memories = (n, a, b) ∧ (if n = 1 then 0x193 else 0x194) ∈ (s.logFail sram address).events.latched := by
  unfold State.logFail
  dsimp only
  generalize s.trail.tested (!sram && !s.trail.sramFailed) (sram && !s.trail.mramFailed) = t at h ⊢
  have state : t.state = n := congrArg Prod.fst h
  rw [if_neg (by rw [state]; exact hn)]
  obtain ⟨hm, he⟩ := logFailed_outcome { s with trail := t } (leBytes 4 address)
  exact ⟨hm.trans h, by rw [← state]; exact he⟩

/-! ### The rows of the host's controls and of the bitmap (R453, R461, R462) -/

theorem configReply_sent (s : State) (f : ConfigField) : ∃ x, (s.configReply f).host.sent = s.host.sent ++ [.configuration x] := by
  cases f <;> exact ⟨_, rfl⟩

theorem configReply_calm (s : State) (f : ConfigField) : (s.configReply f).calm = s.calm := by
  cases f <;> rfl

/-- A configured port is answered, and what the controls then let go follows. -/
theorem configured_outcome {s : State} (hr : s.running = true) (hl : s.host.linkUp = true) (f : ConfigField) (v : Nat) :
    ∃ u, exec (.pcieConfigRequest f v) s = .next u ∧ u.calm = State.calm { s with host := s.host.configure f v } ∧
      (({ s with host := s.host.configure f v } : State).configReply f).Sends u := by
  change ∃ u, execPcieConfigRequest f v s = .next u ∧ _
  unfold execPcieConfigRequest
  rw [if_neg (by simp [hr, hl])]
  have calm := configReply_calm { s with host := s.host.configure f v } f
  dsimp only
  generalize State.configReply { s with host := s.host.configure f v } f = t at calm ⊢
  refine ⟨_, rfl, ?_⟩
  split
  · exact ⟨calm, .refl t⟩
  · exact ⟨calm, .refl t⟩
  · exact ⟨calm, .refl t⟩
  · exact ⟨calm, .refl t⟩
  · exact ⟨(calm_sendAllPending t).trans calm, sends_sendAllPending t⟩
  · exact ⟨(calm_sendAllPending t).trans calm, sends_sendAllPending t⟩
  · exact ⟨(calm_release t).trans calm, sends_release t⟩

theorem configure_sent (h : HostPort) (f : ConfigField) (v : Nat) : (h.configure f v).sent = h.sent := by cases f <;> rfl

theorem dirty_of_still {D E : Dom} (h : D.still = E.still) : D.dirty = E.dirty := (congrArg Dom.dirty h :)

/-- A failed log of a pitch is FAILED. -/
theorem mode_dirtyFail (s : State) (d : Nat) : ((s.dirtyFail d).dom d).dirty.mode = .failed := by
  unfold State.dirtyFail
  dsimp only
  rw [dirty_of_still (still_pitchEvent ..), dom_of_doms (doms_log ..), dom_setDom_same]

/-- The CAS of a word without bits to set is not issued. -/
theorem dirtyIssue_idle {s : State} {d w : Nat} (hw : Tab.get (s.dom d).dirty.wanted 0 w = 0) : s.dirtyIssue d w = s := by
  unfold State.dirtyIssue
  dsimp only
  rw [if_pos (by simp [hw])]

/-- The CAS of a word that has bits to set is issued. -/
theorem dirtyIssue_sent {s : State} {d w : Nat} (hm : (s.dom d).dirty.mode = .running) (hw : Tab.get (s.dom d).dirty.wanted 0 w ≠ 0)
    (hs : Tab.find (s.dom d).dirty.sent w = none) (ha : s.host.atomicReq = true) :
    ((s.dirtyIssue d w).dom d).dirty.sent =
      Tab.insert (s.dom d).dirty.sent w (Tab.get (s.dom d).dirty.known 0 w, Tab.get (s.dom d).dirty.wanted 0 w) := by
  have putOut (c : Prop) [Decidable c] (t : State) (o : HostOut) : (if c then t.wait o else t.putRaw o).dom d = t.dom d := by split <;> rfl
  unfold State.dirtyIssue
  dsimp only
  rw [if_neg (by simp [hm, hw, hs]), if_neg (by simp [ha]), putOut, dom_setDom_same]

theorem execDirtyBitmapCas_live {s : State} {d w k m : Nat} (hr : s.running = true) (hm : (s.dom d).dirty.mode = .running) (hc : s.casWaits d w = false)
    (hs : Tab.find (s.dom d).dirty.sent w = some (k, m)) (result : CasResult) :
    execDirtyBitmapCas d w result s =
      match result with
      | .failed _ => .next (s.dirtyFail d)
      | .original v =>
        if v % 2 ^ 64 = k then .next ((s.setDom d fun D => { D with dirty := (s.dom d).dirty.swapped w k m }).dirtyIssue d w)
        else
          let y := (s.dom d).dirty.missed w m (v % 2 ^ 64)
          let s := s.setDom d fun D => { D with dirty := y }
          .next (if Tab.get y.fails 0 w ≥ 64 then s.dirtyFail d else s.dirtyIssue d w) := by
  unfold execDirtyBitmapCas
  dsimp only
  rw [if_neg (by simp [hr, hm, hc]), hs]
  cases result <;> rfl

theorem fails_missed (y : Dirty) (w m v : Nat) : Tab.get (y.missed w m v).fails 0 w = Tab.get y.fails 0 w + 1 := by
  unfold Dirty.missed
  dsimp only
  rw [Tab.get_put_same]

theorem wanted_missed (y : Dirty) (w m v : Nat) : Tab.get (y.missed w m v).wanted 0 w = Tab.get y.wanted 0 w ||| m := by
  unfold Dirty.missed
  dsimp only
  rw [Tab.get_put_same]

theorem known_missed (y : Dirty) (w m v : Nat) : Tab.get (y.missed w m v).known 0 w = v := by
  unfold Dirty.missed
  dsimp only
  rw [Tab.get_put_same]

theorem sent_missed (y : Dirty) (w m v : Nat) : Tab.find (y.missed w m v).sent w = none := by
  unfold Dirty.missed
  exact (Tab.find_erase ..).trans (if_pos rfl)

theorem or_and_right_self (a m : Nat) : (a ||| m) &&& m = m := by
  refine Nat.eq_of_testBit_eq fun i => ?_
  rw [Nat.testBit_and, Nat.testBit_or]
  cases a.testBit i <;> cases m.testBit i <;> rfl

/-- Settles O52. -/
theorem logMemoriesAndHostControlsAct : Obligations.LogMemoriesAndHostControlsAct := by
  unfold Obligations.LogMemoriesAndHostControlsAct
  refine ⟨fun s seq a e => ?_, fun s f v d w k m hr => ?_⟩
  · intro t
    refine ⟨fun hm => ?_, fun x hx he => ?_, fun hr hs hm h0 => ?_, fun hr h2 => ?_⟩
    · change execTrailFlush s = _
      unfold execTrailFlush Trail.flush
      rw [if_neg (by simp [t, hm])]
      rfl
    · refine ⟨_, by change execCheckpointSign seq s = _; unfold execCheckpointSign; rw [hx, he]; rfl, ?_⟩
      rw [Tab.find_insert, if_pos rfl]
    · have run : (s.boot.powered && !s.boot.held) = true := hr
      have hm' : s.trail.mramFailed = false := hm
      obtain ⟨hm', he⟩ := logFail_outcome (s := s) (sram := true) (n := 1) (a := true) (b := false) a (by rw [memories_tested, hm']; rfl) (by rw [h0]; decide)
      exact ⟨_, if_pos run, congrArg Prod.fst hm', congrArg (fun x => x.2.1) hm', he⟩
    · have run : (s.boot.powered && !s.boot.held) = true := hr
      obtain ⟨hm', he⟩ := logFail_outcome (s := s) (sram := false) (n := 2) (a := s.trail.sramFailed) (b := true) a (by rw [memories_tested]; simp) (Ne.symm h2)
      exact ⟨_, if_pos run, congrArg Prod.fst hm', congrArg (fun x => x.2.2) hm', he⟩
  · intro h y
    refine ⟨fun hl => ?_, fun hm hc hs => ⟨fun cause => ?_, fun hv hw => ?_, fun hv hf h0 ha => ?_, fun hv hf => ?_⟩⟩
    · obtain ⟨u, hu, calm, sends⟩ := configured_outcome hr hl f v
      have port : u.host.controls = h.controls := (congrArg (fun x : Calm => x.rest.host.controls) calm :)
      simp only [HostPort.controls, Prod.mk.injEq, List.cons.injEq, and_true] at port
      obtain ⟨⟨h1, h2, h3, h4, h5, h6, h7⟩, h8⟩ := port
      refine ⟨u, hu, h1, h2, h3, h4, h5, h6, h7, h8, fun o ho => ?_, ?_⟩
      · subst ho
        have hu' := hu.symm.trans (if_neg (by simp [hr, hl]))
        cases hu'
        rfl
      · obtain ⟨x, hx⟩ := configReply_sent { s with host := s.host.configure f v } f
        obtain ⟨l, hl⟩ := sends
        refine ⟨.configuration x :: l, ?_, x, rfl⟩
        rw [hl, hx, configure_sent, List.append_assoc]
        rfl
    · exact ⟨_, execDirtyBitmapCas_live hr hm hc hs (.failed cause), mode_dirtyFail s d⟩
    · refine ⟨_, (execDirtyBitmapCas_live hr hm hc hs (.original v)).trans (if_pos hv), ?_⟩
      rw [dirtyIssue_idle (by rw [dom_setDom_same]; exact hw), dom_setDom_same]
      exact ⟨Tab.get_put_same _ _ _ _, by rw [Dirty.swapped]; simp [Tab.find_erase]⟩
    · have under : ¬(Tab.get (y.missed w m (v % 2 ^ 64)).fails 0 w ≥ 64) := by
        rw [fails_missed]
        omega
      refine ⟨_, Tab.get y.wanted 0 w ||| m, (execDirtyBitmapCas_live hr hm hc hs (.original v)).trans ((if_neg hv).trans (congrArg _ (if_neg under))), ?_,
        or_and_right_self _ _⟩
      have some_ : Tab.get (y.missed w m (v % 2 ^ 64)).wanted 0 w ≠ 0 := by
        rw [wanted_missed]
        exact fun z => h0 (Nat.or_eq_zero_iff.mp z).2
      generalize ht : s.setDom d (fun D => { D with dirty := (s.dom d).dirty.missed w m (v % 2 ^ 64) }) = t
      have missed : (t.dom d).dirty = y.missed w m (v % 2 ^ 64) := by rw [← ht, dom_setDom_same]
      have atomic : t.host.atomicReq = true := by rw [← ht]; exact ha
      rw [dirtyIssue_sent (by rw [missed]; exact hm) (by rw [missed]; exact some_) (by rw [missed]; exact sent_missed _ _ _ _) atomic, missed]
      rw [known_missed, wanted_missed, Tab.find_insert, if_pos rfl]
    · refine ⟨_, (execDirtyBitmapCas_live hr hm hc hs (.original v)).trans ((if_neg hv).trans (congrArg _ (if_pos ?_))), mode_dirtyFail _ d⟩
      rw [fails_missed]
      exact Nat.succ_le_succ hf

end Sys2Proof.Machine
end

section
/-!
PROOF. The wardens: their states, resets and failures (O50).
-/

namespace Sys2Proof.Machine

/-! ### A warden enters a state (R360, R412) -/

/-- The state without the wardens and what notes change. -/
def State.unwarded (s : State) : State := { s.silent with wardens := [] }

theorem unwarded_of_silent {s t : State} (h : t.silent = s.silent) : t.unwarded = s.unwarded := by rw [State.unwarded, h, State.unwarded]

section
variable (s : State)

@[simp] theorem wardens_log (code origin severity : Nat) (data : Bytes) : (s.log code origin severity data).wardens = s.wardens :=
  (congrArg State.wardens (silent_log ..) :)

@[simp] theorem wardens_raise (source : Nat) : (s.raise source).wardens = s.wardens := (congrArg State.wardens (silent_raise ..) :)

theorem warden_of_wardens {s t : State} (h : t.wardens = s.wardens) (v : Nat) : t.warden v = s.warden v := by rw [State.warden, h, State.warden]

theorem warden_wardenTo (w v : Nat) (new : WardenState) :
    (s.wardenTo w new).warden v = if w = v then { s.warden w with state := new } else s.warden v := by
  unfold State.wardenTo
  split
  · next h =>
    split
    · next hv => rw [← h, hv]
    · rfl
  · rw [warden_of_wardens ((wardens_raise ..).trans (wardens_log ..)), warden_setWarden]

theorem unwarded_setWarden (w : Nat) (f : Warden → Warden) : (s.setWarden w f).unwarded = s.unwarded := rfl

theorem unwarded_wardenTo (w : Nat) (new : WardenState) : (s.wardenTo w new).unwarded = s.unwarded := by
  unfold State.wardenTo
  split
  · rfl
  · exact (unwarded_of_silent ((silent_raise ..).trans (silent_log ..))).trans (unwarded_setWarden s w _)

/-! ### A warden is reset (R360) -/

/-- The state without the wardens, what notes change, the debug unlock, and what a reset of the standby clears. -/
def State.unseated (s : State) : State :=
  { s.unwarded with
    life := { s.life with debugLevel := 0, debugPitch := 0, extest := false }
    guy := { s.guy with held := [], journal := [], preparing := none, pathWire := false, pathFabric := false } }

theorem unseated_of_unwarded {s t : State} (h : t.unwarded = s.unwarded) : t.unseated = s.unseated := by
  have life := (congrArg State.life h :)
  exact congrArg (fun x : State => { x with
    life := { x.life with debugLevel := 0, debugPitch := 0, extest := false }
    guy := { x.guy with held := [], journal := [], preparing := none, pathWire := false, pathFabric := false } }) h

/-- A warden after its reset. -/
def Warden.restarted (x : Warden) (now : Nat) : Warden :=
  { x with fault := false, resigned := false, snapshot := false, testFrom := now, wireMisses := 0, fabricMisses := 0, wireGood := 0, fabricGood := 0
           digest := [], applied := 0, state := if x.failures.length ≥ 3 then .failed else .selfTest }

theorem now_wardenTo (w : Nat) (new : WardenState) : (s.wardenTo w new).now = s.now :=
  (congrArg (fun x : State => x.clock.mono) (unwarded_wardenTo s w new) :)

/-- What stands between the two entries of a reset warden. -/
def State.wardenCleared (s : State) (w : Nat) : State :=
  let s := s.setWarden w fun x =>
    { x with fault := false, resigned := false, snapshot := false, testFrom := s.now, wireMisses := 0, fabricMisses := 0
             wireGood := 0, fabricGood := 0, digest := [], applied := 0 }
  (if w = s.standby then { s with guy := { s.guy with journal := [], preparing := none } } else s).endDebug

theorem resetWarden_eq (w : Nat) : s.resetWarden w =
    (((s.wardenTo w .offline).wardenCleared w).wardenTo w
      (if (((s.wardenTo w .offline).wardenCleared w).warden w).failures.length ≥ 3 then .failed else .selfTest)).pathFlags := rfl

theorem warden_wardenCleared (w v : Nat) : (s.wardenCleared w).warden v = if w = v then
    { s.warden w with fault := false, resigned := false, snapshot := false, testFrom := s.now, wireMisses := 0, fabricMisses := 0
                      wireGood := 0, fabricGood := 0, digest := [], applied := 0 } else s.warden v := by
  have kept (c : Prop) [Decidable c] (t : State) :
      (if c then { t with guy := { t.guy with journal := [], preparing := none } } else t).endDebug.warden v = t.warden v := by split <;> rfl
  unfold State.wardenCleared
  exact (kept _ _).trans (warden_setWarden ..)

theorem unseated_wardenCleared (w : Nat) : (s.wardenCleared w).unseated = s.unseated := by
  unfold State.wardenCleared
  dsimp only
  split <;> rfl

theorem warden_resetWarden (w v : Nat) : (s.resetWarden w).warden v = if w = v then (s.warden w).restarted s.now else s.warden v := by
  rw [resetWarden_eq]
  change State.warden (State.wardenTo _ w _) v = _
  rw [warden_wardenTo, warden_wardenCleared, warden_wardenCleared, warden_wardenTo, warden_wardenTo, now_wardenTo]
  split
  · next h => subst h; simp [Warden.restarted]
  · rfl

theorem unseated_resetWarden (w : Nat) : (s.resetWarden w).unseated = s.unseated := by
  rw [resetWarden_eq]
  change State.unseated (State.wardenTo _ w _) = _
  rw [unseated_of_unwarded (unwarded_wardenTo ..), unseated_wardenCleared, unseated_of_unwarded (unwarded_wardenTo ..)]

end

/-! ### What no tamper response changes of the wardens (R375, R377) -/

/-- The wardens without their running digests, their arbiter, and the clock. -/
structure Watch where
  clock : Clock
  guy : Guyline
  wardens : Nat → Warden

/-- The arbiter without what notes, journal entries and held outputs change. -/
def Guyline.still (g : Guyline) : Guyline :=
  { g with held := [], saturated := false, lastSaturated := none, journal := [], written := 0, headDigest := [], heldHealth := false }

def State.watch (s : State) : Watch := ⟨s.clock, s.guy.still, fun w => { s.warden w with digest := [], applied := 0 }⟩

theorem watch_of_calm {s t : State} (h : t.calm = s.calm) : t.watch = s.watch :=
  congrArg (fun x : Calm => (⟨x.rest.clock, x.rest.guy.still, x.wardens⟩ : Watch)) h

section
variable (s : State)

theorem watch_setTamper (f : Tamper → Tamper) : (s.setTamper f).watch = s.watch := rfl

theorem watch_driveHealth : s.driveHealth.watch = s.watch := by
  unfold State.driveHealth
  split <;> rfl

theorem watch_lockEntered : s.lockEntered.watch = s.watch := by
  have woken : s.wakeModule.watch = s.watch := by
    unfold State.wakeModule
    split <;> rfl
  unfold State.lockEntered
  split
  · exact woken
  · exact (watch_driveHealth _).trans woken

theorem watch_lockModule (source : Nat) (p : Posting) : (s.lockModule source p).watch = s.watch :=
  (watch_of_calm (lockModule_calm s source p)).trans (watch_lockEntered s)

theorem watch_setShed (on : Bool) : (s.setShed on).watch = s.watch := watch_of_calm (s := s.setTamper fun t => { t with shed := on }) (calm_setShed s on)

theorem watch_lock (source : Nat) : (s.lock source).watch = s.watch := by
  unfold State.lock
  dsimp only
  (repeat' split)
  · rfl
  · rfl
  · exact watch_lockModule s.endDebug source .now

theorem watch_lockCause (flag : Nat) : (s.lockCause flag).watch = s.watch := by
  unfold State.lockCause
  exact (watch_lock ..).trans (watch_setShed ..)

/-- LOCK on a module that runs, past its boot, leaves it LOCKED. -/
theorem lock_state {s : State} (hr : s.running = true) (hb : s.boot.state ≠ .booting) (source : Nat) : (s.lock source).boot.state = .locked := by
  have run : ¬((!s.endDebug.boot.powered || s.endDebug.boot.held) = true) := by
    unfold State.running at hr
    simp only [Bool.and_eq_true] at hr
    have powered : s.endDebug.boot.powered = true := hr.1
    have held : (!s.endDebug.boot.held) = true := hr.2
    simp only [Bool.not_eq_true'] at held
    simp [powered, held]
  have locked (t : State) (p : Posting) : (t.lockModule source p).boot.state = .locked := by
    have h := (congrArg (fun x : Calm => x.rest.boot.state) (lockModule_calm t source p) :)
    refine h.trans ?_
    unfold State.lockEntered State.driveHealth
    split
    · next hl => exact hl
    · split <;> rfl
  unfold State.lock
  dsimp only
  have past : s.endDebug.boot.state ≠ .booting := hb
  rw [if_neg run, if_neg past]
  exact locked _ _

theorem lockCause_state {s : State} (hr : s.running = true) (hb : s.boot.state ≠ .booting) (flag : Nat) : (s.lockCause flag).boot.state = .locked := by
  unfold State.lockCause
  dsimp only
  have boot : ∀ f : Tamper → Tamper, ((s.setTamper f).setShed true).boot = s.boot := fun f =>
    (congrArg (fun x : Calm => x.rest.boot) (calm_setShed (s.setTamper f) true) :)
  refine lock_state ?_ ?_ _
  · rw [running_of_boot (boot _)]
    exact hr
  · rw [boot]
    exact hb

end

/-! ### Double failure (R359) -/

/-- The state that a double failure leaves a warden in: FAILED stays, and the third failure within 24 h is FAILED. -/
def Warden.restartState (x : Warden) : WardenState := if x.state = .failed ∨ 3 ≤ x.failures.length then .failed else .selfTest

/-- The state of a double failure before any warden is reset. -/
def State.doubleFailed (s : State) (w cause : Nat) : State :=
  let s := s.holdOutputs
  let s := { s with guy := { s.guy with rebuilding := true, preparing := none, journal := [] } }
  (s.log codeDoubleFailure (originOf 9 w) warning (s.wardenData cause 0)).lockCause lockWarden

/-- A warden that is not FAILED is reset. -/
def State.resetUnfailed (s : State) (v : Nat) : State := if (s.warden v).state = .failed then s else s.resetWarden v

theorem doubleFailure_eq (s : State) (w cause : Nat) : s.doubleFailure w cause =
    let t := ((s.doubleFailed w cause).resetUnfailed 0).resetUnfailed 1
    if (t.warden 0).state = .failed && (t.warden 1).state = .failed then t.wardensHalt else t := rfl

section
variable (s : State)

theorem holdOutputs_watch : s.holdOutputs.warden = s.warden ∧ s.holdOutputs.clock = s.clock ∧ s.holdOutputs.boot = s.boot := by
  unfold State.holdOutputs
  split <;> exact ⟨rfl, rfl, rfl⟩

theorem state_resetUnfailed (w v : Nat) : ((s.resetUnfailed w).warden v).state = if w = v then (s.warden w).restartState else (s.warden v).state := by
  unfold State.resetUnfailed Warden.restartState
  split
  · next h =>
    split
    · next hv => rw [if_pos (.inl h), ← hv, h]
    · rfl
  · next h =>
    rw [warden_resetWarden]
    split
    · simp [Warden.restarted, h]
    · rfl

theorem failures_resetUnfailed (w v : Nat) : ((s.resetUnfailed w).warden v).failures = (s.warden v).failures := by
  unfold State.resetUnfailed
  split
  · rfl
  · rw [warden_resetWarden]
    split
    · next h => subst h; rfl
    · rfl

theorem unseated_resetUnfailed (w : Nat) : (s.resetUnfailed w).unseated = s.unseated := by
  unfold State.resetUnfailed
  split
  · rfl
  · exact unseated_resetWarden ..

/-- A warden's state and failures, which its digests do not touch. -/
theorem warden_of_watch {s t : State} (h : t.watch = s.watch) (v : Nat) :
    (t.warden v).state = (s.warden v).state ∧ (t.warden v).failures = (s.warden v).failures := by
  have hw := congrFun (congrArg Watch.wardens h) v
  exact ⟨(congrArg Warden.state hw :), (congrArg Warden.failures hw :)⟩

theorem restartState_of_watch {s t : State} (h : t.watch = s.watch) (v : Nat) : (t.warden v).restartState = (s.warden v).restartState := by
  obtain ⟨hs, hf⟩ := warden_of_watch h v
  rw [Warden.restartState, hs, hf, Warden.restartState]

/-- The gap and the LOCK that a double failure begins with. -/
theorem doubleFailed_watch (w cause : Nat) : (s.doubleFailed w cause).watch =
    State.watch { s with guy := { s.holdOutputs.guy with rebuilding := true, preparing := none, journal := [] } } := by
  have logged (t : State) (x y n : Nat) (b : Bytes) : ((t.log x y n b).lockCause lockWarden).watch = t.watch :=
    (watch_lockCause ..).trans (watch_of_calm (calm_log ..))
  unfold State.doubleFailed
  refine (logged ..).trans ?_
  unfold State.holdOutputs
  split <;> rfl

theorem doubleFailed_boot (hr : s.running = true) (hb : s.boot.state ≠ .booting) (w cause : Nat) : (s.doubleFailed w cause).boot.state = .locked := by
  have boot (t : State) (ht : t.boot = s.boot) (x y n : Nat) (b : Bytes) : ((t.log x y n b).lockCause lockWarden).boot.state = .locked := by
    have hl : (t.log x y n b).boot = s.boot := ((congrArg State.boot (silent_log t x y n b) :)).trans ht
    exact lockCause_state (by rw [running_of_boot hl]; exact hr) (by rw [hl]; exact hb) _
  unfold State.doubleFailed
  refine boot _ ?_ _ _ _ _
  exact (holdOutputs_watch s).2.2

/-- The halt of a module without a warden: both are FAILED. -/
theorem wardensHalt_outcome : s.wardensHalt.boot.state = .halted ∧ s.wardensHalt.guy.rebuilding = false ∧ s.wardensHalt.clock = s.clock ∧
    ∀ v, v < 2 → (s.wardensHalt.warden v).state = .failed := by
  have first := unwarded_wardenTo s 0 .failed
  have second := unwarded_wardenTo (s.wardenTo 0 .failed) 1 .failed
  have state (v : Nat) (hv : v < 2) : (((s.wardenTo 0 .failed).wardenTo 1 .failed).warden v).state = .failed := by
    rw [warden_wardenTo]
    split
    · rfl
    · rw [warden_wardenTo, if_pos (by omega)]
  unfold State.wardensHalt State.bootHalted
  generalize (s.wardenTo 0 .failed).wardenTo 1 .failed = t at second state ⊢
  generalize s.wardenTo 0 .failed = r at first second
  have h1 : t.clock = r.clock := (congrArg State.clock second :)
  have h2 : r.clock = s.clock := (congrArg State.clock first :)
  refine ⟨?_, ?_, ?_, ?_⟩
  · rfl
  · rfl
  · exact h1.trans h2
  · exact state

/-- What stands of the clock, the module's state and the rebuild through a reset. -/
theorem parts_of_unseated {s t : State} (h : t.unseated = s.unseated) :
    t.clock = s.clock ∧ t.boot = s.boot ∧ t.guy.rebuilding = s.guy.rebuilding ∧ t.guy.holding = s.guy.holding :=
  ⟨(congrArg State.clock h :), (congrArg State.boot h :), (congrArg (fun x : State => x.guy.rebuilding) h :),
    (congrArg (fun x : State => x.guy.holding) h :)⟩

/-- A double failure leaves each warden reset or FAILED, and the module LOCKED, or HALTED where both are FAILED. -/
theorem doubleFailure_outcome (hr : s.running = true) (hb : s.boot.state ≠ .booting) (w cause : Nat) :
    (s.doubleFailure w cause).clock = s.clock ∧
      (∀ v, v < 2 → ((s.doubleFailure w cause).warden v).state = (s.warden v).restartState) ∧
      (if (s.warden 0).restartState = .failed ∧ (s.warden 1).restartState = .failed then (s.doubleFailure w cause).boot.state = .halted
        else (s.doubleFailure w cause).boot.state = .locked ∧ (s.doubleFailure w cause).guy.rebuilding = true) := by
  have watch := doubleFailed_watch s w cause
  have locked := doubleFailed_boot s hr hb w cause
  rw [doubleFailure_eq]
  generalize s.doubleFailed w cause = d at watch locked ⊢
  have same (v : Nat) : (d.warden v).restartState = (s.warden v).restartState := (restartState_of_watch watch v).trans rfl
  have clock : d.clock = s.clock := (congrArg Watch.clock watch :)
  have rebuilding : d.guy.rebuilding = true := (congrArg (fun x : Watch => x.guy.rebuilding) watch :)
  dsimp only
  generalize ht : (d.resetUnfailed 0).resetUnfailed 1 = t
  obtain ⟨tc, tb, tr, -⟩ := parts_of_unseated ((congrArg State.unseated ht.symm).trans ((unseated_resetUnfailed _ 1).trans (unseated_resetUnfailed d 0)))
  have state (v : Nat) (hv : v < 2) : (t.warden v).state = (s.warden v).restartState := by
    rw [← ht, state_resetUnfailed, ← same]
    have later : ((d.resetUnfailed 0).warden 1).restartState = (d.warden 1).restartState := by
      rw [Warden.restartState, state_resetUnfailed, failures_resetUnfailed, Warden.restartState]
      rfl
    split
    · next h => subst h; exact later
    · have h0 : v = 0 := by omega
      rw [h0, state_resetUnfailed, if_pos rfl]
  by_cases hboth : (s.warden 0).restartState = .failed ∧ (s.warden 1).restartState = .failed
  · have both : ((t.warden 0).state = .failed && (t.warden 1).state = .failed) = true := by
      simp [state 0 (by decide), state 1 (by decide), hboth]
    obtain ⟨halted, -, hclock, failed⟩ := wardensHalt_outcome t
    rw [if_pos both, if_pos hboth]
    refine ⟨hclock.trans (tc.trans clock), fun v hv => ?_, halted⟩
    rw [failed v hv]
    rcases (show v = 0 ∨ v = 1 by omega) with rfl | rfl
    · exact hboth.1.symm
    · exact hboth.2.symm
  · have notBoth : ¬((t.warden 0).state = .failed && (t.warden 1).state = .failed) = true := by
      simpa [state 0 (by decide), state 1 (by decide)] using hboth
    rw [if_neg notBoth, if_neg hboth]
    exact ⟨tc.trans clock, state, by rw [tb]; exact locked, tr.trans rebuilding⟩

end

/-! ### The grant moves (R353, R355) -/

theorem activeWarden_lt (s : State) : s.activeWarden < 2 := by
  unfold State.activeWarden b2n
  split <;> decide

theorem standby_ne (s : State) : s.standby ≠ s.activeWarden := by
  have h := activeWarden_lt s
  unfold State.standby
  omega

theorem standby_lt (s : State) : s.standby < 2 := by
  unfold State.standby
  omega

section
variable (s : State)

/-- The arbiter once the grant moves. -/
def State.grantMoved (s : State) : State :=
  let away := if s.activeWarden = 0 then min 255 (s.guy.awayFromA + 1) else s.guy.awayFromA
  let t := s.holdOutputs
  { t with guy := { t.guy with code := if s.standby = 0 then movingToA else movingToB, failovers := min 0xFFFF (t.guy.failovers + 1)
                               awayFromA := away, lastCause := (t.warden s.activeWarden).cause, takebackOff := t.guy.takebackOff || away ≥ 3
                               preparing := none, faultAt := t.faultOf s.activeWarden } }

theorem moveGrant_eq : s.moveGrant = (s.grantMoved.wardenTo s.activeWarden .offline).wardenTo s.standby .active := rfl

theorem grantMoved_parts (hh : s.guy.holding = false) :
    s.grantMoved.clock = s.clock ∧ s.grantMoved.wardens = s.wardens ∧ s.grantMoved.guy.holding = true ∧ s.grantMoved.guy.rebuilding = s.guy.rebuilding ∧
      s.grantMoved.guy.code = (if s.standby = 0 then movingToA else movingToB) ∧ s.grantMoved.guy.failovers = min 0xFFFF (s.guy.failovers + 1) ∧
      s.grantMoved.guy.lastCause = (s.warden s.activeWarden).cause := by
  have held : s.holdOutputs = { s with guy := { s.guy with holding := true, heldAlert := s.alertNow, heldHealth := s.healthNow } } := if_neg (by simp [hh])
  unfold State.grantMoved
  rw [held]
  exact ⟨rfl, rfl, rfl, rfl, rfl, rfl, rfl⟩

/-- What of the clock and of the arbiter stands when wardens enter states. -/
theorem parts_of_unwarded {s t : State} (h : t.unwarded = s.unwarded) :
    t.clock = s.clock ∧ t.guy.holding = s.guy.holding ∧ t.guy.rebuilding = s.guy.rebuilding ∧ t.guy.code = s.guy.code ∧
      t.guy.failovers = s.guy.failovers ∧ t.guy.lastCause = s.guy.lastCause :=
  ⟨(congrArg State.clock h :), (congrArg (fun x : State => x.guy.holding) h :), (congrArg (fun x : State => x.guy.rebuilding) h :),
    (congrArg (fun x : State => x.guy.code) h :), (congrArg (fun x : State => x.guy.failovers) h :), (congrArg (fun x : State => x.guy.lastCause) h :)⟩

theorem moveGrant_outcome (hh : s.guy.holding = false) :
    s.moveGrant.clock = s.clock ∧ s.moveGrant.guy.holding = true ∧ s.moveGrant.guy.rebuilding = s.guy.rebuilding ∧
      s.moveGrant.guy.code = (if s.standby = 0 then movingToA else movingToB) ∧ s.moveGrant.guy.failovers = min 0xFFFF (s.guy.failovers + 1) ∧
      s.moveGrant.guy.lastCause = (s.moveGrant.warden s.activeWarden).cause ∧
      (s.moveGrant.warden s.activeWarden).state = .offline ∧ (s.moveGrant.warden s.standby).state = .active := by
  obtain ⟨clock, wardens, holding, rebuilding, code, failovers, cause⟩ := grantMoved_parts s hh
  have e := (unwarded_wardenTo (s.grantMoved.wardenTo s.activeWarden .offline) s.standby .active).trans (unwarded_wardenTo s.grantMoved s.activeWarden .offline)
  have old : s.moveGrant.warden s.activeWarden = { s.warden s.activeWarden with state := .offline } := by
    rw [moveGrant_eq, warden_wardenTo, if_neg (standby_ne s), warden_wardenTo, if_pos rfl, warden_of_wardens wardens]
  have new : (s.moveGrant.warden s.standby).state = .active := by
    rw [moveGrant_eq, warden_wardenTo, if_pos rfl]
  rw [← moveGrant_eq] at e
  obtain ⟨hc, hh, hr, hk, hf, hl⟩ := parts_of_unwarded e
  refine ⟨hc.trans clock, hh.trans holding, hr.trans rebuilding, hk.trans code, hf.trans failovers, ?_, by rw [old], new⟩
  rw [hl, cause, old]
  rfl

/-! ### A warden fails (R351, R353, R359, R360) -/

/-- Whether a failure now is a warden's third within 24 h. -/
@[reducible] def State.third (s : State) (x : Warden) : Prop := 3 ≤ (x.failures.filter fun t => s.now < t + 86400000000000).length + 1

theorem warden_countFailure (w v : Nat) : (s.countFailure w).warden v = if w = v then
    { s.warden w with failures := ((s.warden w).failures.filter fun t => s.now < t + 86400000000000) ++ [s.now] } else s.warden v := warden_setWarden ..

theorem restartState_countFailure {w : Nat} (hw : (s.warden w).state ≠ .failed) :
    ((s.countFailure w).warden w).restartState = if s.third (s.warden w) then .failed else .selfTest := by
  rw [warden_countFailure, if_pos rfl, Warden.restartState]
  have third : ((s.warden w).state = .failed ∨ 3 ≤ (((s.warden w).failures.filter fun t => s.now < t + 86400000000000) ++ [s.now]).length) ↔
      s.third (s.warden w) := by
    rw [List.length_append, List.length_singleton]
    exact ⟨fun h => h.resolve_left hw, .inr⟩
  simp only [third]

/-- What a failed warden leaves, by its part and its standby's state. -/
theorem wardenFails_outcome (hr : s.running = true) (hb : s.boot.state ≠ .booting) (hh : s.guy.holding = false) (w : Nat)
    (hw : (s.warden w).state ≠ .failed) :
    (s.wardenFails w).clock = s.clock ∧
      (w = s.activeWarden → (s.warden s.standby).state = .mirrored →
        (s.wardenFails w).guy.holding = true ∧ (s.wardenFails w).guy.rebuilding = s.guy.rebuilding ∧
          (s.wardenFails w).guy.code = (if w = 0 then movingToB else movingToA) ∧ ((s.wardenFails w).warden w).state = .offline ∧
          ((s.wardenFails w).warden s.standby).state = .active ∧ (s.wardenFails w).guy.failovers = min 0xFFFF (s.guy.failovers + 1) ∧
          (s.wardenFails w).guy.lastCause = ((s.wardenFails w).warden w).cause) ∧
      (w = s.activeWarden → (s.warden s.standby).state ≠ .mirrored →
        ((s.wardenFails w).warden w).state = (if s.third (s.warden w) then .failed else .selfTest) ∧
          ((s.wardenFails w).warden s.standby).state = (s.warden s.standby).restartState ∧
          (if s.third (s.warden w) ∧ (s.warden s.standby).restartState = .failed then (s.wardenFails w).boot.state = .halted
            else (s.wardenFails w).boot.state = .locked ∧ (s.wardenFails w).guy.rebuilding = true)) ∧
      (w ≠ s.activeWarden → ((s.wardenFails w).warden w).state = (if s.third (s.warden w) then .failed else .selfTest)) := by
  have counted := restartState_countFailure s hw
  have other (v : Nat) (hv : w ≠ v) : (s.countFailure w).warden v = s.warden v := by rw [warden_countFailure, if_neg hv]
  have unfailed : ((s.countFailure w).warden w).state ≠ .failed := by
    rw [warden_countFailure, if_pos rfl]
    exact hw
  by_cases ha : w = s.activeWarden
  · have hsw : w ≠ s.standby := fun h => standby_ne s (h.symm.trans ha)
    have inPart : s.wardenFails w = if ((s.countFailure w).warden s.standby).state = .mirrored then (s.countFailure w).moveGrant
        else (s.countFailure w).doubleFailure w ((s.countFailure w).warden w).cause := if_pos ha
    rw [inPart, other _ hsw]
    have same : s.activeWarden = (s.countFailure w).activeWarden := rfl
    by_cases hm : (s.warden s.standby).state = .mirrored
    · rw [if_pos hm]
      obtain ⟨clock, holding, rebuilding, code, failovers, cause, old, new⟩ := moveGrant_outcome (s.countFailure w) hh
      refine ⟨clock, fun _ _ => ⟨holding, rebuilding, ?_, ?_, new, failovers, ?_⟩, fun _ h => absurd hm h, fun h => absurd ha h⟩
      · rw [code]
        have standby : (s.countFailure w).standby = 1 - w := by rw [ha]; rfl
        rw [standby]
        rcases (show w = 0 ∨ w = 1 by have := activeWarden_lt s; omega) with rfl | rfl <;> rfl
      · exact (congrArg (fun v => ((s.countFailure w).moveGrant.warden v).state) ha).trans old
      · exact cause.trans (congrArg (fun v => ((s.countFailure w).moveGrant.warden v).cause) ha.symm)
    · rw [if_neg hm]
      obtain ⟨clock, states, outcome⟩ := doubleFailure_outcome (s.countFailure w) hr hb w ((s.countFailure w).warden w).cause
      refine ⟨clock, fun _ h => absurd h hm, fun _ _ => ⟨?_, ?_, ?_⟩, fun h => absurd ha h⟩
      · rw [states w (ha ▸ activeWarden_lt s), counted]
      · rw [states _ (standby_lt s), other _ hsw]
      · have both : ((s.countFailure w).warden 0).restartState = .failed ∧ ((s.countFailure w).warden 1).restartState = .failed ↔
            s.third (s.warden w) ∧ (s.warden s.standby).restartState = .failed := by
          have pair : (((s.countFailure w).warden 0).restartState = .failed ∧ ((s.countFailure w).warden 1).restartState = .failed) ↔
              ((s.countFailure w).warden w).restartState = .failed ∧ ((s.countFailure w).warden s.standby).restartState = .failed := by
            have standby : s.standby = 1 - w := by rw [ha]; rfl
            rw [standby]
            rcases (show w = 0 ∨ w = 1 by have := activeWarden_lt s; omega) with rfl | rfl
            · exact Iff.rfl
            · exact And.comm
          rw [pair, counted, other _ hsw]
          refine and_congr_left fun _ => ?_
          split
          · next h => exact iff_of_true rfl h
          · next h => exact iff_of_false (by decide) h
        simp only [both] at outcome
        exact outcome
  · have inPart : s.wardenFails w = (s.countFailure w).resetWarden w := if_neg ha
    rw [inPart]
    refine ⟨?_, fun h => absurd h ha, fun h => absurd h ha, fun _ => ?_⟩
    · exact (parts_of_unseated (unseated_resetWarden (s.countFailure w) w)).1
    · rw [warden_resetWarden, if_pos rfl, ← counted, Warden.restartState]
      simp [Warden.restarted, unfailed]

end

/-- A state that differs from `s` in the warden that fails, in the path-fault flags and in the time. -/
structure State.FailsFrom (t s : State) (w : Nat) : Prop where
  boot : t.boot = s.boot
  guy : { t.guy with pathWire := false, pathFabric := false } = { s.guy with pathWire := false, pathFabric := false }
  state : (t.warden w).state = (s.warden w).state
  failures : (t.warden w).failures = (s.warden w).failures
  others : ∀ v, v ≠ w → t.warden v = s.warden v

/-- The failure of a warden that runs, on a module that serves. -/
theorem wardenFails_served {s t : State} {w : Nat} (hs : s.wardensServe = true) (hrun : (s.warden w).runs = true) (hr : s.guy.rebuilding = false)
    (hh : s.guy.holding = false) (f : t.FailsFrom s w) :
    let u := t.wardenFails w
    let W := s.warden w
    let third := 3 ≤ (W.failures.filter fun t => u.now < t + 86400000000000).length + 1
    (w = s.activeWarden → (s.warden s.standby).state = .mirrored →
      u.guy.holding = true ∧ u.guy.rebuilding = false ∧ u.guy.code = (if w = 0 then movingToB else movingToA) ∧ (u.warden w).state = .offline ∧
        (u.warden s.standby).state = .active ∧ u.guy.failovers = min 0xFFFF (s.guy.failovers + 1) ∧ u.guy.lastCause = (u.warden w).cause) ∧
    (w = s.activeWarden → (s.warden s.standby).state ≠ .mirrored →
      (¬ third ∨ ((s.warden s.standby).state ≠ .failed ∧ (s.warden s.standby).failures.length < 3) →
        u.guy.rebuilding = true ∧ u.boot.state = .locked ∧ (u.warden w).state = (if third then .failed else .selfTest) ∧
          ((s.warden s.standby).state = .failed → (u.warden s.standby).state = .failed) ∧
          ((s.warden s.standby).state ≠ .failed → (s.warden s.standby).failures.length < 3 → (u.warden s.standby).state = .selfTest)) ∧
      (third → (s.warden s.standby).state = .failed → u.boot.state = .halted)) ∧
    (w ≠ s.activeWarden → (u.warden w).state = (if third then .failed else .selfTest)) := by
  obtain ⟨boot, guy, state, failures, others⟩ := f
  intro u W third
  unfold State.wardensServe at hs
  simp only [Bool.and_eq_true, bne_iff_ne] at hs
  have code : t.guy.code = s.guy.code := (congrArg Guyline.code guy :)
  have active : t.activeWarden = s.activeWarden := by rw [State.activeWarden, code, State.activeWarden]
  have standby : t.standby = s.standby := by rw [State.standby, active, State.standby]
  have unfailed : (t.warden w).state ≠ .failed := by
    rw [state]
    intro h
    simp [Warden.runs, h] at hrun
  obtain ⟨clock, moved, double, alone⟩ := wardenFails_outcome t (by rw [running_of_boot boot]; exact hs.1) (by rw [boot]; exact hs.2)
    ((congrArg Guyline.holding guy :).trans hh) w unfailed
  have now : u.now = t.now := congrArg Clock.mono clock
  have hthird : t.third (t.warden w) ↔ third := by rw [State.third, failures, ← now]
  simp only [hthird, active, standby] at moved double alone
  have mate : w = s.activeWarden → t.warden s.standby = s.warden s.standby := fun ha => others _ fun h => standby_ne s (h.trans ha)
  refine ⟨fun ha hm => ?_, fun ha hm => ?_, alone⟩
  · obtain ⟨holding, rebuilding, code', old, new, failovers, cause⟩ := moved ha (by rw [mate ha]; exact hm)
    refine ⟨holding, rebuilding.trans ((congrArg Guyline.rebuilding guy :).trans hr), code', old, new, ?_, cause⟩
    rw [failovers, (congrArg Guyline.failovers guy :)]
  · obtain ⟨old, new, outcome⟩ := double ha (by rw [mate ha]; exact hm)
    rw [mate ha] at new outcome
    have stays (h : (s.warden s.standby).state = .failed) : (s.warden s.standby).restartState = .failed := if_pos (.inl h)
    have restarts (h : (s.warden s.standby).state ≠ .failed) (hf : (s.warden s.standby).failures.length < 3) :
        (s.warden s.standby).restartState = .selfTest := if_neg (not_or.mpr ⟨h, Nat.not_le.mpr hf⟩)
    refine ⟨fun h => ?_, fun h3 hf => ?_⟩
    · have one : ¬(third ∧ (s.warden s.standby).restartState = .failed) := by
        rintro ⟨h3, hf⟩
        obtain ⟨hn, hl⟩ := h.resolve_left (not_not.mpr h3)
        rw [restarts hn hl] at hf
        cases hf
      rw [if_neg one] at outcome
      exact ⟨outcome.2, outcome.1, old, fun hf => new.trans (stays hf), fun hn hl => new.trans (restarts hn hl)⟩
    · rw [if_pos ⟨h3, stays hf⟩] at outcome
      exact outcome

/-! ### Heartbeats (R350, R351) -/

/-- A warden that has missed one more period on a path. -/
def Warden.missing (x : Warden) (fabric : Bool) (n : Nat) : Warden :=
  if fabric then { x with fabricMisses := n + 1, fabricGood := 0, fabricFault := x.fabricFault || n ≥ 2 }
  else { x with wireMisses := n + 1, wireGood := 0, wireFault := x.wireFault || n ≥ 2 }

def State.missed (s : State) (w : Nat) (fabric : Bool) (n : Nat) : State :=
  (s.passTo ((if fabric then (s.warden w).fabricLast else (s.warden w).wireLast) + 2250 + 2000 * n)).setWarden w fun x => x.missing fabric n

/-- HEARTBEAT_MISS on a module that serves, for a warden that runs. -/
theorem execHeartbeatMiss_served {s : State} {w : Nat} (hs : s.wardensServe = true) (hrun : (s.warden w).runs = true) (fabric tap : Bool) :
    execHeartbeatMiss w fabric tap s =
      let n := if fabric then (s.warden w).fabricMisses else (s.warden w).wireMisses
      let other := if fabric then (s.warden w).wireMisses else (s.warden w).fabricMisses
      let t := (s.missed w fabric n).pathFlags
      if n < 2 then .next t
      else if 3 ≤ other then
        if w = s.activeWarden && !tap then .next (t.log codeGrantRefused (originOf 9 (1 - w)) warning (t.wardenData 1 0))
        else .next (t.wardenFails w)
      else if n != 2 then .next t
      else .next ((t.log codePathFault (originOf 9 w) warning (t.wardenData t.guy.lastCause 0)).raise 0x191) := by
  unfold execHeartbeatMiss
  refine (if_neg (by simp [hs, hrun])).trans ?_
  cases fabric <;> rfl

theorem warden_pathFlags (s : State) (v : Nat) : s.pathFlags.warden v = s.warden v := rfl

theorem warden_missed (s : State) (w v : Nat) (fabric : Bool) (n : Nat) :
    ((s.missed w fabric n).pathFlags).warden v = if w = v then (s.warden w).missing fabric n else s.warden v := by
  rw [warden_pathFlags, State.missed, warden_setWarden]
  rfl

/-- A path that a warden has missed for the third time is at fault. -/
theorem path_missed (s : State) {w : Nat} (hw : w < 2) (fabric : Bool) {n : Nat} (hn : 2 ≤ n) :
    (if fabric then ((s.missed w fabric n).pathFlags).guy.pathFabric else ((s.missed w fabric n).pathFlags).guy.pathWire) = true := by
  have at_ := warden_missed s w w fabric n
  rw [warden_pathFlags, if_pos rfl] at at_
  generalize s.missed w fabric n = t at at_ ⊢
  have flags : t.pathFlags.guy.pathWire = ((t.warden 0).wireFault || (t.warden 1).wireFault) ∧
      t.pathFlags.guy.pathFabric = ((t.warden 0).fabricFault || (t.warden 1).fabricFault) := ⟨rfl, rfl⟩
  rw [flags.1, flags.2]
  rcases (show w = 0 ∨ w = 1 by omega) with rfl | rfl <;> cases fabric <;> simp [at_, Warden.missing, hn]

theorem misses_missed (s : State) (w : Nat) (fabric : Bool) (n : Nat) :
    (if fabric then (((s.missed w fabric n).pathFlags).warden w).fabricMisses else (((s.missed w fabric n).pathFlags).warden w).wireMisses) = n + 1 := by
  rw [warden_missed, if_pos rfl]
  cases fabric <;> rfl

theorem missed_failsFrom (s : State) (w : Nat) (fabric : Bool) (n : Nat) : ((s.missed w fabric n).pathFlags).FailsFrom s w where
  boot := rfl
  guy := rfl
  state := by rw [warden_missed, if_pos rfl]; cases fabric <;> rfl
  failures := by rw [warden_missed, if_pos rfl]; cases fabric <;> rfl
  others v hv := by rw [warden_missed, if_neg (Ne.symm hv)]

theorem setWarden_failsFrom (s : State) (w : Nat) {f : Warden → Warden} (hs : ∀ x, (f x).state = x.state) (hf : ∀ x, (f x).failures = x.failures) :
    (s.setWarden w f).FailsFrom s w where
  boot := rfl
  guy := rfl
  state := by rw [warden_setWarden_same]; exact hs _
  failures := by rw [warden_setWarden_same]; exact hf _
  others v hv := warden_setWarden_other _ hv _

theorem now_missed (s : State) (w : Nat) (fabric : Bool) (n : Nat) : ((s.missed w fabric n).pathFlags).now =
    max s.now ((if fabric then (s.warden w).fabricLast else (s.warden w).wireLast) + 2250 + 2000 * n) := now_passTo ..

theorem now_log (s : State) (code origin severity : Nat) (data : Bytes) : (s.log code origin severity data).now = s.now :=
  (congrArg (fun x : State => x.clock.mono) (silent_log s code origin severity data) :)

theorem now_raise (s : State) (source : Nat) : (s.raise source).now = s.now :=
  (congrArg (fun x : State => x.clock.mono) (silent_raise s source) :)

/-- Settles O50. -/
theorem wardenFailuresAct : Obligations.WardenFailuresAct := by
  unfold Obligations.WardenFailuresAct
  intro s w loop fabric hs hrun W n other due
  have missed (tap : Bool) := execHeartbeatMiss_served hs hrun fabric tap
  refine ⟨fun i hi hr hh => ?_, ?_, fun hn tap ht => ?_, fun hn ho hw tap => ?_, fun hl a b => ?_⟩
  · rcases hi with ⟨rfl, hf⟩ | ⟨rfl, hf⟩ | ⟨rfl, hn, ho⟩
    · refine ⟨_, if_neg ?_, wardenFails_served hs hrun hr hh (setWarden_failsFrom s w (fun _ => rfl) fun _ => rfl)⟩
      have fault : (s.warden w).fault = false := hf
      simp [hs, hrun, fault]
    · refine ⟨_, if_neg ?_, wardenFails_served hs hrun hr hh (setWarden_failsFrom s w (fun _ => rfl) fun _ => rfl)⟩
      have resigned : (s.warden w).resigned = false := hf
      simp [hs, hrun, resigned]
    · refine ⟨_, (missed true).trans ?_, wardenFails_served hs hrun hr hh (missed_failsFrom s w fabric n)⟩
      exact (if_neg (Nat.not_lt.mpr hn)).trans ((if_pos ho).trans (if_neg (by simp)))
  · change execWardenPeriodicSelfTest w true s = _
    unfold execWardenPeriodicSelfTest
    exact if_pos (by simp)
  · rcases Nat.lt_or_ge n 2 with h2 | h2
    · exact ⟨_, (missed tap).trans (if_pos h2), now_missed .., rfl, misses_missed ..⟩
    · rcases Nat.lt_or_ge other 3 with h3 | h3
      · have n3 : (n != 2) = true := by
          rcases hn with h | ⟨h, -⟩ | ⟨-, h, -⟩
          · omega
          · exact bne_iff_ne.mpr (by omega)
          · omega
        exact ⟨_, (missed tap).trans ((if_neg (Nat.not_lt.mpr h2)).trans ((if_neg (Nat.not_le.mpr h3)).trans (if_pos n3))), now_missed .., rfl,
          misses_missed ..⟩
      · have refused : (w = s.activeWarden && !tap) = true := by
          rcases hn with h | ⟨-, h⟩ | ⟨-, -, ha⟩
          · omega
          · omega
          · simp [ha, ht h2 h3]
        refine ⟨_, (missed tap).trans ((if_neg (Nat.not_lt.mpr h2)).trans ((if_pos h3).trans (if_pos refused))), ?_, ?_, ?_⟩
        · exact (now_log ..).trans (now_missed ..)
        · rw [guy_log]
          rfl
        · rw [warden_of_wardens (wardens_log ..)]
          exact misses_missed ..
  · have h2 : ¬n < 2 := by omega
    refine ⟨_, (missed tap).trans ((if_neg h2).trans ((if_neg (Nat.not_le.mpr ho)).trans (if_neg (by rw [bne_iff_ne]; exact fun h => h hn)))), ?_, ?_, mem_latched_raise ..⟩
    · exact (now_raise ..).trans ((now_log ..).trans (now_missed ..))
    · have kept := (silent_raise _ 0x191).trans
        (silent_log ((s.missed w fabric n).pathFlags) codePathFault (originOf 9 w) warning
          (((s.missed w fabric n).pathFlags).wardenData ((s.missed w fabric n).pathFlags).guy.lastCause 0))
      have wire := (congrArg (fun x : State => x.guy.pathWire) kept :)
      have fab := (congrArg (fun x : State => x.guy.pathFabric) kept :)
      have path := path_missed s hw fabric (show 2 ≤ n by omega)
      cases fabric with
      | false => exact wire.trans path
      | true => exact fab.trans path
  · refine ⟨_, if_neg (by simp [hs, hrun]; omega), ?_⟩
    rw [warden_pathFlags, warden_setWarden_same]
    cases a <;> cases b <;> simp [beat, W]

end Sys2Proof.Machine
end

section
/-!
PROOF. The standby and the grant: the end of a gap, the journal, rebuild and takeback (O51).
-/

namespace Sys2Proof.Machine

/-! ### Placement changes nothing outside the domains (R46, R65 to R73) -/

theorem calm_takeSeedOf {s t : State} {r : Nat} {after : Option Nat} {a : Bytes} (h : s.takeSeedOf r after = some (a, t)) : t.calm = s.calm := by
  simp only [State.takeSeedOf, Option.map_eq_some_iff, Prod.mk.injEq] at h
  obtain ⟨_, _, _, rfl⟩ := h
  rfl

theorem calm_takeSeed {s t : State} {after : Option Nat} {l : List Nat} {a : Bytes} (h : s.takeSeed after l = some (a, t)) : t.calm = s.calm := by
  induction l with
  | nil => cases h
  | cons r rs ih =>
    rw [State.takeSeed] at h
    split at h
    · next x hx => cases h; exact calm_takeSeedOf hx
    · exact ih h

theorem calm_drawOne {s t : State} {d : Nat} {c : Cmd} (h : s.drawOne d c = some t) : t.calm = s.calm := by
  unfold State.drawOne at h
  dsimp only at h
  split at h
  · cases h
  · simp only [Option.map_eq_some_iff, Prod.exists] at h
    obtain ⟨o, u, hu, rfl⟩ := h
    rw [calm_setCmd, calm_setDom]
    split at hu
    · simp only [Option.map_eq_some_iff, Prod.mk.injEq, Prod.exists] at hu
      obtain ⟨a, v, hv, _, rfl⟩ := hu
      exact calm_takeSeed hv
    · split at hu
      · cases hu; rfl
      · split at hu
        · simp only [Option.map_eq_some_iff, Prod.mk.injEq, Prod.exists] at hu
          obtain ⟨a, v, hv, _, rfl⟩ := hu
          exact calm_takeSeed hv
        · cases hu; rfl

section
variable (s : State)

@[simp] theorem calm_journalTimer (d t : Nat) : (s.journalTimer d t).calm = s.calm := calm_journal ..

@[simp] theorem calm_assign (d id : Nat) (draws : List Nat) (predict : Bool) : (s.assign d id draws predict).calm = s.calm := by
  unfold State.assign
  split
  · rfl
  · dsimp only
    rw [calm_journalTimer, calm_setCmd, calm_setDom]
    split
    · split
      · next h => exact calm_takeSeed h
      · rfl
    · rfl

theorem calm_drawAll (d : Nat) (l : List Cmd) : (s.drawAll d l).calm = s.calm := by
  induction l generalizing s with
  | nil => rfl
  | cons c cs ih =>
    rw [State.drawAll]
    split
    · split
      · next t h => rw [ih, calm_drawOne h]
      · rfl
    · exact ih s

@[simp] theorem calm_gapTimer (d : Nat) (moved : Bool) : (s.gapTimer d moved).calm = s.calm := by
  unfold State.gapTimer
  dsimp only
  split
  · rfl
  · exact (calm_journalTimer ..).trans rfl

@[simp] theorem calm_placeOne (d q : Nat) (raw : Bytes) (seq : Nat) : (s.placeOne d q raw seq).calm = s.calm := by
  unfold State.placeOne
  dsimp only
  (repeat' split) <;> simp

theorem calm_settleList (d : Nat) (hold : Bool) (l : List Cmd) : (s.settleList d hold l).calm = s.calm := by
  induction l generalizing s hold with
  | nil => rfl
  | cons c cs ih =>
    rw [State.settleList]
    dsimp only
    (repeat' split) <;> simp [ih]

@[simp] theorem calm_settle (d : Nat) : (s.settle d).calm = s.calm := by
  unfold State.settle State.noteReady State.draw
  rw [calm_setDom, calm_drawAll, calm_settleList]
  rfl

theorem calm_placeWaiting (d n : Nat) : (s.placeWaiting d n).calm = s.calm := by
  induction n generalizing s with
  | zero => rfl
  | succ n ih =>
    rw [State.placeWaiting]
    split
    · rfl
    · split
      · rfl
      · dsimp only
        rw [ih, calm_setDom, calm_placeOne]

@[simp] theorem calm_resumePlacement (d : Nat) : (s.resumePlacement d).calm = s.calm := by
  unfold State.resumePlacement
  dsimp only
  split
  · rfl
  · split
    · exact calm_placeWaiting ..
    · rw [calm_settle, calm_gapTimer, calm_placeWaiting]

end

/-! ### Sets that an instant applies change no warden (R337, R389) -/

theorem watch_foldl {α : Type} (f : State → α → State) (hf : ∀ t a, (f t a).watch = t.watch) (l : List α) (s : State) :
    (l.foldl f s).watch = s.watch := by
  induction l generalizing s with
  | nil => rfl
  | cons a l ih => rw [List.foldl_cons, ih, hf]

section
variable (s : State)

theorem watch_strikeOne : s.strikeOne.watch = s.watch := rfl

theorem watch_strikeTwo : s.strikeTwo.watch = s.watch := rfl

theorem watch_strikeThree : s.strikeThree.watch = s.watch := rfl

theorem watch_strikeStages : s.strikeStages.watch = s.watch :=
  (watch_strikeThree _).trans ((watch_strikeTwo _).trans (watch_strikeOne s))

theorem watch_endDebug : s.endDebug.watch = s.watch := rfl

theorem watch_struck (halt : Bool) : (s.struck halt).watch = s.watch := by
  have shed : (s.strikeStages.setShed true).endDebug.watch = s.watch := (watch_endDebug _).trans ((watch_setShed _ true).trans (watch_strikeStages s))
  unfold State.struck
  dsimp only
  generalize (s.strikeStages.setShed true).endDebug = t at shed ⊢
  split
  · exact (watch_setTamper ..).trans shed
  · split
    · exact (watch_setTamper ..).trans shed
    · exact (watch_lockModule ..).trans shed

theorem watch_strike (halt : Bool) : (s.strike halt).watch = s.watch := by
  have struck : (if s.tamper.striking then s else s.struck halt).watch = s.watch := by
    split
    · rfl
    · exact watch_struck ..
  unfold State.strike
  dsimp only
  generalize (if s.tamper.striking then s else s.struck halt) = u at struck ⊢
  (repeat' split)
  · exact (watch_driveHealth _).trans struck
  · exact struck
  · exact struck

theorem watch_respond (n : Nat) (r : Response) : (s.respond n r).watch = s.watch := by
  unfold State.respond
  dsimp only
  split
  · rfl
  · generalize hu : State.setShed _ true = u
    have shed : u.watch = s.watch := hu ▸ watch_setShed _ _
    split
    · exact (watch_lock ..).trans shed
    · exact (watch_strike ..).trans shed
    · exact (watch_strike ..).trans shed
    · exact shed

theorem watch_stageOutcome (k : Nat) (f : Option Fail) (x : StageSet) : (s.stageOutcome k f x).watch = s.watch := by
  have told (t : State) (a b c : Nat) (data : Bytes) : ((if k < 256 then (t.log a b c data).pitchEvent k evStageApplied
      else if k = chipSet then (t.log a b c data).raise 0x197 else (t.log a b c data).raise 0x198)).watch = t.watch := by
    (repeat' split)
    · exact watch_of_calm ((calm_pitchEvent ..).trans (calm_log ..))
    · exact watch_of_calm ((calm_raise ..).trans (calm_log ..))
    · exact watch_of_calm ((calm_raise ..).trans (calm_log ..))
  unfold State.stageOutcome
  exact (told _ _ _ _ _).trans rfl

theorem watch_heedBudgets : s.heedBudgets.watch = s.watch := by
  unfold State.heedBudgets
  refine watch_foldl _ (fun t r => ?_) _ s
  split <;> rfl

theorem watch_applyTamper (b : Bytes) : (s.applyTamper b).watch = s.watch := by
  unfold State.applyTamper
  exact (watch_foldl _ (fun t n => watch_respond t n _) _ _).trans rfl

theorem watch_applySet (k : Nat) (b : Bytes) : (s.applySet k b).watch = s.watch := by
  unfold State.applySet
  split
  · exact (watch_heedBudgets _).trans rfl
  · split
    · exact watch_applyTamper ..
    · exact (watch_heedBudgets _).trans rfl

theorem watch_instant (k : Nat) (now : Bool) : (s.instant k now).2.watch = s.watch := by
  unfold State.instant
  dsimp only
  generalize s.instantFail k (s.stage k).image = f
  cases f with
  | some f =>
    dsimp only
    rw [watch_stageOutcome]
  | none =>
    dsimp only
    rw [watch_stageOutcome, watch_applySet]

theorem watch_applyDue (boundary : Nat) : (s.applyDue boundary).watch = s.watch := by
  unfold State.applyDue
  exact watch_foldl _ (fun t k => watch_instant t k false) _ s

/-! ### What an answer of the mailbox changes -/

/-- The state without the host port, the trail and the free values. -/
def State.offPort (s : State) : State := { s with free := 0, host := {}, trail := {} }

theorem offPort_withReply (r : Reply) : (s.withReply r).2.2.offPort = s.offPort := rfl

theorem offPort_fresh (n : Nat) : (s.fresh n).2.offPort = s.offPort := rfl

theorem offPort_answer (m : Bytes) (secured : Bool) : (s.answer m secured).2.2.offPort = s.offPort := by
  have toggled (c : Bool) (t : State) : (if c then t else { t with host := { t.host with ide := t.host.ide.map fun (p : Nat × IdeStream) => (p.1, p.2.toggled) } }).offPort
      = t.offPort := by
    split <;> rfl
  unfold State.answer
  dsimp only
  generalize (if byteAt m 1 = 0x84 then 0x10 else 0x12) = version
  split
  · rfl
  · split
    · rfl
    · split
      · rfl
      · generalize byteAt m 1 = code
        split
        · exact offPort_withReply ..
        · exact offPort_withReply ..
        · exact offPort_withReply ..
        · exact offPort_withReply ..
        · exact offPort_withReply ..
        · exact (offPort_withReply ..).trans (offPort_fresh ..)
        · exact (offPort_withReply ..).trans (offPort_fresh ..)
        · exact (offPort_withReply ..).trans ((offPort_fresh ..).trans (offPort_fresh ..))
        · exact offPort_withReply ..
        · rfl
        · exact (toggled _ _).trans (offPort_withReply ..)
        · exact offPort_withReply ..
        · rfl

theorem offPort_log (code origin severity : Nat) (data : Bytes) : (s.log code origin severity data).offPort = s.offPort := by
  unfold State.log State.trailAs
  dsimp only
  (repeat' split) <;> rfl

theorem offPort_reply (type : Nat) (r : Bytes) (malformed : Bool) : (s.reply type r malformed).offPort = s.offPort := by
  unfold State.reply
  cases malformed with
  | false => rfl
  | true =>
    rw [if_pos rfl]
    exact (offPort_log ..).trans rfl

theorem offPort_answerObject (b : Bytes) : (s.answerObject b).offPort = s.offPort := by
  unfold State.answerObject
  dsimp only
  split
  · exact offPort_reply ..
  · exact (offPort_reply ..).trans (offPort_answer ..)
  · split
    · exact offPort_reply ..
    · exact (offPort_reply ..).trans ((offPort_answer ..).trans rfl)
  · exact offPort_reply ..

theorem offPort_answerHeld : s.answerHeld.offPort = s.offPort := by
  unfold State.answerHeld
  split
  · exact (offPort_answerObject ..).trans rfl
  · rfl

theorem parts_of_offPort {s t : State} (h : t.offPort = s.offPort) :
    t.doms = s.doms ∧ t.guy = s.guy ∧ t.wardens = s.wardens ∧ t.clock = s.clock ∧ t.sets = s.sets :=
  ⟨(congrArg State.doms h :), (congrArg State.guy h :), (congrArg State.wardens h :), (congrArg State.clock h :), (congrArg State.sets h :)⟩

/-! ### Released outputs touch the dirty-page log and EVENT_ACK alone (R356, R461) -/

/-- A domain without its dirty-page log and its events. -/
def Dom.dry (D : Dom) : Dom := { D with dirty := {}, eventAck := 0 }

theorem parts_of_dry {D E : Dom} (h : D.dry = E.dry) : D.waiting = E.waiting ∧ D.cmds = E.cmds :=
  ⟨(congrArg Dom.waiting h :), (congrArg Dom.cmds h :)⟩

theorem dry_of_doms {s t : State} (h : t.doms = s.doms) (e : Nat) : (t.dom e).dry = (s.dom e).dry := by rw [dom_of_doms h]

theorem dry_setDom {f : Dom → Dom} (hf : ∀ D, (f D).dry = D.dry) (d e : Nat) : ((s.setDom d f).dom e).dry = (s.dom e).dry := by
  rw [dom_setDom]
  split
  · next h => rw [hf, h]
  · rfl

theorem dry_foldl {α : Type} (f : State → α → State) (e : Nat) (hf : ∀ t a, ((f t a).dom e).dry = (t.dom e).dry) (l : List α) (s : State) :
    ((l.foldl f s).dom e).dry = (s.dom e).dry := by
  induction l generalizing s with
  | nil => rfl
  | cons a l ih => rw [List.foldl_cons, ih, hf]

theorem dry_pitchEvent (d b e : Nat) : ((s.pitchEvent d b).dom e).dry = (s.dom e).dry := by
  have marked : ((s.setDom d fun D => { D with eventAck := D.eventAck ||| 2 ^ b }).dom e).dry = (s.dom e).dry := dry_setDom s (by intro; rfl) d e
  unfold State.pitchEvent
  dsimp only
  split
  · split
    · exact (dry_of_doms (doms_eventEdge _ _) e).trans marked
    · exact marked
  · (repeat' split)
    · exact dry_of_doms (doms_raise _ _) e
    · exact dry_of_doms (doms_raise _ _) e
    · exact dry_of_doms (doms_raise _ _) e
    · rfl

theorem dry_dirtyIssue (d w e : Nat) : ((s.dirtyIssue d w).dom e).dry = (s.dom e).dry := by
  unfold State.dirtyIssue
  dsimp only
  split
  · rfl
  · split
    · unfold State.dirtyFail
      dsimp only
      rw [dry_pitchEvent, dom_of_doms (doms_log ..)]
      exact dry_setDom s (by intro; rfl) d e
    · generalize hu : s.setDom d _ = u
      have issued : (u.dom e).dry = (s.dom e).dry := hu ▸ dry_setDom s (by intro; rfl) d e
      split
      · exact issued
      · exact issued

theorem dry_dirtyMark (d addr len e : Nat) : ((s.dirtyMark d addr len).dom e).dry = (s.dom e).dry := by
  unfold State.dirtyMark
  split
  · rfl
  · dsimp only
    rw [dry_foldl _ e fun t w => dry_dirtyIssue t d w e]
    exact dry_setDom s (by intro; rfl) d e

theorem dry_emitNow (o : HostOut) (e : Nat) : ((s.emitNow o).dom e).dry = (s.dom e).dry := by
  unfold State.emitNow State.put
  split
  · rfl
  · dsimp only
    split
    · exact dry_dirtyMark (s.putRaw _) _ _ _ e
    · exact dry_dirtyMark (s.putRaw _) _ _ _ e
    · rfl

theorem dry_releaseHeld (e : Nat) : (s.releaseHeld.dom e).dry = (s.dom e).dry := by
  unfold State.releaseHeld
  dsimp only
  rw [dry_foldl _ e fun t o => dry_emitNow t o e]
  rfl

theorem calm_releaseHeld : s.releaseHeld.calm = { s with guy := { s.guy with holding := false, held := [] } }.calm := by
  unfold State.releaseHeld
  exact calm_foldl _ (fun t o => calm_emitNow t o) _ _

end

/-! ### The end of a gap (R353 to R358) -/

/-- Held outputs released and the held exchange answered. -/
theorem release_outcome (s : State) :
    (s.releaseHeld.answerHeld).watch = { s with guy := { s.guy with holding := false } }.watch ∧
      (s.releaseHeld.answerHeld).sets = s.sets ∧ ∀ d, ((s.releaseHeld.answerHeld).dom d).dry = (s.dom d).dry := by
  obtain ⟨hd, hg, hw, hc, hs⟩ := parts_of_offPort (offPort_answerHeld s.releaseHeld)
  have calm := calm_releaseHeld s
  refine ⟨?_, hs.trans (congrArg (fun x : Calm => x.rest.sets) calm :), fun d => (dry_of_doms hd d).trans (dry_releaseHeld s d)⟩
  have told : (s.releaseHeld.answerHeld).watch = s.releaseHeld.watch := by
    unfold State.watch State.warden
    rw [hc, hg, hw]
  exact told.trans ((watch_of_calm calm).trans rfl)

/-- What the arbiter reports of the grant: its code, its count of failovers and the cause of the last. -/
def State.grant (s : State) : BitVec 16 × Nat × Nat := (s.guy.code, s.guy.failovers, s.guy.lastCause)

theorem grant_of_watch {s t : State} (h : t.watch = s.watch) : t.grant = s.grant :=
  (congrArg (fun x : Watch => (x.guy.code, x.guy.failovers, x.guy.lastCause)) h :)

theorem grant_of_unseated {s t : State} (h : t.unseated = s.unseated) : t.grant = s.grant := (congrArg State.grant h :)

theorem grant_wardensHalt (s : State) : s.wardensHalt.grant = s.grant := rfl

theorem grant_doubleFailure (s : State) (w cause : Nat) : (s.doubleFailure w cause).grant = s.grant := by
  have begun : (s.doubleFailed w cause).grant = s.grant := by
    refine (grant_of_watch (doubleFailed_watch s w cause)).trans ?_
    unfold State.holdOutputs
    split <;> rfl
  have reset (t : State) (v : Nat) : (t.resetUnfailed v).grant = t.grant := grant_of_unseated (unseated_resetUnfailed t v)
  rw [doubleFailure_eq]
  dsimp only
  split
  · rw [grant_wardensHalt, reset, reset, begun]
  · rw [reset, reset, begun]

/-- The sets of a held instant change no warden, and neither does the placement that follows. -/
theorem watch_applyHeldInstant (s : State) : s.applyHeldInstant.watch = { s with guy := { s.guy with due := none } }.watch := by
  unfold State.applyHeldInstant
  split
  · next h => rw [← h]
  · next b h =>
    dsimp only
    have applied := watch_applyDue s b
    generalize s.applyDue b = t at applied ⊢
    have undue : { t with guy := { t.guy with due := none } }.watch = { s with guy := { s.guy with due := none } }.watch :=
      congrArg (fun x : Watch => { x with guy := { x.guy with due := none } }) applied
    unfold State.foldDoms
    exact (watch_foldl _ (fun u d => watch_of_calm (calm_resumePlacement u d)) _ _).trans undue

theorem doms_replay (w : Nat) (l : List JournalEntry) (s : State) : (l.foldl (fun s _ => s.applyEntry w JournalEntry.bytes) s).doms = s.doms := by
  induction l generalizing s with
  | nil => rfl
  | cons e es ih =>
    rw [List.foldl_cons, ih]
    unfold State.applyEntry
    split <;> rfl

/-- A domain that every entry of the table is mapped to: a part of it that the map carries from the empty domain's. -/
theorem part_mapDoms {α : Type} (part : Dom → α) (g : α → α) (f : Nat → Dom → Dom) (hf : ∀ i D, part (f i D) = g (part D)) (h0 : g (part {}) = part {})
    (t : Tab Dom) (d : Nat) : part (Tab.get (t.map fun p => (p.1, f p.1 p.2)) {} d) = g (part (Tab.get t {} d)) := by
  rw [Tab.get_map, Tab.get]
  cases Tab.find t d with
  | none => exact h0.symm
  | some D => exact hf d D

theorem waiting_redo (s : State) (d : Nat) :
    (s.redoManagement.refetchEntries.dom d).waiting = (s.dom d).waiting.map fun x => { x with again := x.again || x.entry.mgmt } := by
  have redone : (s.redoManagement.dom d).waiting = (s.dom d).waiting :=
    part_mapDoms Dom.waiting id (fun _ D => { D with cmds := D.cmds.map fun c =>
      if c.entry.mgmt && c.ran && c.stage = 0 && (c.phase = .running || c.phase = .computed) then { c.again none none with readySince := some s.now } else c })
      (fun _ _ => rfl) rfl s.doms d
  rw [← redone]
  exact part_mapDoms Dom.waiting (List.map fun x => { x with again := x.again || x.entry.mgmt })
    (fun _ D => { D with waiting := D.waiting.map fun x => { x with again := x.again || x.entry.mgmt } }) (fun _ _ => rfl) rfl s.redoManagement.doms d

/-- The journal's tail applied by a warden. -/
def State.replay (s : State) (w : Nat) : State := s.guy.journal.foldl (fun s _ => s.applyEntry w JournalEntry.bytes) s

/-- The arbiter's code names the warden that holds the grant at the end of the gap, and the switch-over is logged. -/
def State.switched (s : State) (w : Nat) : State :=
  let s := { s with guy := { s.guy with code := if w = 0 then grantA else grantB } }
  s.log codeSwitchOver (originOf 9 w) warning (s.wardenData s.guy.lastCause (s.now - s.guy.faultAt))

/-- A gap that ends well: the warden that lost the grant is reset, management goes on, and outputs are released. -/
def State.resume (s : State) (w : Nat) : State := (s.resetWarden w).redoManagement.refetchEntries.applyHeldInstant.releaseHeld.answerHeld

theorem endGap_eq (s : State) : s.endGap =
    let v := s.replay s.activeWarden
    let t := v.switched s.activeWarden
    if (v.warden s.activeWarden).digest = v.guy.headDigest then t.resume s.standby else t.doubleFailure s.activeWarden t.guy.lastCause := by
  unfold State.endGap
  dsimp only
  by_cases h : ((s.replay s.activeWarden).warden s.activeWarden).digest = (s.replay s.activeWarden).guy.headDigest
  · exact (if_pos (decide_eq_true h)).trans (if_pos h).symm
  · exact (if_neg (by rw [decide_eq_true_eq]; exact h)).trans (if_neg h).symm

theorem calm_replay (s : State) (w : Nat) : (s.replay w).calm = s.calm := calm_foldl _ (fun t _ => calm_applyEntry t w _) _ s

section
variable (s : State) (w : Nat)

theorem calm_switched : (s.switched w).calm = { s with guy := { s.guy with code := if w = 0 then grantA else grantB } }.calm := calm_log ..

theorem doms_switched : (s.switched w).doms = s.doms := doms_log ..

/-- What the end of a gap that ends well keeps and moves. -/
theorem resume_outcome : (s.resume w).clock = s.clock ∧ (s.resume w).grant = s.grant ∧ (s.resume w).guy.holding = false ∧
    (∀ v, ((s.resume w).warden v).state = if w = v then ((s.warden w).restarted s.now).state else (s.warden v).state) ∧
    (s.guy.due = none → ∀ d, ((s.resume w).dom d).waiting = (s.dom d).waiting.map fun x => { x with again := x.again || x.entry.mgmt }) := by
  have seats := unseated_resetWarden s w
  have warden := warden_resetWarden s w
  unfold State.resume
  generalize s.resetWarden w = r at seats warden ⊢
  have clock : r.clock = s.clock := (parts_of_unseated seats).1
  have grant := grant_of_unseated seats
  have due : r.guy.due = s.guy.due := (congrArg (fun x : State => x.guy.due) seats :)
  have doms : r.doms = s.doms := (congrArg State.doms seats :)
  have waiting (d : Nat) := waiting_redo r d
  have same : r.redoManagement.refetchEntries.watch = r.watch := rfl
  have held : r.redoManagement.refetchEntries.guy.due = r.guy.due := rfl
  generalize r.redoManagement.refetchEntries = q at waiting same held ⊢
  have applied := watch_applyHeldInstant q
  have idle : q.guy.due = none → q.applyHeldInstant = q := fun h => by rw [State.applyHeldInstant, h]
  generalize q.applyHeldInstant = a at applied idle ⊢
  obtain ⟨released, -, dry⟩ := release_outcome a
  generalize a.releaseHeld.answerHeld = u at released dry ⊢
  have watch : u.watch = { r with guy := { r.guy with due := none, holding := false } }.watch :=
    released.trans ((congrArg (fun x : Watch => { x with guy := { x.guy with holding := false } }) applied).trans
      (congrArg (fun x : Watch => { x with guy := { x.guy with due := none, holding := false } }) same))
  refine ⟨((congrArg Watch.clock watch :)).trans clock, (grant_of_watch watch).trans grant, (congrArg (fun x : Watch => x.guy.holding) watch :), fun v => ?_,
    fun hd d => ?_⟩
  · refine (warden_of_watch watch v).1.trans ?_
    change (r.warden v).state = _
    rw [warden]
    split <;> rfl
  · have hq : q.guy.due = none := held.trans (due.trans hd)
    rw [(parts_of_dry (dry d)).1, idle hq, waiting, dom_of_doms doms]

end

theorem state_restarted (x : Warden) (now : Nat) : (x.restarted now).state = if 3 ≤ x.failures.length then .failed else .selfTest := rfl

theorem endGap_outcome {s : State} (hr : s.running = true) (hb : s.boot.state ≠ .booting) :
    let v := s.replay s.activeWarden
    s.endGap.clock = s.clock ∧ s.endGap.grant = (if s.activeWarden = 0 then grantA else grantB, s.guy.failovers, s.guy.lastCause) ∧
      ((v.warden s.activeWarden).digest = v.guy.headDigest →
        (s.endGap.warden s.activeWarden).state = (s.warden s.activeWarden).state ∧ s.endGap.guy.holding = false ∧
        (s.endGap.warden s.standby).state = ((s.warden s.standby).restarted s.now).state ∧
        (s.guy.due = none → ∀ d, (s.endGap.dom d).waiting = (s.dom d).waiting.map fun x => { x with again := x.again || x.entry.mgmt })) ∧
      ((v.warden s.activeWarden).digest ≠ v.guy.headDigest → (s.warden s.activeWarden).restartState ≠ .failed → s.endGap.guy.rebuilding = true) := by
  intro v
  have eq : s.endGap = if (v.warden s.activeWarden).digest = v.guy.headDigest then (v.switched s.activeWarden).resume s.standby
      else (v.switched s.activeWarden).doubleFailure s.activeWarden (v.switched s.activeWarden).guy.lastCause := endGap_eq s
  have calm : (v.switched s.activeWarden).calm = { s with guy := { s.guy with code := if s.activeWarden = 0 then grantA else grantB } }.calm :=
    (calm_switched v s.activeWarden).trans
      (congrArg (fun x : Calm => { x with rest := { x.rest with guy := { x.rest.guy with code := if s.activeWarden = 0 then grantA else grantB } } })
        (calm_replay s s.activeWarden))
  have doms : (v.switched s.activeWarden).doms = s.doms := (doms_switched v _).trans (doms_replay ..)
  generalize v.switched s.activeWarden = t at eq calm doms
  generalize s.endGap = u at eq ⊢
  clear_value v
  have watch := watch_of_calm calm
  have grant := grant_of_watch watch
  have clock : t.clock = s.clock := (congrArg Watch.clock watch :)
  have boot : t.boot = s.boot := (congrArg (fun x : Calm => x.rest.boot) calm :)
  have due : t.guy.due = s.guy.due := (congrArg (fun x : Watch => x.guy.due) watch :)
  have warden (v : Nat) : (t.warden v).state = (s.warden v).state ∧ (t.warden v).failures = (s.warden v).failures := warden_of_watch watch v
  by_cases hd : (v.warden s.activeWarden).digest = v.guy.headDigest
  · rw [if_pos hd] at eq
    subst eq
    obtain ⟨uc, ug, uh, uw, ux⟩ := resume_outcome t s.standby
    refine ⟨uc.trans clock, ug.trans grant, fun _ => ⟨?_, uh, ?_, fun h d => ?_⟩, fun h => absurd hd h⟩
    · rw [uw, if_neg (standby_ne s)]
      exact (warden _).1
    · rw [uw, if_pos rfl, state_restarted, state_restarted, (warden _).2]
    · rw [ux (due.trans h), dom_of_doms doms]
  · rw [if_neg hd] at eq
    subst eq
    obtain ⟨uc, -, ub⟩ := doubleFailure_outcome t (by rw [running_of_boot boot]; exact hr) (by rw [boot]; exact hb) s.activeWarden t.guy.lastCause
    refine ⟨uc.trans clock, (grant_doubleFailure ..).trans grant, fun h => absurd h hd, fun _ hf => ?_⟩
    have stands : (t.warden s.activeWarden).restartState ≠ .failed := by
      rw [restartState_of_watch watch]
      exact hf
    have one := activeWarden_lt s
    rw [if_neg] at ub
    · exact ub.2
    · rintro ⟨h0, h1⟩
      rcases (show s.activeWarden = 0 ∨ s.activeWarden = 1 by omega) with h | h
      · exact stands (h ▸ h0)
      · exact stands (h ▸ h1)

/-! ### Entries and checkpoints (R354) -/

theorem serves_iff (s : State) : s.wardensServe = true ↔ s.running = true ∧ s.boot.state ≠ .booting := by
  unfold State.wardensServe
  rw [Bool.and_eq_true, bne_iff_ne]

/-- A gap that is in time ends. -/
theorem execSwitchOver_served {s : State} {gap : Nat} (hs : s.wardensServe = true) (hh : s.guy.holding = true) (hr : s.guy.rebuilding = false)
    (hc : s.guy.code = movingToA ∨ s.guy.code = movingToB) (ht : s.now + gap ≤ s.guy.faultAt + 40000) :
    execSwitchOver gap s = .next (s.pass gap).endGap := by
  unfold execSwitchOver
  rw [if_neg]
  have late : ¬ s.now + gap > s.guy.faultAt + 40000 := by omega
  simpa [hs, hh, hr, late] using or_iff_not_imp_left.mp hc

theorem grant_of_moving {s : State} (hc : s.guy.code = movingToA ∨ s.guy.code = movingToB) :
    (if s.activeWarden = 0 then grantA else grantB) = if s.guy.code = movingToA then grantA else grantB := by
  unfold State.activeWarden
  rcases hc with h | h <;> rw [h] <;> decide

section
variable (s : State)

/-- A checkpoint records the head's digest, and fails a standby whose digest differs. -/
theorem checkpoint_outcome : s.checkpoint.guy.headDigest = s.guy.headDigest ∧ s.checkpoint.guy.checkpoint = some s.guy.headDigest ∧
    s.checkpoint.guy.checkpointAt = s.guy.written ∧ ((s.warden s.standby).digest = s.guy.headDigest → s.checkpoint.wardens = s.wardens) ∧
    ((s.warden s.standby).digest ≠ s.guy.headDigest → (s.checkpoint.warden s.standby).state = .failed) := by
  unfold State.checkpoint
  dsimp only
  split
  · next h => exact ⟨rfl, rfl, rfl, fun _ => rfl, fun hn => absurd h hn⟩
  · next h =>
    have hn : (s.warden s.standby).digest ≠ s.guy.headDigest := h
    generalize ht : ({ s with guy := { s.guy with checkpoint := some s.guy.headDigest, checkpointAt := s.guy.written, journal := [], preparing := none } } : State) = t
    have kept := unwarded_wardenTo t s.standby .failed
    have failed := warden_wardenTo t s.standby s.standby .failed
    rw [if_pos rfl] at failed
    subst ht
    exact ⟨(congrArg (fun x : State => x.guy.headDigest) kept :), (congrArg (fun x : State => x.guy.checkpoint) kept :),
      (congrArg (fun x : State => x.guy.checkpointAt) kept :), fun h => absurd h hn, fun _ => (congrArg Warden.state failed :)⟩

/-- A warden whose running digest takes an entry. -/
def Warden.advanced (x : Warden) (received : Bytes) : Warden := { x with digest := sha384 (x.digest ++ received), applied := x.applied + 1 }

/-- An entry applied by the standby, as it received it. -/
def State.advanced (s : State) (e : JournalEntry) (es : List JournalEntry) (received : Bytes) : State :=
  { s.setWarden s.standby (fun x => x.advanced received) with
    guy := { s.guy with journal := es, headDigest := sha384 (s.guy.headDigest ++ e.bytes) } }

theorem applyJournal_eq {e : JournalEntry} {es : List JournalEntry} (h : s.guy.journal = e :: es) (received : JournalEntry → Bytes) :
    s.applyJournal received = s.advanced e es (received e) := by
  unfold State.applyJournal State.applyEntry
  rw [h]
  rfl

theorem warden_advanced (e : JournalEntry) (es : List JournalEntry) (received : Bytes) : (s.advanced e es received).warden s.standby =
    (s.warden s.standby).advanced received :=
  (warden_setWarden s s.standby s.standby fun x => x.advanced received).trans (if_pos rfl)

/-- A standby that takes entries still does once it has applied one. -/
theorem journals_advanced (e : JournalEntry) (es : List JournalEntry) (received : Bytes) : (s.advanced e es received).journals = s.journals := by
  have seat : (s.advanced e es received).standby = s.standby := rfl
  unfold State.journals
  rw [seat, warden_advanced]
  rfl

theorem checkpointDue_eq (h : s.journals = true) : s.checkpointDue = if s.guy.checkpointAt + 4096 ≤ s.guy.written then s.checkpoint else s := by
  unfold State.checkpointDue
  rw [h, Bool.and_true]
  by_cases hd : s.guy.checkpointAt + 4096 ≤ s.guy.written
  · rw [if_pos (decide_eq_true hd), if_pos hd]
  · rw [if_neg (by simpa using hd), if_neg hd]

end

/-- An entry applied, with the checkpoint that is due. -/
theorem entryApplied_outcome {s : State} {e : JournalEntry} {es : List JournalEntry} (hj : s.journals = true) (h : s.guy.journal = e :: es)
    (received : JournalEntry → Bytes) :
    let u := (s.applyJournal received).checkpointDue
    u.guy.headDigest = sha384 (s.guy.headDigest ++ e.bytes) ∧
      (s.guy.written < s.guy.checkpointAt + 4096 →
        u.guy.journal = es ∧ (u.warden s.standby).digest = sha384 ((s.warden s.standby).digest ++ received e)) ∧
      (s.guy.checkpointAt + 4096 ≤ s.guy.written → u.guy.checkpoint = some u.guy.headDigest ∧ u.guy.checkpointAt = s.guy.written) := by
  rw [applyJournal_eq s h, checkpointDue_eq _ ((journals_advanced ..).trans hj)]
  intro u
  by_cases hd : s.guy.checkpointAt + 4096 ≤ s.guy.written
  · obtain ⟨head, mark, at_, -, -⟩ := checkpoint_outcome (s.advanced e es (received e))
    have hu : u = (s.advanced e es (received e)).checkpoint := if_pos hd
    rw [hu]
    exact ⟨head, fun hl => absurd hd (by omega), fun _ => ⟨mark.trans (congrArg some head.symm), at_⟩⟩
  · have hu : u = s.advanced e es (received e) := if_neg hd
    rw [hu]
    exact ⟨rfl, fun _ => ⟨rfl, congrArg Warden.digest (warden_advanced s e es (received e))⟩, fun hl => absurd hl hd⟩

/-! ### Self tests and the rebuild's grant (R359, R360) -/

/-- The warden that a double failure leaves with the grant, where there is one, once both self tests are known. -/
def State.seated (s : State) : State :=
  let a := (s.warden 0).state
  let b := (s.warden 1).state
  if a = .syncing then (if b = .syncing then (s.grantTo 0).snapshotTo 1 else s.grantTo 0)
  else if a = .failed && b = .syncing then s.grantTo 1
  else if a = .failed && b = .failed then s.wardensHalt
  else s

/-- A self test's result: the warden's state, and its beats from here. -/
def State.tested (s : State) (w : Nat) (new : WardenState) : State :=
  let s := s.wardenTo w new
  s.setWarden w fun x => { x with wireLast := s.now, fabricLast := s.now }

theorem execWardenSelfTestEnd_served {s t : State} {w : Nat} (hs : s.wardensServe = true) (hw : (s.warden w).state = .selfTest) (pass : Bool)
    (ht : s.passTo ((s.warden w).testFrom + 200000000) = t) :
    execWardenSelfTestEnd w pass s =
      if s.guy.rebuilding = false ∨ (s.warden (1 - w)).state = .active then
        .next (if pass then (t.tested w .syncing).snapshotTo w else t.wardenTo w .failed)
      else .next (t.tested w (if pass then .syncing else .failed)).seated := by
  have rebuilding : t.guy.rebuilding = s.guy.rebuilding := by rw [← ht, State.passTo, State.pass]
  have other : t.warden (1 - w) = s.warden (1 - w) := by rw [← ht, warden_passTo]
  unfold execWardenSelfTestEnd
  rw [if_neg (by simp [hs, hw]), ht]
  dsimp only
  rw [rebuilding, other]
  by_cases h : s.guy.rebuilding = false ∨ (s.warden (1 - w)).state = .active
  · rw [if_pos h, if_pos (by simpa using h)]
    cases pass <;> rfl
  · rw [if_neg h, if_neg (by simpa using h)]
    have chosen (t : State) : ((if (t.warden 0).state = .syncing then .next (if (t.warden 1).state = .syncing then (t.grantTo 0).snapshotTo 1 else t.grantTo 0)
        else if (t.warden 0).state = .failed && (t.warden 1).state = .syncing then .next (t.grantTo 1)
        else if (t.warden 0).state = .failed && (t.warden 1).state = .failed then .next t.wardensHalt else .next t) : Answer) = .next t.seated := by
      unfold State.seated
      dsimp only
      (repeat' split) <;> rfl
    exact chosen _

section
variable (s : State) (w v : Nat)

theorem warden_tested (new : WardenState) : ((s.tested w new).warden v).state = if w = v then new else (s.warden v).state := by
  unfold State.tested
  dsimp only
  rw [warden_setWarden, warden_wardenTo, warden_wardenTo, if_pos rfl]
  split <;> rfl

theorem clock_tested (new : WardenState) : (s.tested w new).clock = s.clock := (congrArg State.clock (unwarded_wardenTo s w new) :)

theorem warden_snapshotTo : ((s.snapshotTo w).warden v).state = (s.warden v).state := by
  unfold State.snapshotTo
  have told (u : State) (f : Warden → Warden) (hf : ∀ x, (f x).state = x.state) : ((u.setWarden w f).warden v).state = (u.warden v).state := by
    rw [warden_setWarden]
    split
    · next h => rw [hf, h]
    · rfl
  exact told s (fun x => { x with snapshot := true, applied := s.guy.written, digest := s.guy.headDigest }) fun _ => rfl

theorem warden_grantTo : ((s.grantTo w).warden v).state = if w = v then .active else (s.warden v).state := by
  unfold State.grantTo
  rw [warden_wardenTo]
  split <;> rfl

theorem grantTo_parts : (s.grantTo w).clock = s.clock ∧ (s.grantTo w).guy.code = if w = 0 then grantA else grantB := by
  obtain ⟨clock, -, -, code, -⟩ := parts_of_unwarded (unwarded_wardenTo ({ s with guy := { s.guy with code := if w = 0 then grantA else grantB } }) w .active)
  exact ⟨clock, code⟩

theorem seated_outcome : s.seated.clock = s.clock ∧
    ((s.warden 0).state = .syncing → (s.seated.warden 0).state = .active ∧ s.seated.guy.code = grantA) ∧
    ((s.warden 0).state = .failed → (s.warden 1).state = .syncing → (s.seated.warden 1).state = .active ∧ s.seated.guy.code = grantB) ∧
    ((s.warden 0).state = .failed → (s.warden 1).state = .failed → s.seated.boot.state = .halted) := by
  obtain ⟨clock0, code0⟩ := grantTo_parts s 0
  obtain ⟨clock1, code1⟩ := grantTo_parts s 1
  obtain ⟨halted, -, hclock, -⟩ := wardensHalt_outcome s
  have zero := warden_grantTo s 0 0
  have one := warden_grantTo s 1 1
  have snap := warden_snapshotTo (s.grantTo 0) 1 0
  unfold State.seated
  dsimp only
  by_cases h0 : (s.warden 0).state = .syncing
  · have unfailed : (s.warden 0).state ≠ .failed := by rw [h0]; decide
    rw [if_pos h0]
    split
    · exact ⟨clock0, fun _ => ⟨snap.trans zero, code0⟩, fun h => absurd h unfailed, fun h => absurd h unfailed⟩
    · exact ⟨clock0, fun _ => ⟨zero, code0⟩, fun h => absurd h unfailed, fun h => absurd h unfailed⟩
  · rw [if_neg h0]
    by_cases h1 : (s.warden 0).state = .failed ∧ (s.warden 1).state = .syncing
    · rw [if_pos (by simpa using h1)]
      exact ⟨clock1, fun h => absurd h h0, fun _ _ => ⟨one, code1⟩, fun _ h => by rw [h1.2] at h; cases h⟩
    · rw [if_neg (by simpa using h1)]
      split
      · exact ⟨hclock, fun h => absurd h h0, fun h g => absurd ⟨h, g⟩ h1, fun _ _ => halted⟩
      · next h2 => exact ⟨rfl, fun h => absurd h h0, fun h g => absurd ⟨h, g⟩ h1, fun h g => absurd (by simp [h, g]) h2⟩

end

/-! ### Commands that an abort leaves done or takes from the module (R27, R359) -/

theorem part_setDom {α : Type} (part : Dom → α) (s : State) {f : Dom → Dom} (hf : ∀ D, part (f D) = part D) (d e : Nat) :
    part ((s.setDom d f).dom e) = part (s.dom e) := by
  rw [dom_setDom]
  split
  · next h => rw [hf, h]
  · rfl

/-- A domain's state and its commands. -/
def Dom.tasks (D : Dom) : PitchMode × List Cmd := (D.mode, D.cmds)

theorem tasks_of_dry {D E : Dom} (h : D.dry = E.dry) : D.tasks = E.tasks := (congrArg Dom.tasks h :)

section
variable (s : State) (d e : Nat)

theorem tasks_aggregate (q : Nat) (now : Bool) : ((s.aggregate d q now).dom e).tasks = (s.dom e).tasks := by
  have set (f : Queue → Queue) : ((s.setDom d fun D => D.setQueue q f).dom e).tasks = (s.dom e).tasks := part_setDom Dom.tasks s (by intro; rfl) d e
  unfold State.aggregate
  dsimp only
  split
  · rw [dom_of_doms (doms_message ..)]
    exact set _
  · split
    · unfold State.journalTimer
      rw [dom_of_doms (doms_journal ..)]
      exact set _
    · exact set _

theorem tasks_post (q : Nat) (x : Completion) (now : Bool) : ((s.post d q x now).dom e).tasks = (s.dom e).tasks := by
  have emitted (c : Bool) (t : State) (o : HostOut) : ((if c then t.emitNow o else t.emit o).dom e).tasks = (t.dom e).tasks := by
    unfold State.emit
    (repeat' split)
    · exact tasks_of_dry (dry_emitNow t o e)
    · rfl
    · exact tasks_of_dry (dry_emitNow t o e)
  have set : ((s.setDom d fun D => D.setQueue q Queue.advance).dom e).tasks = (s.dom e).tasks := part_setDom Dom.tasks s (by intro; rfl) d e
  unfold State.post
  dsimp only
  split
  · rfl
  · split
    · exact (emitted ..).trans set
    · exact (tasks_aggregate ..).trans ((emitted ..).trans set)

theorem tasks_busyTimer : ((s.busyTimer d).dom e).tasks = (s.dom e).tasks := by
  have told (has : Bool) (t : State) (k : JournalKind) (n : Nat) (b : Bytes) : (if has then t.journal k d n b else t).doms = t.doms := by
    split
    · exact doms_journal ..
    · rfl
  have events (l : List Nat) (t : State) : ((l.foldl (fun s e => s.pitchEvent e evAdminReady) t).dom e).tasks = (t.dom e).tasks :=
    tasks_of_dry (dry_foldl _ e (fun t x => dry_pitchEvent t x _ e) l t)
  unfold State.busyTimer
  dsimp only
  rw [dom_of_doms (doms_saturation _), events, dom_of_doms (told _ _ _ _ _)]
  exact part_setDom Dom.tasks s (f := fun D => { D with mgmtBusy := if D.mgmtBusy then (s.dom d).mgmtCount > 32 else (s.dom d).mgmtCount ≥ 64 }) (fun _ => rfl) d e

/-- The identities of the uncommitted management commands. -/
def Dom.undone (D : Dom) : List Nat := (D.cmds.filter fun c => c.entry.mgmt && !c.done).map Cmd.id

theorem undone_of_tasks {D E : Dom} (h : D.tasks = E.tasks) : D.undone = E.undone := by
  have same : D.cmds = E.cmds := congrArg Prod.snd h
  rw [Dom.undone, same, Dom.undone]

theorem mem_undone {D : Dom} {i : Nat} : i ∈ D.undone ↔ ∃ c ∈ D.cmds, c.entry.mgmt = true ∧ c.done = false ∧ c.id = i := by
  simp [Dom.undone, and_assoc]

/-- A change of one command that leaves its identity, its class and whether it is done. -/
theorem undone_setCmd {f : Cmd → Cmd} (hi : ∀ c, (f c).id = c.id) (he : ∀ c, (f c).entry = c.entry) (hd : ∀ c, (f c).done = c.done) (id : Nat) :
    ((s.setCmd d id f).dom e).undone = (s.dom e).undone := by
  refine part_setDom Dom.undone s (fun D => ?_) d e
  unfold Dom.setCmd Dom.undone
  induction D.cmds with
  | nil => rfl
  | cons c cs ih =>
    rw [List.map_cons, List.filter_cons, List.filter_cons]
    have same : (if c.id = id then f c else c).entry = c.entry ∧ (if c.id = id then f c else c).done = c.done ∧ (if c.id = id then f c else c).id = c.id := by
      split
      · exact ⟨he c, hd c, hi c⟩
      · exact ⟨rfl, rfl, rfl⟩
    rw [same.1, same.2.1]
    split
    · rw [List.map_cons, List.map_cons, same.2.2, ih]
    · exact ih

/-- A command that is cut off is done, or has left; no other becomes undone. -/
theorem undone_cut (c : Cmd) {i : Nat} (h : i ∈ ((s.cut d c).dom e).undone) : i ∈ (s.dom e).undone ∧ (e = d → i ≠ c.id) := by
  have same : (s.scrubJob d c.id).dom = s.dom := rfl
  unfold State.cut at h
  dsimp only at h
  by_cases he : e = d
  · subst he
    split at h
    · rw [State.setCmd, dom_setDom_same, same, mem_undone] at h
      obtain ⟨x, hx, hm, hd, rfl⟩ := h
      simp only [Dom.setCmd, List.mem_map] at hx
      obtain ⟨y, hy, rfl⟩ := hx
      by_cases hid : y.id = c.id
      · rw [if_pos hid] at hd
        cases hd
      · rw [if_neg hid] at hm hd ⊢
        exact ⟨mem_undone.mpr ⟨y, hy, hm, hd, rfl⟩, fun _ => hid⟩
    · rw [dom_setDom_same, same, mem_undone] at h
      obtain ⟨x, hx, hm, hd, rfl⟩ := h
      obtain ⟨hx, hid⟩ := List.mem_filter.mp hx
      exact ⟨mem_undone.mpr ⟨x, hx, hm, hd, rfl⟩, fun _ => bne_iff_ne.mp hid⟩
  · refine ⟨?_, fun h => absurd h he⟩
    split at h
    · rwa [State.setCmd, dom_setDom_other _ he, same] at h
    · rwa [dom_setDom_other _ he, same] at h

theorem undone_abortCmd (source : Nat) (c : Cmd) {i : Nat} (h : i ∈ ((s.abortCmd source .now d c).dom e).undone) :
    i ∈ (s.dom e).undone ∧ (e = d → i ≠ c.id) := by
  have entered : (s.mgmtEntry d { c with status := eAbortedTamper }).doms = s.doms := by
    unfold State.mgmtEntry
    split
    · exact doms_trailAs ..
    · rfl
  unfold State.abortCmd at h
  dsimp only at h
  generalize s.mgmtEntry d _ = t at entered h
  obtain ⟨hu, hc⟩ := undone_cut _ d e c h
  refine ⟨?_, hc⟩
  have posted : ((t.abortPost d c source).dom e).undone = (t.dom e).undone := by
    unfold State.abortPost
    split
    · rfl
    · rw [undone_of_tasks (tasks_post ..)]
      exact undone_setCmd t d e (by intro; rfl) (by intro; rfl) (by intro; rfl) _
  rwa [posted, dom_of_doms entered] at hu

theorem undone_abortList (source : Nat) (l : List Cmd) {i : Nat} (h : i ∈ ((l.foldl (fun s c => s.abortCmd source .now d c) s).dom e).undone) :
    i ∈ (s.dom e).undone ∧ (e = d → ∀ c ∈ l, i ≠ c.id) := by
  induction l generalizing s with
  | nil => exact ⟨h, fun _ _ hc => absurd hc List.not_mem_nil⟩
  | cons c cs ih =>
    obtain ⟨hu, hr⟩ := ih _ h
    obtain ⟨hs, hc⟩ := undone_abortCmd s d e source c hu
    exact ⟨hs, fun he x hx => (List.mem_cons.mp hx).elim (fun hx => hx ▸ hc he) (hr he x)⟩

/-- The management commands of a domain aborted: none of them is left undone. -/
theorem undone_abortDom (source : Nat) {i : Nat} (h : i ∈ ((s.abortDom source .now (fun c => c.entry.mgmt) d).dom e).undone) :
    i ∈ (s.dom e).undone ∧ e ≠ d := by
  unfold State.abortDom at h
  dsimp only at h
  have timed (t : State) : ((t.busyTimer d).dom e).undone = (t.dom e).undone :=
    undone_of_tasks (tasks_busyTimer t d e)
  rw [timed] at h
  obtain ⟨hs, hl⟩ := undone_abortList s d e source _ h
  refine ⟨hs, fun he => ?_⟩
  subst he
  obtain ⟨c, hc, hm, hd, rfl⟩ := mem_undone.mp hs
  exact hl rfl c (List.mem_filter.mpr ⟨hc, by simp [hm, hd]⟩) rfl

theorem undone_abortDoms (source : Nat) (l : List Nat) {i : Nat} (h : i ∈ ((l.foldl (fun s d => s.abortDom source .now (fun c => c.entry.mgmt) d) s).dom e).undone) :
    i ∈ (s.dom e).undone ∧ e ∉ l := by
  induction l generalizing s with
  | nil => exact ⟨h, List.not_mem_nil⟩
  | cons d ds ih =>
    obtain ⟨hu, hr⟩ := ih _ h
    obtain ⟨hs, hd⟩ := undone_abortDom s d e source hu
    exact ⟨hs, fun hm => (List.mem_cons.mp hm).elim hd hr⟩

end

/-- Every domain's management commands aborted, as the rebuild does. -/
def State.purged (s : State) : State :=
  (allDoms.filter fun d => (s.dom d).cmds != []).foldl (fun s d => s.abortDom 0x00FF .now (fun c => c.entry.mgmt) d) s

theorem undone_purged (s : State) {e : Nat} (he : e ≤ 256) : (s.purged.dom e).undone = [] := by
  refine List.eq_nil_iff_forall_not_mem.mpr fun i hi => ?_
  obtain ⟨hs, hl⟩ := undone_abortDoms s e 0x00FF _ hi
  obtain ⟨c, hc, -⟩ := mem_undone.mp hs
  refine hl (List.mem_filter.mpr ⟨List.mem_range.mpr (by omega), ?_⟩)
  exact bne_iff_ne.mpr (List.ne_nil_of_mem hc)

theorem calm_purged (s : State) : s.purged.calm = s.calm := calm_foldl _ (fun t d => calm_abortDom t _ _ _ d) _ s

/-- The rebuild ends the double failure and the gap; without a held instant it leaves the staging sets and no uncommitted management command. -/
theorem rebuild_outcome (s : State) :
    let u := ({ s.purged with guy := { s.purged.guy with rebuilding := false } } : State).refetchEntries.applyHeldInstant.releaseHeld.answerHeld
    u.guy.rebuilding = false ∧ u.guy.holding = false ∧ (s.guy.due = none → u.sets = s.sets) ∧
      (s.guy.due = none → ∀ d, d ≤ 256 → (u.dom d).undone = []) := by
  have calm := calm_purged s
  have undone := fun d => undone_purged s (e := d)
  generalize s.purged = p at calm undone ⊢
  have fetched (d : Nat) : ((State.refetchEntries { p with guy := { p.guy with rebuilding := false } }).dom d).undone = (p.dom d).undone :=
    part_mapDoms Dom.undone id (fun _ D => { D with waiting := D.waiting.map fun x => { x with again := x.again || x.entry.mgmt } }) (fun _ _ => rfl) rfl p.doms d
  have guy : (State.refetchEntries { p with guy := { p.guy with rebuilding := false } }).guy = { p.guy with rebuilding := false } := rfl
  have sets : (State.refetchEntries { p with guy := { p.guy with rebuilding := false } }).sets = s.sets := (congrArg (fun x : Calm => x.rest.sets) calm :)
  have due : p.guy.due = s.guy.due := (congrArg (fun x : Calm => x.rest.guy.due) calm :)
  generalize State.refetchEntries { p with guy := { p.guy with rebuilding := false } } = q at fetched guy sets ⊢
  have applied := watch_applyHeldInstant q
  have idle : q.guy.due = none → q.applyHeldInstant = q := fun h => by rw [State.applyHeldInstant, h]
  generalize q.applyHeldInstant = a at applied idle ⊢
  obtain ⟨released, kept, dry⟩ := release_outcome a
  have held : s.guy.due = none → a = q := fun h => idle ((congrArg Guyline.due guy).trans (due.trans h))
  refine ⟨?_, (congrArg (fun x : Watch => x.guy.holding) released :), fun h => ?_, fun h d hd => ?_⟩
  · refine ((congrArg (fun x : Watch => x.guy.rebuilding) released :)).trans (((congrArg (fun x : Watch => x.guy.rebuilding) applied :)).trans ?_)
    exact congrArg Guyline.rebuilding guy
  · rw [kept, held h, sets]
  · rw [Dom.undone, (parts_of_dry (dry d)).2, held h]
    exact (fetched d).trans (undone d hd)

/-! ### SYNCING, MIRRORED and the takeback (R354, R361) -/

/-- What stands of the domains, the clock and the arbiter's code when wardens enter states. -/
theorem parts_of_seats {s t : State} (h : t.unwarded = s.unwarded) : t.doms = s.doms ∧ t.guy.due = s.guy.due ∧ t.host.spdm = s.host.spdm :=
  ⟨(congrArg State.doms h :), (congrArg (fun x : State => x.guy.due) h :), (congrArg (fun x : State => x.host.spdm) h :)⟩

/-- A standby MIRRORED from now on. -/
def State.mirror (s : State) (w : Nat) : State := (s.setWarden w fun x => { x with mirroredSince := s.now }).wardenTo w .mirrored

theorem warden_mirror (s : State) (w : Nat) : ((s.mirror w).warden w).state = .mirrored ∧ ((s.mirror w).warden w).mirroredSince = s.now := by
  unfold State.mirror
  rw [warden_wardenTo, if_pos rfl, warden_setWarden, if_pos rfl]
  exact ⟨rfl, rfl⟩

/-- The gap of a takeback, with the grant at warden A. -/
def State.givenBack (s : State) : State :=
  let s := s.holdOutputs
  let s := { s with guy := { s.guy with code := movingToA, lastCause := 4, preparing := none } }
  (s.wardenTo 0 .active).wardenTo 1 .mirrored

/-- Warden B is the standby from here, and the arbiter's code names warden A. -/
def State.standBack (s : State) : State :=
  let s := s.setWarden 1 fun x => { x with mirroredSince := s.now, digest := s.guy.headDigest, applied := s.guy.written, snapshot := true }
  { s with guy := { s.guy with code := grantA } }

/-- The end of a takeback's gap. -/
def State.takenBack (s : State) (gap : Nat) : State :=
  let s := (s.givenBack.pass gap).standBack
  s.log codeTakeback (originOf 9 0) warning (s.wardenData 4 gap)

theorem warden_standBack (s : State) (v : Nat) : (s.standBack.warden v).state = (s.warden v).state := by
  have told (f : Warden → Warden) (hf : ∀ x, (f x).state = x.state) : ((s.setWarden 1 f).warden v).state = (s.warden v).state := by
    rw [warden_setWarden]
    split
    · next h => rw [hf, h]
    · rfl
  exact told (fun x => { x with mirroredSince := s.now, digest := s.guy.headDigest, applied := s.guy.written, snapshot := true }) fun _ => rfl

theorem standBack_parts (s : State) (gap : Nat) : (s.pass gap).standBack.now = s.now + gap ∧ (s.pass gap).standBack.guy = { s.guy with code := grantA } ∧
    (s.pass gap).standBack.doms = s.doms ∧ (s.pass gap).standBack.host = s.host := ⟨rfl, rfl, rfl, rfl⟩

/-- The state of a takeback before the wardens change places. -/
def State.givingBack (s : State) : State :=
  let s := s.holdOutputs
  { s with guy := { s.guy with code := movingToA, lastCause := 4, preparing := none } }

theorem unwarded_givenBack (s : State) : s.givenBack.unwarded = s.givingBack.unwarded :=
  (unwarded_wardenTo (s.givingBack.wardenTo 0 .active) 1 .mirrored).trans (unwarded_wardenTo s.givingBack 0 .active)

theorem givingBack_parts (s : State) : s.givingBack.clock = s.clock ∧ s.givingBack.doms = s.doms ∧ s.givingBack.host = s.host ∧
    s.givingBack.guy.lastCause = 4 ∧ s.givingBack.guy.held = s.guy.held := by
  unfold State.givingBack State.holdOutputs
  dsimp only
  split <;> exact ⟨rfl, rfl, rfl, rfl, rfl⟩

theorem warden_givenBack (s : State) : (s.givenBack.warden 0).state = .active ∧ (s.givenBack.warden 1).state = .mirrored := by
  change ((State.wardenTo (State.wardenTo s.givingBack 0 .active) 1 .mirrored).warden 0).state = _ ∧
    ((State.wardenTo (State.wardenTo s.givingBack 0 .active) 1 .mirrored).warden 1).state = _
  constructor
  · rw [warden_wardenTo, if_neg (by decide), warden_wardenTo, if_pos rfl]
  · rw [warden_wardenTo, if_pos rfl]

theorem takenBack_outcome (s : State) (gap : Nat) : (s.takenBack gap).now = s.now + gap ∧ (s.takenBack gap).guy.code = grantA ∧
    (s.takenBack gap).guy.lastCause = 4 ∧ ((s.takenBack gap).warden 0).state = .active ∧ ((s.takenBack gap).warden 1).state = .mirrored ∧
    (s.takenBack gap).doms = s.doms ∧ (s.takenBack gap).host.spdm = s.host.spdm ∧ (s.takenBack gap).guy.held = s.givenBack.guy.held := by
  have seats := unwarded_givenBack s
  have wardens := warden_givenBack s
  obtain ⟨clock, doms, host, cause, -⟩ := givingBack_parts s
  have gclock : s.givenBack.clock = s.clock := (parts_of_unwarded seats).1.trans clock
  have gcause : s.givenBack.guy.lastCause = 4 := (parts_of_unwarded seats).2.2.2.2.2.trans cause
  have gdoms : s.givenBack.doms = s.doms := (parts_of_seats seats).1.trans doms
  have gspdm : s.givenBack.host.spdm = s.host.spdm := (parts_of_seats seats).2.2.trans (congrArg HostPort.spdm host)
  have state (v : Nat) := warden_standBack (s.givenBack.pass gap) v
  have back := standBack_parts s.givenBack gap
  have passed (v : Nat) : (s.givenBack.pass gap).warden v = s.givenBack.warden v := rfl
  unfold State.takenBack
  dsimp only
  generalize (s.givenBack.pass gap).standBack = u at state back ⊢
  obtain ⟨bnow, bguy, bdoms, bhost⟩ := back
  rw [now_log, guy_log, doms_log, host_log, warden_of_wardens (wardens_log ..), warden_of_wardens (wardens_log ..), state, state, passed, passed, bnow, bguy, bdoms, bhost]
  exact ⟨congrArg (fun c : Clock => c.mono + gap) gclock, rfl, gcause, wardens.1, wardens.2, gdoms, gspdm, rfl⟩

/-- Whether every held output is a message of the host port. -/
def State.holdsMessages (s : State) : Prop := ∀ o ∈ s.guy.held, ∃ v a b, o = HostOut.message v a b

theorem holdsMessages_message {s : State} (h : s.holdsMessages) (v : Nat) (now : Bool) : (s.message v now).holdsMessages := by
  unfold State.message
  dsimp only
  (repeat' split)
  · exact h
  · exact h
  · intro o ho
    rcases List.mem_append.mp ho with ho | ho
    · exact h o ho
    · exact ⟨_, _, _, List.mem_singleton.mp ho⟩
  · exact h
  · exact h

theorem holdsMessages_log {s : State} (h : s.holdsMessages) (a b c : Nat) (data : Bytes) : (s.log a b c data).holdsMessages := by
  unfold State.holdsMessages
  rw [guy_log]
  exact h

theorem holdsMessages_raise {s : State} (h : s.holdsMessages) (source : Nat) : (s.raise source).holdsMessages := by
  have told (c : Bool) (t : State) (ht : t.holdsMessages) (x y z v : Nat) (data : Bytes) (now : Bool) :
      ((if c then t.log x y z data else t).message v now).holdsMessages := by
    refine holdsMessages_message ?_ _ _
    split
    · exact holdsMessages_log ht _ _ _ _
    · exact ht
  unfold State.raise State.eventEdge
  split
  · exact h
  · refine told _ _ ?_ _ _ _ _ _ _
    exact h

theorem holdsMessages_wardenTo {s : State} (h : s.holdsMessages) (w : Nat) (new : WardenState) : (s.wardenTo w new).holdsMessages := by
  unfold State.wardenTo
  split
  · exact h
  · refine holdsMessages_raise (holdsMessages_log ?_ _ _ _ _) _
    exact h

theorem holdsMessages_givenBack {s : State} (h : s.guy.held = []) : s.givenBack.holdsMessages := by
  refine holdsMessages_wardenTo (holdsMessages_wardenTo (s := s.givingBack) ?_ 0 .active) 1 .mirrored
  intro o ho
  rw [(givingBack_parts s).2.2.2.2, h] at ho
  cases ho

/-- Held messages that are released touch no domain. -/
theorem doms_releaseHeld {s : State} (h : s.holdsMessages) : s.releaseHeld.doms = s.doms := by
  have fold (l : List HostOut) (hl : ∀ o ∈ l, ∃ v a b, o = HostOut.message v a b) (t : State) : (l.foldl State.emitNow t).doms = t.doms := by
    induction l generalizing t with
    | nil => rfl
    | cons o os ih =>
      obtain ⟨v, a, b, rfl⟩ := hl o List.mem_cons_self
      rw [List.foldl_cons, ih fun x hx => hl x (List.mem_cons_of_mem _ hx)]
      unfold State.emitNow
      split <;> rfl
  exact (fold _ h _).trans rfl

/-- The preparation of a takeback, from an instant. -/
def State.prepareTakeback (s : State) (n : Nat) : State :=
  let s := s.passTo n
  { s with guy := { s.guy with preparing := some s.now } }

theorem prepareTakeback_parts (s : State) (n : Nat) :
    (s.prepareTakeback n).guy.preparing = some (s.prepareTakeback n).now ∧ (s.prepareTakeback n).now = max s.now n := ⟨rfl, now_passTo s n⟩

theorem abandonTakeback_parts (s : State) (n : Nat) : (s.passTo n).abandonTakeback.guy.preparing = none ∧
    (s.passTo n).abandonTakeback.guy.abandonedAt = (s.passTo n).abandonTakeback.now ∧ (s.passTo n).abandonTakeback.now = max s.now n :=
  ⟨rfl, rfl, now_passTo s n⟩

theorem execTakebackAbandon_served {s : State} {t : Nat} (hs : s.wardensServe = true) (hp : s.guy.preparing = some t) :
    execTakebackAbandon s = .next (s.passTo (t + 100000000)).abandonTakeback := by
  unfold execTakebackAbandon
  rw [hp]
  exact if_neg (by rw [hs]; decide)

theorem execTakebackHoldoff_served {s : State} (hs : s.wardensServe = true) (ho : s.activeWarden = 1) (ha : (s.warden 1).state = .active)
    (hm : (s.warden 0).state = .mirrored) (hoff : s.guy.takebackOff = false) (hp : s.guy.preparing = none) (hh : s.guy.holding = false) :
    execTakebackHoldoff s = .next (s.prepareTakeback (max (s.warden 0).mirroredSince s.guy.abandonedAt + s.chip.takeback * 100000000)) := by
  unfold execTakebackHoldoff
  exact if_neg (by simp [hs, ho, ha, hm, hoff, hp, hh])

theorem execTakeback_served {s : State} {t gap : Nat} (hs : s.wardensServe = true) (hp : s.guy.preparing = some t) (hq : s.quietPoint = true)
    (hm : (s.warden 0).state = .mirrored) (hh : s.guy.holding = false) (hg : gap ≤ 40000) :
    execTakeback gap s = if t + 100000000 < s.now then .next s.abandonTakeback else .next (s.takenBack gap).releaseHeld.answerHeld := by
  have long : ¬ gap > 40000 := by omega
  unfold execTakeback
  rw [hp]
  dsimp only
  rw [if_neg (by simp [hs, hq, hm, hh, long])]
  rfl

/-- A takeback at its quiet point, in time. -/
theorem takenBack_released (s : State) (gap : Nat) :
    let u := (s.takenBack gap).releaseHeld.answerHeld
    u.guy.code = grantA ∧ u.guy.lastCause = 4 ∧ (u.warden 0).state = .active ∧ (u.warden 1).state = .mirrored ∧ u.now = s.now + gap ∧ u.guy.holding = false ∧
      (s.guy.held = [] → s.host.spdm.busy = false → u.doms = s.doms) := by
  obtain ⟨now, code, cause, zero, one, doms, spdm, held⟩ := takenBack_outcome s gap
  have messages : s.guy.held = [] → (s.takenBack gap).holdsMessages := fun h => by
    unfold State.holdsMessages
    rw [held]
    exact holdsMessages_givenBack h
  generalize s.takenBack gap = b at now code cause zero one doms spdm messages ⊢
  obtain ⟨watch, -, -⟩ := release_outcome b
  have quiet : s.host.spdm.busy = false → b.releaseHeld.answerHeld = b.releaseHeld := fun h => by
    have same : b.releaseHeld.host.spdm = b.host.spdm := (congrArg (fun x : Calm => x.rest.host.spdm) (calm_releaseHeld b) :)
    unfold State.answerHeld
    rw [same, spdm, h]
    rfl
  refine ⟨((congrArg (fun x : Watch => x.guy.code) watch :)).trans code, ((congrArg (fun x : Watch => x.guy.lastCause) watch :)).trans cause,
    (warden_of_watch watch 0).1.trans zero, (warden_of_watch watch 1).1.trans one, ((congrArg (fun x : Watch => x.clock.mono) watch :)).trans now,
    (congrArg (fun x : Watch => x.guy.holding) watch :), fun hh hb => ?_⟩
  rw [quiet hb, doms_releaseHeld (messages hh), doms]

/-- A self test's result while a warden serves. -/
theorem tested_outcome (s : State) (w : Nat) (pass : Bool) :
    let u := if pass then (s.tested w .syncing).snapshotTo w else s.wardenTo w .failed
    u.clock = s.clock ∧ (u.warden w).state = if pass then .syncing else .failed := by
  cases pass with
  | true => exact ⟨clock_tested s w .syncing, (warden_snapshotTo (s.tested w .syncing) w w).trans ((warden_tested s w w .syncing).trans (if_pos rfl))⟩
  | false =>
    refine ⟨(parts_of_unwarded (unwarded_wardenTo s w .failed)).1, ?_⟩
    change ((s.wardenTo w .failed).warden w).state = _
    rw [warden_wardenTo, if_pos rfl]
    rfl

/-- WARDEN_SELF_TEST_END on a warden that tests itself. -/
theorem wardenSelfTestEnd_outcome {s : State} {w : Nat} (hs : s.wardensServe = true) (hW : (s.warden w).state = .selfTest) (hw : w < 2) (pass : Bool) :
    ∃ u, execWardenSelfTestEnd w pass s = .next u ∧ u.now = max s.now ((s.warden w).testFrom + 200000000) ∧
      (s.guy.rebuilding = false ∨ (s.warden (1 - w)).state = .active → (u.warden w).state = if pass then .syncing else .failed) ∧
      (s.guy.rebuilding = true → (s.warden (1 - w)).state ≠ .active → pass = true → w = 0 ∨ (s.warden (1 - w)).state = .failed →
        (u.warden w).state = .active ∧ u.guy.code = if w = 0 then grantA else grantB) ∧
      (s.guy.rebuilding = true → (s.warden (1 - w)).state = .failed → pass = false → u.boot.state = .halted) := by
  obtain ⟨t, ht⟩ : ∃ t, s.passTo ((s.warden w).testFrom + 200000000) = t := ⟨_, rfl⟩
  have exec := execWardenSelfTestEnd_served hs hW pass ht
  have now : t.now = max s.now ((s.warden w).testFrom + 200000000) := by rw [← ht, now_passTo]
  have other : (t.warden (1 - w)).state = (s.warden (1 - w)).state := by rw [← ht, warden_passTo]
  clear ht
  by_cases h : s.guy.rebuilding = false ∨ (s.warden (1 - w)).state = .active
  · rw [if_pos h] at exec
    obtain ⟨clock, state⟩ := tested_outcome t w pass
    refine ⟨_, exec, (congrArg Clock.mono clock).trans now, fun _ => state, fun hr ha => ?_, fun hr ha => ?_⟩
    · rcases h with h | h
      · rw [hr] at h; cases h
      · exact absurd h ha
    · rcases h with h | h
      · rw [hr] at h; cases h
      · rw [ha] at h; cases h
  · rw [if_neg h] at exec
    obtain ⟨clock, first, second, neither⟩ := seated_outcome (t.tested w (if pass then .syncing else .failed))
    have result (x : Nat) := warden_tested t w x (if pass then .syncing else .failed)
    refine ⟨_, exec, (congrArg Clock.mono (clock.trans (clock_tested ..))).trans now, fun hn => absurd hn h, fun _ _ hp ho => ?_, fun _ ho hp => ?_⟩
    · subst hp
      rcases (show w = 0 ∨ w = 1 by omega) with rfl | rfl
      · exact first ((result 0).trans (if_pos rfl))
      · have failed : (s.warden (1 - 1)).state = .failed := ho.resolve_left (by decide)
        exact second ((result 0).trans ((if_neg (by decide)).trans (other.trans failed))) ((result 1).trans (if_pos rfl))
    · subst hp
      rcases (show w = 0 ∨ w = 1 by omega) with rfl | rfl
      · exact neither ((result 0).trans (if_pos rfl)) ((result 1).trans ((if_neg (by decide)).trans (other.trans ho)))
      · exact neither ((result 0).trans ((if_neg (by decide)).trans (other.trans ho))) ((result 1).trans (if_pos rfl))

/-- Settles O51: each row through the rule of what it does: the gap's end, an entry applied, a self test's result, the rebuild and the takeback. -/
theorem grantsFollowTheStandby : Obligations.GrantsFollowTheStandby := by
  intro s w gap ok hs old new W other v
  obtain ⟨hrun, hboot⟩ := (serves_iff s).mp hs
  refine ⟨fun hh hr hc ht => ?_, fun e es hj he => ?_, fun hj => ?_, fun hW hw => ?_, fun hw hW ha hl => ?_, fun hr ha => ?_, fun ho ha hm hoff hp hh => ?_,
    fun t hp => ⟨?_, fun hq hm hh hg => ⟨fun ht => ?_, fun ht => ?_⟩⟩⟩
  · obtain ⟨clock, grant, same, differs⟩ := endGap_outcome (s := s.pass gap) hrun hboot
    refine ⟨(s.pass gap).endGap, execSwitchOver_served hs hh hr hc ht, congrArg Clock.mono clock, ?_, congrArg (fun x => x.2.1) grant, congrArg (fun x => x.2.2) grant,
      fun hd => ?_, fun hd hf h3 => ?_⟩
    · exact (congrArg Prod.fst grant).trans (grant_of_moving hc)
    · obtain ⟨taker, released, failed, fetched⟩ := same hd
      exact ⟨taker, released, failed, fetched⟩
    · refine differs hd ?_
      unfold Warden.restartState
      rw [if_neg]
      · decide
      · rintro (h | h)
        · exact hf h
        · exact absurd h (Nat.not_le.mpr h3)
  · have served : (!s.wardensServe || !s.journals) = false := by rw [hs, hj]; rfl
    cases ok with
    | true =>
      obtain ⟨head, early, late⟩ := entryApplied_outcome hj he JournalEntry.bytes
      refine ⟨(s.applyJournal JournalEntry.bytes).checkpointDue, ?_, head, fun h => ⟨(early h).1, fun _ => (early h).2⟩, late⟩
      change execJournalEntry true s = _
      unfold execJournalEntry
      rw [served]
      rfl
    | false =>
      obtain ⟨head, early, late⟩ := entryApplied_outcome (s := (s.fresh 19).2) hj he fun _ => (s.fresh 19).1
      refine ⟨((s.fresh 19).2.applyJournal fun _ => (s.fresh 19).1).checkpointDue, ?_, head, fun h => ⟨(early h).1, fun h => Bool.noConfusion h⟩, late⟩
      change execJournalEntry false s = _
      unfold execJournalEntry
      rw [served]
      rfl
  · obtain ⟨-, mark, -, same, differs⟩ := checkpoint_outcome s
    refine ⟨s.checkpoint, ?_, mark, differs, same⟩
    change execJournalCheckpoint s = _
    unfold execJournalCheckpoint
    rw [hs, hj]
    rfl
  · exact wardenSelfTestEnd_outcome hs hW hw ok
  · have near : ¬ s.guy.journal.length > 64 := by omega
    let t := if W.snapshot then s else s.snapshotTo w
    obtain ⟨state, since⟩ := warden_mirror t w
    refine ⟨t.mirror w, ?_, state, since.trans ?_⟩
    · change execWardenSynced w s = _
      unfold execWardenSynced
      rw [if_neg (by simpa [hs, near] using ⟨⟨hw, hW⟩, ha⟩)]
      rfl
    · change State.now (if W.snapshot then s else s.snapshotTo w) = s.now
      split <;> rfl
  · obtain ⟨rebuilt, released, sets, undone⟩ := rebuild_outcome s
    refine ⟨_, ?_, rebuilt, released, sets, fun hd d id c hle hc hmgmt => ?_⟩
    · change execWardenRebuild s = _
      unfold execWardenRebuild
      rw [if_neg (by simpa [hs, hr] using ha)]
      rfl
    · by_contra hdone
      have hmem := mem_undone.mpr ⟨c, List.mem_of_find?_eq_some hc, hmgmt, Bool.not_eq_true _ ▸ hdone, rfl⟩
      rw [undone hd d hle] at hmem
      cases hmem
  · exact ⟨_, execTakebackHoldoff_served hs ho ha hm hoff hp hh, prepareTakeback_parts ..⟩
  · exact ⟨_, execTakebackAbandon_served hs hp, abandonTakeback_parts ..⟩
  · exact ⟨_, (execTakeback_served hs hp hq hm hh hg).trans (if_neg (by omega)), takenBack_released s gap⟩
  · exact ⟨s.abandonTakeback, (execTakeback_served hs hp hq hm hh hg).trans (if_pos ht), rfl, rfl, rfl⟩

end Sys2Proof.Machine
end

section
/-!
PROOF. Custom functions: the rows of group 0x0C and the entry of an invocation (O26).
-/

namespace Sys2Proof.Machine

/-! ### The first check that fails -/

theorem firstFail_append_fail {l : List (Option Fail)} (hl : ∀ x ∈ l, x = none) (e : Fail) (r : List (Option Fail)) : firstFail (l ++ some e :: r) = some e := by
  induction l with
  | nil => rfl
  | cons x l ih =>
    rw [hl x List.mem_cons_self, List.cons_append, firstFail]
    exact ih fun y hy => hl y (List.mem_cons_of_mem _ hy)

theorem need_eq_some {b : Bool} (status detail : Nat) (h : b = false) : need b status detail = some (status, detail) := by rw [need, h]; rfl

/-- A row of a management opcode whose checks pass up to one that fails. -/
theorem runMgmt_fails {s : State} {d id code : Nat} {c : Cmd} {as : List Approval} {f : Cmd → List Approval → Work} {l r : List (Option Fail)} {x : Option Fail}
    {w : Work} {e : Fail} (h : s.Started d id code c) (ha : s.Approved d c as) (hf : f c as = checked (l ++ x :: r) w) (hl : ∀ x ∈ l, x = none) (hx : x = some e) :
    ∃ t y, s.runMgmt code d id f = .next t ∧ t.cmd d id = some y ∧ c.Got (.error e) y := by
  have ends := runMgmt_ends f h ha
  rwa [hf, checked, hx, firstFail_append_fail hl] at ends

/-! ### The rows of group 0x0C (R315 to R317) -/

/-- CF_LOAD of a good image with room for it: its signature decides. -/
theorem execCfLoad_ends {s : State} {d id : Nat} {c : Cmd} {as : List Approval} (ha : s.Approved d c as) (h : s.Started d id 0x0C01 c)
    (h8 : byteAt c.param 0 < 8) (he : ((s.dom d).image (byteAt c.param 0)).state = .empty)
    (hd : sha384 (c.param.drop 64) = slice c.param 16 48) (hi : imageFail (c.param.drop 64) = none)
    (hs : (s.dom d).mramUsed + roundUp (c.param.drop 64).length 4096 ≤ (s.confSeen d c.placedAt).mramQuota * 1024) :
    RowEnds (.cfLoad d id) s d id c (if imageSigned (s.dom d).roster (c.param.drop 64) then
      .ok { effects := [.cfImage d (byteAt c.param 0) { state := .loaded, image := c.param.drop 64, digest := slice c.param 16 48 }] }
      else .error (eCfSignature, 0)) := by
  rw [List.length_drop] at hs
  by_cases hsig : imageSigned (s.dom d).roster (c.param.drop 64) = true
  · rw [if_pos hsig]
    exact runMgmt_passes h ha rfl (by simp [h8, he, hd, hi, hsig, hs])
  · rw [if_neg hsig]
    exact runMgmt_fails (l := [need (byteAt c.param 0 < 8) eCfParam 0,
        need (((s.dom d).image (byteAt c.param 0)).state = .empty) eCfState ((s.dom d).image (byteAt c.param 0)).state.code,
        need (sha384 (c.param.drop 64) == slice c.param 16 48) eCfDigest 0, imageFail (c.param.drop 64)])
      h ha rfl (by simp [h8, he, hd, hi]) (need_eq_some _ _ (Bool.not_eq_true _ ▸ hsig))

/-! ### The memory of an invocation (R308, R319) -/

section
variable (s : State) (k : Nat)

theorem doms_setWord (a : Nat) (w : KWord) : (s.setWord k a w).doms = s.doms := by
  unfold State.setWord
  split <;> rfl

theorem doms_prepare (colour a n : Nat) : (s.prepare k colour a n).doms = s.doms := by
  unfold State.prepare
  split
  · rfl
  · split <;> rfl

theorem doms_fold {α : Type} (f : State → α → State) (hf : ∀ t a, (f t a).doms = t.doms) (l : List α) (s : State) : (l.foldl f s).doms = s.doms := by
  induction l generalizing s with
  | nil => rfl
  | cons a l ih => rw [List.foldl_cons, ih, hf]

theorem doms_loadBits (a : Nat) (bs : Bytes) : (s.loadBits k a bs).doms = s.doms := doms_fold _ (fun _ _ => doms_setWord ..) _ s

theorem doms_cfMemory (colour : Nat) (c : Cmd) (image : Bytes) (l : List Area) (bases : List Nat) : (s.cfMemory k colour c image l bases).doms = s.doms := by
  unfold State.cfMemory
  dsimp only
  rw [doms_setRegion, doms_setRegion, doms_loadBits, doms_loadBits, doms_loadBits]
  exact doms_fold _ (fun _ _ => doms_prepare ..) _ s

end

/-! ### Entry registers (R319 Table 12-5) -/

/-- Registers written in order. -/
def putRegs (l : List (Nat × KWord)) (t : Tab KWord) : Tab KWord := l.foldl (fun t p => Tab.put t {} p.1 p.2) t

theorem putRegs_append (a b : List (Nat × KWord)) (t : Tab KWord) : putRegs (a ++ b) t = putRegs b (putRegs a t) := List.foldl_append ..

theorem get_putRegs_other {l : List (Nat × KWord)} {r : Nat} (h : ∀ p ∈ l, p.1 ≠ r) (t : Tab KWord) : Tab.get (putRegs l t) {} r = Tab.get t {} r := by
  induction l generalizing t with
  | nil => rfl
  | cons p l ih =>
    rw [putRegs, List.foldl_cons]
    refine (ih (fun q hq => h q (List.mem_cons_of_mem _ hq)) _).trans ?_
    rw [Tab.get_put, if_neg (h p List.mem_cons_self)]

/-- A register that one item of the list writes. -/
theorem get_putRegs {a b : List (Nat × KWord)} {r : Nat} {w : KWord} (h : ∀ p ∈ b, p.1 ≠ r) (t : Tab KWord) :
    Tab.get (putRegs (a ++ (r, w) :: b) t) {} r = w := by
  rw [putRegs_append]
  refine (get_putRegs_other h _).trans ?_
  rw [Tab.get_put, if_pos rfl]

/-- The items of an optional register. -/
theorem mem_optional {α : Type} {b : Prop} [Decidable b] {l : List α} {x : α} (h : x ∈ if b then [] else l) : x ∈ l := by
  split at h
  · cases h
  · exact h

theorem mem_present {α : Type} {b : Prop} [Decidable b] {l : List α} {x : α} (h : x ∈ if b then l else []) : x ∈ l := by
  split at h
  · exact h
  · cases h

section
variable (c : Cmd) (image : Bytes) (draws : Nat) (bases : List Nat)

/-- The registers after the parameter block's, up to the stamp. -/
theorem handleRegs_lt {p : Nat × KWord} (h : p ∈ ((List.range 4).filter c.entry.valid).map fun i => (7 + i, kHandle (c.entry.handle i))) : 7 ≤ p.1 ∧ p.1 ≤ 10 := by
  obtain ⟨i, hi, rfl⟩ := List.mem_map.mp h
  have := List.mem_range.mp (List.mem_filter.mp hi).1
  dsimp only
  omega

/-- The entry registers between W1 and W12. -/
def cfRegsBefore : List (Nat × KWord) :=
  [(2, kInt (BitVec.ofNat 64 c.param.length))] ++ (if c.input = [] then [] else [(3, kAddr (BitVec.ofNat 64 (bases.getD 4 0)))]) ++
    [(4, kInt (BitVec.ofNat 64 c.input.length)), (5, kAddr (BitVec.ofNat 64 (bases.getD 5 0))), (6, kInt (BitVec.ofNat 64 c.outSpace))] ++
    ((List.range 4).filter c.entry.valid).map (fun i => (7 + i, kHandle (c.entry.handle i))) ++ [(11, kTime (BitVec.ofNat 64 c.cond.stamp))]

/-- The entry registers between W12 and W31. -/
def cfRegsAfter : List (Nat × KWord) :=
  let v := c.reserveStart.getD 0
  let reserves := c.entry.reserveCount != 0 && c.reserveStart.isSome
  [(13, kInt (BitVec.ofNat 64 (c.entry.opcode % 256)))] ++ (if draws = 0 then [] else [(14, kAddr (BitVec.ofNat 64 (bases.getD 6 0)))]) ++
    (if reserves then [(15, kBits (BitVec.ofNat 64 v)), (16, kBits (BitVec.ofNat 64 (v / 2 ^ 64)))] else []) ++
    [(17, kInt (BitVec.ofNat 64 (if reserves then c.entry.reserveCount else 0))), (18, kAddr (BitVec.ofNat 64 (bases.getD 2 0))),
      (30, kCode (BitVec.ofNat 64 (bases.getD 0 0) + BitVec.ofNat 64 (imageCode image)))]

theorem cfRegs_eq : cfRegs c image draws bases = [] ++ (1, kAddr (BitVec.ofNat 64 (bases.getD 1 0))) ::
    (cfRegsBefore c bases ++ (12, kBits (BitVec.ofNat 64 c.seq)) ::
      (cfRegsAfter c image draws bases ++ [(31, kAddr (BitVec.ofNat 64 (bases.getD 3 0) + BitVec.ofNat 64 (imageStack image)))])) := by
  simp only [cfRegs, cfRegsBefore, cfRegsAfter, List.append_assoc, List.cons_append, List.nil_append]

theorem cfRegsBefore_lt {p : Nat × KWord} (h : p ∈ cfRegsBefore c bases) : 1 < p.1 ∧ p.1 < 12 := by
  simp only [cfRegsBefore, List.mem_append] at h
  obtain (((h | h) | h) | h) | h := h
  · rw [List.mem_singleton.mp h]; simp
  · rw [List.mem_singleton.mp (mem_optional h)]; simp
  · simp only [List.mem_cons, List.not_mem_nil, or_false] at h
    obtain rfl | rfl | rfl := h <;> simp
  · have := handleRegs_lt c h
    omega
  · rw [List.mem_singleton.mp h]; simp

theorem cfRegsAfter_lt {p : Nat × KWord} (h : p ∈ cfRegsAfter c image draws bases) : 12 < p.1 ∧ p.1 < 31 := by
  simp only [cfRegsAfter, List.mem_append] at h
  obtain ((h | h) | h) | h := h
  · rw [List.mem_singleton.mp h]; simp
  · rw [List.mem_singleton.mp (mem_optional h)]; simp
  · have h := mem_present h
    simp only [List.mem_cons, List.not_mem_nil, or_false] at h
    obtain rfl | rfl := h <;> simp
  · simp only [List.mem_cons, List.not_mem_nil, or_false] at h
    obtain rfl | rfl | rfl := h <;> simp

/-- The parameter block's address, the SEQ and the stack's end are in their registers. -/
theorem get_cfRegs : Tab.get (putRegs (cfRegs c image draws bases) []) {} 1 = kAddr (BitVec.ofNat 64 (bases.getD 1 0)) ∧
    Tab.get (putRegs (cfRegs c image draws bases) []) {} 12 = kBits (BitVec.ofNat 64 c.seq) ∧
    Tab.get (putRegs (cfRegs c image draws bases) []) {} 31 = kAddr (BitVec.ofNat 64 (bases.getD 3 0) + BitVec.ofNat 64 (imageStack image)) := by
  have before (p : Nat × KWord) (h : p ∈ cfRegsBefore c bases) := cfRegsBefore_lt c bases h
  have after (p : Nat × KWord) (h : p ∈ cfRegsAfter c image draws bases) := cfRegsAfter_lt c image draws bases h
  rw [cfRegs_eq]
  generalize cfRegsBefore c bases = a at before ⊢
  generalize cfRegsAfter c image draws bases = b at after ⊢
  generalize kAddr (BitVec.ofNat 64 (bases.getD 3 0) + BitVec.ofNat 64 (imageStack image)) = z
  refine ⟨get_putRegs (fun p hp => ?_) _, ?_, ?_⟩
  · simp only [List.mem_append, List.mem_cons, List.not_mem_nil, or_false] at hp
    obtain hp | rfl | hp | rfl := hp
    · have := before p hp; omega
    · simp
    · have := after p hp; omega
    · simp
  · rw [List.nil_append, ← List.cons_append]
    refine get_putRegs (fun p hp => ?_) _
    simp only [List.mem_append, List.mem_cons, List.not_mem_nil, or_false] at hp
    obtain hp | rfl := hp
    · have := after p hp; omega
    · simp
  · rw [List.nil_append, ← List.cons_append, ← List.cons_append, ← List.append_assoc]
    exact get_putRegs (fun p hp => absurd hp List.not_mem_nil) _

end

/-! ### The entry of an invocation (R318, R319) -/

/-- Efori before the entry of a function: a command that runs on a core that is free for it. -/
def State.mayInvoke (s : State) (k colour : Nat) (c : Cmd) : Prop :=
  c.phase = .running ∧ isCustom c.entry.opcode = true ∧ c.stage = 0 ∧ s.coreRuns k = true ∧ (s.core k).function = false ∧ (s.core k).invocations = [] ∧
    1 ≤ colour ∧ colour ≤ 14

/-- What Efori notes of an invocation. -/
def cfInvocation (d id colour : Nat) (c : Cmd) (image : Bytes) (draws budget : Nat) (bases : List Nat) : Invocation where
  pitch := d
  seq := c.seq
  colour := colour
  code := bases.getD 0 0
  codeLen := imageCode image
  output := bases.getD 5 0
  outLen := c.outSpace
  budget := budget
  id := id
  areas := ((cfAreas c image draws bases).filter fun a => a.len != 0).map fun a => (a.base, a.len)

/-- A core in the function of an invocation. -/
def Core.entered (K : Core) (c : Cmd) (image : Bytes) (draws colour : Nat) (bases : List Nat) (i : Invocation) : Core :=
  let start := BitVec.ofNat 64 (bases.getD 0 0 + imageEntry image (c.entry.opcode % 256))
  { K with regs := putRegs (cfRegs c image draws bases) [], active := cfRules colour (cfAreas c image draws bases), standby := [], tpc := start, pc := start
           tstatus := 27, span := none, invocations := [i] }

theorem function_entered (K : Core) (c : Cmd) (image : Bytes) (draws colour : Nat) (bases : List Nat) (i : Invocation) :
    (K.entered c image draws colour bases i).function = true := by
  change (27 : BitVec 64).getLsbD 3 = true
  decide

theorem reg_entered {r : BitVec 5} (hr : r ≠ 0) (K : Core) (c : Cmd) (image : Bytes) (draws colour : Nat) (bases : List Nat) (i : Invocation) :
    (K.entered c image draws colour bases i).reg r = Tab.get (putRegs (cfRegs c image draws bases) []) {} r.toNat := if_neg hr

theorem execCfInvoke_undeclared {s : State} {d id colour : Nat} {areas : List Nat} {c : Cmd} {i : Nat} (hc : s.cmd d id = some c)
    (hm : s.mayInvoke (12 * c.region + c.block) colour c) (hi : (List.range 4).find? (fun i => c.entry.valid i && c.entry.writes i) = some i) :
    execCfInvoke d id colour areas s = .next (s.setCmd d id fun c => c.failWith (eCfDeclare, i)) := by
  obtain ⟨hp, ho, hs, hr, hf, hn, h1, h14⟩ := hm
  unfold execCfInvoke
  rw [hc]
  dsimp only
  rw [if_neg (by simp [hp, ho, hs, hr, hf, hn, h1, h14]), hi]

theorem execCfInvoke_enters {s : State} {d id colour : Nat} {areas : List Nat} {c : Cmd} {image : Bytes} {slot draws budget : Nat} (hc : s.cmd d id = some c)
    (hm : s.mayInvoke (12 * c.region + c.block) colour c) (hi : (List.range 4).find? (fun i => c.entry.valid i && c.entry.writes i) = none)
    (himage : c.cond.cfImage = some image) (hgroup : c.cond.cfGroup = some (slot, draws, budget)) (ha : areas.length = 7)
    (hapart : areasApart ((cfAreas c image draws areas).filter fun a => a.len != 0) = true)
    (hfree : ∀ p ∈ (cfAreas c image draws areas).zipIdx, s.areaFree (12 * c.region + c.block) p.2 p.1 = true) :
    execCfInvoke d id colour areas s = .next
      (((s.cfMemory (12 * c.region + c.block) colour c image (cfAreas c image draws areas) areas).setCore (12 * c.region + c.block)
        fun K => K.entered c image draws colour areas (cfInvocation d id colour c image draws budget areas)).setCmd d id fun c => { c with stage := 1 }) := by
  obtain ⟨hp, ho, hs, hr, hf, hn, h1, h14⟩ := hm
  unfold execCfInvoke
  rw [hc]
  dsimp only
  rw [if_neg (by simp [hp, ho, hs, hr, hf, hn, h1, h14]), hi, himage, hgroup]
  dsimp only
  rw [if_neg (by simpa [ha, hapart] using fun a n h => hfree (a, n) h)]
  rfl

/-- Settles O26: the rows of group 0x0C by their checks; CF_INVOKE by the first declared write bit, or the registers and rules that it sets up. -/
theorem customFunctionRowsEnd : Obligations.CustomFunctionRowsEnd := by
  unfold Obligations.CustomFunctionRowsEnd
  refine ⟨fun s d id c as ha => ⟨fun h h8 he hd hi hs => execCfLoad_ends ha h h8 he hd hi hs, fun h h8 hl hd => ?_, fun h hg h8 h4 hb hac hd hle hf => ?_,
    fun h hg hf => ?_, fun h h8 he hb => ?_, fun h hp => ?_⟩, fun s d id colour areas c hc hp ho hs hr hf hn h1 h14 => ?_⟩
  · exact runMgmt_passes h ha rfl (by simp [h8, hl, hd])
  · exact runMgmt_passes h ha rfl (by simp [fields_eq_none, hg, h8, h4, hb, hac, hd, hle, hf])
  · exact runMgmt_passes h ha rfl (by simp [hg, hf])
  · exact runMgmt_passes h ha rfl (by simp [h8, he, hb])
  · exact runMgmt_passes h ha rfl (by simpa using hp)
  · have hm : s.mayInvoke (12 * c.region + c.block) colour c := ⟨hp, ho, hs, hr, hf, hn, h1, h14⟩
    refine ⟨fun i h4 hv hw hj => ?_, fun image slot draws budget hd himage hgroup ha hapart hfree => ?_⟩
    · have found : (List.range 4).find? (fun i => c.entry.valid i && c.entry.writes i) = some i := by
        refine List.find?_range_eq_some.mpr ⟨by rw [hv, hw]; rfl, List.mem_range.mpr h4, fun j hlt => by rw [hj j hlt]; rfl⟩
      exact ⟨_, _, execCfInvoke_undeclared hc hm found, cmd_setCmd _ (fun _ => rfl) hc, got_finish c (.error (eCfDeclare, i))⟩
    · have found : (List.range 4).find? (fun i => c.entry.valid i && c.entry.writes i) = none := by
        simpa using fun i hi => by simpa using hd i hi
      have run := execCfInvoke_enters hc hm found himage hgroup ha hapart hfree
      have doms := doms_cfMemory s (12 * c.region + c.block) colour c image (cfAreas c image draws areas) areas
      generalize s.cfMemory (12 * c.region + c.block) colour c image (cfAreas c image draws areas) areas = t at run doms
      have tc : t.cmd d id = some c := by rw [State.cmd, dom_of_doms doms]; exact hc
      obtain ⟨r1, r12, r31⟩ := get_cfRegs c image draws areas
      refine ⟨_, _, run, cmd_setCmd (s := t.setCore _ _) _ (fun _ => rfl) tc, rfl, ?_⟩
      have core : ((t.setCore (12 * c.region + c.block) fun K => K.entered c image draws colour areas (cfInvocation d id colour c image draws budget areas)).setCmd d id
          fun c => { c with stage := 1 }).core (12 * c.region + c.block) =
          (t.core (12 * c.region + c.block)).entered c image draws colour areas (cfInvocation d id colour c image draws budget areas) :=
        (core_setCore t (12 * c.region + c.block) (12 * c.region + c.block)
          fun K => K.entered c image draws colour areas (cfInvocation d id colour c image draws budget areas)).trans (if_pos rfl)
      rw [core]
      exact ⟨function_entered .., rfl, rfl, (reg_entered (by decide) ..).trans r1, (reg_entered (by decide) ..).trans r12, (reg_entered (by decide) ..).trans r31⟩

end Sys2Proof.Machine
end

section
/-! PROOF. The staging commands: each row is its work on the set that the block names (O19). -/

namespace Sys2Proof.Machine

/-- A discard of a set that is in use, by one who may. -/
theorem dropSetFail_eq_none {s : State} {d k : Nat} (hx : (s.stage k).state ≠ .empty) (hd : d = operator ∨ (s.stage k).opWrite = false) :
    s.dropSetFail d k = none := by
  refine (firstFail_eq_none _).mpr ?_
  simpa [hx] using hd

/-- A management row of approvals that stand, by the value of its work. -/
theorem runMgmt_gives {s : State} {d id code : Nat} {c : Cmd} {as : List Approval} {f : Cmd → List Approval → Work} {w : Work} (h : s.Started d id code c)
    (ha : s.Approved d c as) (hf : f c as = w) : ∃ t x, s.runMgmt code d id f = .next t ∧ t.cmd d id = some x ∧ c.Got w x := hf ▸ runMgmt_ends f h ha

/-- Settles O19: the set's name is known, so that each row's work is its own. -/
theorem stagingRowsEnd : Obligations.StagingRowsEnd := by
  intro s d id c as k ha hk x v
  refine ⟨fun h => runMgmt_ends _ h ha, fun h => ?_, fun h => runMgmt_ends _ h ha, fun h hx hd => ?_, fun h => ?_⟩
  · refine runMgmt_gives h ha ?_
    rw [hk]
  · have none := dropSetFail_eq_none hx hd
    refine runMgmt_gives h ha ?_
    rw [hk]
    exact checked_of_pass _ (by simp [none])
  · refine runMgmt_gives h ha ?_
    rw [hk]

end Sys2Proof.Machine
end

section
/-! PROOF. Life-cycle, debug, firmware and tamper commands: the rows that end in one step (O22). -/

namespace Sys2Proof.Machine

/-! ### Fields of a record -/

section
variable (n v o m : Nat) (t : Bytes)

theorem slice_skip {a : Bytes} {k : Nat} (ha : a.length = k) (h : k ≤ o) : slice (a ++ t) o m = slice t (o - k) m := by
  subst ha
  unfold slice
  rw [List.drop_append, List.drop_eq_nil_of_le h, List.nil_append]

theorem slice_skip_leBytes (h : n ≤ o) : slice (leBytes n v ++ t) o m = slice t (o - n) m := slice_skip o m t (length_leBytes n v) h

theorem slice_skip_zeros (h : n ≤ o) : slice (zeros n ++ t) o m = slice t (o - n) m := slice_skip o m t List.length_replicate h

theorem slice_leBytes : slice (leBytes n v ++ t) 0 n = leBytes n v := slice_append_middle (a := []) rfl (length_leBytes n v)

end

/-! ### LC_STATUS (R409) -/

/-- The record of LC_STATUS, by the code of the wipe that is due. -/
def LifeCycleReg.statusBytes (l : LifeCycleReg) (wipe : Nat) : Bytes :=
  leBytes 8 l.bits ++ (l.copies.flatMap fun c => leBytes 1 (if otpValid c then (otpDecode c).code else 0xFE)) ++ leBytes 1 wipe ++ zeros 4 ++
    ((List.range 7).flatMap fun i => leBytes 1 (l.attemptsLeft (i + 1))) ++ leBytes 1 l.modes.toNat ++
    leBytes 1 (0x5F + 0x20 * b2n (l.digest 6).isSome) ++ leBytes 1 l.wrong ++ zeros 6 ++
    (l.copies.flatMap fun c => leBytes 1 ((otpFields.map fun k => 2 ^ k * b2n (otpPartial c k)).sum)) ++ zeros 29

theorem range_seven : List.range 7 = [0, 1, 2, 3, 4, 5, 6] := rfl

section
variable (l : LifeCycleReg) (wipe : Nat)

theorem length_statusBytes : (l.statusBytes wipe).length = 64 := by
  simp [LifeCycleReg.statusBytes, LifeCycleReg.copies, range_seven, length_leBytes, zeros]

theorem statusBytes_fields : slice (l.statusBytes wipe) 0 8 = leBytes 8 l.bits ∧
    (∀ k, k < 3 → slice (l.statusBytes wipe) (8 + k) 1 = leBytes 1 (if otpValid (l.copies.getD k 0) then (otpDecode (l.copies.getD k 0)).code else 0xFE)) ∧
    (∀ k, k < 7 → slice (l.statusBytes wipe) (16 + k) 1 = leBytes 1 (l.attemptsLeft (k + 1))) ∧ slice (l.statusBytes wipe) 23 1 = leBytes 1 l.modes.toNat ∧
    slice (l.statusBytes wipe) 25 1 = leBytes 1 l.wrong := by
  have fields : ∀ f : BitVec 256 → Bytes, l.copies.flatMap f = f l.copy0 ++ (f l.copy1 ++ f l.copy2) := fun f => by
    simp [LifeCycleReg.copies]
  have lefts : ((List.range 7).flatMap fun i => leBytes 1 (l.attemptsLeft (i + 1))) = leBytes 1 (l.attemptsLeft 1) ++ (leBytes 1 (l.attemptsLeft 2) ++
      (leBytes 1 (l.attemptsLeft 3) ++ (leBytes 1 (l.attemptsLeft 4) ++ (leBytes 1 (l.attemptsLeft 5) ++ (leBytes 1 (l.attemptsLeft 6) ++
        leBytes 1 (l.attemptsLeft 7)))))) := by
    simp [range_seven]
  rw [LifeCycleReg.statusBytes, fields, fields, lefts]
  simp only [List.append_assoc]
  refine ⟨slice_leBytes .., fun k hk => ?_, fun k hk => ?_, ?_, ?_⟩
  · interval_cases k <;> simp [slice_skip_leBytes, slice_leBytes, LifeCycleReg.copies]
  · interval_cases k <;> simp [slice_skip_leBytes, slice_skip_zeros, slice_leBytes]
  · simp [slice_skip_leBytes, slice_skip_zeros, slice_leBytes]
  · simp [slice_skip_leBytes, slice_skip_zeros, slice_leBytes]

end

/-- An output that its descriptor has room for. -/
theorem Cmd.Got.output {c x : Cmd} {b : Bytes} (h : c.Got (.ok { out := b }) x) (hl : c.tooLong b.length = false) : x.status = sOk ∧ x.output = b := by
  obtain ⟨-, -, h⟩ := h
  dsimp only at h
  rw [if_neg (by rw [hl]; decide)] at h
  obtain ⟨status, -, output, -⟩ := h
  exact ⟨status, output⟩

theorem execLcStatus_ends {s : State} {d id : Nat} {c : Cmd} {as : List Approval} (ha : s.Approved d c as) (h : s.Started d id 0x0901 c)
    (hl : c.tooLong 64 = false) : ∃ u x wipe, exec (.lcStatus d id) s = .next u ∧ u.cmd d id = some x ∧ x.status = sOk ∧ x.output = s.life.statusBytes wipe := by
  obtain ⟨wipe, hw⟩ : ∃ wipe, (match s.life.wipeDue with | some x => x.code | none => 0xFF) = wipe := ⟨_, rfl⟩
  obtain ⟨u, x, run, hx, got⟩ := runMgmt_ends (fun _ _ => .ok { out := s.life.statusBytes wipe }) h ha
  subst hw
  exact ⟨u, x, _, run, hx, Cmd.Got.output got (by rw [length_statusBytes]; exact hl)⟩

/-! ### TAMPER_CLEAR at its commit point (R391) -/

theorem judge_activeIn {s : State} {d m n : Nat} {c : Cmd} (check : EmberCheck) (he : c.effects = [.tamperClear m]) (h : s.tamper.activeIn m = some n) :
    (s.judge d check c).status = eTamperActive ∧ (s.judge d check c).detail = n := by
  have fails : firstFail (c.effects.map (s.commitFail d c) ++ c.effects.map (s.checkFail c check)) = some (eTamperActive, n) := by
    rw [he, List.map_singleton, State.commitFail, h]
    rfl
  unfold State.judge
  rw [fails]
  exact ⟨rfl, rfl⟩

/-- Settles O22: the rows by their checks, the record of LC_STATUS field by field, and the first source in alarm at the commit point. -/
theorem lifeCycleRowsEnd : Obligations.LifeCycleRowsEnd := by
  refine ⟨fun s d id c as ha => ⟨fun h hl => ?_, fun h hd => ?_, fun h h3 h7 => ?_, fun h => ?_, fun h => runMgmt_ends _ h ha, fun h => ?_⟩,
    fun s d id c as ha => ⟨fun h => runMgmt_ends _ h ha, fun h => runMgmt_ends _ h ha, fun n hc he hn hm hal hj => ?_⟩⟩
  · obtain ⟨u, x, wipe, run, hx, status, out⟩ := execLcStatus_ends ha h hl
    refine ⟨u, x, run, hx, status, ?_⟩
    rw [out]
    exact ⟨length_statusBytes .., statusBytes_fields ..⟩
  · exact runMgmt_passes h ha rfl (by simp [hd])
  · exact runMgmt_passes h ha rfl (by simp [h3, h7])
  · cases hf : certificateFail s c with
    | none => exact runMgmt_passes h ha rfl (by simp [hf])
    | some f => exact runMgmt_fails (l := []) h ha rfl (by simp) hf
  · by_cases hi : slice c.param 16 48 = sha384 (c.param.drop 64) ∧ Config.firmwareSigned (c.param.drop 64) = true
    · exact (if_pos hi).symm ▸ runMgmt_passes h ha rfl (by simp [hi.1, hi.2])
    · exact (if_neg hi).symm ▸ runMgmt_fails (l := []) h ha rfl (by simp) (need_eq_some _ _ (by simpa using hi))
  · refine judge_activeIn .verified he (List.find?_range_eq_some.mpr ⟨by simp [hm, hal], List.mem_range.mpr hn, fun j hlt => ?_⟩)
    cases hb : bit (field c.param 0 2) j with
    | false => rfl
    | true => rw [hj j hlt hb]; rfl

end Sys2Proof.Machine
end

section
/-! PROOF. LC_TRANSITION: the attempt bit, the token and the burns (O23). -/

namespace Sys2Proof.Machine

/-- The checks of a transition read the life-cycle registers and the tamper flags alone. -/
theorem transitionFail_congr {s u : State} (hl : u.life = s.life) (ht : u.tamper = s.tamper) (t : Nat) : transitionFail u t = transitionFail s t := by
  unfold transitionFail
  rw [hl, ht]

/-- What loss of power leaves of the commands and of the fuses. -/
theorem losePower_parts (s : State) : s.losePower.boot.powered = false ∧ s.losePower.doms = s.doms ∧
    (s.losePower.life.copy0, s.losePower.life.copy1, s.losePower.life.copy2) = (s.life.copy0, s.life.copy1, s.life.copy2) ∧
    ∀ t, s.losePower.life.spent t = s.life.spent t := ⟨rfl, rfl, rfl, fun _ => rfl⟩

/-- A burn of a copy's field touches no attempt bit. -/
theorem spent_burnPart (l : LifeCycleReg) (k t : Nat) (b : OtpBurn) : (l.burnPart k b).spent t = l.spent t := by
  unfold LifeCycleReg.burnPart
  dsimp only
  split <;> rfl

/-! ### The row once its approvals stand (R398, R402) -/

/-- The command has begun its transition. -/
def Cmd.attempting (c : Cmd) : Cmd := { c with stage := 1 }

def State.attempting (s : State) (d : Nat) (c : Cmd) : State := s.setCmd d c.id Cmd.attempting

/-- Power is lost in a burn that leaves the fuses so. -/
def State.cutOff (s : State) (l : LifeCycleReg) : State := ({ s with life := l, supplies := { s.supplies with p12v := false } }).losePower

/-- The result of a transition whose burns verify. -/
def transitionResult (l : LifeCycleReg) (t : Nat) : Result where
  out := leBytes 1 (b2n (l.deferred t)) ++ leBytes 1 (l.attemptsLeft t) ++ zeros 14
  effects := [.lifeCycle (.burn (transitionField t) !l.deferred t),
    .trail codeLifeCycle (originOf 0 0) security (leBytes 1 l.state.code ++ leBytes 1 (transitionTo t).code ++ leBytes 1 0 ++ leBytes 1 (transitionField t)),
    .event 0x199]

section
variable {s : State} {d t : Nat} {b : OtpBurn} {c : Cmd} {l : LifeCycleReg}

theorem transitionRow_fails {f : Fail} (ht : byteAt c.param 0 = t) (h : transitionFail s t = some f) :
    transitionRow s d b c = s.setCmd d c.id fun c => c.failWith f := by
  unfold transitionRow
  dsimp only
  rw [ht, h]

variable (ht : byteAt c.param 0 = t) (hl : s.life.attempted t b = l) (h : transitionFail s t = none)
include ht hl h

theorem transitionRow_eq : transitionRow s d b c =
    if b.cut && b.attempt < 3 then (s.attempting d c).cutOff l
    else if l.digest t = some (sha384 (slice c.param 16 32)) then
      if b.cut then (s.attempting d c).cutOff (l.burnPart (transitionField t) b)
      else if b.copies < 3 then ({ s.attempting d c with life := l.burnPart (transitionField t) b }).setCmd d c.id fun c =>
        c.failWith (eLcOtp, b.copies * 256 + transitionField t)
      else ({ s.attempting d c with life := l }).setCmd d c.id fun c => c.finish (.ok (transitionResult l t))
    else ({ s.attempting d c with life := { l with wrong := l.wrong + 1 } }).setCmd d c.id fun c => c.failWith (eLcToken, l.attemptsLeft t) := by
  subst hl
  unfold transitionRow
  dsimp only
  rw [ht, h]
  rfl

end

theorem length_transitionResult (l : LifeCycleReg) (t : Nat) : (transitionResult l t).out.length = 16 := by
  simp [transitionResult, length_leBytes, zeros]

/-- A result whose output its descriptor has room for. -/
theorem Cmd.Got.result {c x : Cmd} {r : Result} (h : c.Got (.ok r) x) (hr : r.late = none) (hl : c.tooLong r.out.length = false) :
    x.status = sOk ∧ x.output = r.out ∧ x.effects = r.effects := by
  obtain ⟨-, -, h⟩ := h
  dsimp only at h
  rw [hr] at h
  dsimp only at h
  rw [if_neg (by rw [hl]; decide)] at h
  obtain ⟨status, -, output, -, effects⟩ := h
  exact ⟨status, output, effects⟩

/-- A command found by its identity has it. -/
theorem id_of_cmd {s : State} {d id : Nat} {c : Cmd} (h : s.cmd d id = some c) : c.id = id := by
  have found := List.find?_some h
  exact beq_iff_eq.mp found

/-- Settles O23: the row by its branches, over the state in which the approvals stand. -/
theorem transitionBurnsAttempt : Obligations.TransitionBurnsAttempt := by
  intro s d id b c as ha hz h hs t l k right
  obtain ⟨u, run, hu, rest, -⟩ := runStaged_first (fun s c => transitionRow s d b c) h ha hz hs
  have hid : c.id = id := id_of_cmd h.1
  have life : u.life = s.life := (congrArg State.life rest :)
  have same := transitionFail_congr life (congrArg State.tamper rest :) t
  have burned : u.life.attempted t b = l := by rw [life]
  obtain ⟨y, hy, yid, yphase, ylong⟩ : ∃ y, u.cmd d id = some y ∧ y.id = c.id ∧ y.phase = .running ∧ ∀ n, y.attempting.tooLong n = c.tooLong n :=
    ⟨_, hu, rfl, h.2.1, fun _ => rfl⟩
  have begun : (u.attempting d c).cmd d id = some y.attempting := by
    rw [State.attempting, hid]
    exact cmd_setCmd _ (fun _ => rfl) hy
  have ended (m : LifeCycleReg) (f : Cmd → Cmd) (hf : ∀ c, (f c).id = c.id) :
      (({ u.attempting d c with life := m } : State).setCmd d c.id f).cmd d id = some (f y.attempting) := by
    rw [hid]
    exact cmd_setCmd f hf begun
  have failed (f : Fail) : c.Got (.error f) (y.attempting.failWith f) := ⟨yid, rfl, rfl, rfl, rfl, rfl⟩
  clear_value l
  refine ⟨fun f hf => ?_, fun hn hcut hright => ?_, fun hn hcut => ?_⟩
  · refine ⟨_, y.failWith f, run.trans (congrArg _ (transitionRow_fails rfl (same.trans hf))), ?_, yid, rfl, rfl, rfl, rfl, rfl⟩
    rw [hid]
    exact cmd_setCmd _ (fun _ => rfl) hy
  · have row := transitionRow_eq (d := d) (c := c) rfl burned (same.trans hn)
    intro m
    have short : b.attempt < 3 → m = l := fun hb => if_pos hb
    have full : ¬b.attempt < 3 → m = l.burnPart k b := fun hb => if_neg hb
    clear_value m
    have off : transitionRow u d b c = (u.attempting d c).cutOff m := by
      rw [row]
      by_cases hb : b.attempt < 3
      · rw [if_pos (by simp [hcut, hb]), short hb]
      · rw [if_neg (by simp [hb]), if_pos (hright.resolve_left hb), if_pos hcut, full hb]
    have spent : m.spent t = l.spent t := by
      by_cases hb : b.attempt < 3
      · rw [short hb]
      · rw [full hb, spent_burnPart]
    obtain ⟨unpowered, doms, copies, kept⟩ := losePower_parts { u.attempting d c with life := m, supplies := { (u.attempting d c).supplies with p12v := false } }
    exact ⟨_, y.attempting, run.trans (congrArg _ off), by rw [State.cmd, State.cutOff, dom_of_doms doms]; exact begun, yphase, unpowered, copies, (kept t).trans spent⟩
  · have row := transitionRow_eq (d := d) (c := c) rfl burned (same.trans hn)
    have whole : (b.cut && decide (b.attempt < 3)) = false := by
      rcases hcut with hc | hc
      · rw [hc]; rfl
      · simp [Nat.not_lt.mpr hc]
    rw [if_neg (by rw [whole]; decide)] at row
    refine ⟨fun hr => ?_, fun hr hc hk => ?_, fun hr hc hk hlong => ?_⟩
    · rw [if_neg hr] at row
      exact ⟨_, _, run.trans (congrArg _ row), ended _ _ fun _ => rfl, failed _, rfl⟩
    · rw [if_pos hr, if_neg (by rw [hc]; decide), if_pos hk] at row
      exact ⟨_, _, run.trans (congrArg _ row), ended _ _ fun _ => rfl, failed _, rfl⟩
    · rw [if_pos hr, if_neg (by rw [hc]; decide), if_neg (Nat.not_lt.mpr hk)] at row
      obtain ⟨status, out, effects⟩ := (got_finish y.attempting (.ok (transitionResult l t))).result rfl
        (by rw [length_transitionResult, ylong]; exact hlong)
      refine ⟨_, _, run.trans (congrArg _ row), ended _ _ fun c => (got_finish c _).1, status, out, ?_, rfl⟩
      rw [effects]
      exact List.mem_cons_self

end Sys2Proof.Machine
end

section
/-! PROOF. Tamper and EMBER events: the side actions of an alarm, the responses and the ends (O24). -/

namespace Sys2Proof.Machine

/-! ### LOCK leaves no pitch ACTIVE (R375) -/

section
variable (s : State) (d e : Nat)

theorem mode_of_tasks {D E : Dom} (h : D.tasks = E.tasks) : D.mode = E.mode := congrArg Prod.fst h

theorem mode_setCmd (id : Nat) (f : Cmd → Cmd) : ((s.setCmd d id f).dom e).mode = (s.dom e).mode :=
  part_setDom Dom.mode s (f := fun D => D.setCmd id f) (fun _ => rfl) d e

theorem mode_cut (c : Cmd) : ((s.cut d c).dom e).mode = (s.dom e).mode := by
  unfold State.cut
  dsimp only
  split
  · exact mode_setCmd (s.scrubJob d c.id) d e _ _
  · exact part_setDom Dom.mode (s.scrubJob d c.id) (by intro; rfl) d e

theorem mode_abortCmd (source : Nat) (c : Cmd) : ((s.abortCmd source .now d c).dom e).mode = (s.dom e).mode := by
  have entered : (s.mgmtEntry d { c with status := eAbortedTamper }).doms = s.doms := by
    unfold State.mgmtEntry
    split
    · exact doms_trailAs ..
    · rfl
  unfold State.abortCmd
  dsimp only
  generalize s.mgmtEntry d _ = t at entered ⊢
  rw [mode_cut, ← dom_of_doms entered]
  unfold State.abortPost
  split
  · rfl
  · exact (mode_of_tasks (tasks_post ..)).trans (mode_setCmd ..)

theorem mode_foldl {α : Type} (f : State → α → State) (hf : ∀ t a, ((f t a).dom e).mode = (t.dom e).mode) (l : List α) (s : State) :
    ((l.foldl f s).dom e).mode = (s.dom e).mode := by
  induction l generalizing s with
  | nil => rfl
  | cons a l ih => rw [List.foldl_cons, ih, hf]

theorem mode_abortDom (source : Nat) (only : Cmd → Bool) : ((s.abortDom source .now only d).dom e).mode = (s.dom e).mode := by
  unfold State.abortDom
  dsimp only
  rw [mode_of_tasks (tasks_busyTimer ..)]
  exact mode_foldl e _ (fun t c => mode_abortCmd t d e source c) _ s

theorem mode_abortAll (source : Nat) : ((s.abortAll source .now).dom e).mode = (s.dom e).mode := by
  unfold State.abortAll State.foldDoms
  dsimp only
  generalize ht : List.foldl _ s _ = t
  have aborted : (t.dom e).mode = (s.dom e).mode := ht ▸ mode_foldl e _ (fun t d => mode_abortDom t d e source _) _ s
  exact (part_mapDoms Dom.mode id (fun _ D => { D with cmds := D.cmds.map Cmd.putBack }) (fun _ _ => rfl) rfl t.doms e).trans aborted

/-- LOCK of a pitch leaves it, and any other that is not, other than ACTIVE. -/
theorem mode_lockPitch (p : Nat) (h : e = p ∨ (s.dom e).mode ≠ .active) : ((s.lockPitch p).dom e).mode ≠ .active := by
  have event (t : State) (b : Nat) : ((t.pitchEvent p b).dom e).mode = (t.dom e).mode := mode_of_tasks (tasks_of_dry (dry_pitchEvent t p b e))
  by_cases ha : (s.dom p).mode = .active
  · unfold State.lockPitch
    rw [if_pos ha, event, dom_setDom]
    split
    · exact PitchMode.noConfusion
    · next hn => exact h.resolve_left fun he => hn he.symm
  · have kept : ((s.setDom p fun D => { D with resetFrom := .locked, mode := if D.mode = .resetting then .locked else D.mode }).dom e).mode ≠ .active := by
      rw [dom_setDom]
      split
      · dsimp only
        split
        · exact PitchMode.noConfusion
        · exact ha
      · next hn => exact h.resolve_left fun he => hn he.symm
    unfold State.lockPitch
    rw [if_neg ha]
    dsimp only
    split
    · rw [event]
      exact kept
    · exact kept

/-- LOCK of every pitch leaves none ACTIVE. -/
theorem mode_lockPitches (l : List Nat) (h : e ∈ l ∨ (s.dom e).mode ≠ .active) :
    ((l.foldl (fun s p => if (s.dom p).mode = .absent then s else s.lockPitch p) s).dom e).mode ≠ .active := by
  induction l generalizing s with
  | nil => exact h.resolve_left List.not_mem_nil
  | cons p ps ih =>
    rw [List.foldl_cons]
    refine ih _ ?_
    by_cases hp : e ∈ ps
    · exact .inl hp
    · refine .inr ?_
      have here : e = p ∨ (s.dom e).mode ≠ .active := h.imp_left fun hm => (List.mem_cons.mp hm).resolve_right hp
      split
      · next habsent =>
        rcases here with rfl | hne
        · rw [habsent]; decide
        · exact hne
      · exact mode_lockPitch s e p here

/-- LOCK on a module that is not LOCKED yet leaves no pitch ACTIVE. -/
theorem mode_lock (source : Nat) (hp : s.boot.powered = true) (hh : s.boot.held = false) (hb : s.boot.state = .ready) (he : e < 256) :
    ((s.lock source).dom e).mode ≠ .active := by
  have boot : s.endDebug.boot = s.boot := rfl
  have woken : s.endDebug.wakeModule.boot.state = s.endDebug.boot.state := by
    unfold State.wakeModule
    split <;> rfl
  unfold State.lock
  dsimp only
  rw [boot, if_neg (by simp [hp, hh]), if_neg (by rw [hb]; decide)]
  rw [boot, hb] at woken
  unfold State.lockModule
  dsimp only
  generalize s.endDebug.wakeModule = t at woken ⊢
  rw [if_neg (by rw [woken]; decide), dom_of_doms (doms_raise ..), dom_of_doms (doms_log ..), mode_abortAll]
  exact mode_lockPitches _ e _ (.inl (List.mem_range.mpr he))

end

/-! ### The tamper logic of an alarm (R370, R372) -/

theorem getLsbD_two_pow {w n : Nat} (hn : n < w) : (BitVec.ofNat w (2 ^ n)).getLsbD n = true := by
  rw [BitVec.getLsbD_ofNat, Nat.testBit_two_pow_self, Bool.and_true]
  exact decide_eq_true hn

theorem getLsbD_set {w n : Nat} (hn : n < w) (v : BitVec w) : (v ||| BitVec.ofNat w (2 ^ n)).getLsbD n = true := by
  rw [BitVec.getLsbD_or, getLsbD_two_pow hn, Bool.or_true]

theorem getLsbD_cleared {w n : Nat} (hn : n < w) (v : BitVec w) : (v &&& ~~~BitVec.ofNat w (2 ^ n)).getLsbD n = false := by
  rw [BitVec.getLsbD_and, BitVec.getLsbD_not, getLsbD_two_pow hn, Bool.not_true, Bool.and_false, Bool.and_false]

/-- What an alarm of a source notes (R372, R385). -/
structure State.Notes (s t : State) (n : Nat) : Prop where
  boot : t.boot = s.boot
  alarm : t.tamper.alarm = s.tamper.alarm ||| BitVec.ofNat 10 (2 ^ n)
  flags : ∃ x, t.tamper.flags = x ||| (s.tamper.flags ||| BitVec.ofNat 16 (2 ^ n))
  counts : t.tamper.counts = Tab.put s.tamper.counts 0 n (min 0xFFFFFFFF (Tab.get s.tamper.counts 0 n + 1))
  alarmCount : t.tamper.alarmCount = min 0xFFFF (s.tamper.alarmCount + 1)
  inForce : t.tamper.inForce = s.tamper.inForce
  striking : t.tamper.striking = s.tamper.striking

theorem notes_alarmTaken (s : State) (n e : Nat) : s.Notes ((s.detected n e).alarmTaken n) n where
  boot := rfl
  alarm := rfl
  flags := ⟨_, BitVec.or_comm ..⟩
  counts := rfl
  alarmCount := rfl
  inForce := rfl
  striking := rfl

theorem State.Notes.congr {s t u : State} {n : Nat} (h : s.Notes t n) (hb : u.boot = t.boot)
    (ht : ∃ x, u.tamper = { t.tamper with owedEvents := x }) : s.Notes u n := by
  obtain ⟨x, ht⟩ := ht
  obtain ⟨boot, alarm, flags, counts, alarmCount, inForce, striking⟩ := h
  constructor
  · exact hb.trans boot
  · rw [ht]; exact alarm
  · rw [ht]; exact flags
  · rw [ht]; exact counts
  · rw [ht]; exact alarmCount
  · rw [ht]; exact inForce
  · rw [ht]; exact striking

/-- The side actions of an alarm note it; its event may be owed. -/
theorem notes_alarmSides (s : State) (n e : Nat) : s.Notes ((s.detected n e).alarmSides n e) n := by
  have taken := notes_alarmTaken s n e
  have sides := alarmSides_calm (s.detected n e) n e
  generalize (s.detected n e).alarmTaken n = t at taken sides
  rcases sides with h | h
  · exact taken.congr (congrArg (fun x : Calm => x.rest.boot) h :) ⟨_, (congrArg (fun x : Calm => x.rest.tamper) h :)⟩
  · exact taken.congr (congrArg (fun x : Calm => x.rest.boot) h :) ⟨_, (congrArg (fun x : Calm => x.rest.tamper) h :)⟩

/-! ### The responses (R374) -/

section
variable (s : State) (n : Nat)

/-- A response begins: it is in force, with its source, and the clocks are halved. -/
def State.responding (s : State) (n : Nat) (r : Response) : State :=
  let s := s.setTamper fun t => t.took r
  let same := r.code = s.tamper.inForce.code
  (s.setTamper fun t => { t with
    inForce := r, source := if same then min s.tamper.source n else n
    machine := if same then t.machine else if r.code = 2 then tamperShed else tamperLock }).setShed true

theorem respond_mild {r : Response} (h : r.code ≤ 1 ∨ r.code < s.tamper.inForce.code) : s.respond n r = s.setTamper fun t => t.took r := by
  unfold State.respond
  have within : (decide (r.code ≤ 1) || decide (r.code < s.tamper.inForce.code)) = true := by simpa using h
  exact if_pos within

theorem respond_strong {r : Response} (h1 : 1 < r.code) (h : s.tamper.inForce.code ≤ r.code) : s.respond n r =
    match r with
    | .lock => (s.responding n r).lock (s.responding n r).tamper.source
    | .strike => (s.responding n r).strike false
    | .strikeHalt => (s.responding n r).strike true
    | _ => s.responding n r := by
  unfold State.respond
  refine (if_neg ?_).trans ?_
  · have beyond : ¬(decide (r.code ≤ 1) || decide (r.code < s.tamper.inForce.code)) = true := by simpa using ⟨h1, h⟩
    exact beyond
  · cases r <;> rfl

/-- What stands where a response begins, and what it sets. -/
theorem responding_calm (r : Response) : (s.responding n r).calm = ((s.setTamper fun t => t.took r).setTamper fun t => { t with
    inForce := r, source := if r.code = s.tamper.inForce.code then min s.tamper.source n else n
    machine := if r.code = s.tamper.inForce.code then t.machine else if r.code = 2 then tamperShed else tamperLock, shed := true }).calm :=
  calm_setShed _ true

end

/-! ### STRIKE clears EMBER (R377) -/

/-- The rows and seeds are cleared, and STRIKE_OUT is asserted. -/
structure State.EmberClear (s : State) : Prop where
  rows : s.ember.rows = []
  seedA : s.ember.seedA = zeros 48
  seedB : s.ember.seedB = zeros 48
  strikeOut : s.tamper.strikeOut = true

theorem emberClear_of_calm {s t : State} (h : t.calm = s.calm) (hs : s.EmberClear) : t.EmberClear := by
  have ember : t.ember = s.ember := (congrArg (fun x : Calm => x.rest.ember) h :)
  have out : t.tamper.strikeOut = s.tamper.strikeOut := (congrArg (fun x : Calm => x.rest.tamper.strikeOut) h :)
  obtain ⟨rows, seedA, seedB, strikeOut⟩ := hs
  constructor
  · rw [ember]; exact rows
  · rw [ember]; exact seedA
  · rw [ember]; exact seedB
  · rw [out]; exact strikeOut

section
variable {s : State}

theorem emberClear_strikeThree (h : s.ember.seedA = zeros 48 ∧ s.ember.seedB = zeros 48 ∧ s.tamper.strikeOut = true) : s.strikeThree.EmberClear :=
  ⟨rfl, h.1, h.2.1, h.2.2⟩

theorem strikeTwo_parts (s : State) : s.strikeTwo.ember = s.ember ∧ s.strikeTwo.tamper.strikeOut = s.tamper.strikeOut := ⟨rfl, rfl⟩

theorem strikeOne_parts (s : State) : s.strikeOne.ember.seedA = zeros 48 ∧ s.strikeOne.ember.seedB = zeros 48 ∧ s.strikeOne.tamper.strikeOut = true := ⟨rfl, rfl, rfl⟩

theorem emberClear_strikeStages (s : State) : s.strikeStages.EmberClear := by
  obtain ⟨ember, out⟩ := strikeTwo_parts s.strikeOne
  refine emberClear_strikeThree ?_
  rw [ember, out]
  exact strikeOne_parts s

theorem emberClear_driveHealth (h : s.EmberClear) : s.driveHealth.EmberClear := by
  unfold State.driveHealth
  split
  · exact ⟨h.rows, h.seedA, h.seedB, h.strikeOut⟩
  · exact h

theorem emberClear_lockModule (h : s.EmberClear) (source : Nat) (p : Posting) : (s.lockModule source p).EmberClear := by
  have woken : s.wakeModule.EmberClear := by
    unfold State.wakeModule
    split
    · exact ⟨h.rows, h.seedA, h.seedB, h.strikeOut⟩
    · exact h
  refine emberClear_of_calm (lockModule_calm s source p) ?_
  unfold State.lockEntered
  split
  · exact woken
  · exact emberClear_driveHealth ⟨woken.rows, woken.seedA, woken.seedB, woken.strikeOut⟩

theorem emberClear_setTamper (h : s.EmberClear) {f : Tamper → Tamper} (hf : ∀ t, (f t).strikeOut = t.strikeOut) : (s.setTamper f).EmberClear :=
  ⟨h.rows, h.seedA, h.seedB, (hf _).trans h.strikeOut⟩

theorem emberClear_struck (s : State) (halt : Bool) : (s.struck halt).EmberClear := by
  have shed : (s.strikeStages.setShed true).EmberClear :=
    emberClear_of_calm (calm_setShed s.strikeStages true) (emberClear_setTamper (emberClear_strikeStages s) fun _ => rfl)
  unfold State.struck
  dsimp only
  generalize s.strikeStages.setShed true = t at shed ⊢
  have ended : t.endDebug.EmberClear := ⟨shed.rows, shed.seedA, shed.seedB, shed.strikeOut⟩
  generalize t.endDebug = v at ended ⊢
  split
  · exact emberClear_setTamper ended fun _ => rfl
  · split
    · exact ⟨ended.rows, ended.seedA, ended.seedB, ended.strikeOut⟩
    · exact emberClear_lockModule ended _ _

theorem emberClear_strike (hs : s.tamper.striking = false) (halt : Bool) : (s.strike halt).EmberClear := by
  have struck := emberClear_struck s halt
  have first : (if s.tamper.striking then s else s.struck halt) = s.struck halt := if_neg (by rw [hs]; decide)
  unfold State.strike
  dsimp only
  rw [first]
  generalize s.struck halt = t at struck ⊢
  split
  · have halted : (t.dropAborted.setTamper fun t => { t with machine := tamperHalted, sequencer := strikeDone, striking := false }).EmberClear :=
      ⟨struck.rows, struck.seedA, struck.seedB, struck.strikeOut⟩
    split
    · exact emberClear_driveHealth ⟨halted.rows, halted.seedA, halted.seedB, halted.strikeOut⟩
    · exact halted
  · exact struck

end

/-! ### Alarms (R370, R372) -/

/-- A fresh alarm: its side actions, then the response of its source. -/
theorem execTamperAlarm_fresh {s : State} {n e : Nat} (hm : s.tamper.emberMachine = true) (hd : s.detects n e = true) (ha : s.tamper.alarm.getLsbD n = false) :
    execTamperAlarm n e s = .next (((s.detected n e).alarmSides n e).respond n (s.tamper.response n)) := by
  have unreported : s.tamper.reported n e = false := by rw [Tamper.reported, ha, Bool.false_and]
  unfold execTamperAlarm
  rw [if_pos hm, alarm_eq, hd, unreported]
  rfl

/-- A response that sheds at most: what an alarm noted stands. -/
theorem respond_shed {s : State} {r : Response} (n : Nat) (h : r.code ≤ 2) :
    (s.respond n r).boot = s.boot ∧ (s.respond n r).tamper.alarm = s.tamper.alarm ∧ (s.respond n r).tamper.flags = s.tamper.flags ∧
      (s.respond n r).tamper.counts = s.tamper.counts ∧ (s.respond n r).tamper.alarmCount = s.tamper.alarmCount ∧
      (r.code = 2 → s.tamper.inForce.code < 2 →
        (s.respond n r).tamper.inForce = .shed ∧ (s.respond n r).tamper.source = n ∧ (s.respond n r).tamper.shed = true) := by
  by_cases hw : r.code ≤ 1 ∨ r.code < s.tamper.inForce.code
  · rw [respond_mild s n hw]
    exact ⟨rfl, rfl, rfl, rfl, rfl, fun h2 hf => absurd hw (by omega)⟩
  · have hr : r = .shed := by
      cases r <;> simp [Response.code] at h hw ⊢
    subst hr
    have calm := responding_calm s n .shed
    have strong : s.respond n .shed = s.responding n .shed := respond_strong s n (by decide) (by omega)
    rw [strong]
    generalize s.responding n .shed = u at calm ⊢
    have tamper : u.tamper = _ := (congrArg (fun x : Calm => x.rest.tamper) calm :)
    refine ⟨(congrArg (fun x : Calm => x.rest.boot) calm :), by rw [tamper]; rfl, by rw [tamper]; rfl, by rw [tamper]; rfl, by rw [tamper]; rfl, fun _ hf => ?_⟩
    have other : ¬ Response.shed.code = s.tamper.inForce.code := fun he => absurd he (by change ¬ 2 = _; omega)
    rw [tamper]
    exact ⟨rfl, if_neg other, rfl⟩

/-- A response of LOCK on a module that is READY. -/
theorem respond_lock {s : State} (n : Nat) (hi : s.tamper.inForce.code < 3) (hp : s.boot.powered = true) (hh : s.boot.held = false) (hb : s.boot.state = .ready) :
    (s.respond n .lock).boot.state = .locked ∧ ∀ p, p < 256 → ((s.respond n .lock).dom p).mode ≠ .active := by
  have calm := responding_calm s n .lock
  have strong : s.respond n .lock = (s.responding n .lock).lock (s.responding n .lock).tamper.source := respond_strong s n (by decide) (by change _ ≤ 3; omega)
  rw [strong]
  generalize s.responding n .lock = u at calm ⊢
  have boot : u.boot = s.boot := (congrArg (fun x : Calm => x.rest.boot) calm :)
  have running : u.running = true := by rw [State.running, boot, hp, hh]; rfl
  exact ⟨lock_state running (by rw [boot, hb]; decide) _, fun p h => mode_lock u p _ (by rw [boot]; exact hp) (by rw [boot]; exact hh) (by rw [boot]; exact hb) h⟩

/-- A response of STRIKE or STRIKE_HALT where no STRIKE is in progress. -/
theorem respond_strike {s : State} {r : Response} (n : Nat) (h4 : 4 ≤ r.code) (hi : s.tamper.inForce.code < r.code) (hs : s.tamper.striking = false) :
    (s.respond n r).EmberClear := by
  have strong := respond_strong s n (r := r) (by omega) (Nat.le_of_lt hi)
  have calm := responding_calm s n r
  rw [strong]
  generalize s.responding n r = u at calm ⊢
  have quiet : u.tamper.striking = false := ((congrArg (fun x : Calm => x.rest.tamper.striking) calm :)).trans hs
  cases r with
  | strike => exact emberClear_strike quiet false
  | strikeHalt => exact emberClear_strike quiet true
  | none => exact absurd h4 (by decide)
  | note => exact absurd h4 (by decide)
  | shed => exact absurd h4 (by decide)
  | lock => exact absurd h4 (by decide)

/-- The detectors and pairs once one of a source has left its alarm. -/
def Tamper.without (t : Tamper) (n e : Nat) : Tamper :=
  { t with detectorA := if e % 2 = 0 then t.detectorA &&& ~~~BitVec.ofNat 10 (2 ^ n) else t.detectorA
           detectorB := if e % 2 = 1 then t.detectorB &&& ~~~BitVec.ofNat 10 (2 ^ n) else t.detectorB
           pairs := if n = 9 then removeNat t.pairs e else t.pairs }

/-- A detector or a pair of a source is in alarm. -/
def Tamper.holds (t : Tamper) (n : Nat) : Bool := if n = 9 then t.pairs != [] else t.detectorA.getLsbD n || t.detectorB.getLsbD n

/-- The source has left its alarm. -/
def Tamper.released (t : Tamper) (n : Nat) : Tamper := { t with alarm := t.alarm &&& ~~~BitVec.ofNat 10 (2 ^ n), since := Tab.erase t.since n }

theorem alarmEnd_eq (s : State) (n e : Nat) : s.alarmEnd n e = if !s.tamper.alarm.getLsbD n || (n = 8 && !s.codesAssigned) then s
    else s.setTamper fun t => Tamper.noteShed (if (t.without n e).holds n then t.without n e else (t.without n e).released n) t.shedding s.now := rfl

theorem holds_without {t : Tamper} {n e : Nat} (hn : n < 10)
    (hl : if n = 9 then removeNat t.pairs e = [] else e < 2 ∧ (if e = 0 then t.detectorB else t.detectorA).getLsbD n = false) :
    (t.without n e).holds n = false := by
  unfold Tamper.holds Tamper.without
  dsimp only
  by_cases h9 : n = 9
  · rw [if_pos h9] at hl ⊢
    rw [if_pos h9, hl]
    rfl
  · rw [if_neg h9] at hl ⊢
    obtain ⟨he, hd⟩ := hl
    rcases (show e = 0 ∨ e = 1 by omega) with rfl | rfl
    · rw [if_pos rfl] at hd
      rw [if_pos (by decide), if_neg (by decide), getLsbD_cleared hn, hd]
      rfl
    · rw [if_neg (by decide)] at hd
      rw [if_neg (by decide), if_pos (by decide), getLsbD_cleared hn, hd]
      rfl

/-- The last detector of a source leaves its alarm (R370). -/
theorem alarmEnd_last {s : State} {n e : Nat} (hn : n < 10) (ha : s.tamper.alarm.getLsbD n = true) (h8 : n ≠ 8 ∨ s.codesAssigned = true)
    (hl : if n = 9 then removeNat s.tamper.pairs e = [] else e < 2 ∧ (if e = 0 then s.tamper.detectorB else s.tamper.detectorA).getLsbD n = false) :
    (s.alarmEnd n e).tamper.alarm.getLsbD n = false ∧ (s.alarmEnd n e).tamper.flags = s.tamper.flags := by
  have open_ : ¬(!s.tamper.alarm.getLsbD n || (n = 8 && !s.codesAssigned)) = true := by
    rcases h8 with h | h <;> simp [ha, h]
  have last : (s.alarmEnd n e).tamper = Tamper.noteShed ((s.tamper.without n e).released n) s.tamper.shedding s.now := by
    rw [alarmEnd_eq, if_neg open_]
    change Tamper.noteShed (if _ then _ else _) _ _ = _
    rw [if_neg (by rw [holds_without hn hl]; decide)]
  rw [last]
  exact ⟨getLsbD_cleared hn _, rfl⟩

theorem shed_setShed (s : State) (on : Bool) : (s.setShed on).tamper.shed = on ∧ (s.setShed on).now = s.now :=
  ⟨(congrArg (fun x : Calm => x.rest.tamper.shed) (calm_setShed s on) :), (congrArg (fun x : Calm => x.rest.clock.mono) (calm_setShed s on) :)⟩

/-- The end of SHED, from an instant on. -/
def State.shedOver (s : State) (n : Nat) : State :=
  ((s.passTo n).setShed false).setTamper fun t => { t with inForce := .none, source := 0xFF, shedSince := none, machine := tamperNormal }

theorem shedOver_parts (s : State) (n : Nat) : (s.shedOver n).tamper.inForce = .none ∧ (s.shedOver n).tamper.shed = false ∧ (s.shedOver n).now = max s.now n := by
  obtain ⟨shed, now⟩ := shed_setShed (s.passTo n) false
  exact ⟨rfl, shed, now.trans (now_passTo s n)⟩

theorem execShedEnd_due {s : State} {w : Nat} (h : s.tamper.shedSince = some w) (hi : s.tamper.inForce = .shed) :
    execShedEnd s = .next (s.shedOver (w + 10000000000)) := by
  unfold execShedEnd
  rw [h]
  exact if_pos hi

/-- Settles O24: a fresh alarm by its side actions and its response, an end by the last detector, and the EMBER rows. -/
theorem tamperEventsAct : Obligations.TamperEventsAct := by
  refine ⟨fun s n e hn => ⟨?_, ?_, ?_, fun ha h8 hl => ?_, fun h8 hc => ?_, fun w hw hi => ?_⟩, fun s x => ⟨?_, fun hc => ?_, fun hp hs => ?_⟩⟩
  · rintro ⟨hm, hd, ha⟩ hr
    obtain ⟨boot, alarm, ⟨x, flags⟩, counts, alarmCount, inForce, -⟩ := notes_alarmSides s n e
    refine ⟨_, execTamperAlarm_fresh hm hd ha, ?_⟩
    generalize (s.detected n e).alarmSides n e = a at boot alarm flags counts alarmCount inForce ⊢
    obtain ⟨rboot, ralarm, rflags, rcounts, rcount, rshed⟩ := respond_shed (s := a) n hr
    rw [rboot, ralarm, rflags, rcounts, rcount, alarm, flags, counts, getLsbD_set hn, Tab.get_put_same, BitVec.getLsbD_or, getLsbD_set (by omega), Bool.or_true]
    exact ⟨rfl, rfl, rfl, boot, alarmCount, fun h2 hf => rshed h2 (by rw [inForce]; exact hf)⟩
  · rintro ⟨hm, hd, ha⟩ hr hi hp hh hb
    obtain ⟨boot, -, -, -, -, inForce, -⟩ := notes_alarmSides s n e
    refine ⟨_, execTamperAlarm_fresh hm hd ha, ?_⟩
    rw [hr]
    exact respond_lock n (by rw [inForce]; exact hi) (by rw [boot]; exact hp) (by rw [boot]; exact hh) (by rw [boot]; exact hb)
  · rintro ⟨hm, hd, ha⟩ h4 hi hs
    obtain ⟨-, -, -, -, -, inForce, striking⟩ := notes_alarmSides s n e
    obtain ⟨rows, seedA, seedB, out⟩ := respond_strike (s := (s.detected n e).alarmSides n e) n h4 (by rw [inForce]; exact hi) (by rw [striking]; exact hs)
    exact ⟨_, execTamperAlarm_fresh hm hd ha, rows, seedA, seedB, out⟩
  · exact ⟨s.alarmEnd n e, rfl, alarmEnd_last hn ha h8 hl⟩
  · change Host.Outcome.next (s.alarmEnd n e) = _
    rw [alarmEnd_eq, if_pos (by simp [h8, hc])]
  · exact ⟨_, execShedEnd_due hw hi, shedOver_parts ..⟩
  · exact ⟨_, rfl, rfl, rfl⟩
  · exact ⟨_, if_pos hc, rfl, rfl⟩
  · exact ⟨_, if_neg (by simp [hp, hs]), rfl, rfl, rfl, rfl⟩

end Sys2Proof.Machine
end
